-- ==== Sys2Proof/Word.lean ====
section
/-! DEFINITION. The word types of the block: registers, bytes, blocks and addresses. -/

namespace Sys2Proof

/-- One byte. -/
abbrev Byte := BitVec 8

/-- A 32-bit register or memory word. -/
abbrev Word := BitVec 32

/-- A 64-bit counter or scalar register. -/
abbrev Dword := BitVec 64

/-- A 64-byte block; byte k on bits 8k+7:8k (R74). -/
abbrev Block := BitVec 512

/-- Sparse data by key: keys rising, no entry equal to the value an unlisted key holds. -/
abbrev SMap (α : Type) := List (Nat × α)

end Sys2Proof
end

