-- ==== Sys2Proof/Syntax.lean ====
section
/-! DEFINITION. The commands of the block: one constructor for each row of spec/opcode_table.json, with the operands the rule gives it. -/

namespace Sys2Proof

/-- A unit of the Tack Table (R39): sectors and quads by number, channel units by physical channel. -/
inductive UnitId where
  | array | mgmt | loader | pageDir | currierSeq
  | sector (s : Nat) | quad (s q : Nat)
  | pool (s : Nat) | network (s : Nat) | harness (s : Nat) | movers (s : Nat)
  | channel (p : Nat) | ctl (p : Nat) | link (p : Nat) | awl (p : Nat) | currier (p : Nat)
deriving DecidableEq, Repr, Inhabited

/-- The header fields of a write request, on its first beat (R74). -/
structure WHdr where
  tag : BitVec 8
  cls : BitVec 4
  /-- address bits 47:6 -/
  addr : BitVec 42
  len : BitVec 5
  arg : BitVec 24
  chkEn : Bool
  /-- spN_wq_op. A row is the operation of its name; a value that R81 reserves here makes its request one with a reserved
  opcode (log 2) -/
  op : BitVec 5 := 1
deriving DecidableEq, Repr, Inhabited

/-- One beat of the write channel (R74). -/
structure Beat where
  data : Block
  be : BitVec 64
  chk : BitVec 16
  last : Bool
deriving DecidableEq, Repr, Inhabited

/-- What the flash answered to the SFDP read: major revision and the Basic Flash Parameter Table's DWORDs (R52, R53). -/
structure Sfdp where
  major : Nat
  dwords : List Word
deriving DecidableEq, Repr, Inhabited

/-- A position of a lane set: set 0 read, 1 write, 2 CA; group or half; position (R173). -/
structure LanePos where
  set : Nat
  group : Nat
  pos : Nat
deriving DecidableEq, Repr, Inhabited

/-- What HIDE_UP found: the (physical channel, Hide) pairs that did not answer, the sensor constants read
(channel, Hide, SENS_K_LO, SENS_K_HI; R215), and the first die count and H0 code of each channel (R218). -/
structure HideUp where
  silent : List (Nat × Nat)
  sensK : List (Nat × Nat × BitVec 16 × BitVec 16)
  die : List (Nat × Nat × BitVec 16)
deriving DecidableEq, Repr, Inhabited

/-- What the training of one channel found (R189): failing positions in order, a strobe with no eye, an uncorrectable
codeword in verification, and the trims of the positions (phase, reference). -/
structure TrainRes where
  fails : List LanePos
  noEye : Bool
  badVerify : Bool
  trims : List (LanePos × BitVec 7 × BitVec 6)
  /-- read and write strobe offsets (index 8g + h, write from 72), ca_stb phase, CA_VREF per Hide, WR_VREF (index 8g + h) -/
  strobes : List Byte := []
  caStb : Byte := 0
  caVref : List (BitVec 16) := []
  wrVref : List Byte := []
deriving DecidableEq, Repr, Inhabited

/-- Symbol errors of one codeword: (symbol index 0-71, value added to the symbol), outside the erasure set (R234). -/
abbrev SymErrs := List (Nat × Byte)

/-- What a read burst meets on the wires: the symbol errors of its codeword (R234), and the strobe error of each group (R175). -/
structure BurstErrs where
  syms : SymErrs := []
  edge : List Int := []
deriving DecidableEq, Repr, Inhabited

/-- One test of a tracking slice (R197): the position, and whether it failed below and above its centre. -/
structure TrackRes where
  group : Nat
  pos : Nat
  lowFail : Bool
  highFail : Bool
deriving DecidableEq, Repr, Inhabited

/-- Which agent's page call a page operation is (R281): a PAGE_CALL beat at a port, or a PAGE node of a Harness. -/
inductive PageSrc where
  | port (n : Nat) (h : WHdr) (b : Beat)
  | node (eng slot node : Nat)
deriving DecidableEq, Repr, Inhabited

/-- An arbiter input that can be cut off (R139): a slice port's read or write channel, a bit of a CTL unit's ARB_MISB, or
a bit of a NETWORK unit's NET_ARB_MISB. -/
inductive ArbInput where
  | port (n : Nat) (write : Bool)
  | ctl (p : Nat) (bit : Nat)
  | net (s : Nat) (bit : Nat)
deriving DecidableEq, Repr, Inhabited

/-- An error that a copy of a retirement met (R251, R254): channel offset of the block, symbols corrected 1-3, or 0 for an
uncorrectable block, and the symbol indices. -/
structure BlkErr where
  chan : Nat
  off : Nat
  syms : List Nat
  ue : Bool
deriving DecidableEq, Repr, Inhabited

/-- The commands. A management write carries the unit (or nothing, where one register takes it) and the word written. -/
inductive Instr where
  /-- BLOCK_RESET_ASSERT (R454). -/
  | blockResetAssert
  /-- BLOCK_RESET_RELEASE (R45, R453). -/
  | blockResetRelease (sequenced : Bool)
  /-- CLOCK_END (R51). -/
  | clockEnd (lcState : BitVec 3) (key : BitVec 256) (flSlow awlLowv : Bool)
  /-- DISCOVER_END (R51). -/
  | discoverEnd (sfdp : Option Sfdp)
  /-- LOAD_END (R58). -/
  | loadEnd
  /-- VERIFY_END (R58). -/
  | verifyEnd
  /-- SLOTS_END (R62). -/
  | slotsEnd
  /-- ISLANDS_END (R51). -/
  | islandsEnd
  /-- ISLANDS_LOCK_TIMEOUT (R48). -/
  | islandsLockTimeout (unlocked : List Nat)
  /-- HIDE_UP_END (R51). -/
  | hideUpEnd (h : HideUp)
  /-- CHANNEL_TRAINED (R188). -/
  | channelTrained (p : Nat) (r : TrainRes)
  /-- APPLY_END (R256). -/
  | applyEnd
  /-- BUILD_END (R46). -/
  | buildEnd
  /-- STARTUP_TIMEOUT (R47). -/
  | startupTimeout
  /-- BOOT_RELOAD (R51). -/
  | bootReload (v : Word)
  /-- LC_INPUT_CHANGE (R66). -/
  | lcInputChange
  /-- STRAP_CHANGE (R445). -/
  | strapChange
  /-- FLASH_READ (R69). -/
  | flashRead
  /-- FLASH_PROGRAM (R69). -/
  | flashProgram
  /-- FLASH_ERASE (R69). -/
  | flashErase
  /-- FLASH_OP_DONE (R64). -/
  | flashOpDone
  /-- FLASH_TIMEOUT (R64). -/
  | flashTimeout
  /-- CAL_RECORD_PERIOD (R65). -/
  | calRecordPeriod
  /-- RECORD_WRITE_START (R64). -/
  | recordWriteStart
  /-- REGISTER_WRITE (R447). -/
  | registerWrite (addr v : Word)
  /-- READ (R76). -/
  | read (n : Nat) (tag : BitVec 8) (cls : BitVec 4) (addr : BitVec 42) (len : BitVec 5)
  /-- WRITE (R81). -/
  | write (n : Nat) (h : WHdr) (b : Beat)
  /-- WRITE_MASKED (R84). -/
  | writeMasked (n : Nat) (h : WHdr) (b : Beat)
  /-- ATOM_ADD (R160). -/
  | atomAdd (n : Nat) (h : WHdr) (b : Beat)
  /-- ATOM_MAX (R160). -/
  | atomMax (n : Nat) (h : WHdr) (b : Beat)
  /-- ATOM_MIN (R160). -/
  | atomMin (n : Nat) (h : WHdr) (b : Beat)
  /-- ATOM_SWAP (R160). -/
  | atomSwap (n : Nat) (h : WHdr) (b : Beat)
  /-- ATOM_CAS (R160). -/
  | atomCas (n : Nat) (h : WHdr) (b : Beat)
  /-- REDUCE_ADD (R162). -/
  | reduceAdd (n : Nat) (h : WHdr) (b : Beat)
  /-- REDUCE_ADD_ORD (R163). -/
  | reduceAddOrd (n : Nat) (h : WHdr) (b : Beat)
  /-- DOORBELL (R303). -/
  | doorbell (n : Nat) (h : WHdr) (b : Beat)
  /-- WRITE_BEAT (R77). -/
  | writeBeat (n : Nat) (b : Beat)
  /-- GAP_CUT (R79). -/
  | gapCut (n : Nat)
  /-- RSP_BEAT_TAKEN (R96). -/
  | rspBeatTaken (n : Nat)
  /-- RSP_STALL (R97). -/
  | rspStall (n : Nat)
  /-- NETWORK_MESSAGE (R106). -/
  | networkMessage (s i : Nat)
  /-- RING_RESERVE (R106). -/
  | ringReserve (s : Nat)
  /-- SCHEDULER_CYCLE (R148). -/
  | schedulerCycle (p : Nat)
  /-- ENTRY_AGED (R148). -/
  | entryAged (p : Nat) (write : Bool) (i : Nat)
  /-- HIT_LIMIT (R150). -/
  | hitLimit (p bank : Nat)
  /-- IDLE_ROW_CLOSE (R151). -/
  | idleRowClose (p bank : Nat)
  /-- SCHED_STALL (R152). -/
  | schedStall (p : Nat)
  /-- BANK_OPENING_DONE (R153). -/
  | bankOpeningDone (p bank : Nat)
  /-- BANK_CLOSING_DONE (R153). -/
  | bankClosingDone (p bank : Nat)
  /-- BANK_REFRESH_DONE (R153). -/
  | bankRefreshDone (p bank : Nat)
  /-- ZERO_FILL_DONE (R156). -/
  | zeroFillDone (p gran : Nat)
  /-- COMBINE_WRITEBACK (R159). -/
  | combineWriteback (p i : Nat)
  /-- ORD_TIMEOUT (R165). -/
  | ordTimeout (p g : Nat)
  /-- POWER_DOWN_ENTRY (R157). -/
  | powerDownEntry (p hide : Nat)
  /-- TRR_LIMIT (R167). -/
  | trrLimit (p i : Nat)
  /-- RH_PENALTY_END (R168). -/
  | rhPenaltyEnd (req : BitVec 9)
  /-- READ_BURST_RETURN (R235). -/
  | readBurstReturn (p : Nat) (framed : Bool) (errs : BurstErrs)
  /-- HIDE_ALERT (R179). -/
  | hideAlert (p hide : Nat)
  /-- REGULATION_PERIOD_START (R120). -/
  | regulationPeriodStart (p : Nat)
  /-- POOL_SCALE_UPDATE (R128). -/
  | poolScaleUpdate (s : Nat)
  /-- TIER4_WAIT_LIMIT (R136). -/
  | tier4WaitLimit (p : Nat) (write : Bool) (i : Nat)
  /-- ARBITER_CUTOFF (R139). -/
  | arbiterCutoff (i : ArbInput)
  /-- MIGRATION_START (R110). -/
  | migrationStart (s : Nat) (v : Word)
  /-- MIGRATION_CANCEL (R110). -/
  | migrationCancel (s : Nat) (v : Word)
  /-- MIGRATION_COPY_DONE of the copy of a position (R113). -/
  | migrationCopyDone (s pos : Nat)
  /-- FLIP_DRAIN_DONE (R113). -/
  | flipDrainDone (s : Nat)
  /-- FLIP_DRAIN_TIMEOUT (R110). -/
  | flipDrainTimeout (s : Nat)
  /-- CAL_ATTEMPT_DONE (R191). -/
  | calAttemptDone (p set grp passing : Nat) (centre : Int) (ref : BitVec 6)
  /-- CAL_WAIT_END (R193). -/
  | calWaitEnd (p set grp : Nat)
  /-- ROT_STEP (R194). -/
  | rotStep (p set grp : Nat)
  /-- ROT_EFFECT (R194). -/
  | rotEffect (p set grp : Nat)
  /-- READ_SWEEP_START (R190). -/
  | readSweepStart (p : Nat)
  /-- TRACKING_SLICE (R197). -/
  | trackingSlice (p set : Nat) (res : List TrackRes)
  /-- LANE_STALE (R199). -/
  | laneStale (p : Nat) (l : LanePos)
  /-- FULL_RETRAIN (R200). -/
  | fullRetrain (p : Nat) (v : Word)
  /-- RETRAIN_SLICE (R200). -/
  | retrainSlice (p : Nat)
  /-- LINK_HALT_END (R193). -/
  | linkHaltEnd (p : Nat)
  /-- MODE_REGISTER_READ (R181). -/
  | modeRegisterRead (p : Nat) (v : Word)
  /-- MODE_REGISTER_WRITE (R181). -/
  | modeRegisterWrite (p : Nat) (v : Word)
  /-- STATUS_READ_CLEAR (R181). -/
  | statusReadClear (p : Nat) (v : Word)
  /-- LAYER_RESET (R181). -/
  | layerReset (p : Nat) (v : Word)
  /-- SB_RESPONSE (R182): the line errors of the request and of the response, and what a measured register holds when it is read. -/
  | sbResponse (p : Nat) (reqErr respErr : BitVec 44) (held : BitVec 16)
  /-- SB_TIMEOUT (R182). -/
  | sbTimeout (p : Nat)
  /-- REFRESH_DUE_TICK (R206). -/
  | refreshDueTick (p bank : Nat)
  /-- REFRESH_ROUND_END (R206). -/
  | refreshRoundEnd (p bank : Nat)
  /-- WEAK_ROW_REFRESH_DUE (R211). -/
  | weakRowRefreshDue (p i : Nat)
  /-- SENSOR_READ (R215). -/
  | sensorRead (p : Nat)
  /-- SENSOR_RESULT (R215). -/
  | sensorResult (p hide : Nat) (raw : BitVec 16)
  /-- DIE_SENSOR_READ (R218). -/
  | dieSensorRead (p count : Nat)
  /-- GOVERNOR_ROUND (R224). -/
  | governorRound
  /-- EMERGENCY_REREAD (R219). -/
  | emergencyReread (p hide : Nat) (raw : BitVec 16)
  /-- STOP_COMPLETE (R225). -/
  | stopComplete
  /-- STOP_OVERRUN (R224). -/
  | stopOverrun
  /-- THERM_RESUME (R227). -/
  | thermResume (v : Word)
  /-- PROFILING_STEP_DONE of a step of the pass, 1 to 3 (R213). -/
  | profilingStepDone (p step : Nat)
  /-- WEAK_AGEING (R214). -/
  | weakAgeing (p : Nat)
  /-- PATROL_READ (R241). -/
  | patrolRead (p : Nat)
  /-- PATROL_LATE (R241). -/
  | patrolLate (p : Nat)
  /-- RANGE_SCRUB (R245). -/
  | rangeScrub (v : Word)
  /-- RANGE_CLEAR (R239). -/
  | rangeClear (v : Word)
  /-- RANGE_POISON (R239). -/
  | rangePoison (v : Word)
  /-- RANGE_CANCEL (R245). -/
  | rangeCancel (v : Word)
  /-- RANGE_DONE of an operation, 1 to 3 (R246). -/
  | rangeDone (op : Nat)
  /-- CE_COMMIT (R247). -/
  | ceCommit (p i : Nat)
  /-- ELOG_ACK (R262). -/
  | elogAck (v : Word)
  /-- ROW_RETIREMENT (R251). -/
  | rowRetirement (p : Nat) (v : Word) (errs : List BlkErr)
  /-- BANK_RETIREMENT (R254). -/
  | bankRetirement (p : Nat) (v : Word)
  /-- BANK_COPY_DONE (R254). -/
  | bankCopyDone (p : Nat) (errs : List BlkErr)
  /-- CREATE (R267). -/
  | create (src : PageSrc)
  /-- APPEND (R287). -/
  | append (src : PageSrc) (pick : Nat)
  /-- COMMIT (R287). -/
  | commit (src : PageSrc)
  /-- FORK (R288). -/
  | fork (src : PageSrc) (pick : Nat)
  /-- TRIM (R290). -/
  | trim (src : PageSrc) (pick : Nat)
  /-- RELEASE (R290). -/
  | release (src : PageSrc)
  /-- LOCK (R297). -/
  | lock (src : PageSrc)
  /-- UNLOCK (R297). -/
  | unlock (src : PageSrc)
  /-- QUERY (R283). -/
  | query (src : PageSrc)
  /-- PATCH (R283). -/
  | patch (src : PageSrc) (pick : Nat)
  /-- COLD (R299). -/
  | cold (src : PageSrc)
  /-- PD_ORPHAN (R295). -/
  | pdOrphan (v : Word)
  /-- EPOCH_CHECK (R327). -/
  | epochCheck
  /-- HAR_SUBMIT (R303). -/
  | harSubmit (s : Nat) (v : Word)
  /-- HARNESS_CHECK_DONE (R318). -/
  | harnessCheckDone (s slot : Nat)
  /-- NOP (R310). -/
  | nop (s slot node : Nat)
  /-- SCORE (R349). -/
  | score (s slot node : Nat)
  /-- SELECT (R351). -/
  | select (s slot node : Nat)
  /-- PARTIAL (R352). -/
  | partialAtt (s slot node : Nat)
  /-- MERGE (R356). -/
  | merge (s slot node : Nat)
  /-- REDUCE (R314). -/
  | reduce (s slot node blocks : Nat)
  /-- COPY (R314). -/
  | copy (s slot node blocks : Nat)
  /-- FILL (R314). -/
  | fill (s slot node blocks : Nat)
  /-- BUCKET (R315). -/
  | bucket (s slot node : Nat)
  /-- AWL_PROG (R316). -/
  | awlProg (s slot node : Nat)
  /-- SIGNAL (R317). -/
  | signal (s slot node : Nat)
  /-- PART_END (R323). -/
  | partEnd (s slot node part : Nat)
  /-- NODE_LIMIT (R326). -/
  | nodeLimit (s slot node : Nat)
  /-- COMPLETION_RECORD_WRITTEN (R330). -/
  | completionRecordWritten (s slot : Nat)
  /-- HAR_CANCEL (R333). -/
  | harCancel (s : Nat) (v : Word)
  /-- HAR_END_READ (R339). -/
  | harEndRead (s : Nat)
  /-- MOVER_RELEASE (R340). -/
  | moverRelease (s : Nat) (v : Word)
  /-- ENG_STALL (R341). -/
  | engStall (s slot node : Nat)
  /-- PART_ENTRY (R365). -/
  | partEntry (p : Nat)
  /-- IDENT (R369). -/
  | ident (p : Nat)
  /-- CONVERT (R369). -/
  | convert (p : Nat)
  /-- ADD (R373). -/
  | aAdd (p rd rs1 rs2 : Nat)
  /-- SUB (R373). -/
  | aSub (p rd rs1 rs2 : Nat)
  /-- AND (R373). -/
  | aAnd (p rd rs1 rs2 : Nat)
  /-- OR (R373). -/
  | aOr (p rd rs1 rs2 : Nat)
  /-- XOR (R373). -/
  | aXor (p rd rs1 rs2 : Nat)
  /-- SLL (R373). -/
  | aSll (p rd rs1 rs2 : Nat)
  /-- SRL (R373). -/
  | aSrl (p rd rs1 rs2 : Nat)
  /-- SRA (R373). -/
  | aSra (p rd rs1 rs2 : Nat)
  /-- SLT (R373). -/
  | aSlt (p rd rs1 rs2 : Nat)
  /-- SLTU (R373). -/
  | aSltu (p rd rs1 rs2 : Nat)
  /-- MUL (R373). -/
  | aMul (p rd rs1 rs2 : Nat)
  /-- DIVU (R373). -/
  | aDivu (p rd rs1 rs2 : Nat)
  /-- REMU (R373). -/
  | aRemu (p rd rs1 rs2 : Nat)
  /-- FADD (R373). -/
  | aFadd (p rd rs1 rs2 : Nat)
  /-- FSUB (R373). -/
  | aFsub (p rd rs1 rs2 : Nat)
  /-- FMUL (R373). -/
  | aFmul (p rd rs1 rs2 : Nat)
  /-- FDIV (R373). -/
  | aFdiv (p rd rs1 rs2 : Nat)
  /-- FMIN (R373). -/
  | aFmin (p rd rs1 rs2 : Nat)
  /-- FMAX (R373). -/
  | aFmax (p rd rs1 rs2 : Nat)
  /-- FLT (R373). -/
  | aFlt (p rd rs1 rs2 : Nat)
  /-- FEQ (R373). -/
  | aFeq (p rd rs1 rs2 : Nat)
  /-- FTOI (R373). -/
  | aFtoi (p rd rs1 : Nat)
  /-- ITOF (R373). -/
  | aItof (p rd rs1 : Nat)
  /-- ADDI (R373). -/
  | aAddi (p rd rs1 : Nat) (imm : BitVec 16)
  /-- ANDI (R373). -/
  | aAndi (p rd rs1 : Nat) (imm : BitVec 16)
  /-- ORI (R373). -/
  | aOri (p rd rs1 : Nat) (imm : BitVec 16)
  /-- XORI (R373). -/
  | aXori (p rd rs1 : Nat) (imm : BitVec 16)
  /-- SHI_SLL (R373). -/
  | aShiSll (p rd rs1 : Nat) (amt : BitVec 6)
  /-- SHI_SRL (R373). -/
  | aShiSrl (p rd rs1 : Nat) (amt : BitVec 6)
  /-- SHI_SRA (R373). -/
  | aShiSra (p rd rs1 : Nat) (amt : BitVec 6)
  /-- LUI (R373). -/
  | aLui (p rd : Nat) (imm : BitVec 16)
  /-- LSH (R373). -/
  | aLsh (p rd rs1 : Nat) (imm : BitVec 16)
  /-- LW (R373). -/
  | aLw (p rd rs1 : Nat) (imm : BitVec 16)
  /-- LD (R373). -/
  | aLd (p rd rs1 : Nat) (imm : BitVec 16)
  /-- SW (R373). -/
  | aSw (p rd rs1 : Nat) (imm : BitVec 16)
  /-- SD (R373). -/
  | aSd (p rd rs1 : Nat) (imm : BitVec 16)
  /-- BEQ (R373). -/
  | aBeq (p rs1 rs2 : Nat) (off : BitVec 16)
  /-- BNE (R373). -/
  | aBne (p rs1 rs2 : Nat) (off : BitVec 16)
  /-- BLT (R373). -/
  | aBlt (p rs1 rs2 : Nat) (off : BitVec 16)
  /-- BGE (R373). -/
  | aBge (p rs1 rs2 : Nat) (off : BitVec 16)
  /-- BLTU (R373). -/
  | aBltu (p rs1 rs2 : Nat) (off : BitVec 16)
  /-- BGEU (R373). -/
  | aBgeu (p rs1 rs2 : Nat) (off : BitVec 16)
  /-- JAL (R373). -/
  | aJal (p : Nat) (off : BitVec 26)
  /-- JALR (R373). -/
  | aJalr (p rd rs1 : Nat) (imm : BitVec 16)
  /-- MFS_CYCLE (R374). -/
  | mfsCycle (p rd : Nat)
  /-- MFS_ELAPSED (R374). -/
  | mfsElapsed (p rd : Nat)
  /-- MFS_PHYS (R374). -/
  | mfsPhys (p rd : Nat)
  /-- MFS_GRAN (R374). -/
  | mfsGran (p rd : Nat)
  /-- MFS_OUTST (R374). -/
  | mfsOutst (p rd : Nat)
  /-- MFS_ISA (R374). -/
  | mfsIsa (p rd : Nat)
  /-- SYS_HALT (R368). -/
  | sysHalt (p : Nat)
  /-- SYS_FAIL (R368). -/
  | sysFail (p rs1 : Nat)
  /-- SYS_MWAIT (R373). -/
  | sysMwait (p rs1 : Nat)
  /-- SYS_NOP (R373). -/
  | sysNop (p : Nat)
  /-- VLD (R375). -/
  | vld (p vd sr : Nat)
  /-- VST (R375). -/
  | vst (p va sr : Nat)
  /-- VBCAST (R375). -/
  | vbcast (p vd sr fmt : Nat)
  /-- VIOTA (R375). -/
  | viota (p vd sr : Nat)
  /-- VCVT (R376). -/
  | vcvt (p vd va sr fmt sel mode : Nat)
  /-- VPACK (R377). -/
  | vpack (p vd va fmt sel : Nat)
  /-- VDOT (R378). -/
  | vdot (p vd va vb sr fmt mode : Nat)
  /-- VADD (R375). -/
  | vadd (p vd va vb : Nat)
  /-- VSUB (R375). -/
  | vsub (p vd va vb : Nat)
  /-- VMUL (R375). -/
  | vmul (p vd va vb : Nat)
  /-- VFMA (R375). -/
  | vfma (p vd va vb : Nat)
  /-- VMAX (R375). -/
  | vmax (p vd va vb : Nat)
  /-- VMIN (R375). -/
  | vmin (p vd va vb : Nat)
  /-- VEXP (R347). -/
  | vexp (p vd va : Nat)
  /-- VMULS (R375). -/
  | vmuls (p vd va sr : Nat)
  /-- SACC (R375). -/
  | sacc (p vd va vb sr : Nat)
  /-- VFOLD_SUM (R375). -/
  | vfoldSum (p vd va sr : Nat)
  /-- VFOLD_MAX (R375). -/
  | vfoldMax (p vd va sr : Nat)
  /-- VGET (R375). -/
  | vget (p va sr : Nat)
  /-- VMOV (R375). -/
  | vmov (p vd va : Nat)
  /-- MLD (R379). -/
  | mld (p ra rb rn : Nat)
  /-- MST (R379). -/
  | mst (p ra rb rn : Nat)
  /-- MRED (R379). -/
  | mred (p ra rb rc rn : Nat)
  /-- FLD (R379). -/
  | fld (p ra rb rc rn : Nat)
  /-- HLD (R379). -/
  | hld (p ra rb : Nat)
  /-- XLAT (R379). -/
  | xlat (p ra rb : Nat)
  /-- XLATA (R379). -/
  | xlata (p ra rb : Nat)
  /-- PGATH (R379). -/
  | pgath (p ra rb rc rn : Nat)
  /-- FST (R379). -/
  | fst (p ra rb rc rn : Nat)
  /-- HST (R379). -/
  | hst (p ra rb rc : Nat)
  /-- MEM_OP_RETIRE (R380). -/
  | memOpRetire (p : Nat)
  /-- ISLAND_GATE (R17). -/
  | islandGate (u : UnitId)
  /-- ISLAND_WAKE (R17). -/
  | islandWake (u : UnitId)
  /-- FAULT_WORD_CLEAR (R31). -/
  | faultWordClear (u : UnitId) (v : Word)
  /-- FAULT_INJ (R405). -/
  | faultInj (u : UnitId) (v : Word)
  /-- FLT_FENCE (R392). -/
  | fltFence (u : UnitId) (v : Word)
  /-- QUIESCE (R395). -/
  | quiesce (u : UnitId) (v : Word)
  /-- RESUME_INTAKE (R397). -/
  | resumeIntake (u : UnitId) (v : Word)
  /-- UNIT_RESET (R398). -/
  | unitReset (u : UnitId) (v : Word)
  /-- CNT_FREEZE (R27). -/
  | cntFreeze (u : UnitId) (v : Word)
  /-- CNT_CLEAR (R27). -/
  | cntClear (u : UnitId) (v : Word)
  /-- DRAIN_DONE (R395). -/
  | drainDone (u : UnitId)
  /-- WEDGE (R396). -/
  | wedge (u : UnitId)
  /-- RESET_COMPLETE (R398). -/
  | resetComplete (u : UnitId)
  /-- RESET_BOUND (R397). -/
  | resetBound (u : UnitId)
  /-- SAFE_STATE_ENTRY (R404). -/
  | safeStateEntry (u : UnitId)
  /-- REF_CLK_LOST (R450). -/
  | refClkLost (s : Nat)
  /-- HOLDOVER_END (R450). -/
  | holdoverEnd (s : Nat)
  /-- BIST_SLICE_START (R411). -/
  | bistSliceStart (window : Bool)
  /-- SLICE_DRAIN_TIMEOUT (R414). -/
  | sliceDrainTimeout
  /-- SLICE_DRAINED (R414). -/
  | sliceDrained
  /-- SLICE_SCAN_DONE (R415). -/
  | sliceScanDone (misr : BitVec 48)
  /-- SLICE_WINDOW_SAMPLE (R413). -/
  | sliceWindowSample (ran : Nat) (misr : BitVec 48)
  /-- SLICE_RELEASE (R417). -/
  | sliceRelease
  /-- BIST_ACK (R419). -/
  | bistAck (v : Word)
  /-- TAP_RESET (R458). -/
  | tapReset
  /-- EXTEST (R421). -/
  | extest (drive capture : List Bool)
  /-- SAMPLE_PRELOAD (R421). -/
  | samplePreload (drive capture : List Bool)
  /-- UNIT_SEL (R421). -/
  | unitSel (entry : BitVec 16)
  /-- INTSCAN (R421). -/
  | intscan (chain : List Bool)
  /-- SIGREAD (R422). -/
  | sigread
  /-- SLICE (R422). -/
  | slice (idx : BitVec 8) (pats : BitVec 16) (ran : Nat) (misr : BitVec 48)
  /-- BYPASS (R421). -/
  | bypass (tdi : Bool)
  /-- CNT_SEL (R425). -/
  | cntSel (u : UnitId) (i : Nat) (v : Word)
  /-- CNT_WRITE (R427). -/
  | cntWrite (u : UnitId) (i : Nat) (high : Bool) (v : Word)
  /-- CNT_READ (R25). -/
  | cntRead (u : UnitId) (i : Nat) (high : Bool)
  /-- COUNTER_OVERFLOW (R428). -/
  | counterOverflow (u : UnitId) (i : Nat) (src : UnitId) (ctx0 ctx1 : Word)
  /-- HIST_CLEAR (R434). -/
  | histClear (s : Nat) (v : Word)
  /-- HIST_KIND (R433). -/
  | histKind (s : Nat) (v : Word)
  /-- DUMP (R438). -/
  | dump
  /-- TEL_NOW (R438). -/
  | telNow (v : Word)
  /-- DUMP_WRITE_ACK (R441). -/
  | dumpWriteAck (code : BitVec 4)
  /-- ILLEGAL_INSTRUCTION (R371). -/
  | illegalInstruction (p : Nat)
  /-- RETRAIN_SLICE_END (R200). -/
  | retrainSliceEnd (p : Nat) (final : Bool) (r : TrainRes)
  /-- MGMT_RSP_TAKEN (R447). -/
  | mgmtRspTaken
deriving DecidableEq, Repr, Inhabited

end Sys2Proof
end

