-- ==== Sys2Proof/Config.lean ====
section
/-! DEFINITION. What the spec fixes for every build, and the values it leaves open (opaque constants: nothing can be proved of them). -/

namespace Sys2Proof.Config

/-- Physical channels (R7). -/
def nChan : Nat := 136
/-- Slice ports and logical channels (R7, R20). -/
def nPort : Nat := 128
/-- Sectors (R7). -/
def nSector : Nat := 8
/-- Units of the 757-entry build of chapter 2's example (log 5). -/
def nUnit : Nat := 757
/-- Rows of a bank that hold data (R105); the spare rows follow (R178). -/
def rows : Nat := 12288
/-- Spare rows of a bank (R250). -/
def spareRows : Nat := 64
/-- REF commands of one refresh round (R206). -/
def roundRefs : Nat := 6176

/-- FREE VALUE (log 11): what the decoder makes of an error pattern beyond the limits of R234, of which no outcome is
guaranteed. `none`: detected as uncorrectable; `some b`: miscorrected to `b`. -/
opaque beyondDecode : Nat → Option Block

/-- FREE VALUE (log 6): a 32-bit value the spec does not state, fresh for every count. -/
opaque freeWord : Nat → Word

end Sys2Proof.Config
end

