-- ==== Sys2Proof/Machine/State.lean ====
section
/-! DEFINITION. The state of the block as plain data: every register, queue, buffer and mode the spec names, and the state
right after reset. Registers whose value is a function of other state (Tack Table entries, status views, interrupt lines)
are computed in Machine/, so that every datum has one home. -/

namespace Sys2Proof.Machine

/-- Why the block stops. -/
inductive Fault where
  /-- A requirement on the integrator was not met, and R1 leaves the block's behaviour undefined. Raised by
  BLOCK_RESET_RELEASE out of the sequence of R453. Safe: nothing is claimed of what follows. -/
  | undefinedR1
deriving DecidableEq, Repr, Inhabited

/-- Why a command has no meaning. -/
inductive Refusal where
  /-- Raised by an arm of exec whose command is not modelled yet. Safe. -/
  | notModelled (mnemonic : String)
deriving DecidableEq, Repr, Inhabited

/-- FRAME_STATUS.state (R28). -/
inductive UState where
  | running | quiescing | quiesced | resetting | fenced | gated | standby
deriving DecidableEq, Repr, Inhabited

/-- The three fault classes (R385). -/
inductive Cls3 where
  | corr | cont | fatal
deriving DecidableEq, Repr, Inhabited

/-- A window of the image (R102). -/
structure Window where
  base : Nat := 0
  size : Nat := 0
  mode : Nat := 0
  sector : Nat := 0
  chanBase : Nat := 0
deriving DecidableEq, Repr, Inhabited

/-- A class of the CLASSES section (R121). -/
structure ClsCfg where
  rdShare : Nat := 0
  wrShare : Nat := 0
  poolShare : Nat := 0
  rdCeil : Nat := 0
  wrCeil : Nat := 0
  poolCeil : Nat := 0
  burst : Nat := 0
deriving DecidableEq, Repr, Inhabited

/-- POLICY (R57). -/
structure Policy where
  refi : Nat := 0
  warm : Nat := 0
  hot : Nat := 0
  critical : Nat := 0
  emergency : Nat := 0
  scrubH : Nat := 0
  profEn : Bool := false
  profAgeD : Nat := 0
  pdIdle : Nat := 0
  gateUs : Nat := 0
  drainUs : Nat := 0
  rhThresh : Nat := 0
  rhPenUs : Nat := 0
  calRecS : Nat := 0
deriving DecidableEq, Repr, Inhabited

/-- TELEMETRY (R57). -/
structure Tel where
  ringBase : Nat := 0
  ringMib : Nat := 0
  periodUs : Nat := 0
  secMode : Nat := 0
  enable : Bool := false
deriving DecidableEq, Repr, Inhabited

/-- A patch of AWL_PATCH (R370). -/
structure Patch where
  routine : Nat := 0
  code : List Word := []
deriving DecidableEq, Repr, Inhabited

/-- The running configuration image (R55-R57). -/
structure Image where
  imgSeq : Word := 0
  supplier : Nat := 0
  part : Nat := 0
  initUs : Nat := 0
  timing : List (Nat × Nat) := []
  ports : List Nat := []
  windows : List Window := []
  classes : List ClsCfg := []
  policy : Policy := {}
  ctxBase : Nat := 0
  hdrBase : Nat := 0
  granLo : Nat := 0
  granHi : Nat := 0
  reserves : List Nat := []
  patches : List Patch := []
  tel : Option Tel := none
  priv : BitVec 7 := 0x7F
  /-- Qx, Qy, r, s of SIGNATURE, when there is one -/
  sig : Option (Nat × Nat × Nat × Nat) := none
  /-- the digest of R59, as a number -/
  digest : Nat := 0
deriving DecidableEq, Repr, Inhabited

/-- Reset, lifecycle and start-up (R45-R71). -/
structure Boot where
  rstLow : Bool := false
  phase : BitVec 4 := 0
  result : Byte := 0
  prim : Byte := 0
  fallback : Bool := false
  signed : Bool := false
  onFallback : Bool := false
  openUs : Word := 0
  lcState : BitVec 3 := 0
  lcKey : BitVec 256 := 0
  lcInvalid : Bool := false
  lcChanged : Bool := false
  flSlow : Bool := false
  awlLowv : Bool := false
  strapChanged : Bool := false
  slotCal : BitVec 2 := 0
  slotRet : BitVec 2 := 0
  calSeq : Word := 0
  retSeq : Word := 0
  imgSeq : Word := 0
  phaseUs : List Word := List.replicate 10 0
  phaseAt : Dword := 0
  admitRes : BitVec 2 := 0
  admitSum : BitVec 14 := 0
  admitFail : Bool := false
  /-- flash parameters of R53: address bytes 4, erase instruction, density in bytes, quad-read word, page size -/
  flAddr4 : Bool := false
  flErase : Byte := 0
  flBytes : Nat := 0
  flQuad : BitVec 16 := 0
  /-- quad enable requirement of DWORD 15; 0 where the table does not hold it -/
  flQe : BitVec 3 := 0
  flPage : Nat := 0
  /-- the image that passed LOAD, waiting for VERIFY or RUNNING -/
  cand : Option Image := none
  /-- channels whose training has ended -/
  trained : List Nat := []
  /-- channels fenced in start-up, in order; their sparing follows in APPLY (R48, R109) -/
  lost : List Nat := []
  /-- training found a park or a dead lane, to be persisted before ports open (R189) -/
  parked : Bool := false
deriving DecidableEq, Repr, Inhabited

/-- One step of a flash record write (R64). -/
inductive FStep where
  | erase (a : Nat)
  | prog (a : Nat) (bs : List Byte)
deriving DecidableEq, Repr, Inhabited

/-- A record write in progress. -/
structure RecJob where
  cal : Bool
  slotB : Bool
  seq : Word
  steps : List FStep
deriving DecidableEq, Repr, Inhabited

/-- The flash operation in progress. -/
inductive FJob where
  | mbox
  | record (j : RecJob)
deriving DecidableEq, Repr, Inhabited

/-- The flash and its mailbox (R54, R64, R65, R69). -/
structure Flash where
  cells : List Host.Cell := []
  op : BitVec 2 := 0
  addr : BitVec 24 := 0
  busy : Bool := false
  code : BitVec 4 := 0
  buf : List Byte := List.replicate 256 0
  mbox : Option (BitVec 2) := none
  calQ : Bool := false
  /-- the calibration entries taken when an orderly stop began (R225) -/
  calHeld : Option (List (List Byte)) := none
  /-- retirement records queued (R65) -/
  retQ : Nat := 0
  job : Option FJob := none
deriving DecidableEq, Repr, Inhabited

/-- Management island: port, elapsed counter, error log, clocks (R18, R248, R262, R447, R450, R463). -/
structure Mgmt where
  elapsed : Dword := 0
  sub : Nat := 0
  rsp : List (Word × BitVec 4) := []
  elog : List (List Word) := []
  elogHead : Word := 1
  elogNext : Word := 1
  elogAck : Word := 1
  lostCe : BitVec 16 := 0
  lostOther : BitVec 16 := 0
  elogEv : BitVec 3 := 0
  elogEn : BitVec 3 := 0
  elogWin : Word := 1
  clkRef : BitVec 3 := 0
  clkInternal : Bool := false
  clkLost : Byte := 0
  clkMoved : Bool := false
  clkMovedEn : Bool := false
deriving DecidableEq, Repr, Inhabited

/-- Tack Table generation and window (R35, R36). -/
structure Tack where
  busy : Bool := true
  gen : BitVec 31 := 0
  changed : Bool := false
  irqEn : Bool := false
  winSel : BitVec 16 := 0
  /-- changes not committed yet, one per event: the units whose entries it alters (R36, R43) -/
  pend : List (List UnitId) := []
deriving DecidableEq, Repr, Inhabited

/-- The common part of a unit frame (R24-R32, R391, R408). -/
structure Frame where
  st : UState := .running
  /-- the unit has been fenced: a reset leaves it FENCED (R391) -/
  fenced : Bool := false
  ctrlRej : Bool := false
  wedged : Bool := false
  quiesce : Bool := false
  cntFreeze : Bool := false
  /-- a reset written during a FLIP of the channel, deferred to its end (R403) -/
  deferRst : Bool := false
  /-- the reset in progress is a wedge reset (R396) -/
  wedgeRst : Bool := false
  src : BitVec 16 := 0
  self : Bool := false
  ambig : Bool := false
  mask : BitVec 16 := 0
  inj : BitVec 16 := 0
  fired : BitVec 16 := 0
  clsCorr : BitVec 16 := 0
  clsCont : BitVec 16 := 0
  clsFatal : BitVec 16 := 0
  injCls : BitVec 2 := 0
  fenceOrd : BitVec 4 := 0
  fltWedged : BitVec 16 := 0
  fltIrqEn : BitVec 3 := 0
  egen : BitVec 31 := 0
deriving DecidableEq, Repr, Inhabited

/-- The counters of a frame (R24, R25, R424-R430). -/
structure Cnt where
  sel : List Word := List.replicate 8 0
  val : List Dword := List.replicate 8 0
  rsh : List Word := List.replicate 8 0
  wsh : List Word := List.replicate 8 0
  ovf : Byte := 0
  smpCnt : BitVec 3 := 0
  smpValid : Bool := false
  smpLost : Bool := false
  smpTime : Dword := 0
  smpSrc : BitVec 16 := 0
  smpCtx0 : Word := 0
  smpCtx1 : Word := 0
deriving DecidableEq, Repr, Inhabited

/-- A pool slot booked (R131): sector, position, and floor part 0-4 or 5 for a shared slot of a class. -/
structure Slot where
  sec : Nat
  pos : Nat
  part : Nat
  cls : Nat
deriving DecidableEq, Repr, Inhabited

/-- A request accepted at a port and not yet answered in full (R78, R88). -/
structure Req where
  tag : Nat := 0
  /-- numbers requests in acceptance order over the block -/
  uid : Nat := 0
  /-- R81 opcode, or 0 for a read -/
  op : Nat := 0
  cls : Nat := 0
  len : Nat := 0
  arg : Nat := 0
  /-- byte address of the first block -/
  addr : Nat := 0
  /-- logical channel -/
  lch : Nat := 0
  /-- blocks handed to the channel -/
  taken : Nat := 0
  /-- no further beat belongs to it -/
  closed : Bool := false
  /-- blocks that have reached the ordering point -/
  doneN : Nat := 0
  /-- final code decided before every block was done -/
  code : BitVec 4 := 0
  failed : Bool := false
  /-- read data by block index, and whether the block is poisoned -/
  got : List (Nat × Block × Bool) := []
  sent : Nat := 0
  poison : Bool := false
  /-- CTL cycle of acceptance and of the first response beat -/
  t0 : Nat := 0
  t1 : Nat := 0
  /-- answered: the response stands in the port's queues -/
  answered : Bool := false
  slots : List Slot := []
  /-- handed to a channel over the sector network: its answers come back over it (R106) -/
  remote : Bool := false
  /-- a page call's answer, code and detail or result block, while its channel work is under way (R125) -/
  res : Option (BitVec 4 × Block) := none
  /-- the engine whose executor runs a page call (R263, R298) -/
  eng : Option Nat := none
deriving DecidableEq, Repr, Inhabited

/-- A data response beat (R74, R88). -/
structure RspBeat where
  tag : Nat
  idx : Nat
  last : Bool
  poison : Bool
  code : BitVec 4
  data : Block
deriving DecidableEq, Repr, Inhabited

/-- An acknowledge (R74, R88). -/
structure Ack where
  tag : Nat
  code : BitVec 4
  cnt : Nat
  dup : Bool
deriving DecidableEq, Repr, Inhabited

/-- A response message of the sector network: a data beat or an acknowledge on its way to the port (R106, R133). -/
inductive Ans where
  | beat (b : RspBeat)
  | ack (a : Ack)
deriving DecidableEq, Repr, Inhabited

/-- The open write request of a port (R79). -/
structure OpenW where
  uid : Nat
  /-- opcode and spN_wq_len of its header -/
  op : Nat := 1
  len : Nat := 31
  /-- beats accepted -/
  beats : Nat
  chkEn : Bool
  /-- a beat has failed its port check, or the header was refused: later beats are checked and discarded -/
  dead : Bool
  /-- blocks of a REDUCE_ADD_ORD contribution so far -/
  blocks : List Block
deriving DecidableEq, Repr, Inhabited

/-- A cause that holds a port (R95). -/
inductive Hold where
  | cls (reason c : Nat)
  /-- a request of class c is offered, and its target channel or the sector's pool holds the class (R126) -/
  | offer (reason c : Nat)
  | rowPenalty
  | unit (tackIndex : Nat)
  | slice
  | stop
  | emergency
  | switch
  | stall
deriving DecidableEq, Repr, Inhabited

/-- A slice port (R74-R101). -/
structure Port where
  up : Bool := false
  clkOn : Bool := false
  /-- cycles of spN_clk, and the first cycles in which the read and the write channel accept again (R77) -/
  cyc : Nat := 0
  rdFree : Nat := 0
  wrFree : Nat := 0
  /-- the request announced or offered and not accepted on the read and the write channel: class, block address (R92, R126) -/
  askRd : Option (Nat × Nat) := none
  askWr : Option (Nat × Nat) := none
  /-- the engine that a PAGE_CALL offered and not accepted waits for, its island gated (R17) -/
  callTo : Option Nat := none
  /-- answers of a reset's ledger are still to be sent, and nothing is accepted before (R98) -/
  flush : Bool := false
  /-- orphan beats are being discarded, and PORT_MISB.orphan_beat has been set for them (R79) -/
  orphan : Bool := false
  tags : List Req := []
  openW : Option OpenW := none
  rsp : List RspBeat := []
  ackQ : List Ack := []
  ackPin : Option Ack := none
  holds : List Hold := []
  stalled : Bool := false
  chkCnt : Word := 0
  fencedAll : Bool := false
deriving DecidableEq, Repr, Inhabited

/-- Work waiting at an arbiter input or in the network: a read of `n` blocks, one block of a write-channel request, a whole
ordered contribution (R125), or a response on its way back (R133). -/
structure Work where
  port : Nat
  uid : Nat
  tag : Nat
  cls : Nat
  req : Nat
  op : Nat
  arg : Nat
  /-- logical channel and channel offset of the first block -/
  lch : Nat
  off : Nat
  /-- block index of the first block within the request -/
  idx : Nat
  n : Nat
  data : List Block
  be : BitVec 64
  /-- arbiter input: 0 port, 1 network, 2 Awl, 3 mover, 4 Currier, 5 migration -/
  inp : Nat
  slots : List Slot := []
  first : Nat
  /-- port block address of the request, for the key of R163 -/
  key : Nat := 0
  len : Nat := 0
  /-- the response this message carries to the port -/
  ans : Option Ans := none
  /-- cycle and order at which an ordered contribution began to wait (R163, R172) -/
  since : Option (Nat × Nat) := none
deriving DecidableEq, Repr, Inhabited

/-- A scheduler entry (R144). -/
structure Entry where
  port : Nat
  uid : Nat
  tag : Nat
  cls : Nat
  req : Nat
  idx : Nat
  op : Nat
  off : Nat
  ord : Nat
  enq : Nat
  data : Block
  aged : Bool
  inp : Nat
  slots : List Slot := []
  /-- a write that waits for the copy of its granule, not yet acknowledged (R112) -/
  held : Bool := false
  /-- a read issued to a block that stands uncorrectable (R238) -/
  ue : Bool := false
  /-- a combining buffer's write-back: the order of the buffer entry, which reads compare with (R155) -/
  root : Option Nat := none
  /-- a newer write of the block has reached the ordering point since the read was entered (R243) -/
  stale : Bool := false
deriving DecidableEq, Repr, Inhabited

/-- A pending operation on a combining-buffer block (R158-R160). -/
structure ROp where
  port : Nat
  uid : Nat
  tag : Nat := 0
  req : Nat := 0
  inp : Nat := 0
  slots : List Slot := []
  idx : Nat
  cls : Nat
  op : Nat
  arg : Nat
  data : Block
  be : BitVec 64
deriving DecidableEq, Repr, Inhabited

/-- A combining-buffer entry (R159): no value while its read is on the way. -/
structure Comb where
  off : Nat
  val : Option Block
  pend : List ROp
  ord : Nat
  last : Nat
  /-- slots of the operations whose result is here, freed when the block is written to the Hide (R132) -/
  slots : List Slot := []
deriving DecidableEq, Repr, Inhabited

/-- A waiting contribution (R163). -/
structure Contrib where
  port : Nat
  uid : Nat
  tag : Nat
  req : Nat
  /-- entry order and CTL cycle of arrival (R172) -/
  ord : Nat
  enq : Nat
  idx : Nat
  cls : Nat
  off : Nat
  blocks : List Block
  inp : Nat := 0
  /-- the slots its blocks booked, which it keeps (R163) -/
  slots : List Slot := []
deriving DecidableEq, Repr, Inhabited

/-- A zero-fill (R156): granule, blocks issued, and the request floor slot it uses while it runs. -/
structure Fill where
  gran : Nat
  k : Nat := 0
  slot : Option Slot := none
deriving DecidableEq, Repr, Inhabited

/-- An ordered group (R163). -/
structure OGroup where
  key : Nat
  len : Nat
  count : Nat
  fmt : Nat
  next : Nat
  waiting : List Contrib
deriving DecidableEq, Repr, Inhabited

/-- Bank states (R153). -/
inductive BankSt where
  | closed | opening | opn | closing | refreshing
deriving DecidableEq, Repr, Inhabited

/-- A bank (R150, R153, R166). Times are 1 + the CTL cycle of the last command, 0 for none. -/
structure Bank where
  st : BankSt := .closed
  row : Nat := 0
  tAct : Nat := 0
  tRd : Nat := 0
  tWr : Nat := 0
  tPre : Nat := 0
  tRef : Nat := 0
  /-- the refresh under way is a targeted one -/
  trr : Bool := false
  /-- consecutive column commands of the open row while an older entry waited for another row, and the order of the last -/
  hits : Nat := 0
  ordLast : Nat := 0
  noHit : Bool := false
  trk : List (Nat × Nat) := []
deriving DecidableEq, Repr, Inhabited

/-- Regulation of one direction (R121-R128). -/
structure Reg where
  used : List Nat := List.replicate 16 0
  tok : List Nat := List.replicate 16 0
  phi : Nat := 256
  avail : Nat := 1024
  /-- class and input of past grants, latest first -/
  lru : List (Nat × Nat) := []
  /-- the input the grant is given to or parked on (R137) -/
  owner : Option Nat := none
  /-- progress records: input and request of a burst of which blocks have moved and blocks are left (R137) -/
  prog : List (Nat × Nat) := []
  /-- cycles the tier-4 input has asked without a grant -/
  wait4 : Nat := 0
deriving DecidableEq, Repr, Inhabited

/-- A CE coalescing entry (R247). -/
structure Coal where
  hide : Nat
  bank : Nat
  row : Nat
  col : Nat
  off : Nat
  req : Nat
  source : Nat
  blocks : Nat
  syms : Nat
  most : Nat
  first : List Nat
deriving DecidableEq, Repr, Inhabited

/-- A targeted refresh queued (R167). -/
structure Trr where
  hide : Nat
  bank : Nat
  row : Nat
  selfRow : Bool
  acts : Nat
  limit : Bool
deriving DecidableEq, Repr, Inhabited

/-- A row remap or an abandoned spare (R250). -/
structure Remap where
  hide : Nat
  bank : Nat
  row : Nat
  abandoned : Bool
  spare : Nat
deriving DecidableEq, Repr, Inhabited

/-- A channel controller with its port stage registers (R101, R140, R171, R259). -/
structure Ctl where
  cyc : Nat := 0
  misb : BitVec 7 := 0
  misbEn : BitVec 7 := 0
  rd : Reg := {}
  wr : Reg := {}
  regShort : Bool := false
  regShortEn : Bool := false
  clsSel : BitVec 4 := 0
  arbMisb : BitVec 5 := 0
  inRd : List Work := []
  inWr : List Work := []
  rdQ : List Entry := []
  wrQ : List Entry := []
  nextOrd : Nat := 0
  comb : List Comb := []
  fills : List Fill := []
  fillSlots : Nat := 0
  flight : List Entry := []
  groups : List OGroup := []
  /-- contributions that wait for a group to close, and blocks of the contributions being applied (R163) -/
  ordWait : List Work := []
  ordRun : List Work := []
  /-- kind L conditions of the last cycle (R431): RAW_WAIT, PD, RSP_STALL, BLACKOUT, SLICE, FAST, and the held classes -/
  lvl : BitVec 6 := 0
  lvlHold : BitVec 16 := 0
  banks : SMap Bank := []
  rdAt : SMap Nat := []
  wrAt : SMap Nat := []
  actAt : List (Nat × Nat × Nat) := []
  pd : Byte := 0
  pdxAt : SMap Nat := []
  hideIdle : SMap Nat := []
  selfRef : Bool := false
  rhEvent : Bool := false
  rhEn : Bool := false
  rhReq : BitVec 9 := 0
  rhHide : BitVec 3 := 0
  rhBank : BitVec 4 := 0
  rhRow : BitVec 14 := 0
  rhCount : Word := 0
  ordSel : BitVec 3 := 0
  ordEvent : Bool := false
  ordEn : Bool := false
  ordLastNext : Byte := 0
  ordLastCount : Byte := 0
  frozen : Bool := false
  frzSrc : BitVec 4 := 0
  frzValid : Bool := false
  frzTime : Dword := 0
  frzRow : BitVec 48 := 0
  frzCol : BitVec 48 := 0
  lastRow : BitVec 48 := 0
  lastCol : BitVec 48 := 0
  diagSel : BitVec 12 := 0
  bankSel : BitVec 3 := 0
  eccCe : Word := 0
  eccSym : Word := 0
  eccUe : Word := 0
  eccWb : Word := 0
  eccEv : BitVec 3 := 0
  eccEn : BitVec 3 := 0
  fresh : SMap Nat := []
  freshSel : BitVec 17 := 0
  retHide : BitVec 3 := 0
  retBank : BitVec 4 := 0
  retIrqEn : Bool := false
  retRow : BitVec 14 := 0
  retBusy : Bool := false
  retCode : BitVec 4 := 0
  retSpare : BitVec 6 := 0
  retDone : Bool := false
  retSel : BitVec 7 := 0
  remaps : List Remap := []
  /-- banks lent to the spare, 16 x hide + bank, and the bank being copied -/
  lent : List Nat := []
  bankCopy : Option Nat := none
  coal : List Coal := []
  ueRun : List Nat := []
  ptPos : Nat := 0
  ptBlk : Nat := 0
  ptPasses : BitVec 15 := 0
  patrolOn : Bool := false
  unpowered : Bool := false
  /-- the row slot of the last cycle carried a command (R146) -/
  rowUsed : Bool := false
deriving DecidableEq, Repr, Inhabited

/-- States of a lane group (R193). -/
inductive GrpSt where
  | cal | wait | step | parked | halted
deriving DecidableEq, Repr, Inhabited

/-- A lane group or CA half (R173, R193, R203). -/
structure Grp where
  c : Nat := 16
  up : Bool := false
  st : GrpSt := .halted
  parked : Bool := false
  /-- dead logical lanes, by index, in the order in which they died (R197) -/
  dead : List Nat := []
  unresolved : Nat := 0
  /-- results of the attempts of this round: 1 PASS, 2 JUMP, 3 NARROW, with centres -/
  tries : List (Nat × Int × BitVec 6) := []
  /-- a ROT sent and not in effect: the new c, and the CTL cycle of its row slot -/
  rot : Option (Nat × Nat) := none
  /-- the position's sweep is under way -/
  sweep : Bool := false
deriving DecidableEq, Repr, Inhabited

/-- A lane position's trims and statistics (R202, R203). -/
structure Lane where
  phase : BitVec 7 := 0
  ref : BitVec 6 := 0
  count : BitVec 16 := 0
  stale : Bool := false
  last : BitVec 2 := 0
  repeats : BitVec 2 := 0
  time : Dword := 0
  width : Nat := 0
deriving DecidableEq, Repr, Inhabited

/-- LINK_STATUS.state (R203). -/
inductive LinkSt where
  | off | training | running | retrain | halted | fenced
deriving DecidableEq, Repr, Inhabited

/-- The Alisteri link of a channel (R173-R204). -/
structure Link where
  st : LinkSt := .off
  grps : List Grp := List.replicate 18 ({} : Grp) ++ List.replicate 2 ({ c := 12 } : Grp)
  lanes : SMap Lane := []
  strobes : List Byte := List.replicate 144 0
  caStb : Byte := 0
  caVref : List (BitVec 16) := List.replicate 8 0
  wrVref : List Byte := List.replicate 72 0
  calEv : BitVec 5 := 0
  calEn : BitVec 5 := 0
  laneSel : BitVec 13 := 0
  steps : Word := 0
  repeats : Word := 0
  rtDone : Byte := 0
  rtRun : Bool := false
  rtSlice : Bool := false
  sbOp : BitVec 4 := 0
  sbHide : BitVec 3 := 0
  sbAddr : Byte := 0
  sbData : BitVec 16 := 0
  sbBusy : Bool := false
  sbCode : BitVec 4 := 0
  sbRdata : BitVec 16 := 0
  sbTries : Nat := 0
  /-- Hides whose SENS_RAW the Currier is to read over the sideband, the first on the wire unless a driver's transaction is, and the
  repeats of that read (R182, R215) -/
  sbQ : List Nat := []
  sensTries : Nat := 0
  /-- parks whose ROT has not gone out: set, group and position (R194, R196) -/
  rotQ : List (Nat × Nat × Nat) := []
  /-- 1 + CTL cycle of the last step of the read set, the write set, CA0 and CA1; of the last tracking slice of each set; of the
  last read sweep's start; and of the last retrain slice's start (R190, R195, R197, R200) -/
  stepT : List Nat := List.replicate 4 0
  sliceT : List Nat := List.replicate 3 0
  sweepT : Nat := 0
  rtT : Nat := 0
  /-- the tracking slice under way: its set, and the CTL cycle that ends it (R197) -/
  slice : Option (Nat × Nat) := none
  /-- drift of the read strobe of group g for Hide h, at 8g + h: bursts measured and the sum of their errors (R175) -/
  drift : SMap (Nat × Int) := []
  alert : Byte := 0
  mr : SMap (BitVec 16) := []
deriving DecidableEq, Repr, Inhabited

/-- A part of an Awl node (R321-R325): engine sector, slot, node, part index, node type, logical channel. -/
structure Part where
  sec : Nat := 0
  slot : Nat := 0
  node : Nat := 0
  part : Nat := 0
  parts : Nat := 1
  ty : Nat := 0
  cls : Nat := 0
  lch : Nat := 0
  origin : Nat := 0
  /-- AWL_PROG: kind, routine, prog, args, arg_len, ctx when ctx_en -/
  kind : Nat := 0
  routine : Nat := 0
  prog : Nat := 0
  args : Nat := 0
  argLen : Nat := 0
  ctx : Option Nat := none
  /-- the context record read at the part's start (R365) -/
  recb : Block := 0
  retried : Bool := false
deriving DecidableEq, Repr, Inhabited

/-- A memory operation in an Awl's queue (R380). -/
structure MemOp where
  func : Nat
  pc : Nat
  /-- scratch start and length it writes (or reads, for a store) -/
  sc : Nat
  scLen : Nat
  write : Bool
  /-- memory operand: port address, or frame and byte -/
  addr : Nat
  frame : Option Nat
  blocks : Nat
  rc : Nat
  dest : Nat
  pages : List Nat
deriving DecidableEq, Repr, Inhabited

/-- AWL_STATUS.state (R383). -/
inductive AwlSt where
  | idle | loading | running | ending
deriving DecidableEq, Repr, Inhabited

/-- An Awl (R361, R362, R383, R393). -/
structure Awl where
  st : AwlSt := .idle
  kind : Nat := 0
  resident : Bool := false
  routine : BitVec 16 := 0
  pc : Nat := 0
  imgAddr : BitVec 48 := 0
  imgLen : BitVec 16 := 0
  imgCrc : Word := 0
  code : List Word := []
  sreg : List Dword := List.replicate 32 0
  vreg : List (BitVec 4096) := List.replicate 16 0
  scr : SMap Byte := []
  part : Option Part := none
  waitQ : List Part := []
  carryQ : List Part := []
  /-- the last part started came from the carried queue (R393) -/
  lastCarry : Bool := false
  memq : List MemOp := []
  xlat : List (Nat × Word) := []
  cycle : Dword := 0
  /-- code with which the part ends once its memory operations are done (R368) -/
  ending : Option (BitVec 4 × Nat) := none
  trapCause : BitVec 4 := 0
  trapCode : BitVec 4 := 0
  trapValid : Bool := false
  trapPc : BitVec 15 := 0
  trapAddr : BitVec 48 := 0
  trapTime : Dword := 0
  trapNode : Word := 0
  parts : Word := 0
  traps : Word := 0
  loads : Word := 0
  trapEv : Bool := false
  trapEn : Bool := false
  scrSel : BitVec 9 := 0
  attPages : Word := 0
  attNan : Word := 0
  attEmpty : Word := 0
  attEv : BitVec 2 := 0
  attEn : BitVec 2 := 0
  patches : List Patch := []
  carries : Option Nat := none
  carriedBy : Option Nat := none
deriving DecidableEq, Repr, Inhabited

/-- A sensor of a Hide at a channel (R215-R217). -/
structure Temp where
  t : Int := 0
  valid : Bool := false
  subst : Bool := false
  bad : Bool := false
  kLo : Nat := 0
  kHi : Nat := 0
  prev : Int := 0
deriving DecidableEq, Repr, Inhabited

/-- Refresh state of a bank (R206, R229). -/
structure RefBank where
  count : Nat := 0
  pos : Nat := 0
  rounds : BitVec 15 := 0
deriving DecidableEq, Repr, Inhabited

/-- A weak-row entry (R211). -/
structure Weak where
  hide : Nat
  bank : Nat
  row : Nat
  bin : Nat
  found : Bool
  /-- its refreshes fallen due in the bank's present round -/
  done : Nat := 0
deriving DecidableEq, Repr, Inhabited

/-- A Currier slice (R205-R218, R229). -/
structure Cur where
  rate : List Nat := List.replicate 8 0
  below : List Nat := List.replicate 8 0
  fall : List (Option Nat) := List.replicate 8 none
  /-- banks whose round has started since their Hide's fall was decided: they have the lower rate (R209) -/
  fell : List Nat := []
  bank : SMap RefBank := []
  refSel : BitVec 7 := 0
  limitCnt : Word := 0
  temp : List Temp := List.replicate 8 {}
  sensReq : List Nat := []
  die : Int := 0
  dieValid : Bool := false
  dieOfs : Int := 0
  disagree : Nat := 0
  useMax : Bool := false
  weak : List Weak := []
  weakSel : BitVec 9 := 0
  profStep : Nat := 0
  /-- block of the bank that the pre-read or post-read asks for next, the symbols that each codeword's pre-read corrected, and the
  rows whose post-read shows more: whether one gained two, or is uncorrectable (R213) -/
  profAt : Nat := 0
  profPre : SMap Nat := []
  profHits : List (Nat × Bool) := []
  profHide : Nat := 0
  profBank : Nat := 0
  profPasses : BitVec 16 := 0
  profFound : Word := 0
  trr : List Trr := []
  wbQ : List (Nat × Block) := []
  /-- readings below the band of the capacity in force (R219, R220), and consecutive critical readings (R219) -/
  lowA : Nat := 0
  crit : Nat := 0
deriving DecidableEq, Repr, Inhabited

/-- SPARE_STATUS.state (R110, R118). -/
inductive SpareSt where
  | standby | copy | flip | substituting | lost
deriving DecidableEq, Repr, Inhabited

/-- A sector's sparing, histograms and clock (R108-R118, R433-R437, R450). -/
structure Sector where
  sp : SpareSt := .standby
  pos : BitVec 4 := 0
  code : BitVec 4 := 0
  done : Bool := false
  auto : Bool := false
  irqEn : Bool := false
  ctrlPos : BitVec 4 := 0
  fenced : BitVec 16 := 0
  hole : BitVec 16 := 0
  serve : Option Nat := none
  /-- copy point: granule, its blocks asked for, its blocks that have come back, CTL cycle of the last read + 1 (R112) -/
  copyAt : Nat := 0
  copySub : Nat := 0
  copyGot : Nat := 0
  copyT : Nat := 0
  histKind : BitVec 2 := 0
  histSat : BitVec 16 := 0
  bins : SMap Nat := []
  slots : SMap Dword := []
  slotSh : SMap Word := []
  off : Bool := false
  holdover : Bool := false
  clkStop : Bool := false
deriving DecidableEq, Repr, Inhabited

/-- A sector buffer pool (R131, R141). -/
structure Pool where
  floor : SMap Nat := []
  shared : SMap Nat := []
  lost : Nat := 0
  phi : Nat := 256
  event : Bool := false
  eventEn : Bool := false
  clsSel : BitVec 4 := 0
deriving DecidableEq, Repr, Inhabited

/-- A sector network (R106, R142). -/
structure Net where
  msgs : List Work := []
  reserved : Bool := false
  /-- class and source of past grants of its outputs, latest first: output, class, source (R136) -/
  lru : List (Nat × Nat × Nat) := []
  arbMisb : BitVec 18 := 0
deriving DecidableEq, Repr, Inhabited

/-- Node states (R319). -/
inductive NodeSt where
  | waiting | ready | running | done | failed | skipped | notRun
deriving DecidableEq, Repr, Inhabited

/-- A part of a running node: part index, Awl (physical) that has it, ended with code, dispatched twice. -/
structure PartSt where
  part : Nat := 0
  lch : Nat := 0
  phys : Option Nat := none
  ended : Option (BitVec 4 × Nat) := none
  retried : Bool := false
deriving DecidableEq, Repr, Inhabited

/-- A node of a Harness in flight (R319, R328). -/
structure Node where
  ty : Nat := 0
  cls : Nat := 0
  prio : Nat := 0
  always : Bool := false
  bind : Bool := false
  slot : Nat := 0
  stride : Nat := 0
  st : NodeSt := .waiting
  code : BitVec 4 := 0
  detail : Nat := 0
  disp : Nat := 0
  prog : Nat := 0
  await : Nat := 0
  succ : List Nat := []
  /-- bound context and item (R315) -/
  bound : Option (Nat × Nat) := none
  parts : List PartSt := []
  epoch : Option Bool := none
  mover : Option (Nat × Nat) := none
  /-- the parameters read at dispatch, bind substitution applied (R315, R320) -/
  par : BitVec 1024 := 0
  /-- the context record read at dispatch, and the frames its committed pages had then, or why they could not be read (R312) -/
  recb : Block := 0
  snap : List (Nat × Nat) := []
  /-- pages whose table entries could not be read, or are malformed: page, code, detail -/
  snapErr : List (Nat × BitVec 4 × Nat) := []
deriving DecidableEq, Repr, Inhabited

/-- Slot states (R330). -/
inductive SlotSt where
  | free | validating | running | failing | cancelling | ended
deriving DecidableEq, Repr, Inhabited

/-- A Harness slot (R304, R307, R330, R331). -/
structure HSlot where
  st : SlotSt := .free
  seq : Word := 0
  addr : Nat := 0
  origin : Nat := 0
  subCls : Nat := 0
  /-- the descriptor has been read: cls, irq_end, limit, ntab, work, work_len, user, done -/
  read : Bool := false
  cls : Nat := 0
  irqEnd : Bool := false
  limit : Nat := 0
  ntab : Nat := 0
  work : Nat := 0
  workLen : Nat := 0
  user : Word := 0
  doneAt : Nat := 0
  nodes : List Node := []
  fail : Option Nat := none
  failCode : BitVec 4 := 0
  failDetail : Nat := 0
  code : BitVec 4 := 0
  detail : Nat := 0
  tSub : Dword := 0
  tEnd : Dword := 0
deriving DecidableEq, Repr, Inhabited

/-- A submission waiting for a slot (R304): its port and request, or the management port. -/
structure Sub where
  port : Option (Nat × Nat) := none
  addr : Nat := 0
  origin : Nat := 0
  cls : Nat := 0
deriving DecidableEq, Repr, Inhabited

/-- A Harness engine (R303-R341). -/
structure Har where
  slots : List HSlot := List.replicate 64 {}
  waitQ : List Sub := []
  seq : Word := 0
  subLo : Word := 0
  subHi : Word := 0
  subBusy : Bool := false
  subCode : BitVec 4 := 0
  subSlot : BitVec 6 := 0
  ev : BitVec 6 := 0
  evEn : BitVec 6 := 0
  endQ : List Word := []
  cancelSlot : BitVec 6 := 0
  slotSel : BitVec 6 := 0
  rejCode : BitVec 4 := 0
  rejDetail : Byte := 0
  rejNode : BitVec 13 := 0
  rejValid : Bool := false
deriving DecidableEq, Repr, Inhabited

/-- A mover channel (R340). -/
structure MovCh where
  st : BitVec 2 := 0
  op : BitVec 2 := 0
  eng : BitVec 3 := 0
  slot : BitVec 6 := 0
  node : BitVec 13 := 0
  done : BitVec 24 := 0
  failAddr : BitVec 48 := 0
  failDst : Bool := false
  /-- the model's own: place of the running node in acceptance order (R226) -/
  uid : Nat := 0
  /-- ordered contributions of a REDUCE node, issued and not yet accounted (R163, R359) -/
  reqs : List Req := []
deriving DecidableEq, Repr, Inhabited

/-- The mover block of a sector. -/
structure Mov where
  ch : List MovCh := List.replicate 4 {}
deriving DecidableEq, Repr, Inhabited

/-- A lock-table entry (R295). -/
structure Lock where
  ctx : Nat
  owner : Nat
  orphaned : Bool
deriving DecidableEq, Repr, Inhabited

/-- The page service directory (R277-R300). -/
structure Pd where
  /-- frames held: frame, class; frames returning: frame, class, epoch -/
  held : SMap Nat := []
  returning : List (Nat × Nat × Bool) := []
  quar : List Nat := []
  epoch : Bool := false
  locks : List Lock := []
  live : BitVec 22 := 0
  sel : BitVec 8 := 0
  ev : BitVec 3 := 0
  evEn : BitVec 3 := 0
  exhCtx : BitVec 21 := 0
  exhCls : BitVec 4 := 0
  exhCnt : Word := 0
deriving DecidableEq, Repr, Inhabited

/-- Thermal states (R224, R231). -/
inductive Therm where
  | normal | warm | hot | stopping | stopped | emergency
deriving DecidableEq, Repr, Inhabited

/-- A channel's share of a range operation (R245): channel offsets still to do, and how it ended. -/
structure Share where
  lch : Nat
  pos : Nat
  stop : Nat
  ended : Bool := false
  code : BitVec 4 := 0
  start : Nat := 0
deriving DecidableEq, Repr, Inhabited

/-- Range operation registers (R244-R246, R261). -/
structure RangeOp where
  op : Nat := 0
  irqEn : Bool := false
  cls : BitVec 4 := 0
  origin : BitVec 7 := 0
  base : BitVec 48 := 0
  len : Word := 0
  recAddr : BitVec 48 := 0
  busy : Bool := false
  code : BitVec 4 := 0
  done : Bool := false
  doneCnt : Word := 0
  seq : Word := 0
  tStart : Dword := 0
  shares : List Share := []
  changed : Nat := 0
  skipped : Nat := 0
  /-- blocks corrected, symbols corrected, blocks uncorrectable and blocks written back of a SCRUB (R246) -/
  corr : Nat := 0
  syms : Nat := 0
  ue : Nat := 0
  back : Nat := 0
deriving DecidableEq, Repr, Inhabited

/-- Self-test record of a unit (R411, R420). -/
structure BUnit where
  next : Nat := 0
  failed : Bool := false
  stuck : Bool := false
  notrun : Nat := 0
  time : Word := 0
deriving DecidableEq, Repr, Inhabited

/-- Self-test sequencer (R410-R420). -/
structure Bist where
  phase : BitVec 3 := 0
  entry : Nat := 0
  slice : Nat := 0
  cycles : Word := 0
  pass : Word := 0
  deferred : BitVec 16 := 0
  skipped : BitVec 16 := 0
  ev : BitVec 4 := 0
  en : BitVec 4 := 0
  head : Word := 1
  next : Word := 1
  ack : Word := 1
  unitSel : BitVec 16 := 0
  log : List (List Word) := []
  units : SMap BUnit := []
  /-- the FAIL of the last run is to be repeated -/
  again : Bool := false
  sig : Dword := 0
  run : Nat := 0
  result : Nat := 0
  /-- the last phase the slice reached (R419) -/
  reached : Nat := 0
deriving DecidableEq, Repr, Inhabited

/-- Dump sequencer (R438-R443). -/
structure TelSt where
  busy : Bool := false
  last : Word := 0
  next : Word := 1
  ev : BitVec 3 := 0
  en : BitVec 3 := 0
  skip : Word := 0
  fail : Word := 0
  skipped : Word := 0
  /-- the record in progress: its seq, address and blocks still to write -/
  seq : Word := 0
  addr : Nat := 0
  todo : List (Nat × Block) := []
deriving DecidableEq, Repr, Inhabited

/-- The Currier sequencer with governor, range, self-test and dumps (R224-R232). -/
structure Seq where
  therm : Therm := .normal
  hotHide : BitVec 3 := 0
  hotChan : Byte := 0
  hotT : BitVec 16 := 0
  lowW : Nat := 0
  lowH : Nat := 0
  thermEv : BitVec 4 := 0
  thermEn : BitVec 4 := 0
  level : List Nat := List.replicate 8 0
  lowLvl : List Nat := List.replicate 8 0
  rounded : Bool := false
  thermStop : Bool := false
  stopUs : BitVec 12 := 0
  stopInc : BitVec 16 := 0
  stopTime : Dword := 0
  /-- MGMT cycle in which STOPPING was entered (the model's own, for STOP_STATUS.us) -/
  stopAt : Nat := 0
  range : RangeOp := {}
  bist : Bist := {}
  tel : TelSt := {}
deriving DecidableEq, Repr, Inhabited

/-- Channel work of an agent inside the block, Awl, mover, Harness engine, page service or sequencer, that is under way
(R125, R126, R134): whose, its number, and the blocks that are not done. -/
structure Job where
  own : Nat
  uid : Nat
  left : Nat
deriving DecidableEq, Repr, Inhabited

/-- Blocks of memory an agent's command touches: n blocks of logical channel lch from channel offset off. -/
structure Acc where
  write : Bool
  lch : Nat
  off : Nat
  n : Nat
deriving DecidableEq, Repr, Inhabited

/-- The safe state (R404, R409). -/
structure Safe where
  on : Bool := false
  entry : BitVec 16 := 0
  time : Dword := 0
deriving DecidableEq, Repr, Inhabited

/-- The TAP (R421, R458). -/
structure Tap where
  ir : Byte := 0xFF
  unit : BitVec 16 := 0
  boundary : List Bool := []
  drive : List Bool := []
  chain : List Bool := []
  sig : Dword := 0
  status : BitVec 16 := 0
  /-- the last data-register value captured -/
  dr : List Bool := []
  bypass : Bool := false
deriving DecidableEq, Repr, Inhabited

/-- The block. -/
structure State where
  /-- commands waiting, first in, first out -/
  pending : List Instr := []
  /-- the model's own: names the next free value (log 6) -/
  free : Nat := 0
  /-- the model's own: numbers accepted requests -/
  uid : Nat := 0
  hides : Nat := 8
  build : Word := 0
  /-- netlist: slope and intercept of the die oscillators (R218), expected self-test signatures (R415) -/
  dieSlope : Int := 1
  dieIcpt : Int := 0
  expSig : SMap Dword := []
  image : Option Image := none
  cells : List Host.Cell := []
  /-- blocks found uncorrectable and not written since: physical channel and channel offset (R238) -/
  bad : List (Nat × Nat) := []
  boot : Boot := {}
  flash : Flash := {}
  /-- records resolved in SLOTS and held for TRAIN and APPLY (R63) -/
  calRec : List (List Byte) := []
  retRec : List (List Byte) := []
  mgmt : Mgmt := {}
  tack : Tack := {}
  frames : List Frame := []
  cnts : List Cnt := List.replicate 757 {}
  ports : List Port := List.replicate 128 {}
  ctls : List Ctl := List.replicate 136 {}
  links : List Link := List.replicate 136 {}
  awls : List Awl := List.replicate 136 {}
  curs : List Cur := List.replicate 136 {}
  sectors : List Sector := List.replicate 8 {}
  pools : List Pool := List.replicate 8 {}
  nets : List Net := List.replicate 8 {}
  hars : List Har := List.replicate 8 {}
  movs : List Mov := List.replicate 8 {}
  jobs : List Job := []
  /-- Awls and mover channels in a row-disturbance penalty, by requester identity (R168) -/
  rhHeld : List Nat := []
  /-- the model's own: blocks of memory that the agent's command under way has touched; empty between commands (log 13) -/
  acc : List Acc := []
  pd : Pd := {}
  seq : Seq := {}
  safe : Safe := {}
  tap : Tap := {}
deriving DecidableEq, Repr, Inhabited

/-- The frame states after reset, in Tack Table index order: STANDBY for a spare channel (index 17 + 9 x sector of the
sector's children) and its four units, RUNNING otherwise (R28). -/
def resetFrames : List Frame :=
  (List.range 757).map fun i =>
    if (13 ≤ i && i < 85 && (i - 13) % 9 == 4) || (85 ≤ i && i < 245 && 16 ≤ (i - 85) % 20) then { st := .standby } else {}

/-- The block right after reset is released: CLOCK, nothing latched, nothing stored. -/
def State.reset : State := { frames := resetFrames }

end Sys2Proof.Machine
end

