-- ==== Sys2Proof/Machine/Ops.lean ====
section
/-! DEFINITION. The named operations over the state: sparse maps, registers' accessors, the unit tree, the address map, and
one block of memory read or written at the ordering point of its channel. -/

namespace Sys2Proof.Machine

/-! ### Lists, bits and sparse maps -/

/-- Replace element `i` by its image; nothing where there is no element `i`. -/
def upd {α : Type} : List α → Nat → (α → α) → List α
  | [], _, _ => []
  | a :: l, 0, f => f a :: l
  | a :: l, i + 1, f => a :: upd l i f

/-- Two sorted lists in one, of at most n elements; among equals the first list's come first. -/
def mergeBy {α : Type} (le : α → α → Bool) : Nat → List α → List α → List α
  | _, [], l => l
  | _, l, [] => l
  | 0, l, m => l ++ m
  | n + 1, a :: l, b :: m => if le a b then a :: mergeBy le n l (b :: m) else b :: mergeBy le n (a :: l) m

/-- The list in order, equals as they stand; n halvings, of which no list takes more than its length. -/
def sortBy {α : Type} (le : α → α → Bool) : Nat → List α → List α
  | 0, l => l
  | n + 1, l =>
    if l.length ≤ 1 then l
    else mergeBy le l.length (sortBy le n (l.take (l.length / 2))) (sortBy le n (l.drop (l.length / 2)))

/-- The list in order, equals as they stand. -/
def sorted {α : Type} (l : List α) (le : α → α → Bool) : List α := sortBy le l.length l

/-- Bits lo to lo + len - 1 of a number. -/
def bits (n lo len : Nat) : Nat := n / 2 ^ lo % 2 ^ len

/-- Bit `i` of a number. -/
def bitN (n i : Nat) : Bool := n / 2 ^ i % 2 == 1

/-- The number a flag stands for. -/
def b2n (b : Bool) : Nat := if b then 1 else 0

/-- A register word put together from fields (value, lowest bit). -/
def fields (l : List (Nat × Nat)) : Word := BitVec.ofNat 32 (l.foldl (fun a f => a + f.1 * 2 ^ f.2) 0)

/-- Value of a key in a sparse map whose unlisted keys hold `d`. -/
def smGet {α : Type} (d : α) : SMap α → Nat → α
  | [], _ => d
  | (k', v) :: m, k => if k = k' then v else smGet d m k

/-- Store a value, keeping keys rising and listing no key that holds `d`. -/
def smSet {α : Type} [DecidableEq α] (d : α) : SMap α → Nat → α → SMap α
  | [], k, v => if v = d then [] else [(k, v)]
  | (k', v') :: m, k, v =>
    if k < k' then (if v = d then (k', v') :: m else (k, v) :: (k', v') :: m)
    else if k = k' then (if v = d then m else (k, v) :: m)
    else (k', v') :: smSet d m k v

/-- Drop every key from lo to lo + n - 1. -/
def smClear {α : Type} (m : SMap α) (lo n : Nat) : SMap α := m.filter fun e => e.1 < lo || lo + n ≤ e.1

/-- The canonical form: keys strictly rising, no key listed with the value an unlisted key holds. -/
def smWf {α : Type} [DecidableEq α] (d : α) : SMap α → Bool
  | [] => true
  | (k, v) :: m => decide (v ≠ d) && (m.all fun e => decide (k < e.1)) && smWf d m

/-- Saturating increment of a 32-bit counter (R361, R383). -/
def satAdd (w : Word) (n : Nat) : Word := BitVec.ofNat 32 (min (w.toNat + n) 0xFFFFFFFF)

/-- Bytes of a number, least significant first (R4). -/
def leBytes (n : Nat) : Nat → List Byte
  | 0 => []
  | k + 1 => BitVec.ofNat 8 n :: leBytes (n / 256) k

/-- The number of little-endian bytes. -/
def leNat : List Byte → Nat
  | [] => 0
  | b :: l => b.toNat + 256 * leNat l

/-- The bytes of a block, byte 0 first. -/
def blockBytes (b : Block) : List Byte := leBytes b.toNat 64

/-- The block of 64 bytes. -/
def bytesBlock (l : List Byte) : Block := BitVec.ofNat 512 (leNat (l.take 64))

/-- Byte `k` of a block. -/
def blkByte (b : Block) (k : Nat) : Byte := BitVec.ofNat 8 (b.toNat / 2 ^ (8 * k))

/-- `n` bytes of a block from byte `k`, as a number. -/
def blkGet (b : Block) (k n : Nat) : Nat := bits b.toNat (8 * k) (8 * n)

/-- The block with `n` bytes from byte `k` replaced. -/
def blkPut (b : Block) (k n v : Nat) : Block :=
  BitVec.ofNat 512 (b.toNat - blkGet b k n * 2 ^ (8 * k) + v % 2 ^ (8 * n) * 2 ^ (8 * k))

/-- Merge under byte enables (R84). -/
def blkMerge (old new : Block) (be : BitVec 64) : Block :=
  bytesBlock ((List.range 64).map fun k => if be.getLsbD k then blkByte new k else blkByte old k)

/-! ### Accessors -/

/-- Channel controller p. -/
def State.ctl (s : State) (p : Nat) : Ctl := s.ctls.getD p {}
/-- Link p. -/
def State.link (s : State) (p : Nat) : Link := s.links.getD p {}
/-- Awl p. -/
def State.awl (s : State) (p : Nat) : Awl := s.awls.getD p {}
/-- Currier slice p. -/
def State.cur (s : State) (p : Nat) : Cur := s.curs.getD p {}
/-- Port n. -/
def State.port (s : State) (n : Nat) : Port := s.ports.getD n {}
/-- Sector x. -/
def State.sec (s : State) (x : Nat) : Sector := s.sectors.getD x {}
/-- Pool x. -/
def State.pool (s : State) (x : Nat) : Pool := s.pools.getD x {}
/-- Network x. -/
def State.net (s : State) (x : Nat) : Net := s.nets.getD x {}
/-- Harness engine x. -/
def State.har (s : State) (x : Nat) : Har := s.hars.getD x {}
/-- Mover block x. -/
def State.mov (s : State) (x : Nat) : Mov := s.movs.getD x {}
/-- Frame at Tack index i. -/
def State.frame (s : State) (i : Nat) : Frame := s.frames.getD i {}
/-- Counter bank of the frame at Tack index i. -/
def State.cnt (s : State) (i : Nat) : Cnt := s.cnts.getD i {}

/-- Change controller p. -/
def State.onCtl (s : State) (p : Nat) (f : Ctl → Ctl) : State := { s with ctls := upd s.ctls p f }
/-- Change link p. -/
def State.onLink (s : State) (p : Nat) (f : Link → Link) : State := { s with links := upd s.links p f }
/-- Change Awl p. -/
def State.onAwl (s : State) (p : Nat) (f : Awl → Awl) : State := { s with awls := upd s.awls p f }
/-- Change Currier slice p. -/
def State.onCur (s : State) (p : Nat) (f : Cur → Cur) : State := { s with curs := upd s.curs p f }
/-- Change port n. -/
def State.onPort (s : State) (n : Nat) (f : Port → Port) : State := { s with ports := upd s.ports n f }
/-- Change sector x. -/
def State.onSec (s : State) (x : Nat) (f : Sector → Sector) : State := { s with sectors := upd s.sectors x f }
/-- Change pool x. -/
def State.onPool (s : State) (x : Nat) (f : Pool → Pool) : State := { s with pools := upd s.pools x f }
/-- Change network x. -/
def State.onNet (s : State) (x : Nat) (f : Net → Net) : State := { s with nets := upd s.nets x f }
/-- Change Harness engine x. -/
def State.onHar (s : State) (x : Nat) (f : Har → Har) : State := { s with hars := upd s.hars x f }
/-- Change mover block x. -/
def State.onMov (s : State) (x : Nat) (f : Mov → Mov) : State := { s with movs := upd s.movs x f }
/-- Change the frame at Tack index i. -/
def State.onFrame (s : State) (i : Nat) (f : Frame → Frame) : State := { s with frames := upd s.frames i f }
/-- Change the counter bank at Tack index i. -/
def State.onCnt (s : State) (i : Nat) (f : Cnt → Cnt) : State := { s with cnts := upd s.cnts i f }

/-! ### Response codes (R8) -/

/-- OK. -/
def cOK : BitVec 4 := 0x0
/-- POISON. -/
def cPOISON : BitVec 4 := 0x1
/-- FENCED. -/
def cFENCED : BitVec 4 := 0x2
/-- ABORTED. -/
def cABORTED : BitVec 4 := 0x3
/-- PAGE_EXHAUSTED. -/
def cEXHAUSTED : BitVec 4 := 0x5
/-- LOCK_BROKEN. -/
def cBROKEN : BitVec 4 := 0x6
/-- GRAPH_CYCLE. -/
def cCYCLE : BitVec 4 := 0x7
/-- ENGINE_LOST. -/
def cLOST : BitVec 4 := 0x8
/-- REDUCTION_INCOMPLETE. -/
def cINCOMPLETE : BitVec 4 := 0x9
/-- BAD_REQUEST. -/
def cBAD : BitVec 4 := 0xA

/-! ### The unit tree (R38, R39; indices as in the 757-entry build, log 5) -/

/-- Sector of a physical channel (R7). -/
def secOf (p : Nat) : Nat := p / 17
/-- Position of a physical channel in its sector; 16 is the spare. -/
def posOf (p : Nat) : Nat := p % 17
/-- Physical channel of a home position. -/
def homeOf (lch : Nat) : Nat := lch / 16 * 17 + lch % 16
/-- Spare channel of a sector. -/
def spareOf (x : Nat) : Nat := x * 17 + 16

/-- Tack index of the CHANNEL unit of p. -/
def chanIdx (p : Nat) : Nat := if posOf p = 16 then 17 + 9 * secOf p else 85 + 20 * secOf p + posOf p
/-- Tack index of unit k (0 CTL, 1 LINK, 2 AWL, 3 CURRIER) of channel p. -/
def leafIdx (p k : Nat) : Nat :=
  if posOf p = 16 then 101 + 20 * secOf p + k else 245 + 4 * (16 * secOf p + posOf p) + k

end Sys2Proof.Machine

namespace Sys2Proof

/-- Tack index of a unit. -/
def UnitId.idx : UnitId → Nat
  | .array => 0
  | .mgmt => 9
  | .loader => 10
  | .pageDir => 11
  | .currierSeq => 12
  | .sector s => 1 + s
  | .quad s q => 13 + 9 * s + q
  | .pool s => 18 + 9 * s
  | .network s => 19 + 9 * s
  | .harness s => 20 + 9 * s
  | .movers s => 21 + 9 * s
  | .channel p => Machine.chanIdx p
  | .ctl p => Machine.leafIdx p 0
  | .link p => Machine.leafIdx p 1
  | .awl p => Machine.leafIdx p 2
  | .currier p => Machine.leafIdx p 3

/-- The unit exists in the build. -/
def UnitId.ok : UnitId → Bool
  | .array | .mgmt | .loader | .pageDir | .currierSeq => true
  | .sector s | .pool s | .network s | .harness s | .movers s => s < 8
  | .quad s q => s < 8 && q < 4
  | .channel p | .ctl p | .link p | .awl p | .currier p => p < 136

/-- The channel unit k of physical channel p. -/
def Machine.leafUnit (p k : Nat) : UnitId :=
  if k = 0 then .ctl p else if k = 1 then .link p else if k = 2 then .awl p else .currier p

/-- The unit at a Tack index. -/
def Machine.unitAt (i : Nat) : UnitId :=
  if i = 0 then .array
  else if i < 9 then .sector (i - 1)
  else if i = 9 then .mgmt else if i = 10 then .loader else if i = 11 then .pageDir else if i = 12 then .currierSeq
  else if i < 85 then
    let x := (i - 13) / 9
    let k := (i - 13) % 9
    if k < 4 then .quad x k else if k = 4 then .channel (Machine.spareOf x) else if k = 5 then .pool x
    else if k = 6 then .network x else if k = 7 then .harness x else .movers x
  else if i < 245 then
    let x := (i - 85) / 20
    let k := (i - 85) % 20
    if k < 16 then .channel (17 * x + k) else Machine.leafUnit (Machine.spareOf x) (k - 16)
  else Machine.leafUnit (Machine.homeOf ((i - 245) / 4)) ((i - 245) % 4)

/-- Type code of a unit (R39). -/
def UnitId.ty : UnitId → Nat
  | .array => 0x01 | .sector _ => 0x02 | .quad _ _ => 0x03 | .channel _ => 0x04 | .ctl _ => 0x05 | .link _ => 0x06
  | .awl _ => 0x07 | .currier _ => 0x08 | .pool _ => 0x09 | .network _ => 0x0A | .harness _ => 0x0B
  | .movers _ => 0x0C | .mgmt => 0x0D | .loader => 0x0E | .pageDir => 0x0F | .currierSeq => 0x10

/-- Instance number of a unit (R39). -/
def UnitId.inst : UnitId → Nat
  | .array | .mgmt | .loader | .pageDir | .currierSeq => 0
  | .sector s | .pool s | .network s | .harness s | .movers s => s
  | .quad s q => 4 * s + q
  | .channel p | .ctl p | .link p | .awl p | .currier p => p

/-- Parent of a unit; none for the array. -/
def UnitId.parent : UnitId → Option UnitId
  | .array => none
  | .mgmt | .loader | .pageDir | .currierSeq => some .array
  | .sector _ => some .array
  | .quad s _ => some (.sector s)
  | .pool s | .network s | .harness s | .movers s => some (.sector s)
  | .channel p => some (if Machine.posOf p = 16 then .sector (Machine.secOf p) else .quad (Machine.secOf p) (Machine.posOf p / 4))
  | .ctl p | .link p | .awl p | .currier p => some (.channel p)

/-- Position among the parent's children (R38). -/
def UnitId.ordinal : UnitId → Nat
  | .array => 0
  | .sector s => s
  | .mgmt => 8 | .loader => 9 | .pageDir => 10 | .currierSeq => 11
  | .quad _ q => q
  | .channel p => if Machine.posOf p = 16 then 4 else Machine.posOf p % 4
  | .pool _ => 5 | .network _ => 6 | .harness _ => 7 | .movers _ => 8
  | .ctl _ => 0 | .link _ => 1 | .awl _ => 2 | .currier _ => 3

/-- Children in ordinal order (R39). -/
def UnitId.kids : UnitId → List UnitId
  | .array => (List.range 8).map .sector ++ [.mgmt, .loader, .pageDir, .currierSeq]
  | .sector s => (List.range 4).map (.quad s) ++ [.channel (Machine.spareOf s), .pool s, .network s, .harness s, .movers s]
  | .quad s q => (List.range 4).map fun c => .channel (17 * s + 4 * q + c)
  | .channel p => [.ctl p, .link p, .awl p, .currier p]
  | _ => []

/-- A group frame: one with children. -/
def UnitId.isGroup : UnitId → Bool
  | .array | .sector _ | .quad _ _ | .channel _ => true
  | _ => false

/-- The unit and its ancestors up to the array. -/
def UnitId.path : UnitId → List UnitId
  | .array => [.array]
  | .mgmt => [.mgmt, .array] | .loader => [.loader, .array] | .pageDir => [.pageDir, .array]
  | .currierSeq => [.currierSeq, .array]
  | .sector s => [.sector s, .array]
  | .quad s q => [.quad s q, .sector s, .array]
  | .pool s => [.pool s, .sector s, .array] | .network s => [.network s, .sector s, .array]
  | .harness s => [.harness s, .sector s, .array] | .movers s => [.movers s, .sector s, .array]
  | .channel p => .channel p ::
      (if Machine.posOf p = 16 then [.sector (Machine.secOf p), .array] else [.quad (Machine.secOf p) (Machine.posOf p / 4), .sector (Machine.secOf p), .array])
  | .ctl p => .ctl p :: .channel p ::
      (if Machine.posOf p = 16 then [.sector (Machine.secOf p), .array] else [.quad (Machine.secOf p) (Machine.posOf p / 4), .sector (Machine.secOf p), .array])
  | .link p => .link p :: .channel p ::
      (if Machine.posOf p = 16 then [.sector (Machine.secOf p), .array] else [.quad (Machine.secOf p) (Machine.posOf p / 4), .sector (Machine.secOf p), .array])
  | .awl p => .awl p :: .channel p ::
      (if Machine.posOf p = 16 then [.sector (Machine.secOf p), .array] else [.quad (Machine.secOf p) (Machine.posOf p / 4), .sector (Machine.secOf p), .array])
  | .currier p => .currier p :: .channel p ::
      (if Machine.posOf p = 16 then [.sector (Machine.secOf p), .array] else [.quad (Machine.secOf p) (Machine.posOf p / 4), .sector (Machine.secOf p), .array])

/-- Every unit beneath a unit, itself first (R12, R33). -/
def UnitId.subtree (u : UnitId) : List UnitId :=
  let l1 := u.kids
  let l2 := l1.flatMap UnitId.kids
  let l3 := l2.flatMap UnitId.kids
  u :: (l1 ++ l2 ++ l3 ++ l3.flatMap UnitId.kids)

/-- FRAME_CTRL permits reset, quiesce (R39). -/
def UnitId.canReset : UnitId → Bool
  | .array | .mgmt | .loader | .pageDir | .currierSeq => false
  | _ => true
/-- FRAME_CTRL permits quiesce (R39). -/
def UnitId.canQuiesce : UnitId → Bool
  | .mgmt | .loader | .pageDir | .currierSeq => false
  | _ => true

end Sys2Proof

namespace Sys2Proof.Machine

/-- Frame of a unit. -/
def State.fr (s : State) (u : UnitId) : Frame := s.frame u.idx
/-- Change the frame of a unit. -/
def State.onFr (s : State) (u : UnitId) (f : Frame → Frame) : State := s.onFrame u.idx f

/-- The block is RUNNING (R51). -/
def State.isRunning (s : State) : Bool := s.boot.phase == 0xA
/-- The running image, or an empty one before RUNNING. -/
def State.img (s : State) : Image := s.image.getD {}

/-- The unit is fenced. -/
def State.isFenced (s : State) (u : UnitId) : Bool := (s.fr u).fenced
/-- Channel p is fenced (R110). -/
def State.chFenced (s : State) (p : Nat) : Bool := s.isFenced (.channel p)

/-! ### The address map (R102-R108) -/

/-- Granules of a channel (R268). -/
def State.grans (s : State) : Nat := Config.rows * s.hides
/-- Bytes of a channel. -/
def State.chanBytes (s : State) : Nat := s.grans * 16384

/-- R102 for one window. -/
def winHit (w : Window) (a : Nat) : Bool := w.base * 2097152 ≤ a && a < (w.base + w.size) * 2097152

/-- R102: logical channel and channel offset of a port address, for a requester's origin. -/
def decodeIn (w : Window) (a origin : Nat) : Nat × Nat :=
  let o := a - w.base * 2097152
  let st := o / 2048
  if w.mode = 0 then (origin, w.chanBase * 2097152 + o)
  else if w.mode = 1 then (w.sector * 16 + st % 16, w.chanBase * 2097152 + st / 16 * 2048 + o % 2048)
  else (st % 128, w.chanBase * 2097152 + st / 128 * 2048 + o % 2048)

/-- The window a port address lies in. -/
def State.winOf (s : State) (a : Nat) : Option Window := s.img.windows.find? fun w => winHit w a

/-- R72, R102: decode, or nothing in no window or past the installed capacity. -/
def State.decode (s : State) (a origin : Nat) : Option (Nat × Nat) :=
  match s.winOf a with
  | none => none
  | some w =>
    let d := decodeIn w a origin
    if d.2 < s.chanBytes then some d else none

/-- R105: Hide, row, bank (4g + b) and column block of a channel offset, with H Hides. -/
structure Loc where
  hide : Nat
  row : Nat
  bank : Nat
  col : Nat
deriving DecidableEq, Repr, Inhabited

/-- R105. -/
def locate (h x : Nat) : Loc :=
  let q := x / 16384
  let row := q / h
  { hide := q % h, row := row,
    bank := 4 * ((x / 1024 % 4) ^^^ (row % 4)) + ((x / 4096 % 4) ^^^ (row / 4 % 4)), col := x / 64 % 16 }

/-- The bank group of a bank number 4g + b. -/
def bgOf (bank : Nat) : Nat := bank / 4

/-- Channel offset of the column-0 block of a row of a bank: the inverse of R105. -/
def rowOffset (h hide bank row : Nat) : Nat :=
  (row * h + hide) * 16384 + ((bank / 4) ^^^ (row % 4)) * 1024 + ((bank % 4) ^^^ (row / 4 % 4)) * 4096

/-- The physical channel that serves a logical channel; none for a hole (R108). -/
def State.serving (s : State) (lch : Nat) : Option Nat :=
  let x := s.sec (lch / 16)
  if x.off || x.hole.getLsbD (lch % 16) then none
  else if x.serve = some (lch % 16) then some (spareOf (lch / 16))
  else some (homeOf lch)

/-- The logical channel a physical channel serves. -/
def State.lchOf (s : State) (p : Nat) : Option Nat :=
  let x := s.sec (secOf p)
  if x.off then none
  else if posOf p = 16 then x.serve.map (secOf p * 16 + ·)
  else if x.hole.getLsbD (posOf p) || x.serve = some (posOf p) then none
  else some (secOf p * 16 + posOf p)

/-- The physical channel whose port stage has port n: the serving one, or the home channel of a hole (R98, R100). -/
def State.portPhys (s : State) (n : Nat) : Nat :=
  let l := s.img.ports.getD n n
  (s.serving l).getD (homeOf l)

/-- The port bound to a logical channel. -/
def State.portOf (s : State) (lch : Nat) : Option Nat :=
  (List.range 128).find? fun n => s.img.ports.getD n n == lch

/-- The port whose stage channel p has now. -/
def State.portAt (s : State) (p : Nat) : Option Nat :=
  match s.lchOf p with
  | some l => s.portOf l
  | none => if posOf p < 16 && ((s.sec (secOf p)).off || (s.sec (secOf p)).hole.getLsbD (posOf p)) then s.portOf (secOf p * 16 + posOf p) else none

/-- Row a command carries for row r of a bank: its newest remap's spare row (R250). -/
def rowOn (c : Ctl) (hide bank row : Nat) : Nat :=
  match c.remaps.find? fun m => m.hide == hide && m.bank == bank && m.row == row && !m.abandoned with
  | some m => Config.rows + m.spare
  | none => row

/-- Where the bytes of block offset x of channel p lie: the DRAM address of R105, R250 and R254 as a number (log 7). -/
def State.cellAt (s : State) (p x : Nat) : Nat :=
  let l := locate s.hides x
  let c := s.ctl p
  let lent := c.lent.contains (16 * l.hide + l.bank)
  let ph := if lent then spareOf (secOf p) else p
  let row := rowOn (s.ctl ph) l.hide l.bank l.row
  (((((ph * 8 + l.hide) * 16384 + row) * 16 + l.bank) * 16) + l.col) * 64

/-! ### DRAM bytes and the fresh map -/

/-- Read n bytes of the array. -/
def cellsRead (m : List Host.Cell) (a : Nat) : Nat → List Byte
  | 0 => []
  | n + 1 => smGet 0 m a :: cellsRead m (a + 1) n

/-- Write bytes of the array. -/
def cellsWrite (m : List Host.Cell) (a : Nat) : List Byte → List Host.Cell
  | [] => m
  | b :: l => cellsWrite (smSet 0 m a b) (a + 1) l

/-- The stored block of channel p at offset x. -/
def State.stored (s : State) (p x : Nat) : Block := bytesBlock (cellsRead s.cells (s.cellAt p (x / 64 * 64)) 64)

/-- Store a block of channel p at offset x: its codeword is whole again (R238). -/
def State.store (s : State) (p x : Nat) (b : Block) : State :=
  { s with
    cells := cellsWrite s.cells (s.cellAt p (x / 64 * 64)) (blockBytes b)
    bad := s.bad.filter (· != (p, x / 64 * 64)) }

/-- The stored codeword of the block has been found uncorrectable, and nothing has replaced it (R238). -/
def State.isBad (s : State) (p x : Nat) : Bool := s.bad.contains (p, x / 64 * 64)

/-- A block is found uncorrectable. -/
def State.markBad (s : State) (p x : Nat) : State := if s.isBad p x then s else { s with bad := s.bad ++ [(p, x / 64 * 64)] }

/-- Fresh-map state of the granule of offset x at channel p: 0 unwritten, 1 written, 2 poisoned (R237). -/
def State.fresh (s : State) (p x : Nat) : Nat := smGet 0 (s.ctl p).fresh (x / 16384)

/-- Set the fresh-map state of granule g. -/
def State.setFresh (s : State) (p g v : Nat) : State := s.onCtl p fun c => { c with fresh := smSet 0 c.fresh g v }

/-- Write zeros over a granule: what a zero-fill leaves (R156). -/
def State.zeroGran (s : State) (p g : Nat) : State :=
  { s with
    cells := (List.range 16).foldl (fun m k => smClear m (s.cellAt p (g * 16384 + k * 1024)) 1024) s.cells
    bad := s.bad.filter fun b => b.1 != p || b.2 / 16384 != g }

/-- The value of a block at the ordering point of channel p: combining buffer, then newest write entry, then the array
(R91, R154). -/
def State.peek (s : State) (p x : Nat) : Block :=
  let o := x / 64 * 64
  if s.fresh p x = 0 then 0
  else match (s.ctl p).comb.find? fun e => e.off == o && e.val.isSome with
  | some e => e.val.getD 0
  | none => match ((s.ctl p).wrQ.reverse).find? fun e => e.off == o with
    | some e => e.data
    | none => s.stored p o

/-- A read of the block at its ordering point is uncorrectable (R238, R240): no pending write holds it whole. -/
def State.ueAt (s : State) (p x : Nat) : Bool :=
  let o := x / 64 * 64
  s.fresh p x == 1 && s.isBad p o && !((s.ctl p).comb.any fun e => e.off == o && e.val.isSome) && !((s.ctl p).wrQ.any fun e => e.off == o)

/-- The granule becomes WRITTEN when a write reaches its ordering point, its zero-fill done at once (R156, R237). -/
def State.openGran (s : State) (p g : Nat) : State :=
  if smGet 0 (s.ctl p).fresh g = 0 then (s.zeroGran p g).setFresh p g 1 else s

/-- The spare that mirrors the writes of channel p: from COPY to the end of FLIP (R111). -/
def State.mirror (s : State) (p : Nat) : Option Nat :=
  let e := s.sec (secOf p)
  if posOf p = e.pos.toNat && posOf p < 16 && (e.sp == .flip || e.sp == .copy) then some (spareOf (secOf p)) else none

/-- The granule of offset x is being copied to the spare (R112). -/
def State.inCopy (s : State) (p x : Nat) : Bool :=
  let e := s.sec (secOf p)
  posOf p == e.pos.toNat && posOf p < 16 && e.sp == .copy && x / 16384 == e.copyAt && e.copySub != 0

/-- Newer data of a block has reached the ordering point of channel p: its waiting write-backs are superseded, and so are the
reads of it that are under way, for a write-back of theirs (R243). -/
def State.newer (s : State) (p off : Nat) : State :=
  let old := fun (l : List Entry) => l.map fun e => if e.off = off && e.op = 0 then { e with stale := true } else e
  (s.onCur p fun c => { c with wbQ := c.wbQ.filter fun e => e.1 != off }).onCtl p fun c =>
    { c with rdQ := old c.rdQ, flight := old c.flight }

/-- A block written at the ordering point of channel p by an agent whose access is whole (log 13): the array and every
pending copy of the block hold it. -/
def State.poke1 (s : State) (p x : Nat) (b : Block) : State :=
  let o := x / 64 * 64
  let s := (s.openGran p (x / 16384)).newer p o
  let s := s.store p o b
  s.onCtl p fun c =>
    { c with
      wrQ := c.wrQ.map fun e => if e.off = o then { e with data := b } else e
      flight := c.flight.map fun e => if e.off = o && e.op != 0 then { e with data := b } else e
      comb := c.comb.map fun e => if e.off = o then { e with val := e.val.map fun _ => b } else e }

/-- The same, mirrored to the spare under R111. -/
def State.poke (s : State) (p x : Nat) (b : Block) : State :=
  match s.mirror p with
  | some sp => (s.poke1 p x b).poke1 sp x b
  | none => s.poke1 p x b

/-- A whole read by an engine of the block of logical channel l at offset x: its code and data (R108, R237, R238). -/
def State.memRead (s : State) (l x : Nat) : BitVec 4 × Block :=
  match s.serving l with
  | none => (cFENCED, 0)
  | some p => if s.fresh p x = 2 || s.ueAt p x then (cPOISON, 0) else (cOK, s.peek p x)

/-- One more block touched, latest first; reads of successive blocks of a 2 KiB stripe are one, and a block of the run just read is
at hand. -/
def addAcc (acc : List Acc) (write : Bool) (l x : Nat) : List Acc :=
  let o := x / 64 * 64
  match acc with
  | a :: r =>
    if !write && !a.write && a.lch = l && a.off ≤ o && o < a.off + 64 * a.n then a :: r
    else if !write && !a.write && a.lch = l && a.off + 64 * a.n = o && a.n < 32 then { a with n := a.n + 1 } :: r
    else ⟨write, l, o, 1⟩ :: a :: r
  | [] => [⟨write, l, o, 1⟩]

/-- Note a block that the agent's command touches. -/
def State.touch (s : State) (write : Bool) (l x : Nat) : State := { s with acc := addAcc s.acc write l x }

/-- Note n blocks read from a port address. -/
def State.touchRd (s : State) (a origin : Nat) : Nat → State
  | 0 => s
  | n + 1 => (match s.decode a origin with
    | none => s
    | some (l, x) => s.touch false l x).touchRd (a + 64) origin n

/-- A whole write by an engine. -/
def State.memWrite (s : State) (l x : Nat) (b : Block) : BitVec 4 × State :=
  match s.serving l with
  | none => (cFENCED, s)
  | some p =>
    if s.fresh p x = 2 then (cPOISON, s)
    else (cOK, (s.poke p x b).touch true l x)

/-- Read a block at a port address. -/
def State.paRead (s : State) (a origin : Nat) : BitVec 4 × Block :=
  match s.decode a origin with
  | none => (cBAD, 0)
  | some (l, x) => s.memRead l x

/-- Write a block at a port address. -/
def State.paWrite (s : State) (a origin : Nat) (b : Block) : BitVec 4 × State :=
  match s.decode a origin with
  | none => (cBAD, s)
  | some (l, x) => s.memWrite l x b

/-- Read n blocks from a port address, to the first failure. -/
def State.paReadN (s : State) (a origin : Nat) : Nat → BitVec 4 × List Byte
  | 0 => (cOK, [])
  | n + 1 =>
    match s.paRead a origin with
    | (c, b) => if c = cOK then
        match s.paReadN (a + 64) origin n with
        | (c', l) => (c', blockBytes b ++ l)
      else (c, [])

/-- Write whole blocks of bytes from a port address, to the first failure. -/
def State.paWriteN (s : State) (a origin : Nat) : Nat → List Byte → BitVec 4 × State
  | 0, _ => (cOK, s)
  | n + 1, l =>
    match s.paWrite a origin (bytesBlock (l.take 64)) with
    | (c, s') => if c = cOK then s'.paWriteN (a + 64) origin n (l.drop 64) else (c, s)

/-- Replace `bs.length` bytes inside one block at a port address (a masked write, R84). -/
def State.paPatch (s : State) (a origin : Nat) (bs : List Byte) : BitVec 4 × State :=
  match s.paRead (a / 64 * 64) origin with
  | (c, b) => if c = cOK then s.paWrite (a / 64 * 64) origin (blkPut b (a % 64) bs.length (leNat bs)) else (c, s)

/-! ### Free values -/

/-- The next free 32-bit value (log 6), and the state that has used it. -/
def State.takeFree (s : State) : Word × State := (Config.freeWord s.free, { s with free := s.free + 1 })

end Sys2Proof.Machine
end

