-- ==== Sys2Proof/Machine/Flags.lean ====
section
/-! DEFINITION. Flags and reports: fault words and error lines, counters, the error log, the Tack Table and its generation,
interrupt and fault outputs, and the MGMT cycle. -/

namespace Sys2Proof.Machine

/-! ### The elapsed counter (R18) -/

/-- The change of the Tack Table that waits is written: its entries take the next generation, and busy clears with the last
(R36). -/
def State.tackStep (s : State) : State :=
  match s.tack.pend with
  | [] => s
  | us :: rest =>
    let g := s.tack.gen + 1
    let s := us.foldl (fun s u => s.onFr u fun f => { f with egen := g }) s
    { s with tack := { s.tack with gen := g, changed := true, pend := rest, busy := !rest.isEmpty } }

/-- One MGMT cycle: a change of the Tack Table that waits is committed, and the elapsed counter advances at every 400th (R18, R36,
log 1). -/
def mgmtCycle (s : State) : State :=
  let s := s.tackStep
  if s.mgmt.sub + 1 < 400 then { s with mgmt := { s.mgmt with sub := s.mgmt.sub + 1 } }
  else { s with mgmt := { s.mgmt with sub := 0, elapsed := s.mgmt.elapsed + 1 } }

/-! ### Event counters (R424-R430) -/

/-- The event code is listed for the type (R431), and whether it carries a class. -/
def evInfo (ty code : Nat) : Option Bool :=
  let upTo := fun (n : Nat) (c : List Nat) => if 1 ≤ code && code ≤ n then some (c.contains code) else none
  match ty with
  | 1 | 2 | 3 | 4 => upTo 1 []
  | 5 => upTo 0x13 [1, 2, 0xA, 0xE, 0xF]
  | 6 => upTo 7 []
  | 7 => upTo 9 [7]
  | 8 => upTo 7 []
  | 9 => upTo 3 [1, 2]
  | 10 => upTo 5 []
  | 11 => upTo 6 [3, 4, 5]
  | 12 => upTo 3 [1]
  | 13 => upTo 2 []
  | 14 => upTo 1 []
  | 15 => upTo 5 [1, 2, 3]
  | 16 => upTo 3 []
  | _ => none

/-- A unit of type ty lies beneath a frame of type f (R425). -/
def hasBeneath (f ty : Nat) : Bool :=
  match f with
  | 1 => 2 ≤ ty && ty ≤ 16
  | 2 => 3 ≤ ty && ty ≤ 12
  | 3 => 4 ≤ ty && ty ≤ 8
  | 4 => 5 ≤ ty && ty ≤ 8
  | _ => false

/-- R425: the selection word is bad in the frame of unit f. -/
def selBad (f : UnitId) (w : Word) : Bool :=
  let n := w.toNat
  let ev := bits n 0 8
  let ty := bits n 8 8
  if ev = 0 then false
  else match evInfo ty ev with
  | none => true
  | some hasC =>
    (bitN n 28 && !hasC) ||
    (match bits n 20 2 with
     | 0 => ty != f.ty
     | 1 => match f.kids[bits n 16 4]? with
            | none => true
            | some k => k.ty != ty
     | 2 => !hasBeneath f.ty ty
     | _ => true)

/-- The selection word of frame f selects event code of unit u (R425). -/
def selHits (f u : UnitId) (w : Word) (code : Nat) : Bool :=
  let n := w.toNat
  bits n 0 8 == code && code != 0 && bits n 8 8 == u.ty && !selBad f w &&
  (match bits n 20 2 with
   | 0 => f == u
   | 1 => u.parent == some f && u.ordinal == bits n 16 4
   | _ => f != u)

/-- Add to counter n of a bank, with the overflow and sample rules of R428 and R429. -/
def cntAdd (c : Cnt) (n amt : Nat) (t : Dword) (src : Nat) (x0 x1 : Word) : Cnt :=
  let v := (c.val.getD n 0).toNat + amt
  let c' := { c with val := upd c.val n fun _ => BitVec.ofNat 64 v }
  if v < 2 ^ 64 then c'
  else
    let c' := { c' with ovf := c'.ovf ||| ((1 : BitVec 8) <<< n) }
    if bitN (c.sel.getD n 0).toNat 29 then
      if c.smpValid then { c' with smpLost := true }
      else { c' with smpValid := true, smpCnt := BitVec.ofNat 3 n, smpTime := t, smpSrc := BitVec.ofNat 16 src,
                     smpCtx0 := x0, smpCtx1 := x1 }
    else c'

/-- The unit's events count now (R426, R416): not FENCED, GATED or RESETTING, and not in a self-test slice. -/
def State.counts (s : State) (u : UnitId) : Bool :=
  match (s.fr u).st with
  | .fenced | .gated | .resetting => false
  | _ => !(s.seq.bist.phase != 0 && s.seq.bist.entry == u.idx)

/-- The counters of frame f in a cycle with an event of unit u. `amt` gives, for the class a selection names or for none,
the occurrences of a kind E event or 1 at a rise, and whether the cycle counts (R424, R425). -/
def cntFrame (c : Cnt) (f u : UnitId) (code : Nat) (amt : Option Nat → Nat × Nat) (t : Dword) (x0 x1 : Word) : Cnt :=
  (List.range 8).foldl (fun c n =>
    let w := c.sel.getD n 0
    if selHits f u w code then
      let a := amt (if bitN w.toNat 28 then some (bits w.toNat 24 4) else none)
      let k := if bitN w.toNat 22 then a.2 else a.1
      if k = 0 then c else cntAdd c n k t u.idx x0 x1
    else c) c

/-- Count an event in the unit's own frame and every group frame above it (R424). -/
def State.countX (s : State) (u : UnitId) (code : Nat) (amt : Option Nat → Nat × Nat) (x0 x1 : Word) : State :=
  if s.counts u then
    u.path.foldl (fun s f =>
      if (s.fr f).cntFreeze || (s.fr f).st == .resetting || (s.cnt f.idx).sel.all (· == 0) then s
      else s.onCnt f.idx fun c => cntFrame c f u code amt s.mgmt.elapsed x0 x1) s
  else s

/-- A sample may be taken of event code of unit u (R429). -/
def State.sampled (s : State) (u : UnitId) (code : Nat) : Bool :=
  u.path.any fun f => (s.cnt f.idx).sel.any fun w => selHits f u w code && bitN w.toNat 29

/-- Whether the samples of a unit type hold context words ctx0, ctx1 (R432). -/
def ctxWords (ty : Nat) : Bool × Bool :=
  (ty == 5 || ty == 6 || ty == 7 || ty == 8 || ty == 9 || ty == 10 || ty == 11 || ty == 12 || ty == 15,
   ty == 5 || ty == 7 || ty == 8 || ty == 9 || ty == 10 || ty == 12 || ty == 15)

/-- n occurrences of a kind E event in one cycle, carrying class cls. A context word that the spec gives the type but not for
this event is a free value (log 6). -/
def State.count (s : State) (u : UnitId) (code : Nat) (cls : Option Nat := none) (n : Nat := 1) (x0 x1 : Option Word := none) : State :=
  if n = 0 then s
  else
    let has := ctxWords u.ty
    let open' := s.sampled u code && ((has.1 && x0.isNone) || (has.2 && x1.isNone))
    let w0 := x0.getD (if has.1 then Config.freeWord s.free else 0)
    let w1 := x1.getD (if has.2 then Config.freeWord (s.free + 1) else 0)
    let s := if open' then { s with free := s.free + 2 } else s
    s.countX u code (fun k => if k = none || k = cls then (n, 1) else (0, 0)) w0 w1

/-- n occurrences of an event of Awl p, with the context words of R432. -/
def State.countAwl (s : State) (p code : Nat) (cls : Option Nat := none) (n : Nat := 1) : State :=
  let a := s.awl p
  let x1 : Option Word := a.part.map fun q => fields [(q.node, 0), (q.slot, 16), (q.sec, 24), (q.part, 28)]
  s.count (.awl p) code cls n (fields [(a.pc % 2 ^ 15, 0), (a.routine.toNat, 16)]) x1

/-- One cycle of a kind L condition: held now, held in the cycle before. -/
def State.countL (s : State) (u : UnitId) (code : Nat) (now prev : Bool) : State :=
  if now then s.countX u code (fun _ => (b2n !prev, 1)) 0 0 else s

/-- One cycle of a kind L condition by class: bit c for class c. -/
def State.countLC (s : State) (u : UnitId) (code : Nat) (now prev : BitVec 16) : State :=
  if now = 0 then s
  else s.countX u code (fun k => match k with
    | some c => (b2n (now.getLsbD c && !prev.getLsbD c), b2n (now.getLsbD c))
    | none => (b2n (prev == 0), 1)) 0 0

/-! ### Fault words and error lines (R30-R32, R385-R390) -/

/-- Class of a source of a leaf frame (R71, R169, R204, R230, R232, R301, R341, R384, R390); none where reserved. -/
def srcClass (ty bit : Nat) : Option Cls3 :=
  match ty with
  | 5 => if bit = 0 then some .corr else if bit < 7 then some .cont else none
  | 6 => if bit = 0 || bit = 1 || bit = 3 then some .corr else if bit < 7 then some .cont else none
  | 7 => if bit < 2 then some .corr else if bit < 5 then some .cont else none
  | 8 => if bit < 3 then some .corr else none
  | 9 => if bit < 2 then some .cont else none
  | 10 => if bit < 3 then some .cont else none
  | 11 => if bit < 2 then some .cont else none
  | 12 => if bit < 5 then some .cont else none
  | 13 => if bit < 2 then some .corr else none
  | 14 => if bit = 3 then some .cont else if bit < 5 then some .corr else none
  | 15 => if bit < 2 then some .cont else if bit = 2 then some .corr else none
  | 16 => if bit = 0 then some .cont else if bit < 3 then some .fatal else none
  | _ => none

/-- Source bits of a leaf type that carry a class. -/
def clsMask (ty : Nat) (k : Cls3) : BitVec 16 :=
  (List.range 16).foldl (fun m i => if srcClass ty i = some k then m ||| ((1 : BitVec 16) <<< i) else m) 0

/-- The set source bits of a frame that carry class k. -/
def State.srcOf (s : State) (u : UnitId) (k : Cls3) : BitVec 16 :=
  let f := s.fr u
  if u.isGroup then
    f.src &&& (match k with | .corr => f.clsCorr | .cont => f.clsCont | .fatal => f.clsFatal)
  else f.src &&& clsMask u.ty k

/-- The unit's error line carries class k: an unmasked set source of it, and the unit is not RESETTING (R31, R386, R398). -/
def State.line (s : State) (u : UnitId) (k : Cls3) : Bool :=
  (s.fr u).st != .resetting && (s.srcOf u k &&& ~~~(s.fr u).mask) != 0

/-- Latch source i of a group frame with class k (R386); a masked source does not latch (R32), nor one of a RESETTING
unit. -/
def State.latch (s : State) (g : UnitId) (i : Nat) (k : Cls3) : State :=
  let f := s.fr g
  if f.mask.getLsbD i || f.st == .resetting then s
  else
    let m : BitVec 16 := 1 <<< i
    let s' := s.onFr g fun f =>
      { f with
        src := f.src ||| m
        clsCorr := if k = .corr then f.clsCorr ||| m else f.clsCorr
        clsCont := if k = .cont then f.clsCont ||| m else f.clsCont
        clsFatal := if k = .fatal then f.clsFatal ||| m else f.clsFatal }
    if f.src.getLsbD i then s' else s'.count g 0x01

/-- The parent of u latches what u's line carries (R386). -/
def State.latchUp (s : State) (u : UnitId) : State :=
  match u.parent with
  | none => s
  | some g =>
    [Cls3.corr, Cls3.cont, Cls3.fatal].foldl (fun s k => if s.line u k then s.latch g u.ordinal k else s) s

/-- The frames above u latch its line, up to the array (R386). -/
def State.collect (s : State) (u : UnitId) : State := u.path.foldl State.latchUp s

/-- A leaf source reports: it latches unless masked or held in reset, and its line rises (R32, R385, R403). -/
def State.report (s : State) (u : UnitId) (bit : Nat) : State :=
  let f := s.fr u
  if f.st == .resetting || f.mask.getLsbD bit then s
  else (s.onFr u fun f => { f with src := f.src ||| ((1 : BitVec 16) <<< bit) }).collect u

/-- Clear source bits of a frame; a group bit whose child's line is still high latches again (R31, R386). -/
def State.clearSrc (s : State) (u : UnitId) (m : BitVec 16) : State :=
  let s := s.onFr u fun f =>
    { f with src := f.src &&& ~~~m, clsCorr := f.clsCorr &&& ~~~m, clsCont := f.clsCont &&& ~~~m,
             clsFatal := f.clsFatal &&& ~~~m }
  u.kids.foldl (fun s k => if m.getLsbD k.ordinal then s.latchUp k else s) s

/-- FAULT_WORD (R30). -/
def State.faultWord (s : State) (u : UnitId) : Word :=
  let f := s.fr u
  fields [(f.src.toNat, 0), (b2n (s.srcOf u .corr != 0), 16), (b2n (s.srcOf u .cont != 0), 17),
    (b2n (s.srcOf u .fatal != 0), 18), (b2n f.self, 30), (b2n f.ambig, 31)]

/-- An armed source that fires at its check (R405, R406): the arm clears, INJ_FIRED sets, and a real fault met with it is
ambiguous. Answers whether it fired. -/
def State.fire (s : State) (u : UnitId) (bit : Nat) (real : Bool) : Bool × State :=
  let f := s.fr u
  let inSlice := s.seq.bist.phase != 0 && s.seq.bist.entry == u.idx
  if f.inj.getLsbD bit && !inSlice && f.st != .resetting then
    (true, s.onFr u fun f =>
      { f with inj := f.inj &&& ~~~((1 : BitVec 16) <<< bit), fired := f.fired ||| ((1 : BitVec 16) <<< bit), ambig := f.ambig || real })
  else (false, s)

/-! ### The error log (R247-R249) -/

/-- The sequence number after w (R248). -/
def seqNext (w : Word) : Word := if w = 0xFFFFFFFF then 1 else w + 1

/-- What an entry of the error log says besides its number and time (R249). -/
structure LogRec where
  kind : Nat
  source : Nat
  phys : Nat
  hide : Nat := 0
  bank : Nat := 0
  blocks : Nat := 0
  row : Nat := 0
  col : Nat := 0
  most : Nat := 0
  req : Nat := 0
  off : Nat := 0
  syms : List Nat := []
  count : Nat := 0
deriving DecidableEq, Repr, Inhabited

/-- The 8 words of an entry (R249). -/
def State.logWords (s : State) (r : LogRec) : List Word :=
  let t := s.mgmt.elapsed.toNat
  let l := s.lchOf r.phys
  [s.mgmt.elogNext, BitVec.ofNat 32 t, BitVec.ofNat 32 (t / 2 ^ 32),
   fields [(r.kind, 0), (r.source, 4), (r.phys, 8), (r.hide, 16), (r.bank, 19), (min r.blocks 255, 24)],
   fields [(r.row, 0), (r.col, 14), (r.most, 18), (r.req, 20)],
   BitVec.ofNat 32 (r.off / 64),
   fields ((List.range 3).flatMap fun i =>
     match r.syms[i]? with
     | some y => [(y, 8 * i), (1, 8 * i + 7)]
     | none => []),
   fields [(min r.count 0xFFFF, 0), (l.getD 0, 16), (b2n l.isSome, 23)]]

/-- Offer an entry to the log: admitted while fewer than 960 (kind CE) or 1,024 are held, else counted lost (R248). -/
def State.log (s : State) (r : LogRec) : State :=
  let m := s.mgmt
  if m.elog.length < (if r.kind = 1 then 960 else 1024) then
    let s' := { s with mgmt := { m with
      elog := m.elog ++ [s.logWords r], elogNext := seqNext m.elogNext,
      elogEv := m.elogEv ||| (if r.kind = 2 then 5 else 1) } }
    s'.count .mgmt 0x02
  else if r.kind = 1 then
    { s with mgmt := { m with lostCe := if m.lostCe = 0xFFFF then m.lostCe else m.lostCe + 1, elogEv := m.elogEv ||| 2 } }
  else
    { s with mgmt := { m with
      lostOther := if m.lostOther = 0xFFFF then m.lostOther else m.lostOther + 1, elogEv := m.elogEv ||| 2 } }

/-! ### The Tack Table (R35-R44) -/

/-- Channel of a channel-level unit. -/
def chanOfUnit : UnitId → Option Nat
  | .channel p | .ctl p | .link p | .awl p | .currier p => some p
  | _ => none

/-- The spare substitutes (R40). -/
def State.substituting (s : State) (x : Nat) : Bool := (s.sec x).sp == .substituting

/-- A unit beneath u is fenced. -/
def State.anyFencedBelow (s : State) (u : UnitId) : Bool :=
  if u = .array then s.frames.any (·.fenced) else u.subtree.tail.any fun v => s.isFenced v

/-- Condition word of a unit (R40). A spare that is fenced before it has substituted shows fenced and not standby (log 29). -/
def State.cond (s : State) (u : UnitId) : Word :=
  let f := s.isFenced u
  let ch := chanOfUnit u
  let isSp := match ch with | some p => posOf p == 16 | none => false
  let sub := isSp && s.substituting (secOf (ch.getD 0))
  let standby := isSp && !sub && !f
  let hole := match u with
    | .channel p => posOf p < 16 && (s.sec (secOf p)).hole.getLsbD (posOf p)
    | _ => false
  let frozen := match u with | .ctl p => (s.ctl p).frozen | _ => false
  let carried := match u with | .awl p => (s.awl p).carriedBy.isSome | _ => false
  fields [(b2n (!f && !standby), 0), (b2n f, 1), (b2n standby, 2), (b2n (sub && !f), 3), (b2n hole, 4), (b2n frozen, 5),
    (b2n ((!f && u.isGroup && s.anyFencedBelow u) || carried), 6)]

/-- MiB a channel serves. -/
def State.mibServed (s : State) (p : Nat) : Nat := if (s.lchOf p).isSome then 192 * s.hides else 0

/-- Unused spare rows of a bank (R250). -/
def spareLeft (c : Ctl) (hide bank : Nat) : Nat :=
  64 - (c.remaps.filter fun m => m.hide == hide && m.bank == bank).length

/-- Fewest spare rows left in any bank of channel p (R41). -/
def State.fewestSpare (s : State) (p : Nat) : Nat :=
  (s.ctl p).remaps.foldl (fun a m => min a (spareLeft (s.ctl p) m.hide m.bank)) 64

/-- The Awl that does the work of Awl p: itself, its carrier, its channel's spare's, or the carrier of that one (R41, R393). A
standby spare's Awl names itself; where no Awl does the work the word holds the if-none value 0xFFFF (log 29). -/
def State.awlDoing (s : State) (p : Nat) : Option Nat :=
  let own := fun (q : Nat) => match (s.awl q).carriedBy with
    | some r => some r
    | none => if s.isFenced (.awl q) then none else some q
  match (s.awl p).carriedBy with
  | some q => some q
  | none =>
    if posOf p < 16 && (s.sec (secOf p)).serve == some (posOf p) && s.substituting (secOf p) then own (spareOf (secOf p)) else own p

/-- Bitmap of groups from first to first + n - 1 whose spare lane is not parked. -/
def Link.unparked (l : Link) (first n : Nat) : Nat :=
  (List.range n).foldl (fun a i => if (l.grps.getD (first + i) {}).parked then a else a + 2 ^ i) 0

/-- Capability words of a unit (R41). -/
def State.caps (s : State) (u : UnitId) : List Word :=
  let w := fun (n : Nat) => BitVec.ofNat 32 n
  match u with
  | .array =>
    let holes := (List.range 8).foldl (fun a x => a + (if (s.sec x).off then 16 else
      ((List.range 16).filter fun i => (s.sec x).hole.getLsbD i).length)) 0
    [fields [(s.hides, 0), (8, 4), (17, 12)], w (24576 * s.hides), w (24576 * s.hides - holes * 192 * s.hides),
     w (s.grans * 128), fields [(128, 0), (128, 16)], s.build]
  | .sector x =>
    let served := ((List.range 16).filter fun i => (s.serving (16 * x + i)).isSome).length
    let e := s.sec x
    [fields [(x, 0), (served, 4), (b2n ((e.sp == .standby || e.sp == .copy || e.sp == .flip) && !e.off), 9),
      (b2n (e.hole != 0 || e.off), 10)]]
  | .quad x q =>
    let ps := (List.range 4).map fun c => 4 * q + c
    [fields [(q, 0), ((ps.filter fun i => (s.serving (16 * x + i)).isSome).length, 4),
      ((ps.filter fun i => !s.chFenced (17 * x + i)).length, 8)]]
  | .channel p =>
    let l := s.lchOf p
    let pn := l.bind s.portOf
    let x := secOf p
    let srv := if posOf p < 16 then (s.serving (16 * x + posOf p)).map chanIdx else if l.isSome then some (chanIdx p) else none
    let place := if posOf p = 16 then (s.sec x).serve.map fun i => chanIdx (17 * x + i) else none
    [fields [(p, 0), (l.getD 0, 8), (b2n l.isSome, 15), (pn.getD 0, 16), (b2n pn.isSome, 24)],
     fields [(srv.getD 0xFFFF, 0), (place.getD 0xFFFF, 16)],
     w (s.mibServed p), w 102400, w 102400, fields [(s.hides, 0), (16, 8), (64, 16)],
     fields [(s.fewestSpare p, 0), ((s.ctl p).lent.length, 16)]]
  | .ctl _ => [w 256, w 0x7FF, w s.grans]
  | .link p =>
    let l := s.link p
    [fields [(9, 0), (9, 8), (16, 16), (24, 24)], fields [(l.unparked 0 9, 0), (l.unparked 9 9, 16)],
     fields [(l.unparked 18 2, 0), (6400, 16)]]
  | .awl p =>
    [fields [(256, 0), (1600, 16)], w 0x1FF, fields [(256, 0), (32, 16)],
     fields [(((s.awlDoing p).map fun q => leafIdx q 2).getD 0xFFFF, 0),
       (((s.awl p).carries.map fun q => leafIdx q 2).getD 0xFFFF, 16)], w 1]
  | .currier _ => [fields [(8, 0), (8, 8)]]
  | .pool _ => [w 32768, fields [(512, 0), (128, 16)]]
  | .network _ => [w 17, w 51200, w 25600]
  | .harness _ => [fields [(64, 0), (4096, 16)]]
  | .movers x =>
    [fields [(4, 0), ((List.range 4).foldl (fun a m => if ((s.mov x).ch.getD m {}).st = 2 then a else a + 2 ^ m) 0, 4)],
     w 25600]
  | .mgmt => [w 400]
  | .pageDir => [w 2097152, w 16, w 16777216, w 0x0FD]
  | .loader | .currierSeq => []

/-- FRAME_ID (R26). -/
def unitIdWord (u : UnitId) : Word := fields [(u.ty, 0), (u.path.length - 1, 8), (1, 12), (u.inst, 16)]

/-- The entry of a unit, 16 words (R38). -/
def State.tackEntry (s : State) (u : UnitId) : List Word :=
  let kids := u.kids
  [unitIdWord u, BitVec.ofNat 32 (u.idx * 4096),
   fields [(match u.parent with | none => 0xFFFF | some g => g.idx, 0), (kids.length, 16), (b2n u.canReset, 24),
     (b2n u.canQuiesce, 25)],
   fields [(match kids with | [] => 0xFFFF | k :: _ => k.idx, 0), (u.ordinal, 16)],
   s.cond u, (s.fr u).egen.zeroExtend 32] ++ (s.caps u ++ List.replicate 10 0).take 10

/-- The live part of an entry: what a generation reports (R43). -/
def State.live (s : State) (u : UnitId) : List Word := s.cond u :: s.caps u

/-- The change from s0 to s is to be committed in one generation: TACK_GEN.busy sets, and the entries among us and above them
that differ take the new generation when the change has been written (R36, R43). Before RUNNING the table is still being built;
a RESETTING unit's change waits for its reset. -/
def State.commit (s s0 : State) (us : List UnitId) : State :=
  let cand := (us.flatMap UnitId.path).eraseDups
  let ch := cand.filter fun u => s0.live u != s.live u
  if ch.isEmpty || !s.isRunning then s
  else { s with tack := { s.tack with busy := true, pend := s.tack.pend ++ [ch] } }

/-- TACK_GEN (R35): busy reads 1 until the first build completes (R36). -/
def State.tackGen (s : State) : Word := fields [(b2n s.tack.busy, 0), (s.tack.gen.toNat, 1)]

/-! ### Privileges (R67) -/

/-- Privileges of the lifecycle state. -/
def privState (lc : BitVec 3) : BitVec 7 :=
  match lc.toNat with
  | 1 => 0x7F
  | 2 => 0x3E
  | 3 => 0x2E
  | 4 => 0x7F
  | _ => 0

/-- Effective privileges: the state's AND the image's mask. -/
def State.priv (s : State) : BitVec 7 := privState s.boot.lcState &&& (match s.image with | some i => i.priv | none => 0x7F)

/-- A privilege is in effect. -/
def State.has (s : State) (bit : Nat) : Bool := s.priv.getLsbD bit

/-! ### Interrupt, fault and throttle outputs (R387, R388, R455-R457) -/

/-- An enabled counter overflow of the frame of u (R428). -/
def State.ovfIrq (s : State) (u : UnitId) : Bool :=
  let c := s.cnt u.idx
  (List.range 8).any fun n => c.ovf.getLsbD n && bitN (c.sel.getD n 0).toNat 23

/-- FLT_IRQ_EN of a frame meets its class bits (R388). -/
def State.fltIrq (s : State) (u : UnitId) : Bool :=
  let e := (s.fr u).fltIrqEn
  (e.getLsbD 0 && s.srcOf u .corr != 0) || (e.getLsbD 1 && s.srcOf u .cont != 0) || (e.getLsbD 2 && s.srcOf u .fatal != 0)

/-- Channel-level causes of IRQ_SEC. -/
def State.chanIrq (s : State) (p : Nat) : Bool :=
  let c := s.ctl p
  let l := s.link p
  let a := s.awl p
  (c.misb &&& c.misbEn != 0) || (c.regShort && c.regShortEn) || (c.rhEvent && c.rhEn) || (c.ordEvent && c.ordEn) ||
  (c.eccEv &&& c.eccEn != 0) || (c.retDone && c.retIrqEn) || (l.calEv &&& l.calEn != 0) || (a.trapEv && a.trapEn) ||
  (a.attEv &&& a.attEn != 0)

/-- IRQ_SEC of sector x. -/
def State.irqSec (s : State) (x : Nat) : Bool :=
  (List.range 17).any (fun i => s.chanIrq (17 * x + i)) ||
  ((s.sec x).done && (s.sec x).irqEn) || s.fltIrq (.sector x) || ((s.pool x).event && (s.pool x).eventEn) ||
  ((s.har x).ev &&& (s.har x).evEn != 0) || (UnitId.sector x).subtree.any s.ovfIrq

/-- IRQ_MGMT. -/
def State.irqMgmt (s : State) : Bool :=
  (s.tack.changed && s.tack.irqEn) || (s.seq.thermEv &&& s.seq.thermEn != 0) || (s.seq.range.done && s.seq.range.irqEn) ||
  (s.mgmt.elogEv &&& s.mgmt.elogEn != 0) || (s.pd.ev &&& s.pd.evEn != 0) || (s.seq.bist.ev &&& s.seq.bist.en != 0) ||
  (s.seq.tel.ev &&& s.seq.tel.en != 0) || (s.mgmt.clkMoved && s.mgmt.clkMovedEn) || s.fltIrq .array ||
  [UnitId.array, .mgmt, .loader, .pageDir, .currierSeq].any s.ovfIrq

/-- FLT_CORR. -/
def State.fltCorr (s : State) : Bool := s.srcOf .array .corr != 0
/-- FLT_CONT. -/
def State.fltCont (s : State) : Bool := s.srcOf .array .cont != 0
/-- FLT_FATAL. -/
def State.fltFatal (s : State) : Bool :=
  s.srcOf .array .fatal != 0 || s.safe.on || s.seq.therm == .emergency

/-- THR_LVL_Sx: 7 until the first governor round, in the safe state, for a fenced sector and from STOPPING on (R221, R404,
R454). -/
def State.thrLvl (s : State) (x : Nat) : Nat :=
  if !s.seq.rounded || s.safe.on || (s.sec x).off || s.isFenced (.sector x) || s.seq.therm == .stopping ||
      s.seq.therm == .stopped || s.seq.therm == .emergency then 7
  else s.seq.level.getD x 0

/-- CE of a queue is a poisoned granule: log it (R237, R249). -/
def State.logPoison (s : State) (p g source req count : Nat) : State :=
  let q := g % s.hides
  let s := s.log { kind := 3, source := source, phys := p, hide := q, row := g / s.hides, req := req, off := g * 16384,
                   count := count }
  s.onCtl p fun c => { c with eccEv := c.eccEv ||| 4 }

end Sys2Proof.Machine
end

