-- ==== Sys2Proof/Machine/Float.lean ====
section
/-! DEFINITION. Floating-point and element formats: values are exact numbers, rounded once to nearest even (R160, R343-R347,
R364, R377). -/

namespace Sys2Proof.Machine

/-- A floating-point value: NaN, an infinity, or (-1)^neg x m x 2^e. -/
inductive FV where
  | nan
  | inf (neg : Bool)
  | fin (neg : Bool) (m : Nat) (e : Int)
deriving DecidableEq, Repr, Inhabited

/-- A binary format: exponent bits, mantissa bits, bias, and whether its top exponent field holds infinities and NaNs. -/
structure FFmt where
  eb : Nat
  mb : Nat
  bias : Int
  ieee : Bool

/-- binary32. -/
def f32 : FFmt := ⟨8, 23, 127, true⟩
/-- bf16. -/
def bf16 : FFmt := ⟨8, 7, 127, true⟩
/-- FP8 E4M3: no infinity, 0x7F and 0xFF NaN. -/
def e4m3 : FFmt := ⟨4, 3, 7, false⟩
/-- FP8 E5M2. -/
def e5m2 : FFmt := ⟨5, 2, 15, true⟩
/-- FP4 E2M1. -/
def e2m1 : FFmt := ⟨2, 1, 1, false⟩

/-- The value of a word of a format (R343). -/
def fDec (f : FFmt) (w : Nat) : FV :=
  let m := w % 2 ^ f.mb
  let e := w / 2 ^ f.mb % 2 ^ f.eb
  let s := w / 2 ^ (f.mb + f.eb) % 2 == 1
  if f.ieee && e == 2 ^ f.eb - 1 then (if m = 0 then .inf s else .nan)
  else if !f.ieee && f.eb == 4 && e == 15 && m == 7 then .nan
  else if e = 0 then .fin s m (1 - f.bias - f.mb)
  else .fin s (m + 2 ^ f.mb) (e - f.bias - f.mb)

/-- m x 2^e rounded to nearest even at lsb weight 2^t or above it. -/
def rndShift (m : Nat) (sh : Nat) : Nat :=
  let q := m / 2 ^ sh
  let r := m % 2 ^ sh * 2
  if 2 ^ sh < r || (r = 2 ^ sh && q % 2 = 1) then q + 1 else q

/-- Magnitude bits of m x 2^e in a format, rounded to nearest even; it may exceed the largest finite code. -/
def fMag (f : FFmt) (m : Nat) (e : Int) : Nat :=
  if m = 0 then 0
  else
    let lo : Int := 1 - f.bias - f.mb
    let t : Int := max (e + (Nat.log2 m : Int) - f.mb) lo
    let q := if t ≤ e then m * 2 ^ (e - t).toNat else rndShift m (t - e).toNat
    (t - lo).toNat * 2 ^ f.mb + q

/-- The word of a value in an IEEE format: overflow to infinity, canonical quiet NaN (R160, R345). -/
def fEnc (f : FFmt) (v : FV) : Nat :=
  let top := (2 ^ f.eb - 1) * 2 ^ f.mb
  let sg := fun (s : Bool) (n : Nat) => if s then n + 2 ^ (f.mb + f.eb) else n
  match v with
  | .nan => top + 2 ^ (f.mb - 1)
  | .inf s => sg s top
  | .fin s m e => sg s (min (fMag f m e) top)

/-- The fp32 word of a value. -/
def enc32 (v : FV) : Word := BitVec.ofNat 32 (fEnc f32 v)
/-- The value of an fp32 word. -/
def dec32 (w : Word) : FV := fDec f32 w.toNat

/-- Exact sum; opposite infinities give NaN; a zero sum is +0 unless both are -0. -/
def fAdd : FV → FV → FV
  | .nan, _ => .nan
  | _, .nan => .nan
  | .inf a, .inf b => if a = b then .inf a else .nan
  | .inf a, _ => .inf a
  | _, .inf b => .inf b
  | .fin sa ma ea, .fin sb mb eb =>
    let e := min ea eb
    let a : Int := (if sa then -1 else 1) * (ma * 2 ^ (ea - e).toNat : Nat)
    let b : Int := (if sb then -1 else 1) * (mb * 2 ^ (eb - e).toNat : Nat)
    let c := a + b
    if c = 0 then .fin (sa && sb) 0 0 else .fin (c < 0) c.natAbs e

/-- The negated value. -/
def fNeg : FV → FV
  | .nan => .nan
  | .inf a => .inf !a
  | .fin s m e => .fin (!s) m e

/-- Exact product. -/
def fMul : FV → FV → FV
  | .nan, _ => .nan
  | _, .nan => .nan
  | .inf a, .inf b => .inf (a != b)
  | .inf a, .fin s m _ => if m = 0 then .nan else .inf (a != s)
  | .fin s m _, .inf a => if m = 0 then .nan else .inf (a != s)
  | .fin sa ma ea, .fin sb mb eb => .fin (sa != sb) (ma * mb) (ea + eb)

/-- Quotient with enough bits and a sticky bit below them, so that one rounding gives the IEEE result. -/
def fDiv : FV → FV → FV
  | .nan, _ => .nan
  | _, .nan => .nan
  | .inf _, .inf _ => .nan
  | .inf a, .fin s _ _ => .inf (a != s)
  | .fin s _ _, .inf a => .fin (a != s) 0 0
  | .fin sa ma ea, .fin sb mb eb =>
    if mb = 0 then (if ma = 0 then .nan else .inf (sa != sb))
    else
      let n := ma * 2 ^ 64
      let q := n / mb
      .fin (sa != sb) (2 * q + (if n % mb = 0 then 0 else 1)) (ea - eb - 65)

/-- a < b as numbers; false with a NaN. -/
def fLt : FV → FV → Bool
  | .nan, _ => false
  | _, .nan => false
  | .inf a, .inf b => a && !b
  | .inf a, _ => a
  | _, .inf b => !b
  | .fin sa ma ea, .fin sb mb eb =>
    let e := min ea eb
    let a : Int := (if sa then -1 else 1) * (ma * 2 ^ (ea - e).toNat : Nat)
    let b : Int := (if sb then -1 else 1) * (mb * 2 ^ (eb - e).toNat : Nat)
    a < b

/-- a = b as numbers; false with a NaN. -/
def fEq (a b : FV) : Bool := a != .nan && b != .nan && !fLt a b && !fLt b a

/-- fp32 sum, product, quotient and fused multiply-add of words, each rounded once (R364). -/
def add32 (a b : Word) : Word := enc32 (fAdd (dec32 a) (dec32 b))
/-- fp32 difference. -/
def sub32 (a b : Word) : Word := enc32 (fAdd (dec32 a) (fNeg (dec32 b)))
/-- fp32 product. -/
def mul32 (a b : Word) : Word := enc32 (fMul (dec32 a) (dec32 b))
/-- fp32 quotient. -/
def div32 (a b : Word) : Word := enc32 (fDiv (dec32 a) (dec32 b))
/-- a x b + c rounded once. -/
def fma32 (a b c : Word) : Word := enc32 (fAdd (fMul (dec32 a) (dec32 b)) (dec32 c))
/-- NaN word. -/
def nan32 : Word := 0x7FC00000
/-- The word is a NaN. -/
def isNan32 (w : Word) : Bool := dec32 w == .nan

/-- Keep b when strictly greater (or less) than a, else a; NaN if either is NaN (R373, R375). -/
def max32 (a b : Word) : Word :=
  if isNan32 a || isNan32 b then nan32 else if fLt (dec32 a) (dec32 b) then b else a
/-- The minimum under the same rule. -/
def min32 (a b : Word) : Word :=
  if isNan32 a || isNan32 b then nan32 else if fLt (dec32 b) (dec32 a) then b else a

/-- A signed integer rounded to fp32 (R373 ITOF). -/
def itof32 (i : Int) : Word := enc32 (.fin (i < 0) i.natAbs 0)

/-- fp32 to a signed 64-bit integer, toward zero, saturating; NaN gives 0 (R373 FTOI). -/
def ftoi32 (w : Word) : Int :=
  match dec32 w with
  | .nan => 0
  | .inf s => if s then -(2 ^ 63) else 2 ^ 63 - 1
  | .fin s m e =>
    let v : Int := ((if 0 ≤ e then m * 2 ^ e.toNat else m / 2 ^ (-e).toNat : Nat) : Int)
    if s then max (-v) (-(2 ^ 63)) else min v (2 ^ 63 - 1)

/-- The nearest integer to an fp32 value, ties to even. -/
def fNearInt : FV → Int
  | .fin s m e =>
    let v : Int := ((if 0 ≤ e then m * 2 ^ e.toNat else rndShift m (-e).toNat : Nat) : Int)
    if s then -v else v
  | _ => 0

/-- exp32 (R347). The constants are the fp32 words nearest to the decimals of the rule. -/
def exp32 (x : Word) : Word :=
  match dec32 x with
  | .nan => nan32
  | .inf true => 0
  | .inf false => 0x7F800000
  | v =>
    if fLt v (.fin true 104 0) then 0
    else if fLt (.fin false 88 0) v then 0x7F800000
    else
      let n := fNearInt (dec32 (mul32 x 0x3FB8AA3B))
      let nf := itof32 n
      let r := sub32 (sub32 x (mul32 nf 0x3F318000)) (mul32 nf 0xB95E8083)
      let z := mul32 r r
      let p := [0x3AB743CE, 0x3C088908, 0x3D2AA9C1, 0x3E2AAAAA, 0x3F000000].foldl (fun p c => fma32 p r c)
        (0x39506967 : Word)
      let y := add32 (fma32 p z r) 0x3F800000
      match dec32 y with
      | .fin s m e => if m ≠ 0 && (Nat.log2 m : Int) + e + n < -126 then 0 else enc32 (.fin s m (e + n))
      | w => enc32 w

/-! ### bf16 and the atomic operations on floats (R160) -/

/-- The bf16 word of a value. -/
def encB (v : FV) : Nat := fEnc bf16 v
/-- fp32 word to bf16 word, to nearest even. -/
def toB (w : Word) : Nat := encB (dec32 w)
/-- The exact sum of two bf16 words rounded once to bf16. -/
def addB (a b : Nat) : Nat := encB (fAdd (fDec bf16 a) (fDec bf16 b))

/-- Maximum (or minimum) of R160: -0 below +0, and with one NaN the other input. -/
def fMaxMin (f : FFmt) (mx : Bool) (a b : Nat) : Nat :=
  let va := fDec f a
  let vb := fDec f b
  let neg := fun (w : Nat) => w / 2 ^ (f.mb + f.eb) % 2 == 1
  if va = .nan then (if vb = .nan then fEnc f .nan else b)
  else if vb = .nan then a
  else
    let lt := fLt va vb || (fEq va vb && neg a && !neg b)
    if lt = mx then b else a

/-! ### Element formats (R372, R376, R377) -/

/-- Element size in bits of a fmt code of R372. -/
def fmtBits (fmt : Nat) : Nat := if fmt = 0 then 32 else if fmt = 1 then 16 else if fmt = 4 || fmt = 6 then 4 else 8

/-- The value of an element of a fmt code; integers decode to their value (R343, R376). -/
def elemDec (fmt w : Nat) : FV :=
  match fmt with
  | 0 => fDec f32 w
  | 1 => fDec bf16 w
  | 2 => fDec e4m3 w
  | 3 => fDec e5m2 w
  | 4 => fDec e2m1 w
  | 5 => if w < 128 then .fin false w 0 else .fin true (256 - w % 256) 0
  | _ => if w < 8 then .fin false w 0 else .fin true (16 - w % 16) 0

/-- The value of an E8M0 scale. -/
def e8m0 (w : Nat) : FV := if w = 255 then .nan else .fin false 1 ((w : Int) - 127)

/-- The word of a value in a small format without infinity: saturating at the largest code. -/
def encSat (f : FFmt) (top nan : Nat) (v : FV) : Nat :=
  let sg := fun (s : Bool) (n : Nat) => if s then n + 2 ^ (f.mb + f.eb) else n
  match v with
  | .nan => nan
  | .inf s => sg s top
  | .fin s m e => sg s (min (fMag f m e) top)

/-- Encode a value in a fmt code of R372 (R377). -/
def elemEnc (fmt : Nat) (v : FV) : Nat :=
  let int := fun (lim : Nat) => match v with
    | .nan => 0
    | .inf s => if s then lim else lim - 1
    | w =>
      let i := fNearInt w
      ((max (-(lim : Int)) (min i (lim - 1))) % (2 * lim : Nat)).toNat
  match fmt with
  | 0 => fEnc f32 v
  | 1 => fEnc bf16 v
  | 2 => encSat e4m3 0x7E 0x7F v
  | 3 => if v = .nan then 0x7F else fEnc e5m2 v
  | 4 => encSat e2m1 7 0 v
  | 5 => int 128
  | _ => int 8

/-! ### Dot products (R346) -/

/-- One level of the pairwise tree. -/
def pairSum : List Word → List Word
  | a :: b :: l => add32 a b :: pairSum l
  | l => l

/-- The balanced tree sum of 32 products. -/
def treeSum (l : List Word) : Word := (pairSum (pairSum (pairSum (pairSum (pairSum l))))).headD 0

/-- Chunks of n elements. -/
def chunks {α : Type} (n : Nat) (l : List α) : Nat → List (List α)
  | 0 => []
  | k + 1 => l.take n :: chunks n (l.drop n) k

/-- dot(a, x, d) of R346. -/
def dot32 (a x : List Word) : Word :=
  (chunks 32 (List.zipWith mul32 a x) (a.length / 32)).foldl (fun t c => add32 t (treeSum c)) 0

end Sys2Proof.Machine
end

