-- ==== Sys2Proof/Machine/Operands.lean ====
section
/-! DEFINITION. The operands of port requests: the port check, the codeword of a block, the judging of a write-channel
request's header and data, the memory-side arithmetic, and the call and result blocks. -/

namespace Sys2Proof.Machine

/-! ### The port check (R86) -/

/-- One bit through the CRC register. -/
def crcBit (c : Nat) : Nat := if 0x8000 ≤ c then (2 * c % 0x10000) ^^^ 0x8BB7 else 2 * c

/-- One byte, most significant bit first. -/
def crcByte (c b : Nat) : Nat :=
  crcBit (crcBit (crcBit (crcBit (crcBit (crcBit (crcBit (crcBit (c ^^^ (b * 256)))))))))

/-- CRC-16 of a block (R86). -/
def crc16 (b : Block) : BitVec 16 := BitVec.ofNat 16 ((blockBytes b).foldl (fun c x => crcByte c x.toNat) 0xFFFF)

/-- The beat passes the check its request asks for (R87). -/
def chkOk (en : Bool) (b : Beat) : Bool := !en || b.chk == crc16 b.data

/-! ### The channel code (R233) -/

/-- α times an element of GF(2^8), whose field polynomial is 0x11D. -/
def gfDouble (a : Nat) : Nat := if a < 128 then 2 * a else (2 * a) ^^^ 0x11D
/-- Product in GF(2^8). -/
def gfMul (a b : Nat) : Nat :=
  ((List.range 8).foldl (fun (r : Nat × Nat) i => (if bitN b i then r.1 ^^^ r.2 else r.1, gfDouble r.2)) (0, a)).1
/-- α^i. -/
def gfPow : Nat → Nat
  | 0 => 1
  | i + 1 => gfDouble (gfPow i)

/-- The generator g(x), the coefficient of x^8 first. -/
def rsGen : List Nat :=
  (List.range 8).foldl (fun g i => List.zipWith (· ^^^ ·) (g ++ [0]) (0 :: g.map (gfMul (gfPow i)))) [1]

/-- The check symbols of a data polynomial given from its highest coefficient: its remainder, times x^8, by g(x). -/
def rsCheck (data : List Nat) : List Nat :=
  data.foldl (fun r b => List.zipWith (· ^^^ ·) (r.tail ++ [0]) (rsGen.tail.map (gfMul (b ^^^ r.headD 0)))) (List.replicate 8 0)

/-- The 72-byte codeword of a block. -/
def codeword (d : Block) : List Nat :=
  let l := (blockBytes d).map (·.toNat)
  l ++ rsCheck l

/-- What the channel adds to symbol k of a burst. -/
def errAt (errs : SymErrs) (k : Nat) : Nat := errs.foldl (fun r e => if e.1 = k then r ^^^ e.2.toNat else r) 0

/-- The word received for a block, symbol by symbol. -/
def received (d : Block) (errs : SymErrs) : List Nat := (codeword d).zipIdx.map fun e => e.1 ^^^ errAt errs e.2

/-- Symbols of a received word that are not those of the block's codeword. -/
def symDiff (d : Block) (w : List Nat) : List Nat :=
  (List.range 72).filter fun k => w.getD k 0 != (codeword d).getD k 0

/-! ### Opcodes (R81) -/

/-- WRITE. -/
def opWrite : Nat := 0x01
/-- WRITE_MASKED. -/
def opMasked : Nat := 0x02
/-- ATOM_ADD. -/
def opAdd : Nat := 0x04
/-- ATOM_MAX. -/
def opMax : Nat := 0x05
/-- ATOM_MIN. -/
def opMin : Nat := 0x06
/-- ATOM_SWAP. -/
def opSwap : Nat := 0x07
/-- ATOM_CAS. -/
def opCas : Nat := 0x08
/-- REDUCE_ADD. -/
def opRed : Nat := 0x09
/-- REDUCE_ADD_ORD. -/
def opOrd : Nat := 0x0A
/-- PAGE_CALL. -/
def opPage : Nat := 0x10
/-- DOORBELL. -/
def opBell : Nat := 0x11

/-- An atomic. -/
def isAtomic (op : Nat) : Bool := 4 ≤ op && op ≤ 8
/-- Answered on the data channel (R81): reads, page calls, atomics with ret, and every compare-and-swap. -/
def onData (op arg : Nat) : Bool := op = 0 || op == opPage || op == opCas || (isAtomic op && bitN arg 8)

/-- off of an atomic's argument (R82). -/
def atOff (arg : Nat) : Nat := bits arg 0 6
/-- type of an atomic's argument. -/
def atType (arg : Nat) : Nat := bits arg 6 2
/-- Operand bytes of an atomic (R82). -/
def atSize (arg : Nat) : Nat := if atType arg = 1 then 8 else 4

/-- The argument of an operation is refused (R82). -/
def argBad (op arg : Nat) : Bool :=
  if isAtomic op then
    9 ≤ Nat.log2 arg || atOff arg % atSize arg != 0 || (op == opCas && (atType arg != 1 || !bitN arg 8))
  else if op = opRed then 2 ≤ arg
  else if op = opOrd then bits arg 1 7 != 0 || bits arg 16 8 < bits arg 8 8
  else arg != 0

/-- A burst of len + 1 blocks from port block address addr crosses a 2 KiB boundary (R73). -/
def crosses (addr len : Nat) : Bool := 32 < addr % 32 + len + 1

/-- The value of spN_wq_op is one of R81's. -/
def opKnown (op : BitVec 5) : Bool := [0x01, 0x02, 0x04, 0x05, 0x06, 0x07, 0x08, 0x09, 0x0A, 0x10, 0x11].contains op.toNat

/-- Step 1 of R465 fails: the header fields of a request of a port whose logical channel is l, the opcode first. -/
def State.hdrBad (s : State) (l op : Nat) (h : WHdr) : Bool :=
  !opKnown h.op || argBad op h.arg.toNat ||
  (if op = opPage || op = opBell then h.addr != 0 || h.len != 0
   else (isAtomic op && h.len != 0) || crosses h.addr.toNat h.len.toNat || (s.decode (h.addr.toNat * 64) l).isNone)

/-- Step 3 of R465 for an atomic: a reserved byte of its beat is set (R83, R5). -/
def atomDataBad (op arg : Nat) (d : Block) : Bool :=
  d.toNat / 2 ^ (8 * (if op = opCas then 16 else atSize arg)) != 0

/-- Step 3 of R465 for a doorbell (R85, R305). -/
def State.bellBad (s : State) (l : Nat) (d : Block) : Bool :=
  let a := blkGet d 0 8
  d.toNat / 2 ^ 67 != 0 || a % 64 != 0 || (s.winOf a).isNone || (s.decode a l).isNone

/-! ### Memory-side arithmetic (R158-R162) -/

/-- The value an atomic writes over an operand of its type (R160). -/
def atomNew (op ty size old opnd new : Nat) : Nat :=
  let top := 2 ^ (8 * size)
  let sgn : Nat → Int := fun n => if 2 * n < top then (n : Int) else (n : Int) - (top : Int)
  let pair := fun (f : Nat → Nat → Nat) => f (old % 65536) (opnd % 65536) + 65536 * f (old / 65536) (opnd / 65536)
  if op = opSwap then opnd
  else if op = opCas then (if old = opnd then new else old)
  else if op = opAdd then
    if ty = 2 then (add32 (BitVec.ofNat 32 old) (BitVec.ofNat 32 opnd)).toNat
    else if ty = 3 then pair addB
    else (old + opnd) % top
  else
    let mx := op == opMax
    if ty = 2 then fMaxMin f32 mx old opnd
    else if ty = 3 then pair (fMaxMin bf16 mx)
    else if decide (sgn old < sgn opnd) = mx then opnd else old

/-- Elementwise reduction sum of a block (R160, R162). -/
def redBlock (fmt : Nat) (old c : Block) : Block :=
  let o := old.toNat
  let d := c.toNat
  if fmt = 0 then
    BitVec.ofNat 512 (leNat ((List.range 16).flatMap fun i =>
      leBytes (add32 (BitVec.ofNat 32 (o / 2 ^ (32 * i))) (BitVec.ofNat 32 (d / 2 ^ (32 * i)))).toNat 4))
  else
    BitVec.ofNat 512 (leNat ((List.range 32).flatMap fun i =>
      leBytes (addB (bits o (16 * i) 16) (bits d (16 * i) 16)) 2))

/-- A memory-side operation on a block: the block it writes (R158-R162). -/
def rmwBlock (op arg : Nat) (be : BitVec 64) (d old : Block) : Block :=
  if isAtomic op then
    let z := atSize arg
    blkPut old (atOff arg) z
      (atomNew op (atType arg) z (blkGet old (atOff arg) z) (blkGet d 0 z) (blkGet d 8 z))
  else if op = opMasked then blkMerge old d be
  else if op = opRed || op = opOrd then redBlock (arg % 2) old d
  else d

/-- The data an atomic with ret returns: the old operand, zero elsewhere (R83). -/
def atomRet (arg : Nat) (old : Block) : Block := BitVec.ofNat 512 (blkGet old (atOff arg) (atSize arg))

/-- The operation reads its block before it writes it (R158): a masked write with every enable set is a plain write. -/
def isRmw (op : Nat) (be : BitVec 64) : Bool := isAtomic op || op == opRed || op == opOrd || (op == opMasked && be != BitVec.allOnes 64)

/-! ### Result blocks (R282) -/

/-- A result block that holds only code and detail. -/
def resultShort (code : BitVec 4) (detail : Nat) : Block := BitVec.ofNat 512 (code.toNat + 256 * detail)

/-! ### Latency buckets (R433) -/

/-- The bucket of a latency of l cycles. -/
def bucketOf (l : Nat) : Nat :=
  if l < 8 then 0
  else
    let k := Nat.log2 l
    min 31 (2 * (k - 3) + l / 2 ^ (k - 1) % 2 + 1)

/-- What a histogram kind measures of an opcode (R433). -/
def histKindOf (op : Nat) : Nat := if op = 0 then 0 else if op ≤ 2 then 1 else if op = opBell then 4 else 2

end Sys2Proof.Machine
end

