-- ==== Sys2Proof/Machine/Regulate.lean ====
section
/-! DEFINITION. Regulation: derated capacity, shares and scales, class states, pool slots and the holds at the ports
(R120-R132). -/

namespace Sys2Proof.Machine

/-- Value of a timing identifier of the HIDE section, in its units (R185). -/
def Image.t (i : Image) (id : Nat) : Nat := ((i.timing.find? fun e => e.1 == id).map (·.2)).getD 0
/-- The same in whole CTL cycles of 0.625 ns (R147). -/
def Image.tc (i : Image) (id : Nat) : Nat := (i.t id * 16 + 999) / 1000

/-- Derated capacity K (R120), floored at 0. -/
def Image.kcap (i : Image) : Nat := 1024 - (4096 * i.t 0x0D + (100 * i.policy.refi - 1)) / (100 * i.policy.refi) - 4

/-- The class of a number. -/
def Image.cls (i : Image) (c : Nat) : ClsCfg := i.classes.getD c {}
/-- Its share of a direction. -/
def ClsCfg.share (c : ClsCfg) (write : Bool) : Nat := if write then c.wrShare else c.rdShare
/-- Its ceiling in a direction. -/
def ClsCfg.ceil (c : ClsCfg) (write : Bool) : Nat := if write then c.wrCeil else c.rdCeil

/-- T15 of R127: a ceiling of 1,023 counts as 1,024. -/
def ceil15 (v : Nat) : Nat := if v = 1023 then 1024 else v

/-- The sum of the shares of classes 0-14 that a projection gives. -/
def Image.sumShares (i : Image) (f : ClsCfg → Nat) : Nat := ((i.classes.take 15).map f).sum

/-- The scale of R128 for available capacity a, shares g and class-15 ceiling t. -/
def scaleOf (a g t : Nat) : Nat := if g + t ≤ a || g = 0 then 256 else 256 * (a - t) / g

/-- The regulator of one direction. -/
def Ctl.dir (c : Ctl) (write : Bool) : Reg := if write then c.wr else c.rd
/-- Change it. -/
def Ctl.onDir (c : Ctl) (write : Bool) (f : Reg → Reg) : Ctl := if write then { c with wr := f c.wr } else { c with rd := f c.rd }

/-- Guarantee of a class at a channel, in blocks per period (R121, R128). -/
def State.guar (s : State) (p : Nat) (write : Bool) (c : Nat) : Nat :=
  (s.img.cls c).share write * ((s.ctl p).dir write).phi / 256 * s.img.kcap / 1024

/-- The class has reached its ceiling (R122). -/
def State.atCeil (s : State) (p : Nat) (write : Bool) (c : Nat) : Bool :=
  let v := (s.img.cls c).ceil write
  v != 1023 && v * s.img.kcap / 1024 ≤ ((s.ctl p).dir write).used.getD c 0

/-- The class is below its guarantee. -/
def State.inCredit (s : State) (p : Nat) (write : Bool) (c : Nat) : Bool :=
  c < 15 && ((s.ctl p).dir write).used.getD c 0 < s.guar p write c

/-- The class's bucket is empty (R123); a burst allowance of 0 is no limit. -/
def State.spent (s : State) (p : Nat) (write : Bool) (c : Nat) : Bool :=
  (s.img.cls c).burst != 0 && ((s.ctl p).dir write).tok.getD c 0 == 0

/-- The requests announced or offered, and not accepted, at a port: class and block address (R92). -/
def Port.ask (q : Port) (write : Bool) : Option (Nat × Nat) := if write then q.askWr else q.askRd

/-- A request of a class in CREDIT waits at an arbiter input of the direction: the port's, the network's, the Awl's or a
mover's (R122). -/
def State.creditWaits (s : State) (p : Nat) (write : Bool) : Bool :=
  ((if write then (s.ctl p).inWr else (s.ctl p).inRd).any fun w => w.inp < 4 && s.inCredit p write w.cls) ||
  (match (s.portAt p).bind fun n => (s.port n).ask write with
   | some (c, _) => s.inCredit p write c
   | none => false)

/-- Class state of R122: 0 CREDIT, 1 OVER, 2 CONTENDED, 3 SPENT, 4 CEILING, 5 class 15 admitted. -/
def State.clsState (s : State) (p : Nat) (write : Bool) (c : Nat) : Nat :=
  if s.atCeil p write c then 4
  else if s.inCredit p write c then 0
  else if s.spent p write c then 3
  else if c = 15 then 5
  else if s.creditWaits p write then 2
  else 1

/-- The thermal cap holds classes 0-14 (R128). -/
def State.capped (s : State) (p : Nat) (write : Bool) : Bool :=
  let r := (s.ctl p).dir write
  r.avail < 1024 && r.avail * s.img.kcap / 1024 ≤ r.used.sum

/-- Reason a class is held for in a direction at a channel: 0 none, 1, 2 (R95, R122, R128). SPENT shows its reason 2 also while
the cap holds the class (log 29). -/
def State.clsReason (s : State) (p : Nat) (write : Bool) (c : Nat) : Nat :=
  let k := s.clsState p write c
  if k = 3 then 2 else if k = 2 || k = 4 || (c < 15 && s.capped p write) then 1 else 0

/-! ### Pool slots (R131) -/

/-- Slots of a floor part: response, request, Awl, mover, Currier. -/
def floorCap (part : Nat) : Nat := [128, 224, 64, 64, 32].getD part 0
/-- Shared slots in use. -/
def Pool.used (p : Pool) : Nat := (p.shared.map (·.2)).sum
/-- Shared slots a class holds. -/
def Pool.cls (p : Pool) (c : Nat) : Nat := ((p.shared.filter fun e => e.1 % 16 == c).map (·.2)).sum
/-- Shared slots a channel position holds. -/
def Pool.ofPos (p : Pool) (pos : Nat) : Nat := ((p.shared.filter fun e => e.1 / 16 == pos).map (·.2)).sum
/-- Floor slots in use. -/
def Pool.floors (p : Pool) : Nat := (p.floor.map (·.2)).sum

/-- Scaled pool guarantee of a class, in slots (R121, R128). -/
def State.poolGuar (s : State) (x c : Nat) : Nat :=
  if c = 15 then 0 else (s.img.cls c).poolShare * (s.pool x).phi / 256 * 47 / 2

/-- A quiesce of the pool, or of a group above it, stops request and shared bookings (R395). -/
def State.poolQuiet (s : State) (x : Nat) : Bool :=
  (UnitId.pool x).path.any fun u => (s.fr u).st == .quiescing || (s.fr u).st == .quiesced || (s.fr u).st == .resetting

/-- The class may take a shared slot (R131 steps 2 and 3). -/
def State.sharedFree (s : State) (x c : Nat) : Bool :=
  let p := s.pool x
  let k := (s.img.cls c).poolCeil
  let free := 24064 - p.used
  let others := ((List.range 15).map fun d => if d = c then 0 else s.poolGuar x d - p.cls d).sum
  !s.poolQuiet x && p.used < 24064 &&
  (p.cls c < s.poolGuar x c || ((k == 1023 || p.cls c < k * 47 / 2) && others < free))

/-- Book one slot for a path (floor part) of the channel at pos of sector x, for class c (R131). -/
def State.book (s : State) (x pos part c : Nat) : Option (Slot × State) :=
  if smGet 0 (s.pool x).floor (5 * pos + part) < floorCap part && !(part == 1 && s.poolQuiet x) then
    some (⟨x, pos, part, c⟩,
      (s.onPool x fun p => { p with floor := smSet 0 p.floor (5 * pos + part) (smGet 0 p.floor (5 * pos + part) + 1) }).count
        (.pool x) 1 (some c) 1 (fields [(pos, 0), (c, 8)]))
  else if part != 4 && s.sharedFree x c then
    let s := (s.onPool x fun p => { p with shared := smSet 0 p.shared (16 * pos + c) (smGet 0 p.shared (16 * pos + c) + 1) }).count
      (.pool x) 1 (some c) 1 (fields [(pos, 0), (c, 8)])
    some (⟨x, pos, 5, c⟩, if (s.pool x).used = 24064 then s.count (.pool x) 3 none 1 (fields [(pos, 0), (c, 8)]) else s)
  else none

/-- Book n slots, all or none. -/
def State.bookN (s : State) (x pos part c : Nat) : Nat → Option (List Slot × State)
  | 0 => some ([], s)
  | n + 1 =>
    match s.book x pos part c with
    | none => none
    | some (k, s) =>
      match s.bookN x pos part c n with
      | none => none
      | some (l, s) => some (k :: l, s)

/-- The controller at a position is frozen and keeps its shared slots (R129). -/
def State.keepsSlots (s : State) (k : Slot) : Bool := k.part == 5 && (s.ctl (17 * k.sec + k.pos)).frozen

/-- Free a slot. -/
def State.freeSlot (s : State) (k : Slot) : State :=
  if s.keepsSlots k then s
  else s.onPool k.sec fun p =>
    if k.part = 5 then { p with shared := smSet 0 p.shared (16 * k.pos + k.cls) (smGet 0 p.shared (16 * k.pos + k.cls) - 1) }
    else { p with floor := smSet 0 p.floor (5 * k.pos + k.part) (smGet 0 p.floor (5 * k.pos + k.part) - 1) }

/-- Free slots. -/
def State.freeSlots (s : State) (l : List Slot) : State := l.foldl State.freeSlot s

/-- A pool's φ is recomputed; a change raises GUARANTEE_SHORT (R128-R130). -/
def State.poolScale (s : State) (x : Nat) : State :=
  let p := s.pool x
  let a := 1024 * (24064 - p.lost) / 24064
  let phi := scaleOf a (s.img.sumShares (·.poolShare)) (ceil15 (s.img.cls 15).poolCeil)
  if phi = p.phi then s else s.onPool x fun p => { p with phi := phi, event := true }

/-! ### Holds at the ports (R95, R126) -/

/-- A cause that holds all 16 classes. -/
def Hold.all : Hold → Bool
  | .cls _ _ | .offer _ _ => false
  | _ => true

/-- Reason code of a cause (R95). -/
def Hold.reason : Hold → Nat
  | .cls r _ | .offer r _ => r
  | .rowPenalty => 3
  | .unit _ | .slice | .stop | .emergency => 4
  | .switch => 5
  | .stall => 6

/-- spN_hold (R95): none while the port answers everything FENCED. -/
def State.holdBits (s : State) (n : Nat) : BitVec 16 :=
  let p := s.port n
  if p.fencedAll || s.safe.on then 0
  else p.holds.foldl (fun m h => match h with
    | .cls _ c | .offer _ c => m ||| ((1 : BitVec 16) <<< c)
    | _ => 0xFFFF) 0

/-- spN_hint_rsn (R95): the reason of the most recent hold in force. -/
def State.holdRsn (s : State) (n : Nat) : Nat :=
  let p := s.port n
  if p.fencedAll || s.safe.on then 7 else ((p.holds.getLast?).map Hold.reason).getD 0

/-- Set a hold at a port, once. -/
def State.hold (s : State) (n : Nat) (h : Hold) : State :=
  s.onPort n fun p => if p.holds.contains h then p else { p with holds := p.holds ++ [h] }
/-- End a hold. -/
def State.unhold (s : State) (n : Nat) (h : Hold) : State := s.onPort n fun p => { p with holds := p.holds.filter (· != h) }

/-- The classes held at channel p, with the reason of each direction that holds them (R95, R126); where two start in one cycle, the
read direction's counts as the earlier (log 29). -/
def State.heldClasses (s : State) (p : Nat) : List Hold :=
  (List.range 16).flatMap fun c =>
    ([s.clsReason p false c, s.clsReason p true c].filter (· != 0)).eraseDups.map (.cls · c)

/-- Why a request of class c for a block address, offered in a direction at port n, is held by the channel it decodes to or by
the pool of the port's sector; 0 where it is not (R126). A pool without a slot shows reason 1 (log 26). -/
def State.offerReason (s : State) (n c : Nat) (write : Bool) (addr : Nat) : Nat :=
  let r := match s.decode (addr * 64) (s.img.ports.getD n n) with
    | none => 0
    | some (l, _) => match s.serving l with
      | none => 0
      | some p => s.clsReason p write c
  if r != 0 then r else if s.sharedFree (secOf (s.portPhys n)) c then 0 else 1

/-- The holds of the requests offered at port n and not accepted (R126). -/
def State.offerHolds (s : State) (n : Nat) : List Hold :=
  [false, true].filterMap fun w =>
    match (s.port n).ask w with
    | none => none
    | some (c, a) => let r := s.offerReason n c w a; if r = 0 then none else some (.offer r c)

/-- The class holds of the port at channel p follow the channel's class states and the requests offered (R126). -/
def State.refreshHolds (s : State) (p : Nat) : State :=
  match s.portAt p with
  | none => s
  | some n =>
    let now := if s.isRunning then s.heldClasses p ++ s.offerHolds n else []
    s.onPort n fun q =>
      let kept := q.holds.filter fun h => h.all || now.contains h
      { q with holds := kept ++ now.filter fun h => !kept.contains h }

/-- φ and the counts at a period start (R120, R122, R128, R130). -/
def State.periodStart (s : State) (p : Nat) : State :=
  let i := s.img
  let one := fun (write : Bool) (r : Reg) =>
    { r with used := List.replicate 16 0, phi := scaleOf r.avail (i.sumShares (·.share write)) (ceil15 ((i.cls 15).ceil write)) }
  let c := s.ctl p
  let rd := one false c.rd
  let wr := one true c.wr
  let short := rd.phi != c.rd.phi || wr.phi != c.wr.phi
  (s.onCtl p fun c => { c with rd := rd, wr := wr, regShort := c.regShort || short }).refreshHolds p

end Sys2Proof.Machine
end

