-- ==== Sys2Proof/Machine/Reply.lean ====
section
/-! DEFINITION. Answering port requests: data beats, acknowledges, early ends, and the latency histogram (R78, R87-R90, R98,
R433, R434, R464). -/

namespace Sys2Proof.Machine

/-- Requester number of mover channel m of sector x in the block's own lists: above every port (R359). -/
def movReq (x m : Nat) : Nat := 512 + 4 * x + m
/-- The owners of jobs, the channel work of agents inside the block: an Awl, a mover channel, a Harness engine, a sequencer,
and the page service for a port's call. -/
def ownAwl (p : Nat) : Nat := 1024 + p
/-- Mover channel m of sector x. -/
def ownMov (x m : Nat) : Nat := 1536 + 4 * x + m
/-- Harness engine x, and the page service for its PAGE nodes. -/
def ownHar (x : Nat) : Nat := 2048 + x
/-- What engine x writes on its own account: node entries and completion records. -/
def ownPost (x : Nat) : Nat := 2560 + x
/-- The range sequencer. -/
def ownSeq : Nat := 3072
/-- The dump sequencer, whose writes go through the Currier paths (R441). -/
def ownDump : Nat := 3073
/-- The page service's own record and header writes. -/
def ownDir : Nat := 3074
/-- The page service for a PAGE_CALL of port n. -/
def ownCall (n : Nat) : Nat := 4096 + n

/-- The request uid of port n, or contribution uid of a mover channel. -/
def State.reqOf (s : State) (n uid : Nat) : Option Req :=
  (if n < 512 then (s.port n).tags
   else if n < 1024 then ((s.mov ((n - 512) / 4)).ch.getD ((n - 512) % 4) {}).reqs else []).find? fun r => r.uid == uid
/-- Change it. -/
def State.onReq (s : State) (n uid : Nat) (f : Req → Req) : State :=
  if n < 512 then s.onPort n fun p => { p with tags := p.tags.map fun r => if r.uid = uid then f r else r }
  else if 1024 ≤ n then s
  else s.onMov ((n - 512) / 4) fun b => { b with ch := upd b.ch ((n - 512) % 4) fun c =>
    { c with reqs := c.reqs.map fun r => if r.uid = uid then f r else r } }

/-- Set PORT_MISB bit `bit` at the port stage of port n (R101). -/
def State.misb (s : State) (n bit : Nat) : State :=
  s.onCtl (s.portPhys n) fun c => { c with misb := c.misb ||| ((1 : BitVec 7) <<< bit) }

/-- A response with code BAD_REQUEST sets bad_req (R101). -/
def State.noteBad (s : State) (n : Nat) (code : BitVec 4) : State := if code = cBAD then s.misb n 5 else s

/-- Queue an acknowledge. -/
def State.pushAck (s : State) (n : Nat) (a : Ack) : State :=
  (s.onPort n fun p => { p with ackQ := p.ackQ ++ [a] }).noteBad n a.code

/-- Queue a data beat. -/
def State.pushBeat (s : State) (n : Nat) (b : RspBeat) : State :=
  (s.onPort n fun p => { p with rsp := p.rsp ++ [b] }).noteBad n b.code

/-- A response reaches the port stage. -/
def State.putAns (s : State) (n : Nat) : Ans → State
  | .beat b => s.pushBeat n b
  | .ack a => s.pushAck n a

/-- A channel answers a request: to its own port stage at once, to any other by a response message of the network (R106,
R133). -/
def State.sendAns (s : State) (n : Nat) (r : Req) (a : Ans) : State :=
  if r.remote then
    s.onNet (r.lch / 16) fun b => { b with msgs := b.msgs ++
      [{ port := n, uid := r.uid, tag := r.tag, cls := r.cls, req := n, op := r.op, arg := r.arg, lch := r.lch, off := 0, idx := 0, n := 1,
         data := [], be := 0, inp := 1, first := 0, ans := some a }] }
  else s.putAns n a

/-- The answer of a request that ends with a code before it is done, on the channel R81 names for it (R88); `detail` is that of
a page call's result block. -/
def Req.endAns (r : Req) (code : BitVec 4) (detail : Nat) : Ans :=
  if r.op = opPage then .beat ⟨r.tag, 0, true, false, code, resultShort code detail⟩
  else if onData r.op r.arg then .beat ⟨r.tag, r.sent, true, true, code, 0⟩
  else .ack ⟨r.tag, code, r.doneN, false⟩

/-- Note that a request is answered. -/
def State.noteEnd (s : State) (n uid : Nat) (code : BitVec 4) : State :=
  s.onReq n uid fun r => { r with answered := true, closed := true, code := code, failed := r.failed || code != cOK }

/-- The final answer of a request, completed or not; once only (R88, R98). A read or an atomic with ret is answered here only
when it ends early. -/
def State.finish (s : State) (n uid : Nat) (code : BitVec 4) (detail : Nat := 0) : State :=
  match s.reqOf n uid with
  | none => s
  | some r => if r.answered then s else (s.noteEnd n uid code).sendAns n r (r.endAns code detail)

/-- Answer a data request with one whole final beat: an atomic's old value, a page call's result block. An atomic whose beat
did not end its request executes and is answered with the request's code (R79, R464). -/
def State.finishData (s : State) (n uid : Nat) (code : BitVec 4) (d : Block) : State :=
  match s.reqOf n uid with
  | none => s
  | some r =>
    if r.answered then s
    else if r.failed then s.finish n uid r.code
    else (s.onReq n uid fun r => { r with answered := true, closed := true }).sendAns n r (.beat ⟨r.tag, 0, true, false, code, d⟩)

/-- The channel work of a page call is done: its answer goes out (R125). -/
def State.release (s : State) (n uid : Nat) : State :=
  match (s.reqOf n uid).bind Req.res with
  | some (c, d) => s.finishData n uid c d
  | none => s

/-- A block of an agent's channel work is done; the last ends the job. -/
def State.jobDone (s : State) (own uid : Nat) : State :=
  let s : State := { s with jobs := s.jobs.map fun j => if j.own = own && j.uid = uid then { j with left := j.left - 1 } else j }
  if s.jobs.any fun j => j.own == own && j.uid == uid && j.left == 0 then
    let s : State := { s with jobs := s.jobs.filter fun j => j.left != 0 }
    if 4096 ≤ own then s.release (own - 4096) uid else s
  else s

/-- The agent has channel work under way. -/
def State.working (s : State) (own : Nat) : Bool := s.jobs.any fun j => j.own == own

/-- Requester identity of an agent's accesses (R145): an Awl, a mover, the port of a page call. R145 gives an engine and the
sequencers none: an engine's are those of its sector's mover M0, a sequencer's the Currier's (log 29). -/
def jobReq (own : Nat) : Nat :=
  if own < 1536 then 0x100 + (own - 1024)
  else if own < 2048 then 0x1A0 + (own - 1536)
  else if own < 3072 then 0x1A0 + 4 * (own % 512)
  else if own < 4096 then 0x1E0
  else own - 4096

/-- Arbiter input of channel p at which an agent asks: an Awl's at its own channel, the movers' in its sector, the Currier's for a
dump, the network's elsewhere (R136, R441). -/
def jobInp (own p : Nat) : Nat :=
  if own < 1536 then (if own = ownAwl p then 2 else 1)
  else if own < 2048 then (if (own - 1536) / 4 = secOf p then 3 else 1)
  else if own < 3072 then (if own % 512 = secOf p then 3 else 1)
  else if own = ownDump then 4
  else 1

/-- A unit or a group above it is in one of the states. -/
def State.pathIn (s : State) (u : UnitId) (l : List UState) : Bool := u.path.any fun v => l.contains (s.fr v).st

/-- No agent reaches logical channel l now: its controller is in a reset, which holds its crossings, or its Hides are in
self-refresh (R16, R225). -/
def State.shutAt (s : State) (l : Nat) : Bool :=
  match s.serving l with
  | none => false
  | some p => (s.ctl p).selfRef || s.pathIn (.ctl p) [.resetting]

/-- The blocks that a command has touched become the agent's channel work, at the arbiter inputs of their channels (R125, R134). -/
def State.settleAcc (s : State) (own cls : Nat) (uid : Option Nat) : State :=
  let l := s.acc.reverse.filterMap fun a => (s.serving a.lch).map fun p => (p, a)
  let s : State := { s with acc := [] }
  if l.isEmpty then s
  else
    let s : State := if uid.isNone then { s with uid := s.uid + 1 } else s
    let u := uid.getD s.uid
    let s : State := { s with jobs := s.jobs ++ [⟨own, u, (l.map (·.2.n)).sum⟩] }
    l.foldl (fun s (p, a) =>
      let w : Work := { port := own, uid := u, tag := 0, cls := cls, req := jobReq own, op := if a.write then opWrite else 0, arg := 0,
                        lch := a.lch, off := a.off, idx := 0, n := a.n, data := if a.write then [0] else [], be := BitVec.allOnes 64,
                        inp := jobInp own p, first := 1 }
      s.onCtl p fun c => if a.write then { c with inWr := c.inWr ++ [w] } else { c with inRd := c.inRd ++ [w] }) s

/-- A command of an agent (log 13): it waits while the agent's last channel work is under way, and while a channel it reaches is
shut; then its effect is whole, and its blocks go through the channels. A page call's work is that of the request `uid`. -/
def State.agent (s : State) (own cls : Nat) (f : State → State) (uid : Option Nat := none) : State :=
  if uid.isNone && s.working own then s
  else
    let t := f { s with acc := [] }
    if t.acc.any fun a => s.shutAt a.lch then s
    else { t.settleAcc own cls uid with acc := s.acc }

/-- A write that an agent posts and does not wait for: its effect, and its channel work (log 13). -/
def State.posted {α : Type} (s : State) (own cls : Nat) (f : State → α × State) : α × State :=
  match f { s with acc := [] } with
  | (a, t) => (a, { t.settleAcc own cls none with acc := s.acc })

/-- A request whose every block that will execute is done is answered (R88, R464). -/
def State.checkEnd (s : State) (n uid : Nat) : State :=
  match s.reqOf n uid with
  | none => s
  | some r =>
    if r.closed && r.taken ≤ r.doneN && !onData r.op r.arg then s.finish n uid (if r.failed then r.code else cOK) else s

/-- k blocks of a write-channel request have reached the ordering point (R91). -/
def State.blocksDone (s : State) (n uid k : Nat) : State :=
  if 1024 ≤ n then s.jobDone n uid else (s.onReq n uid fun r => { r with doneN := r.doneN + k }).checkEnd n uid

/-- Block idx of a write-channel request is not executed: the request ends there, the blocks before it stand (R88, R161). -/
def State.blockFail (s : State) (n uid idx : Nat) (code : BitVec 4) : State :=
  if 1024 ≤ n then s.jobDone n uid
  else match s.reqOf n uid with
  | none => s
  | some r =>
    if onData r.op r.arg then s.finish n uid code
    else if r.failed && r.taken ≤ idx then s
    else
      let s := s.onReq n uid fun r => { r with taken := min r.taken idx, failed := true, closed := true, code := code }
      let s := s.onPort n fun p =>
        { p with openW := p.openW.map fun w => if w.uid = uid then { w with dead := true } else w }
      s.checkEnd n uid

/-- Block idx of a request is still to be executed. -/
def State.wants (s : State) (n uid idx : Nat) : Bool :=
  if 1024 ≤ n then s.jobs.any fun j => j.own == n && j.uid == uid
  else match s.reqOf n uid with
  | none => false
  | some r => !r.answered && (!r.failed || idx < r.taken)

/-- Send the beats of a read that are next in order (R88, R144). -/
def State.flushRead (s : State) (n uid : Nat) : Nat → State
  | 0 => s
  | k + 1 =>
    match s.reqOf n uid with
    | none => s
    | some r =>
      if r.answered then s
      else match r.got.find? fun e => e.1 == r.sent with
      | none => s
      | some (i, d, bad) =>
        let poison := r.poison || bad
        let last := i == r.len
        let s := s.onReq n uid fun r =>
          { r with sent := i + 1, poison := poison, answered := last, got := r.got.filter fun e => e.1 != i }
        let s := s.sendAns n r (.beat ⟨r.tag, i, last, bad, if last && poison then cPOISON else cOK, if bad then 0 else d⟩)
        s.flushRead n uid k

/-- A block of a read has arrived. -/
def State.gotBlock (s : State) (n uid idx : Nat) (d : Block) (bad : Bool) : State :=
  if 1024 ≤ n then s.jobDone n uid
  else (s.onReq n uid fun r => { r with got := r.got ++ [(idx, d, bad)] }).flushRead n uid 32

/-- The message carries a response to request uid of port n. -/
def Work.answers (w : Work) (n uid : Nat) : Bool := w.ans.isSome && w.port == n && w.uid == uid

/-- Responses to a request that are still on their way are discarded: the ledger answers in their place (R98). -/
def State.recallAns (s : State) (n uid : Nat) : State :=
  let k := (s.nets.map fun b => (b.msgs.filter fun w => w.answers n uid).length).sum
  if k = 0 then s
  else ({ s with nets := s.nets.map fun (b : Net) => { b with msgs := b.msgs.filter fun w => !w.answers n uid } } : State).onReq n uid
    fun r => { r with answered := false, sent := r.sent - k }

/-- The ledger answers a request at the port, once (R98, R402). -/
def State.finishHome (s : State) (n uid : Nat) (code : BitVec 4) : State :=
  let s := s.recallAns n uid
  match s.reqOf n uid with
  | none => s
  | some r => if r.answered then s else (s.noteEnd n uid code).putAns n (r.endAns code 0)

/-- The ledger answers every unanswered request that a predicate of port and request picks (R98, R402). -/
def State.endWhere (s : State) (pick : Nat → Req → Bool) (code : BitVec 4) : State :=
  (List.range 128).foldl (fun s n =>
    ((s.port n).tags.filter fun r => pick n r).foldl (fun s r => s.finishHome n r.uid code) s) s

/-- Every tag in use at a port is answered (R98, R100, R394). -/
def State.endPort (s : State) (n : Nat) (code : BitVec 4) : State := s.endWhere (fun m _ => m == n) code

/-! ### Latency histograms (R433, R434) -/

/-- Sector x counts latencies (R433): it is in histogram mode. -/
def State.histMode (s : State) (x : Nat) : Bool :=
  match s.img.tel with
  | none => true
  | some t => !bitN t.secMode x

/-- A final response leaves port n after l cycles. -/
def State.histAdd (s : State) (n op cls : Nat) (code : BitVec 4) (l : Nat) : State :=
  let x := secOf (s.portPhys n)
  let e := s.sec x
  if s.histMode x && code != cFENCED && code != cABORTED && code != cBAD && e.histKind != 3 && histKindOf op = e.histKind.toNat then
    let k := 32 * cls + bucketOf l
    let v := smGet 0 e.bins k
    s.onSec x fun e =>
      let v' := min (v + 1) 0xFFFFFFFF
      { e with bins := smSet 0 e.bins k v',
               histSat := if v' = 0xFFFFFFFF then e.histSat ||| ((1 : BitVec 16) <<< cls) else e.histSat }
  else s

/-! ### Responses leave (R78, R90, R96) -/

/-- The port stage of port n is held in a reset of its CTL unit (R98). -/
def State.portReset (s : State) (n : Nat) : Bool := (s.fr (.ctl (s.portPhys n))).st == .resetting

/-- spN_rsp_chk: the port check of the beat's own data (R86, R87). -/
def RspBeat.chk (b : RspBeat) : BitVec 16 := crc16 b.data

/-- The ledger's answers have been sent, and the port accepts again (R98). -/
def State.flushed (s : State) (n : Nat) : State :=
  s.onPort n fun p => if p.rsp.isEmpty && p.ackQ.isEmpty then { p with flush := false } else p

/-- The cycle's acknowledge: the next in the queue; its tag is free from the next cycle (R78, R90). -/
def State.presentAck (s : State) (n : Nat) : State :=
  match (if s.portReset n then [] else (s.port n).ackQ) with
  | [] => s.onPort n fun p => { p with ackPin := none }
  | a :: rest =>
    let s := (s.onPort n fun p => { p with ackQ := rest, ackPin := some a }).flushed n
    if a.dup then s
    else match (s.port n).tags.find? fun r => r.tag == a.tag with
    | none => s
    | some r =>
      let s := s.histAdd n r.op r.cls a.code ((s.port n).cyc - r.t0)
      let s := s.freeSlots r.slots
      s.onPort n fun p => { p with tags := p.tags.filter fun q => q.uid != r.uid }

/-- The tile takes the data beat at the front (R96). -/
def State.takeBeat (s : State) (n : Nat) : State :=
  match (if s.portReset n then [] else (s.port n).rsp) with
  | [] => s
  | b :: rest =>
    let s := (s.onPort n fun p => { p with rsp := rest, stalled := false }).flushed n
    let s := s.unhold n .stall
    match (s.port n).tags.find? fun r => r.tag == b.tag with
    | none => s
    | some r =>
      let now := (s.port n).cyc
      if b.last then
        let t1 := if b.idx = 0 then now else r.t1
        let s := s.histAdd n r.op r.cls b.code ((if r.op = 0 then t1 else now) - r.t0)
        let s := s.freeSlots r.slots
        s.onPort n fun p => { p with tags := p.tags.filter fun q => q.uid != r.uid }
      else
        -- each beat gives back the slots its block holds, one in each sector (R132; the moment is the model's, log 26)
        let secs := (r.slots.map (·.sec)).eraseDups
        let gone := secs.filterMap fun x => r.slots.find? fun k => k.sec == x
        let s := s.freeSlots gone
        s.onReq n r.uid fun q => { q with t1 := if b.idx = 0 then now else q.t1, slots := gone.foldl (fun l k => l.erase k) q.slots }

end Sys2Proof.Machine
end

