-- ==== Sys2Proof/Machine/Slice.lean ====
section
/-! DEFINITION. The walk, the results and the log of logic self-test (R410, R411, R417, R419), which fences and resets also meet
(R418). -/

namespace Sys2Proof.Machine

/-- Slices of a full test of a unit type; 0 where it is not tested in the field (R410). -/
def sliceCount (ty : Nat) : Nat :=
  match ty with
  | 5 => 24 | 6 => 16 | 8 => 8 | 7 => 40 | 12 => 8 | 11 => 16
  | _ => 0

/-- P of a type (R410). -/
def slicePats (ty : Nat) : Nat := if ty = 11 then 28 else 56

/-- Change the self-test sequencer. -/
def State.onBist (s : State) (f : Bist → Bist) : State := { s with seq := { s.seq with bist := f s.seq.bist } }

/-- The unit in the slice. -/
def State.sliceUnit (s : State) : UnitId := unitAt s.seq.bist.entry

/-- The channel whose port a slice of the unit holds, with its Hides in self-refresh (R410). -/
def heldChan : UnitId → Option Nat
  | .ctl p | .link p | .currier p => some p
  | _ => none

/-- The walk takes in index i: a tested unit that is not fenced (R411). -/
def State.walkOk (s : State) (i : Nat) : Bool := decide (0 < sliceCount (unitAt i).ty) && !(s.frame i).fenced

/-- The walk moves to the next unit, and over the end of the table to a new cycle (R411). -/
def State.walkNext (s : State) : State :=
  let b := s.seq.bist
  let go := fun (s : State) (i : Nat) => s.onBist fun b => { b with entry := i, slice := (smGet {} b.units i).next, again := false }
  match (List.range 757).find? fun i => b.entry < i && s.walkOk i with
  | some i => go s i
  | none =>
    let s := s.onBist fun b => { b with
      cycles := b.cycles + 1
      units := b.units.foldl (fun m e => smSet {} m e.1 { e.2 with stuck := false, notrun := 0 }) [] }
    go s (((List.range 757).find? s.walkOk).getD 0)

/-- A log entry for the slice that ends (R419). -/
def State.bistLog (s : State) (result reached : Nat) : State :=
  let b := s.seq.bist
  let t := s.mgmt.elapsed.toNat
  let g := if reached < 4 then 0 else b.sig.toNat
  let w := fun (n : Nat) => BitVec.ofNat 32 n
  let e := [b.next, w t, w (t / 2 ^ 32),
    fields [(b.entry, 0), (b.slice, 16), (result, 24), (b2n b.again, 28), (reached, 29)],
    fields [(b.run, 0), (slicePats (unitAt b.entry).ty, 16)], 0, w g, w (g / 2 ^ 32)]
  s.onBist fun b =>
    if b.log.length < 64 then { b with log := b.log ++ [e], next := seqNext b.next } else { b with ev := b.ev ||| 4 }

/-- Change the record of the unit at the walk position. -/
def State.onBUnit (s : State) (f : BUnit → BUnit) : State :=
  s.onBist fun b => { b with units := smSet {} b.units b.entry (f (smGet {} b.units b.entry)) }

/-- The slice at the position has run: the walk goes to the unit's next slice, or past the unit (R411). -/
def State.sliceNext (s : State) : State :=
  let b := s.seq.bist
  if b.slice + 1 < sliceCount s.sliceUnit.ty then
    (s.onBUnit fun k => { k with next := b.slice + 1 }).onBist fun b => { b with slice := b.slice + 1, again := false }
  else
    (s.onBUnit fun k => { k with next := 0, time := BitVec.ofNat 32 (s.mgmt.elapsed.toNat / 1000) }).walkNext

/-- The millisecond is lost for the unit at the position; after 64 it is passed over (R411). -/
def State.sliceLost (s : State) : State :=
  let s := s.onBUnit fun k => { k with notrun := k.notrun + 1 }
  if (smGet {} s.seq.bist.units s.seq.bist.entry).notrun < 64 then s
  else ((s.onBUnit fun k => { k with stuck := true }).onBist fun b => { b with ev := b.ev ||| 8 }).walkNext

/-- The holds of the slice end. -/
def State.sliceUnhold (s : State) : State :=
  match (heldChan s.sliceUnit).bind s.portAt with
  | some n => s.unhold n .slice
  | none => s

/-- A slice ends with a result of R417. -/
def State.sliceEnd (s : State) (result reached : Nat) : State :=
  let s := s.sliceUnhold.onBist fun b => { b with phase := 0 }
  let ran := fun (s : State) => s.onBUnit fun k => { k with notrun := 0 }
  match result with
  | 0 => (ran (s.onBist fun b => { b with pass := satAdd b.pass 1 })).sliceNext
  | 1 =>
    let s := ran (((s.bistLog 1 reached).onBist fun b => { b with ev := b.ev ||| 1 }).onBUnit fun k => { k with failed := true })
    if s.seq.bist.again then s.sliceNext else s.onBist fun b => { b with again := true }
  | 2 => ((s.bistLog 2 reached).onBist fun b => { b with ev := b.ev ||| 2 }).sliceLost
  | 3 => (s.onBist fun b => { b with deferred := if b.deferred = 0xFFFF then b.deferred else b.deferred + 1 }).sliceLost
  | _ => (s.onBist fun b => { b with skipped := if b.skipped = 0xFFFF then b.skipped else b.skipped + 1 }).sliceLost

/-- The patterns run when an event cuts a scan short: a number below P that nothing states (R419, log 6). -/
def State.sliceCut (s : State) : State :=
  let b := s.seq.bist
  if b.phase = 3 then
    let (w, s) := s.takeFree
    s.onBist fun b => { b with run := w.toNat % slicePats s.sliceUnit.ty }
  else s

/-- A slice of one of the units ends ABORTED at once, with no re-initialisation (R417, R418). -/
def State.sliceBreak (s : State) (pick : UnitId → Bool) : State :=
  let b := s.seq.bist
  if b.phase != 0 && pick s.sliceUnit then s.sliceCut.sliceEnd 2 (if b.phase = 5 then b.reached else b.phase.toNat) else s

end Sys2Proof.Machine
end

