-- ==== Sys2Proof/Machine/Admit.lean ====
section
/-! DEFINITION. The arbiter in front of a channel's queues and what admission does with a block: the fresh map, plain writes,
the combining buffer and the ordered groups (R122-R125, R136-R137, R154-R165, R237). -/

namespace Sys2Proof.Machine

/-- Requester identity of a slice port request, and of the Currier (R145). -/
def reqCurrier : Nat := 0x1E0
/-- Migration copy. -/
def reqMig : Nat := 0x1E1
/-- No port: a piece of work of the Currier. -/
def noPort : Nat := 128

/-- Currier reads by what asks for them: a range scrub, a retention profile; the patrol's carry `noPort` (R213, R241, R245). -/
def scrubPort : Nat := 129
/-- A profiling read. -/
def profPort : Nat := 130

/-- Commands of the channel may issue: powered, running, not in self-refresh, and tXS has passed since (R193, R227). -/
def State.canIssue (s : State) (p : Nat) : Bool :=
  let c := s.ctl p
  !c.frozen && !c.unpowered && !c.selfRef && !(s.link p).rtSlice && (s.link p).st != .halted && !s.chFenced p && (s.fr (.ctl p)).st != .resetting &&
  (s.fr (.channel p)).st != .resetting

/-- The intake of channel p is stopped by a quiesce or a self-test slice of its CTL unit or a unit above it (R395, R414). -/
def State.ctlQuiet (s : State) (p : Nat) : Bool :=
  (UnitId.ctl p).path.any fun u =>
    let f := s.fr u
    f.st == .quiescing || f.st == .quiesced || f.st == .resetting || (s.seq.bist.phase != 0 && s.seq.bist.entry == u.idx)

/-- The CURRIER unit of channel p or a unit above it has its intake stopped (R395, R414). -/
def State.curQuiet (s : State) (p : Nat) : Bool :=
  (UnitId.currier p).path.any fun u =>
    (s.fr u).st == .quiescing || (s.fr u).st == .quiesced || (s.fr u).st == .resetting ||
    (s.seq.bist.phase != 0 && s.seq.bist.entry == u.idx)

/-! ### The Currier's own reads (R213, R245) -/

/-- Change the range operation. -/
def State.onRange (s : State) (f : RangeOp → RangeOp) : State := { s with seq := { s.seq with range := f s.seq.range } }

/-- A read of the Currier at channel p is under way. -/
def Ctl.asks (c : Ctl) (port : Nat) : Bool :=
  c.inRd.any (fun w => w.inp == 4 && w.port == port) || (c.rdQ ++ c.flight).any fun e => e.inp == 4 && e.port == port

/-- Ask for a read of a block at the Currier input. -/
def State.currierRead (s : State) (p port off : Nat) : State :=
  let s := s.onCtl p fun c => { c with inRd := c.inRd ++
    [{ port := port, uid := 0, tag := 0, cls := 0, req := reqCurrier, op := 0, arg := 0, lch := 0, off := off, idx := 0, n := 1,
       data := [], be := 0, inp := 4, first := 0 }] }
  if port = profPort then s else s.count (.currier p) 5 none 1 (fields [(reqCurrier, 0)]) (BitVec.ofNat 32 (off / 64))

/-- A block that a range scrub read: its share goes on, and the counts of the summary record (R245, R246). -/
def State.scrubBack (s : State) (p off n : Nat) (bad : Bool) : State :=
  match s.seq.range.shares.findIdx? fun a => !a.ended && a.pos == off && a.pos < a.stop && s.serving a.lch == some p with
  | none => s
  | some i => s.onRange fun r => { r with
      shares := upd r.shares i fun a => { a with pos := a.pos + 64 }
      doneCnt := r.doneCnt + 1
      corr := r.corr + b2n (!bad && n != 0)
      syms := r.syms + (if bad then 0 else n)
      ue := r.ue + b2n bad }

/-- A block that a profiling pass read, with n symbols corrected: the pre-read notes them; a post-read that shows more, or is
uncorrectable, makes its row weak (R213). -/
def State.profBack (s : State) (p off n : Nat) (bad : Bool) : State :=
  let l := locate s.hides off
  let k := 16 * l.row + l.col
  s.onCur p fun c =>
    if c.profStep = 1 then { c with profPre := smSet 0 c.profPre k n }
    else if c.profStep = 3 && (bad || smGet 0 c.profPre k < n) then
      { c with profHits := c.profHits ++ [(l.row, bad || decide (smGet 0 c.profPre k + 2 ≤ n))] }
    else c

/-- The outcome of a Currier read goes to what asked for it. -/
def State.currierBack (s : State) (p : Nat) (e : Entry) (n : Nat) (bad : Bool) : State :=
  if e.port = scrubPort then s.scrubBack p e.off n bad
  else if e.port = profPort then s.profBack p e.off n bad
  else s

/-! ### Queue entries (R124) -/

/-- Shared entries in use: what the port and the network hold, and what the Awl and the movers hold past their floors of 8
and 4. -/
def sharedUse (q : List Entry) : Nat :=
  (q.filter fun e => e.inp < 2).length + ((q.filter fun e => e.inp == 2).length - 8) + ((q.filter fun e => e.inp == 3).length - 4)

/-- The queue has an entry for an input in the given tier: the Currier's own 4; a floor, then a shared one; OVER leaves 16 shared
entries free (R124). -/
def roomFor (q : List Entry) (tier inp : Nat) : Bool :=
  if 4 ≤ inp then decide ((q.filter fun e => 4 ≤ e.inp).length < 4)
  else if inp = 2 && (q.filter fun e => e.inp == 2).length < 8 then true
  else if inp = 3 && (q.filter fun e => e.inp == 3).length < 4 then true
  else if tier = 5 then decide (16 < 112 - sharedUse q)
  else decide (sharedUse q < 112)

/-! ### Writes and the combining buffer -/

/-- The first write to an unwritten granule: WRITTEN, and its zero-fill starts (R156, R237). -/
def State.firstWrite (s : State) (p off : Nat) : State :=
  if s.fresh p off = 0 then
    ((s.openGran p (off / 16384)).onCtl p fun c => { c with fills := c.fills ++ [{ gran := off / 16384 }] }).count (.ctl p) 0x0B
  else s

/-- Enter a write in the write queue: the ordering point of a plain write (R154). -/
def State.enterWrite (s : State) (p : Nat) (e : Entry) : State :=
  s.onCtl p fun c => { c with
    wrQ := c.wrQ ++ [{ e with ord := c.nextOrd, enq := c.cyc }]
    nextOrd := c.nextOrd + 1 }

/-- A slot of the request floor of channel p, for work that counts against no class (R156, R159). -/
def State.floorSlot (s : State) (p part : Nat) : Option (Slot × State) :=
  let k := 5 * posOf p + part
  if smGet 0 (s.pool (secOf p)).floor k < floorCap part then
    some (⟨secOf p, posOf p, part, 0⟩, s.onPool (secOf p) fun q => { q with floor := smSet 0 q.floor k (smGet 0 q.floor k + 1) })
  else none

/-- A block that reached the ordering point of a channel with value b is sent to the spare, whose write queue takes it with one of
the spare's own write slots (R111). -/
def State.mirrorPut (s : State) (p off : Nat) (b : Block) : State :=
  match s.mirror p with
  | none => s
  | some sp =>
    let s := (s.firstWrite sp off).newer sp off
    let k := s.floorSlot sp 1
    let s := (k.map (·.2)).getD s
    s.enterWrite sp { port := noPort, uid := 0, tag := 0, cls := 0, req := reqMig, idx := 0, op := opWrite, off := off, ord := 0, enq := 0,
                      data := b, aged := false, inp := 0, slots := (k.map (·.1)).toList }

/-- The spare can take the block of one more write of channel p, those under way counted (R111). -/
def State.mirrorOk (s : State) (p : Nat) : Bool :=
  match s.mirror p with
  | none => true
  | some sp =>
    let c := s.ctl p
    sharedUse (s.ctl sp).wrQ + (c.comb.map fun e => e.pend.length).sum + c.ordRun.length + (c.wrQ.filter (·.held)).length < 112

/-- A write-back has a queue entry and a slot of the request floor. -/
def State.backOk (s : State) (p : Nat) : Bool := roomFor (s.ctl p).wrQ 3 0 && (s.floorSlot p 1).isSome

/-- Write a combining-buffer entry back through the write queue, with a slot of the request floor; it keeps the order of the
buffered data for the reads that compare with it, and the slots of the operations in it (R132, R155, R159). -/
def State.combBack (s : State) (p off : Nat) : State :=
  match (s.ctl p).comb.find? fun e => e.off == off with
  | some ⟨_, some v, [], ord, _, slots⟩ =>
    if !s.backOk p then s
    else match s.floorSlot p 1 with
    | none => s
    | some (k, s) =>
      let s := s.onCtl p fun c => { c with comb := c.comb.filter fun e => e.off != off }
      s.enterWrite p { port := noPort, uid := 0, tag := 0, cls := 0, req := reqCurrier, idx := 0, op := opMasked, off := off,
                       ord := 0, enq := 0, data := v, aged := false, inp := 0, slots := k :: slots, root := some ord }
  | _ => s

/-- The combining-buffer entry to evict: the least recently used that is not waiting for its read (R159). -/
def Ctl.combLru (c : Ctl) : Option Nat :=
  ((c.comb.filter fun e => e.val.isSome && e.pend.isEmpty).foldl
    (fun (b : Option (Nat × Nat)) e => match b with
      | none => some (e.last, e.off)
      | some (l, o) => if e.last < l then some (e.last, e.off) else some (l, o)) none).map (·.2)

/-- Run one operation on a buffered value (R159, R160): the request's answer, the mirror and the new value. -/
def State.runOp (s : State) (p off : Nat) (o : ROp) (old : Block) : State :=
  if !s.wants o.port o.uid o.idx then s.freeSlots o.slots
  else
    let new := rmwBlock o.op o.arg o.be o.data old
    let s := s.onCtl p fun c => { c with
      comb := c.comb.map fun e => if e.off = off then { e with val := some new, last := c.cyc, slots := e.slots ++ o.slots } else e }
    let s := s.newer p off
    let s := s.mirrorPut p off new
    let s := s.count (.ctl p) 0x0A (some o.cls)
    if isAtomic o.op && bitN o.arg 8 then s.finishData o.port o.uid cOK (atomRet o.arg old)
    else s.blocksDone o.port o.uid 1

/-- Run the pending operations of a buffer entry, oldest first, on its value. -/
def State.runPend (s : State) (p off : Nat) : Nat → State
  | 0 => s
  | k + 1 =>
    match (s.ctl p).comb.find? fun e => e.off == off with
    | some ⟨_, some v, o :: l, _, _, _⟩ =>
      let s := s.onCtl p fun c => { c with comb := c.comb.map fun e => if e.off = off then { e with pend := l } else e }
      (s.runOp p off o v).runPend p off k
    | _ => s

/-- The read of a buffer entry has come back as v: its operations run (R159). -/
def State.resolveComb (s : State) (p off : Nat) (v : Block) : State :=
  let n := (((s.ctl p).comb.filter fun e => e.off == off).map fun e => e.pend.length).sum
  (s.onCtl p fun c => { c with comb := c.comb.map fun e => if e.off = off then { e with val := some v } else e }).runPend p off n

/-- The read of a buffer entry has failed: none of its operations is executed, and the entry is free (R161). -/
def State.failComb (s : State) (p off : Nat) (code : BitVec 4) : State :=
  let es := (s.ctl p).comb.filter fun e => e.off == off
  let ops := es.flatMap (·.pend)
  let s := s.freeSlots (es.flatMap fun e => e.slots ++ e.pend.flatMap (·.slots))
  let s := s.onCtl p fun c => { c with comb := c.comb.filter fun e => e.off != off }
  ops.foldl (fun s o => s.blockFail o.port o.uid o.idx code) s

/-- Discard the pending writes of a granule: write entries, buffered values, its fill and its write-backs; operations that
still wait for their read keep their entry and see the new state (R239). -/
def State.discardGran (s : State) (p g : Nat) : State :=
  let gone := (s.ctl p).wrQ.filter fun e => e.off / 16384 == g
  let stays := fun (e : Comb) => e.off / 16384 != g || e.val.isNone || !e.pend.isEmpty
  let s := s.freeSlots ((((s.ctl p).comb.filter fun e => !stays e).flatMap (·.slots)) ++
    (((s.ctl p).fills.filter fun f => f.gran == g).filterMap (·.slot)))
  let s := s.onCtl p fun c => { c with
    wrQ := c.wrQ.filter fun e => e.off / 16384 != g
    comb := c.comb.filter stays
    fills := c.fills.filter fun f => f.gran != g }
  let s := s.onCur p fun c => { c with wbQ := c.wbQ.filter fun e => e.1 / 16384 != g }
  gone.foldl (fun s e =>
    let s := s.freeSlots e.slots
    if e.held then s.blocksDone e.port e.uid 1 else s) s

/-- Set a granule's state at a channel and at the spare that mirrors it (R111, R237). -/
def State.markGran (s : State) (p g v : Nat) : State :=
  let s := (s.discardGran p g).setFresh p g v
  match s.mirror p with
  | some sp => (s.discardGran sp g).setFresh sp g v
  | none => s

/-- CLEAR of a granule (R237, R239). -/
def State.clearGran (s : State) (p g : Nat) : State := s.markGran p g 0
/-- POISON of a granule (R237, R239). -/
def State.poisonGran (s : State) (p g : Nat) : State := s.markGran p g 2

/-- A memory-side operation on the block has what it needs: a buffer entry, its own or one that can be written back, and an entry
of the read queue for the block's read (R124, R144, R159). -/
def State.opOk (s : State) (p off tier inp : Nat) : Bool :=
  let c := s.ctl p
  c.comb.any (fun e => e.off == off) ||
  ((c.comb.length < 16 || (c.combLru.isSome && s.backOk p)) && (s.fresh p off == 0 || roomFor c.rdQ tier inp))

/-- A memory-side operation on one block enters the arithmetic unit (R158, R159). -/
def State.enterOp (s : State) (p off : Nat) (o : ROp) : State :=
  match (s.ctl p).comb.find? fun e => e.off == off with
  | some e =>
    if e.val.isSome && e.pend.isEmpty then s.runOp p off o (e.val.getD 0)
    else s.onCtl p fun c => { c with comb := c.comb.map fun e => if e.off = off then { e with pend := e.pend ++ [o] } else e }
  | none =>
    let s := match (if (s.ctl p).comb.length < 16 then none else (s.ctl p).combLru) with
      | some x => s.combBack p x
      | none => s
    let zero := s.fresh p off = 0
    let s := if zero then s.firstWrite p off else s
    let s := s.onCtl p fun c => { c with
      comb := c.comb ++ [{ off := off, val := if zero then some 0 else none, pend := [o], ord := c.nextOrd, last := c.cyc }]
      nextOrd := c.nextOrd + 1 }
    if zero then s.runPend p off 1
    else s.onCtl p fun c => { c with
      rdQ := c.rdQ ++ [{ port := o.port, uid := o.uid, tag := o.tag, cls := o.cls, req := o.req, idx := o.idx, op := o.op, off := off,
                         ord := c.nextOrd, enq := c.cyc, data := 0, aged := false, inp := o.inp }]
      nextOrd := c.nextOrd + 1 }

/-! ### Ordered reductions (R163-R165) -/

/-- The group of a key. -/
def Ctl.groupAt (c : Ctl) (key : Nat) : Option OGroup := c.groups.find? fun g => g.key == key
/-- Change the group of a key. -/
def Ctl.onGroup (c : Ctl) (key : Nat) (f : OGroup → OGroup) : Ctl :=
  { c with groups := c.groups.map fun g => if g.key = key then f g else g }

/-- The one-block works of a contribution. -/
def contribWorks (w : Work) : List Work :=
  (List.range w.data.length).map fun i =>
    { w with idx := i, off := w.off + 64 * i, data := [w.data.getD i 0], n := 1, slots := (w.slots.drop i).take 1, first := w.data.length }

/-- The contribution of a waiting work as the wait list holds it. -/
def contribOf (c : Ctl) (w : Work) : Contrib :=
  { port := w.port, uid := w.uid, tag := w.tag, req := w.req, ord := (w.since.map (·.2)).getD c.nextOrd,
    enq := (w.since.map (·.1)).getD c.cyc, idx := bits w.arg 8 8, cls := w.cls, off := w.off, blocks := w.data,
    inp := w.inp, slots := w.slots }

/-- The work of a waiting contribution. -/
def workOf (c : Contrib) (key fmt : Nat) : Work :=
  { port := c.port, uid := c.uid, tag := c.tag, cls := c.cls, req := c.req, op := opOrd, arg := fmt, lch := 0, off := c.off, idx := 0,
    n := 1, data := c.blocks, be := 0, inp := c.inp, slots := c.slots, first := c.blocks.length, key := key }

/-- Start the contribution due in a group, if it waits (R163). -/
def State.startDue (s : State) (p key : Nat) : State :=
  match (s.ctl p).groupAt key with
  | none => s
  | some g =>
    match g.waiting.find? fun c => c.idx == g.next with
    | none => s
    | some c => s.onCtl p fun t =>
      { t.onGroup key (fun g => { g with waiting := g.waiting.filter fun d => d.idx != c.idx }) with
        ordRun := t.ordRun ++ contribWorks (workOf c key g.fmt) }

/-- A contribution reaches the arithmetic unit (R163, R164): BAD_REQUEST, the wait lists, or its turn. -/
def State.contribute (s : State) (p : Nat) (w : Work) : State :=
  let idx := bits w.arg 8 8
  let count := bits w.arg 16 8
  match (s.ctl p).groupAt w.key with
  | some g =>
    if g.len != w.len || g.count != count || g.fmt != w.arg % 2 || idx < g.next || g.waiting.any (fun c => c.idx == idx) ||
        (idx == g.next && (s.ctl p).ordRun.any fun v => v.key == w.key) then
      (s.freeSlots w.slots).finish w.port w.uid cBAD
    else (s.onCtl p fun c => c.onGroup w.key fun g => { g with waiting := g.waiting ++ [contribOf c w] }).startDue p w.key
  | none =>
    if (s.ctl p).groups.length < 8 then
      (s.onCtl p fun c => { c with
        groups := c.groups ++ [{ key := w.key, len := w.len, count := count, fmt := w.arg % 2, next := 0, waiting := [contribOf c w] }] })
        |>.startDue p w.key
    else s.onCtl p fun c => { c with ordWait := c.ordWait ++ [{ w with since := some (w.since.getD (c.cyc, c.nextOrd)) }] }

/-- The last block of the contribution being applied in a group is done: the next index is due, or the group closes and a
waiting key takes its place (R163). -/
def State.ordNext (s : State) (p key : Nat) : State :=
  match (s.ctl p).groupAt key with
  | none => s
  | some g =>
    if g.next < g.count then (s.onCtl p fun c => c.onGroup key fun g => { g with next := g.next + 1 }).startDue p key
    else
      let s := s.onCtl p fun c => { c with groups := c.groups.filter fun g => g.key != key }
      match (s.ctl p).ordWait with
      | [] => s
      | w :: _ =>
        let same := (s.ctl p).ordWait.filter fun v => v.key == w.key
        let s := s.onCtl p fun c => { c with ordWait := c.ordWait.filter fun v => v.key != w.key }
        same.foldl (fun s v => s.contribute p v) s

/-- The memory-side operation of a work's block. -/
def Work.rop (w : Work) : ROp :=
  { port := w.port, uid := w.uid, tag := w.tag, req := w.req, inp := w.inp, slots := w.slots, idx := w.idx, cls := w.cls, op := w.op,
    arg := w.arg, data := w.data.headD 0, be := w.be }

/-- Execute one block of the contribution being applied, once the arithmetic unit can take it (R159, R161-R163). -/
def State.ordStep (s : State) (p : Nat) : State :=
  match (s.ctl p).ordRun with
  | [] => s
  | w :: rest =>
    let runs := s.wants w.port w.uid w.idx
    if runs && s.fresh p w.off != 2 && !s.opOk p w.off 3 w.inp then s
    else
      let s := s.onCtl p fun c => { c with ordRun := rest }
      let s :=
        if !runs then s.freeSlots w.slots
        else if s.fresh p w.off = 2 then (s.freeSlots w.slots).blockFail w.port w.uid w.idx cPOISON
        else s.enterOp p w.off w.rop
      if w.idx + 1 = w.first then s.ordNext p w.key else s

/-! ### Admission (R122-R125, R136, R137) -/

/-- Tier of a class at a scheduler arbiter (R136); none while it is not admitted. -/
def State.clsTier (s : State) (p : Nat) (write : Bool) (c : Nat) : Option Nat :=
  match s.clsState p write c with
  | 0 => if s.capped p write then none else some 3
  | 1 => if s.capped p write then none else some 5
  | 5 => some 2
  | _ => none

/-- Tier of a waiting work: Currier work and copy reads ask at tier 4, every other at its class's. -/
def State.tier (s : State) (p : Nat) (write : Bool) (w : Work) : Option Nat :=
  if 4 ≤ w.inp then some 4 else s.clsTier p write w.cls

/-- The floor part whose slot a waiting work still books when it is admitted: the response slot of a read, the Awl's and the
movers' write slots, the Currier's own (R131, R132). Slots of port writes were booked at acceptance. -/
def Work.slotPart (w : Work) (write : Bool) : Option Nat :=
  if 4 ≤ w.inp then some 4
  else if !write then (if w.inp < 2 then some 0 else none)
  else if w.port < 1024 then none
  else some (if w.inp = 2 then 2 else if w.inp = 3 then 3 else 1)

/-- Book it. -/
def State.bookFor (s : State) (p : Nat) (write : Bool) (w : Work) : Option (List Slot × State) :=
  match w.slotPart write with
  | none => some ([], s)
  | some part => (s.book (secOf p) (posOf p) part w.cls).map fun (k, s) => ([k], s)

/-- An earlier write of the same port to the block a read asks for still waits to reach the ordering point (R91). -/
def State.afterWrite (s : State) (p : Nat) (w : Work) : Bool :=
  (s.ctl p).inWr.any fun v => v.port == w.port && v.uid < w.uid && v.off == w.off && v.op != opOrd && v.inp < 2

/-- Block offsets that a burst has still to move: those of the work, and of the works of its request that wait behind it. -/
def State.burstOffs (s : State) (p : Nat) (write : Bool) (w : Work) : List Nat :=
  if write then ((s.ctl p).inWr.filter fun v => v.port == w.port && v.uid == w.uid).flatMap fun v =>
    (List.range v.data.length).map fun i => v.off + 64 * i
  else (List.range w.n).map fun i => w.off + 64 * i

/-- What the block of a waiting work still lacks: an earlier write of its port, a buffer entry, a written-back block, the end of
its granule's copy, a slot (R91, R112, R132, R133, R159, R207). -/
def State.blocked (s : State) (p : Nat) (write : Bool) (w : Work) : Bool :=
  let c := s.ctl p
  if !s.wants w.port w.uid w.idx && (w.inp < 4 || 1024 ≤ w.port) then false
  -- a burst with blocks for a bank whose refresh is at its limit has lost its grant (R207)
  else if (s.burstOffs p write w).any fun o =>
      8 ≤ (smGet {} (s.cur p).bank (let l := locate s.hides o; 16 * l.hide + l.bank)).count then true
  else if (s.bookFor p write w).isNone then true
  else if w.op = 0 then s.afterWrite p w
  else if w.inp < 4 && !s.mirrorOk p then true
  else if w.op = opOrd then false
  else if isRmw w.op w.be then s.inCopy p w.off || !s.opOk p w.off ((s.tier p true w).getD 3) w.inp
  else c.comb.any fun e => e.off == w.off && (e.val.isNone || !e.pend.isEmpty || !s.backOk p)

/-- Works that may be granted: of each source, the oldest (R107), not stopped by a quiesce (R395); an input whose burst has
begun offers only that burst (R137). -/
def State.heads (s : State) (p : Nat) (write : Bool) : List Work :=
  let l := if write then (s.ctl p).inWr else (s.ctl p).inRd
  let q := s.ctlQuiet p
  let r := (s.ctl p).dir write
  let begun := fun (w : Work) => r.prog.contains (w.inp, w.uid)
  let first := (l.foldl (fun (a : List Work × List (Nat × Nat)) w =>
    if a.2.contains (w.inp, w.port) then a else (a.1 ++ [w], a.2 ++ [(w.inp, w.port)])) ([], [])).1
  first.filter fun w =>
    !(q && 1 ≤ w.inp && w.inp ≤ 3) && (begun w || !l.any fun v => v.inp == w.inp && r.prog.contains (v.inp, v.uid))

/-- What asks for the grant: a waiting work, or a request announced or offered at the port (R92). -/
structure Cand where
  tier : Nat
  inp : Nat
  cls : Nat
  work : Option Work
deriving DecidableEq, Repr, Inhabited

/-- A requester is held for its row-disturbance penalty (R168): an Awl or a mover channel, at every arbiter input. -/
def State.penalised (s : State) (req : Nat) : Bool := 128 ≤ req && s.rhHeld.contains req

/-- The port's request that asks for the grant of a direction: announced, of a class that is admitted. -/
def State.askCand (s : State) (p : Nat) (write : Bool) : Option Cand :=
  match (s.portAt p).bind fun n => (s.port n).ask write with
  | none => none
  | some (c, _) => (s.clsTier p write c).map fun t => ⟨t, 0, c, none⟩

/-- The candidates of a cycle (R136): works that are admitted, have a queue entry and lack nothing, and the port's request. -/
def State.cands (s : State) (p : Nat) (write : Bool) : List Cand :=
  let c := s.ctl p
  let q := if write then c.wrQ else c.rdQ
  ((s.heads p write).filterMap fun w =>
    match s.tier p write w with
    | none => none
    | some t =>
      if (w.op == opOrd || roomFor q t w.inp) && !s.penalised w.req && !s.blocked p write w then some ⟨t, w.inp, w.cls, some w⟩
      else none) ++ (s.askCand p write).toList

/-- Order of the tiers, highest first; a tier-4 input that has asked for 64 cycles goes ahead of tiers 3 and 5 (R136). -/
def tierRank (t wait4 : Nat) : Nat := if t = 4 && 64 ≤ wait4 then 5 else 2 * t

/-- How recently a class, or an input of it, was granted: 0 for never (R136). -/
def Reg.age (r : Reg) (f : Nat × Nat → Bool) : Nat :=
  match r.lru.findIdx? f with
  | none => 0
  | some i => 100 - min i 99

/-- Rank of a candidate: tier, then the least recently granted class, then the least recently granted input (R136). -/
def Reg.rank (r : Reg) (c : Cand) : Nat :=
  (tierRank c.tier r.wait4 * 1000 + r.age (fun e => e.1 == c.cls)) * 1000 + r.age (fun e => e == (c.cls, c.inp))

/-- The first of the least under a rank. -/
def leastBy {α : Type} (f : α → Nat) (l : List α) : Option α :=
  l.foldl (fun b a => match b with
    | none => some a
    | some v => if f a < f v then some a else some v) none

/-- The grant (R136, R137): the owner keeps it within a burst unless a higher tier asks. -/
def State.grant (s : State) (p : Nat) (write : Bool) : Option Cand :=
  let r := (s.ctl p).dir write
  let l := s.cands p write
  match leastBy r.rank l with
  | none => none
  | some b =>
    match l.find? fun c => r.owner == some c.inp && (match c.work with
      | some w => r.prog.contains (w.inp, w.uid)
      | none => false) with
    | some c => if tierRank c.tier r.wait4 ≤ tierRank b.tier r.wait4 then some c else some b
    | none => some b

/-- Account the admission of one block: u, the bucket, the grant order, the counters (R121-R123, R431). -/
def State.account (s : State) (p : Nat) (write : Bool) (w : Work) : State :=
  if 4 ≤ w.inp then s.onCtl p fun c => c.onDir write fun r => { r with wait4 := 0 }
  else
    let credit := s.inCredit p write w.cls
    let s := s.onCtl p fun c => c.onDir write fun r => { r with
      used := upd r.used w.cls (· + 1)
      tok := if credit then r.tok else upd r.tok w.cls (· - 1)
      lru := (w.cls, w.inp) :: (r.lru.filter (· != (w.cls, w.inp))) }
    s.count (.ctl p) (if write then 2 else 1) (some w.cls) 1 (fields [(w.req, 0), (w.cls, 12), (w.tag, 16)]) (BitVec.ofNat 32 (w.off / 64))

/-- Take the block a granted work moves off its input; a read of several blocks keeps the rest, and an ordered contribution moves
block by block (R137). -/
def dropWork (l : List Work) (w : Work) : List Work :=
  match l with
  | [] => []
  | v :: r =>
    if v = w then
      (if w.op = 0 && 1 < w.n then { w with n := w.n - 1, off := w.off + 64, idx := w.idx + 1 } :: r
       else if w.op = opOrd && w.idx + 1 < w.data.length then { w with idx := w.idx + 1 } :: r
       else r)
    else v :: dropWork r w

/-- Admit one block of a read (R132, R155, R237). A read that matches a combining-buffer entry forces its write-back, which it
then waits for (R155). -/
def State.admitRead (s : State) (p : Nat) (w : Work) : State :=
  if w.inp < 4 && !s.wants w.port w.uid w.idx then s.onCtl p fun c => { c with inRd := c.inRd.filter (· != w) }
  else
    let st := s.fresh p w.off
    let filling := (s.ctl p).fills.any fun f => f.gran == w.off / 16384
    match s.bookFor p false w with
    | none => s
    | some (k, s) =>
      let mine := w.port < 128 && w.inp < 4
      let s := if mine then s.onReq w.port w.uid fun r => { r with slots := r.slots ++ k } else s
      let s := s.onCtl p fun c => { c with inRd := dropWork c.inRd w }
      if st = 2 || (st = 0 && !filling) then
        let s := if mine then s else s.freeSlots k
        if 4 ≤ w.inp then s else s.gotBlock w.port w.uid w.idx 0 (st == 2)
      else
        let s := (s.account p false w).combBack p w.off
        s.onCtl p fun c => { c with
          rdQ := c.rdQ ++ [{ port := w.port, uid := w.uid, tag := w.tag, cls := w.cls, req := w.req, idx := w.idx, op := 0, off := w.off,
                             ord := c.nextOrd, enq := c.cyc, data := 0, aged := false, inp := w.inp, slots := if mine then [] else k }]
          nextOrd := c.nextOrd + 1 }

/-- Enter a write-back of corrected data, unless newer data has superseded it (R236, R243). -/
def State.admitBack (s : State) (p : Nat) (w : Work) (k : List Slot) : State :=
  if !((s.cur p).wbQ.any fun e => e.1 == w.off) then s.freeSlots k
  else
    let s := s.onCur p fun c => { c with wbQ := c.wbQ.filter fun e => e.1 != w.off }
    let s := s.account p true w
    let s := s.mirrorPut p w.off (w.data.headD 0)
    let s := s.onCtl p fun c => { c with eccWb := satAdd c.eccWb 1 }
    let s := if w.port = scrubPort then s.onRange fun r => { r with back := r.back + 1 } else s
    let s := s.count (.currier p) 0x06 none 1 (fields [(reqCurrier, 0)]) (BitVec.ofNat 32 (w.off / 64))
    s.enterWrite p { port := noPort, uid := 0, tag := 0, cls := 0, req := reqCurrier, idx := 0, op := opWrite, off := w.off, ord := 0,
                     enq := 0, data := w.data.headD 0, aged := false, inp := 4, slots := k }

/-- The next block of an ordered contribution is admitted; with its last the contribution reaches the arithmetic unit whole
(R123, R163). -/
def State.admitOrd (s : State) (p : Nat) (w : Work) : State :=
  let s := s.account p true w
  if w.idx + 1 < w.data.length then s else s.contribute p { w with idx := 0 }

/-- A plain write enters the queue, its buffered block written back before it; while its granule is copied it waits there
(R84, R112, R154, R159). -/
def State.admitPlain (s : State) (p : Nat) (w : Work) (k : List Slot) : State :=
  let s := (s.account p true w).combBack p w.off
  let s := (s.firstWrite p w.off).newer p w.off
  let held := s.inCopy p w.off
  let d := w.data.headD 0
  let s := s.enterWrite p { port := w.port, uid := w.uid, tag := w.tag, cls := w.cls, req := w.req, idx := w.idx, op := w.op, off := w.off,
                            ord := 0, enq := 0, data := d, aged := false, inp := w.inp, slots := w.slots ++ k, held := held }
  if held then s else (s.mirrorPut p w.off d).blocksDone w.port w.uid 1

/-- Admit a work of the write direction (R84, R154, R158, R161). An agent's block was written whole at its command; what enters
is the block as it stands (log 13). -/
def State.admitWrite (s : State) (p : Nat) (w : Work) : State :=
  match s.bookFor p true w with
  | none => s
  | some (k, s) =>
    let s := s.onCtl p fun c => { c with inWr := dropWork c.inWr w }
    if 4 ≤ w.inp && w.port < 1024 then s.admitBack p w k
    else if !s.wants w.port w.uid w.idx then s.freeSlots (w.slots ++ k)
    else if w.op = opOrd then s.admitOrd p w
    else if s.fresh p w.off = 2 then (s.freeSlots (w.slots ++ k)).blockFail w.port w.uid w.idx cPOISON
    else if w.op = opMasked && w.be = 0 then (s.freeSlots w.slots).blocksDone w.port w.uid 1
    else if isRmw w.op w.be then (s.account p true w).enterOp p w.off w.rop
    else if 1024 ≤ w.port then s.admitPlain p { w with data := [s.peek p w.off] } k
    else s.admitPlain p w k

/-- The progress records after work w has moved a block: its burst has begun and has blocks left, or has none (R137). -/
def State.progress (s : State) (p : Nat) (write : Bool) (w : Work) : State :=
  let open' := w.inp = 0 && (s.portAt p).any fun n => ((s.port n).openW.map (·.uid)) == some w.uid
  s.onCtl p fun c =>
    let more := ((if write then c.inWr else c.inRd).any fun v => v.inp == w.inp && v.uid == w.uid) || (write && open')
    c.onDir write fun r => { r with
      prog := (r.prog.filter fun e => e.1 != w.inp) ++ (if more then [(w.inp, w.uid)] else []) }

/-- One arbiter decision of a direction (R136, R137). The grant passes to the winner and stays parked on it; an announcement that
wins has the next cycle. A tier-4 input that asked in vain has waited one cycle more. -/
def State.arbitrate (s : State) (p : Nat) (write : Bool) : State :=
  let g := s.grant p write
  let vain := ((if write then (s.ctl p).inWr else (s.ctl p).inRd).any fun v => 4 ≤ v.inp) && (match g with
    | some c => c.inp < 4
    | none => true)
  let s := if vain then s.onCtl p fun c => c.onDir write fun r => { r with wait4 := r.wait4 + 1 } else s
  match g with
  | none => s
  | some c =>
    let s := s.onCtl p fun t => t.onDir write fun r => { r with owner := some c.inp }
    match c.work with
    | some w => (if write then s.admitWrite p w else s.admitRead p w).progress p write w
    | none =>
      let s := s.onCtl p fun t => t.onDir write fun r => { r with lru := (c.cls, 0) :: (r.lru.filter (· != (c.cls, 0))) }
      match s.portAt p with
      | some n => s.onPort n fun q => if write then { q with askWr := none } else { q with askRd := none }
      | none => s

/-- At the end of a cycle every class that admitted no block in a direction gets one token back (R123). -/
def State.refill (s0 s : State) (p : Nat) (write : Bool) : State :=
  let u0 := ((s0.ctl p).dir write).used
  s.onCtl p fun c => c.onDir write fun r => { r with
    tok := (List.range 16).map fun k =>
      let t := r.tok.getD k 0
      if u0.getD k 0 = r.used.getD k 0 then min (t + 1) (s.img.cls k).burst else t }

/-! ### Wait estimates (R93, R138) -/

/-- Cycles committed ahead of a request of class c at input inp of a direction: the blocks of higher tiers, what is left of the
owner's burst, and the inputs of its own tier granted less recently; 0xFF while the class is held (R138). -/
def State.estimate (s : State) (p : Nat) (write : Bool) (inp c : Nat) : Nat :=
  match s.clsTier p write c with
  | none => 0xFF
  | some t =>
    let r := (s.ctl p).dir write
    let l := if write then (s.ctl p).inWr else (s.ctl p).inRd
    let left := fun (w : Work) => if w.op = opOrd then w.data.length - w.idx else w.n
    let rank := fun (w : Work) => (s.tier p write w).map fun k => tierRank k r.wait4
    let mine := tierRank t r.wait4
    let higher := ((l.filter fun w => (match rank w with
      | some k => k < mine
      | none => false)).map left).sum
    let owner := ((l.filter fun w => r.owner == some w.inp && w.inp != inp && r.prog.contains (w.inp, w.uid) && rank w == some mine).map left).sum
    let before := ((s.heads p write).filter fun w => w.inp != inp && rank w == some mine && !r.prog.contains (w.inp, w.uid) &&
      r.rank ⟨t, w.inp, w.cls, none⟩ < r.rank ⟨t, inp, c, none⟩).length
    min 254 (higher + owner + before)

end Sys2Proof.Machine
end

