-- ==== Sys2Proof/Machine/Sched.lean ====
section
/-! DEFINITION. The channel scheduler: column and row commands of one CTL cycle, bank states, row disturbance, fills and the
migration copy (R111-R112, R146-R157, R166-R168, R176-R178, R206-R207). -/

namespace Sys2Proof.Machine

/-! ### Command words (R176-R178) -/

/-- Odd parity bit 46 and the marker over bits 45:0 (R176). -/
def slotWord (row : Bool) (n : Nat) : BitVec 48 :=
  let m := n % 2 ^ 46 + b2n row * 2 ^ 47
  let ones := ((List.range 48).filter fun i => bitN m i).length
  BitVec.ofNat 48 (m + (1 - ones % 2) * 2 ^ 46)

/-- A column slot: read and write as (Hide, bank 4g + b, column) (R177). -/
def colWord (rd wr : Option (Nat × Nat × Nat)) : BitVec 48 :=
  let half := fun (o : Option (Nat × Nat × Nat)) => match o with
    | none => 0
    | some (h, b, c) => 1 + h * 2 + b / 4 * 16 + b % 4 * 64 + c * 256
  slotWord false (half rd + half wr * 4096)

/-- ACT, PRE, REF, TRR to a bank; row and self where the command has them (R178). -/
def rowWord (op h b row : Nat) (self : Bool) : BitVec 48 :=
  slotWord true (op + h * 32 + b / 4 * 256 + b % 4 * 1024 + row * 4096 + b2n self * 2 ^ 26)
/-- PDE and PDX (R178). -/
def pdWord (op : Nat) (sr : Bool) (mask : Nat) : BitVec 48 := slotWord true (op + b2n sr * 2 ^ 26 + mask * 2 ^ 27)
/-- SENS. -/
def sensWord (h : Nat) : BitVec 48 := slotWord true (8 + h * 32)
/-- MRW. -/
def mrwWord (bcast : Bool) (h addr data : Nat) : BitVec 48 :=
  slotWord true (7 + h * 32 + b2n bcast * 256 + addr * 512 + data * 2 ^ 17)

/-! ### Banks and timing (R147, R153) -/

/-- Key of a bank: 16 x Hide + 4g + b (R206). -/
def Loc.key (l : Loc) : Nat := 16 * l.hide + l.bank
/-- Key of its bank group. -/
def Loc.grp (l : Loc) : Nat := 4 * l.hide + l.bank / 4

/-- A bank of a controller. -/
def Ctl.bk (c : Ctl) (key : Nat) : Bank := smGet {} c.banks key
/-- Change it. -/
def Ctl.onBk (c : Ctl) (key : Nat) (f : Bank → Bank) : Ctl := { c with banks := smSet {} c.banks key (f (c.bk key)) }

/-- At least k cycles have passed since a time kept as 1 + cycle, 0 for never. -/
def since (now t k : Nat) : Bool := t = 0 || t - 1 + k ≤ now

/-- Where an entry lies at the Hides of its own channel, with the row the command carries (R105, R250). -/
def State.place (s : State) (p off : Nat) : Loc :=
  let l := locate s.hides off
  { l with row := rowOn (s.ctl p) l.hide l.bank l.row }

/-- The bank of an access is lent: its commands go to the spare, not to this channel's Hides (R254). -/
def State.isLent (s : State) (p off : Nat) : Bool :=
  let l := locate s.hides off
  (s.ctl p).lent.contains l.key

/-- The refresh of a bank is at its limit (R207). -/
def State.refLimit (s : State) (p key : Nat) : Bool := 8 ≤ (smGet {} (s.cur p).bank key).count

/-- Another queued entry, older than e, waits for another row of e's bank (R150). -/
def State.olderOther (s : State) (p : Nat) (e : Entry) (l : Loc) : Bool :=
  ((s.ctl p).rdQ ++ (s.ctl p).wrQ).any fun f =>
    f.ord < e.ord && (let m := s.place p f.off; m.key == l.key && m.row != l.row)

/-- The bank is open at the entry's row and the row still gives hits (R148, R150). -/
def State.hits (s : State) (p : Nat) (e : Entry) (l : Loc) : Bool :=
  let b := (s.ctl p).bk l.key
  b.st == .opn && b.row == l.row && !((b.noHit || 16 ≤ b.hits) && s.olderOther p e l)

/-- A fill of a granule runs or waits (R156). -/
def Ctl.filling (c : Ctl) (off : Nat) : Bool := c.fills.any fun f => f.gran == off / 16384

/-- Block k of a fill, interleaved over the granule's 16 banks (R105, R156). -/
def Fill.off (f : Fill) : Nat := f.gran * 16384 + f.k % 4 * 1024 + f.k / 4 % 4 * 4096 + f.k / 16 * 64

/-- The write of a fill's next block. -/
def Fill.entry (f : Fill) : Entry :=
  { port := noPort, uid := 0, tag := 0, cls := 0, req := reqCurrier, idx := 0, op := opWrite, off := f.off, ord := 0, enq := 0, data := 0,
    aged := false, inp := 4 }

/-- The fills that run, at most four, and have blocks left. -/
def Ctl.running (c : Ctl) : List Fill := (c.fills.take 4).filter fun f => f.k < 256

/-- A hazard of R155 holds a read: an older write or buffered value of its block, or a fill of its granule. -/
def State.hazard (s : State) (p : Nat) (e : Entry) : Bool :=
  let c := s.ctl p
  c.wrQ.any (fun f => f.off == e.off && f.root.getD f.ord < e.ord) ||
  (e.op == 0 && c.comb.any fun f => f.off == e.off && f.ord < e.ord) ||
  c.filling e.off

/-- A pending ROT of a set (0 read, 1 write, 2 CA) blacks out this cycle, from its sixth cycle to its effect, and so does a
tracking slice: of the set's column commands, or of every command for a CA half's (R194, R197). -/
def State.blackout (s : State) (p set : Nat) : Bool :=
  let now := (s.ctl p).cyc
  (((s.link p).grps.drop (9 * set)).take (if set = 2 then 2 else 9)).any (fun g => match g.rot with
    | some (_, n) => decide (n + 6 ≤ now)
    | none => false) ||
  (match (s.link p).slice with
   | some (k, stop) => k == set && decide (now < stop)
   | none => false)

/-- A read entry is ready (R147, R148). -/
def State.rdReady (s : State) (p : Nat) (e : Entry) : Bool :=
  let c := s.ctl p
  let i := s.img
  let l := s.place p e.off
  !s.hazard p e && !s.blackout p 0 && (s.isLent p e.off ||
    (s.hits p e l && !s.refLimit p l.key && !c.pd.getLsbD l.hide && since c.cyc (smGet 0 c.pdxAt l.hide) (i.tc 0x0F) &&
     since c.cyc (smGet 0 c.rdAt l.grp) (i.tc 0x08) && since c.cyc (smGet 0 c.wrAt l.grp) (i.tc 0x0A)))

/-- A write column command may go to the entry's bank now (R147, R148). -/
def State.wrFits (s : State) (p : Nat) (e : Entry) : Bool :=
  let c := s.ctl p
  let i := s.img
  let l := s.place p e.off
  !s.blackout p 1 && (s.isLent p e.off ||
    (s.hits p e l && !s.refLimit p l.key && !c.pd.getLsbD l.hide && since c.cyc (smGet 0 c.pdxAt l.hide) (i.tc 0x0F) &&
     since c.cyc (smGet 0 c.wrAt l.grp) (i.tc 0x08) && since c.cyc (smGet 0 c.rdAt l.grp) (i.tc 0x09)))

/-- A write entry is ready: also no fill of its granule, no copy of it, and no older write of its block (R112, R148, R156). -/
def State.wrReady (s : State) (p : Nat) (e : Entry) : Bool :=
  let c := s.ctl p
  !e.held && !c.filling e.off && !(c.wrQ.any fun f => f.off == e.off && f.ord < e.ord) && s.wrFits p e

/-- The entry has waited 512 cycles (R148). -/
def Ctl.aged (c : Ctl) (e : Entry) : Bool := e.aged || e.enq + 512 ≤ c.cyc

/-- The first of the ready entries: aged, then class 15, then the rest, each oldest first (R148). -/
def pickEntry (c : Ctl) (l : List Entry) : Option Entry :=
  (l.find? fun e => c.aged e) <|> (l.find? fun e => e.cls == 15 && e.inp < 4) <|> l.head?

/-! ### Column commands -/

/-- Book-keeping of a column command at a bank: times, consecutive hits while an older entry waits for another row (R150), idle
count. -/
def State.colMark (s : State) (p : Nat) (e : Entry) (write : Bool) : State :=
  if s.isLent p e.off then s
  else
    let l := s.place p e.off
    let now := (s.ctl p).cyc
    let waits := s.olderOther p e l
    s.onCtl p fun c =>
      let c := c.onBk l.key fun b =>
        { b with hits := if waits then b.hits + 1 else 0, ordLast := e.ord, tRd := if write then b.tRd else now + 1, tWr := if write then now + 1 else b.tWr }
      if write then { c with wrAt := smSet 0 c.wrAt l.grp (now + 1), hideIdle := smSet 0 c.hideIdle l.hide (now + 1) }
      else { c with rdAt := smSet 0 c.rdAt l.grp (now + 1), hideIdle := smSet 0 c.hideIdle l.hide (now + 1) }

/-- The chosen read (R148). -/
def State.chooseRead (s : State) (p : Nat) : Option Entry :=
  pickEntry (s.ctl p) ((s.ctl p).rdQ.filter fun e => s.rdReady p e)

/-- The write may travel with the read: another bank group, or another Hide (R146). -/
def State.pairs (s : State) (p : Nat) (rd : Option Entry) (e : Entry) : Bool :=
  match rd with
  | none => true
  | some r => s.isLent p e.off || s.isLent p r.off || (s.place p r.off).grp != (s.place p e.off).grp

/-- The chosen write, which pairs with the read (R146, R148). -/
def State.chooseWrite (s : State) (p : Nat) (rd : Option Entry) : Option Entry :=
  pickEntry (s.ctl p) ((s.ctl p).wrQ.filter fun e => s.wrReady p e && s.pairs p rd e)

/-- The running fill whose next block may be written now: the one with the fewest blocks written; it has a slot of the request
floor, or can take one (R146, R156). -/
def State.chooseFill (s : State) (p : Nat) (rd : Option Entry) : Option Fill :=
  leastBy Fill.k ((s.ctl p).running.filter fun f =>
    s.wrFits p f.entry && s.pairs p rd f.entry && (f.slot.isSome || (s.floorSlot p 1).isSome))

/-- Issue a read column command: the block's stored value goes into flight; a granule that has changed state meanwhile
answers from the map (R237, R239). -/
def State.issueRead (s : State) (p : Nat) (e : Entry) : State :=
  let old := (s.ctl p).aged e
  let s := s.onCtl p fun c => { c with rdQ := c.rdQ.filter (· != e) }
  let s := if old && e.inp < 4 then s.count (.ctl p) 0x0F (some e.cls) 1 (fields [(e.req, 0), (e.cls, 12), (e.tag, 16)]) (BitVec.ofNat 32 (e.off / 64)) else s
  if s.fresh p e.off = 2 then
    let s := s.freeSlots e.slots
    (if e.op != 0 then s.failComb p e.off cPOISON else if e.inp < 4 then s.gotBlock e.port e.uid e.idx 0 true else s)
  else if s.fresh p e.off = 0 then
    let s := s.freeSlots e.slots
    (if e.op != 0 then (s.firstWrite p e.off).resolveComb p e.off 0
     else if e.inp < 4 then s.gotBlock e.port e.uid e.idx 0 false else s)
  else
    let d := s.stored p e.off
    let s := s.colMark p e false
    let s := s.onCtl p fun c => { c with flight := c.flight ++ [{ e with data := d, ue := s.isBad p e.off }] }
    s.count (.ctl p) 0x03 none 1 (fields [(e.req, 0), (e.cls, 12), (e.tag, 16)]) (BitVec.ofNat 32 (e.off / 64))

/-- Issue a write column command: the block is written to the Hide and its slot is free (R132). -/
def State.issueWrite (s : State) (p : Nat) (e : Entry) : State :=
  let old := (s.ctl p).aged e
  let s := s.onCtl p fun c => { c with wrQ := c.wrQ.filter (· != e) }
  let s := if old && e.inp < 4 then s.count (.ctl p) 0x0F (some e.cls) 1 (fields [(e.req, 0), (e.cls, 12), (e.tag, 16)]) (BitVec.ofNat 32 (e.off / 64)) else s
  let s := s.store p e.off e.data
  let s := s.freeSlots e.slots
  (s.colMark p e true).count (.ctl p) 0x04 none 1 (fields [(e.req, 0), (e.cls, 12), (e.tag, 16)]) (BitVec.ofNat 32 (e.off / 64))

/-- Write the next block of a fill (R156). -/
def State.issueFill (s : State) (p : Nat) (f : Fill) : State :=
  let k := if f.slot.isSome then none else s.floorSlot p 1
  let s := (k.map (·.2)).getD s
  let slot := if f.slot.isSome then f.slot else k.map (·.1)
  let s := (s.store p f.off 0).colMark p f.entry true
  s.onCtl p fun c => { c with
    fills := c.fills.map fun g => if g.gran = f.gran then { g with k := g.k + 1, slot := slot } else g
    fillSlots := min 3 (c.fillSlots + 1) }

/-! ### Row commands (R149, R166-R168) -/

/-- What a row slot can carry. -/
inductive RowCmd where
  | act (key row : Nat) (e : Entry)
  | pre (key : Nat) (conflict : Bool)
  | ref (key : Nat) (limit : Bool)
  | trr (i : Nat)
  | pdx (hide : Nat)
  | sens (hide : Nat)
  | rot (set grp pos : Nat)
deriving DecidableEq, Repr, Inhabited

/-- A bank takes a precharge (R147). -/
def State.preOk (s : State) (p key : Nat) : Bool :=
  let c := s.ctl p
  let b := c.bk key
  b.st == .opn && since c.cyc b.tAct (s.img.tc 3) && since c.cyc b.tRd (s.img.tc 0x0B) && since c.cyc b.tWr (s.img.tc 0x0C) &&
  !c.pd.getLsbD (key / 16)

/-- A bank takes an activate (R147, R167). -/
def State.actOk (s : State) (p key : Nat) : Bool :=
  let c := s.ctl p
  let i := s.img
  let b := c.bk key
  let h := key / 16
  let mine := c.actAt.filter fun a => a.1 == h
  b.st == .closed && !c.pd.getLsbD h && since c.cyc (smGet 0 c.pdxAt h) (i.tc 0x0F) && since c.cyc b.tAct (i.tc 4) &&
  mine.all (fun a => since c.cyc a.2.2 (if a.2.1 = key % 16 / 4 then i.tc 6 else i.tc 5)) &&
  (mine.filter fun a => !since c.cyc a.2.2 (i.tc 7)).length < 4 &&
  !s.refLimit p key && !((s.cur p).trr.any fun t => t.limit && 16 * t.hide + t.bank == key)

/-- Some queued entry still hits the open row of a bank (R150). -/
def State.rowWanted (s : State) (p key : Nat) : Bool :=
  ((s.ctl p).rdQ ++ (s.ctl p).wrQ).any fun e => let l := s.place p e.off; l.key == key && s.hits p e l

/-- The row command an entry needs now: power-down exit, precharge, activate (R149, R150). -/
def State.needs (s : State) (p : Nat) (e : Entry) : Option RowCmd :=
  let c := s.ctl p
  let l := s.place p e.off
  let b := c.bk l.key
  if s.isLent p e.off then none
  else if c.pd.getLsbD l.hide then some (.pdx l.hide)
  else if b.st == .opn && b.row != l.row then
    (if s.preOk p l.key && !s.rowWanted p l.key then some (.pre l.key true) else none)
  else if b.st == .closed then (if s.actOk p l.key then some (.act l.key l.row e) else none)
  else none

/-- The first row command that entries of a queue need, class 15 first (R149). -/
def State.needOf (s : State) (p : Nat) (q : List Entry) : Option RowCmd :=
  ((q.filter fun e => e.cls == 15 && e.inp < 4).findSome? (s.needs p)) <|>
  ((q.filter fun e => !(e.cls == 15 && e.inp < 4)).findSome? (s.needs p))

/-- A queued entry addresses the bank: Currier work below its limit does not delay it (R208). -/
def State.bankWanted (s : State) (p key : Nat) : Bool :=
  let c := s.ctl p
  ((c.rdQ ++ c.wrQ ++ c.running.map Fill.entry).any fun e => !s.isLent p e.off && (s.place p e.off).key == key)

/-- The step a refresh of a bank needs now (R207): below its limit it gives way to the bank's queued entries. -/
def State.refNeeds (s : State) (p key : Nat) (limit : Bool) : Option RowCmd :=
  let b := (s.ctl p).bk key
  if (s.ctl p).lent.contains key || (!limit && s.bankWanted p key) then none
  else if (s.ctl p).pd.getLsbD (key / 16) then some (.pdx (key / 16))
  else if b.st == .opn then (if s.preOk p key then some (.pre key false) else none)
  else if b.st == .closed && since (s.ctl p).cyc (smGet 0 (s.ctl p).pdxAt (key / 16)) (s.img.tc 0x0F) then some (.ref key limit)
  else none

/-- The step a queued targeted refresh needs now (R167). -/
def State.trrNeeds (s : State) (p i : Nat) (t : Trr) (limit : Bool) : Option RowCmd :=
  let key := 16 * t.hide + t.bank
  let b := (s.ctl p).bk key
  if (s.ctl p).lent.contains key || (!limit && s.bankWanted p key) then none
  else if (s.ctl p).pd.getLsbD t.hide then some (.pdx t.hide)
  else if b.st == .opn then (if s.preOk p key then some (.pre key false) else none)
  else if b.st == .closed && since (s.ctl p).cyc (smGet 0 (s.ctl p).pdxAt t.hide) (s.img.tc 0x0F) then some (.trr i)
  else none

/-- The step a sensor read of a Hide needs now: a power-down exit first (R157). -/
def State.sensNeeds (s : State) (p h : Nat) : Option RowCmd :=
  if (s.ctl p).pd.getLsbD h then some (.pdx h)
  else if since (s.ctl p).cyc (smGet 0 (s.ctl p).pdxAt h) (s.img.tc 0x0F) then some (.sens h)
  else none

/-- Data of the MRW to ROT (R183). -/
def rotData (set grp c : Nat) (park : Bool) : Nat := c + grp * 32 + set * 512 + b2n park * 2048

/-- The broadcast MRW to ROT takes the row slot of CTL cycle n: every Hide holds its data, and c applies 8 cycles later (R183, R194,
R196). -/
def State.sendRot (s : State) (p set grp c n : Nat) (park : Bool) : State :=
  let s := s.onCtl p fun t => { t with rowUsed := true, lastRow := mrwWord true 0 0x12 (rotData set grp c park) }
  s.onLink p fun l => { l with
    grps := upd l.grps (9 * set + grp) fun g => { g with rot := some (c, n) }
    mr := (List.range s.hides).foldl (fun m h => smSet 0 m (256 * h + 0x12) (BitVec.ofNat 16 (rotData set grp c park))) l.mr }

/-- The park whose ROT is due, once its group has no other ROT pending (R194, R196). -/
def State.rotNeeds (s : State) (p : Nat) : Option RowCmd :=
  let l := s.link p
  if l.st != .running && l.st != .retrain then none
  else match l.rotQ with
    | (set, grp, pos) :: _ => if (l.grps.getD (9 * set + grp) {}).rot.isNone then some (.rot set grp pos) else none
    | [] => none

/-- The row command of the cycle in the order of R149. Mode-register writes, idle-row precharges and power-down entries are
commands of their own, which take a row slot that this order has left free (log 3). -/
def State.chooseRow (s : State) (p : Nat) : Option RowCmd :=
  let cu := s.cur p
  let trr := fun (lim : Bool) => (List.range cu.trr.length).findSome? fun i =>
    let t := cu.trr.getD i ⟨0, 0, 0, false, 0, false⟩
    if (if t.selfRow then s.refLimit p (16 * t.hide + t.bank) else t.limit) = lim then s.trrNeeds p i t lim else none
  -- due items of a bank that are weak-row refreshes (R207)
  let weak := fun (key : Nat) => (cu.trr.filter fun t => t.selfRow && 16 * t.hide + t.bank == key).length
  (cu.bank.findSome? fun e => if 8 ≤ e.2.count && weak e.1 < e.2.count then s.refNeeds p e.1 true else none) <|>
  trr true <|>
  s.needOf p ((s.ctl p).rdQ.filter fun e => !s.hazard p e) <|>
  s.needOf p ((s.ctl p).wrQ.filter fun e => !e.held && !(s.ctl p).filling e.off) <|>
  s.needOf p ((s.ctl p).running.map Fill.entry) <|>
  (cu.bank.findSome? fun e => if weak e.1 < e.2.count && e.2.count < 8 then s.refNeeds p e.1 false else none) <|>
  trr false <|>
  cu.sensReq.findSome? (s.sensNeeds p) <|>
  s.rotNeeds p

/-- Count an activate of a row in the bank's tracker (R166): the new tracker and the row's estimate. Of several entries with the
lowest estimate the first is taken over (log 26). -/
def trackAct (t : List (Nat × Nat)) (row : Nat) : List (Nat × Nat) × Nat :=
  match t.find? fun e => e.1 == row with
  | some e => (t.map (fun f => if f.1 = row then (f.1, f.2 + 1) else f), e.2 + 1)
  | none =>
    if t.length < 8 then (t ++ [(row, 1)], 1)
    else
      let m := t.foldl (fun a f => min a f.2) ((t.headD (0, 0)).2)
      let i := (t.findIdx? fun f => f.2 == m).getD 0
      (upd t i fun _ => (row, m + 1), m + 1)

/-- A requester crosses the row threshold at a bank (R167, R168): a slice port is held for the penalty, an Awl or a mover channel is
granted at no arbiter; the Currier and the migration copy are never throttled. `row` is the row the activate carried, `data` the
row it stands for, which the targeted refresh names until it is issued (R250). -/
def State.rhThrottle (s : State) (p hide bank row data req : Nat) : State :=
  let s := s.onCur p fun c => { c with trr := c.trr ++ [⟨hide, bank, data, false, 0, false⟩] }
  if req = reqCurrier || req = reqMig then s
  else
    let s := s.onCtl p fun c => { c with
      rhEvent := true, rhReq := BitVec.ofNat 9 req, rhHide := BitVec.ofNat 3 hide, rhBank := BitVec.ofNat 4 bank,
      rhRow := BitVec.ofNat 14 row, rhCount := satAdd c.rhCount 1 }
    let s := if req < 128 then s.hold req .rowPenalty
      else if s.rhHeld.contains req then s else { s with rhHeld := s.rhHeld ++ [req] }
    s.count (.ctl p) 0x11

/-- ACT (R153, R166, R167). -/
def State.doAct (s : State) (p key row : Nat) (e : Entry) : State :=
  let h := key / 16
  let b := (s.ctl p).bk key
  let t := trackAct b.trk row
  let th := s.img.policy.rhThresh
  let hot := th != 0 && th ≤ t.2
  let now := (s.ctl p).cyc
  let s := s.onCtl p fun c =>
    let c := c.onBk key fun b =>
      { b with st := .opening, row := row, tAct := now + 1, hits := 0, noHit := false,
               trk := if hot then t.1.map (fun f => if f.1 = row then (f.1, 0) else f) else t.1 }
    { c with actAt := (h, key % 16 / 4, now + 1) :: (c.actAt.filter fun a => !since now a.2.2 (s.img.tc 7 + s.img.tc 6)),
             hideIdle := smSet 0 c.hideIdle h (now + 1), lastRow := rowWord 1 h (key % 16) row false }
  let s := s.onCur p fun c => { c with
    trr := c.trr.map fun t =>
      if 16 * t.hide + t.bank = key && !t.selfRow then { t with acts := t.acts + 1, limit := t.limit || 64 ≤ t.acts + 1 } else t }
  let s := s.count (.ctl p) 0x06 none 1 (fields [(e.req, 0), (e.cls, 12), (e.tag, 16)]) (BitVec.ofNat 32 (e.off / 64))
  if hot then s.rhThrottle p h (key % 16) row (locate s.hides e.off).row e.req else s

/-- PRE (R153). -/
def State.doPre (s : State) (p key : Nat) (conflict : Bool) : State :=
  let now := (s.ctl p).cyc
  let s := s.onCtl p fun c =>
    { c.onBk key (fun b => { b with st := .closing, tPre := now + 1 }) with
      hideIdle := smSet 0 c.hideIdle (key / 16) (now + 1), lastRow := rowWord 2 (key / 16) (key % 16) 0 false }
  let s := s.count (.ctl p) 0x07
  if conflict then s.count (.ctl p) 0x08 else s

/-- A refresh round of a bank ends (R206, R209): position and rounds, the trackers, a fall of rate that waits. -/
def State.roundEnd (s : State) (p key : Nat) : State :=
  let s := s.onCur p fun c =>
    { c with
      bank := smSet {} c.bank key (let b := smGet {} c.bank key; { b with pos := 0, rounds := b.rounds + 1 })
      weak := c.weak.map fun w => if 16 * w.hide + w.bank = key then { w with done := 0 } else w }
  -- a fall of rate reaches the bank now, and the Hide with its last bank (R209)
  let s := match (s.cur p).fall.getD (key / 16) none with
    | none => s
    | some r =>
      let h := key / 16
      let fell := if (s.cur p).fell.contains key then (s.cur p).fell else (s.cur p).fell ++ [key]
      if (List.range 16).all fun b => fell.contains (16 * h + b) || (s.ctl p).lent.contains (16 * h + b) then
        s.onCur p fun c => { c with
          rate := upd c.rate h fun _ => r, fall := upd c.fall h fun _ => none, fell := fell.filter fun k => k / 16 != h }
      else s.onCur p fun c => { c with fell := fell }
  s.onCtl p fun c => c.onBk key fun b => { b with trk := [] }

/-- REF (R153, R206, R207). -/
def State.doRef (s : State) (p key : Nat) (limit : Bool) : State :=
  let now := (s.ctl p).cyc
  let s := if 6176 ≤ (smGet {} (s.cur p).bank key).pos then s.roundEnd p key else s
  let s := s.onCtl p fun c =>
    { c.onBk key (fun b => { b with st := .refreshing, tRef := now + 1, trr := false }) with
      hideIdle := smSet 0 c.hideIdle (key / 16) (now + 1), lastRow := rowWord 3 (key / 16) (key % 16) 0 false }
  let s := s.onCur p fun c => { c with
    bank := smSet {} c.bank key (let b := smGet {} c.bank key; { b with count := b.count - 1, pos := b.pos + 1 })
    limitCnt := if limit then satAdd c.limitCnt 1 else c.limitCnt }
  let s := s.count (.currier p) 0x01
  if limit then s.count (.currier p) 0x02 else s

/-- TRR (R153, R167, R211): a weak-row refresh shares the bank's deferral count. -/
def State.doTrr (s : State) (p i : Nat) : State :=
  match (s.cur p).trr[i]? with
  | none => s
  | some t =>
    let key := 16 * t.hide + t.bank
    let now := (s.ctl p).cyc
    let s := s.onCtl p fun c =>
      { c.onBk key (fun b => { b with st := .refreshing, tRef := now + 1, trr := true }) with
        hideIdle := smSet 0 c.hideIdle t.hide (now + 1), lastRow := rowWord 4 t.hide t.bank (rowOn c t.hide t.bank t.row) t.selfRow }
    let s := s.onCur p fun c => { c with
      trr := c.trr.eraseIdx i
      bank := if t.selfRow then
          smSet {} c.bank key (let b := smGet {} c.bank key; { b with count := b.count - 1 }) else c.bank }
    s.count (.currier p) (if t.selfRow then 0x04 else 0x03)

/-- Power-down exit of a layer-bank (R157). -/
def State.doPdx (s : State) (p hide : Nat) : State :=
  s.onCtl p fun c => { c with
    pd := c.pd &&& ~~~((1 : BitVec 8) <<< hide), pdxAt := smSet 0 c.pdxAt hide (c.cyc + 1),
    hideIdle := smSet 0 c.hideIdle hide (c.cyc + 1), lastRow := pdWord 6 false (2 ^ hide) }

/-- Issue a row command. -/
def State.issueRow (s : State) (p : Nat) : RowCmd → State
  | .act key row e => s.doAct p key row e
  | .pre key c => s.doPre p key c
  | .ref key l => s.doRef p key l
  | .trr i => s.doTrr p i
  | .pdx h => s.doPdx p h
  | .rot set grp pos => (s.onLink p fun l => { l with rotQ := l.rotQ.drop 1 }).sendRot p set grp pos (s.ctl p).cyc true
  | .sens h =>
    let s := s.onCur p fun c => { c with sensReq := c.sensReq.filter (· != h) }
    -- the Currier reads SENS_RAW over the sideband (R215)
    let s := s.onLink p fun l => { l with sbQ := l.sbQ ++ [h] }
    s.onCtl p fun c => { c with hideIdle := smSet 0 c.hideIdle h (c.cyc + 1), lastRow := sensWord h }

/-! ### The migration copy (R112) -/

/-- Writes that waited for the copy of a granule are mirrored and acknowledged (R111, R112). -/
def State.unheld (s : State) (p : Nat) : State :=
  ((s.ctl p).wrQ.filter (·.held)).foldl (fun s e =>
    if s.inCopy p e.off then s
    else
      let s := s.onCtl p fun c => { c with wrQ := c.wrQ.map fun f => if f = e then { f with held := false } else f }
      (s.mirrorPut p e.off e.data).blocksDone e.port e.uid 1) s

/-- The copy goes on to the next granule. -/
def State.copyNext (s : State) (p : Nat) : State :=
  (s.onSec (secOf p) fun e => { e with copyAt := e.copyAt + 1, copySub := 0, copyGot := 0 }).unheld p

/-- One cycle of the copy of channel p to its spare (R112): an unwritten granule is skipped, a poisoned one marked; of a written
one the next block is asked for at the Currier input, at most one in 4 cycles and one at a time. Banks that the channel has at
the spare already are not copied (R255). -/
def State.copyCycle (s : State) (p : Nat) : State :=
  let x := secOf p
  let e := s.sec x
  let sp := spareOf x
  if e.sp != .copy || posOf p != e.pos.toNat || s.ctlQuiet p || s.ctlQuiet sp || !s.canIssue p || !s.canIssue sp ||
      s.grans ≤ e.copyAt then s
  else
    let g := e.copyAt
    let st := smGet 0 (s.ctl p).fresh g
    if st = 0 then s.copyNext p
    else if st = 2 then (s.setFresh sp g 2).copyNext p
    else if e.copySub = 256 then (if e.copyGot = 256 then s.copyNext p else s)
    else if e.copySub != e.copyGot || !since (s.ctl p).cyc e.copyT 4 then s
    else
      let off := g * 16384 + e.copySub * 64
      let s := if e.copySub = 0 && s.fresh sp (g * 16384) = 0 then (s.zeroGran sp g).setFresh sp g 1 else s
      if s.isLent p off then s.onSec x fun e => { e with copySub := e.copySub + 1, copyGot := e.copyGot + 1 }
      else
        let s := s.onSec x fun e => { e with copySub := e.copySub + 1, copyT := (s.ctl p).cyc + 1 }
        s.onCtl p fun c => { c with inRd := c.inRd ++
          [{ port := noPort, uid := 0, tag := 0, cls := 0, req := reqMig, op := 0, arg := 0, lch := 0, off := off, idx := 0, n := 1,
             data := [], be := 0, inp := 5, first := 0 }] }

/-- A block read by the copy has come back: the spare's write queue takes it (R111, R112). -/
def State.copyBlock (s : State) (p off : Nat) (d : Block) : State :=
  let e := s.sec (secOf p)
  if e.sp != .copy || posOf p != e.pos.toNat || off / 16384 != e.copyAt then s
  else (s.onSec (secOf p) fun e => { e with copyGot := e.copyGot + 1 }).mirrorPut p off d

/-! ### The range operation (R239, R245) -/

/-- One step of share i at its serving channel p: a granule of a CLEAR or POISON, a granule that a SCRUB skips, or a block that
it asks for at the Currier input. -/
def State.shareStep (s : State) (p i : Nat) : State :=
  match s.seq.range.shares[i]? with
  | none => s
  | some a =>
    let g := a.pos / 16384
    let st := smGet 0 (s.ctl p).fresh g
    let next := min a.stop ((g + 1) * 16384)
    let adv := fun (s : State) (n : Nat) => s.onRange fun r => { r with shares := upd r.shares i fun a => { a with pos := n } }
    if s.seq.range.op = 1 then
      if st = 1 then s.currierRead p scrubPort a.pos
      else (adv s next).onRange fun r => { r with skipped := r.skipped + 1 }
    else
      let v := if s.seq.range.op = 2 then 0 else 2
      let s := if st = v then s else s.markGran p g v
      let s := if v = 2 && st != 2 then s.onCtl p fun c => { c with eccEv := c.eccEv ||| 4 } else s
      (adv s next).onRange fun r => { r with doneCnt := r.doneCnt + 1, changed := r.changed + b2n (st != v) }

/-- The range work of one CTL cycle at channel p: a SCRUB asks for a block in one cycle of four, one at a time. -/
def State.rangeCycle (s : State) (p : Nat) : State :=
  let r := s.seq.range
  if !r.busy || s.curQuiet p || !s.canIssue p then s
  else match r.shares.findIdx? fun a => !a.ended && a.pos < a.stop && s.serving a.lch == some p with
    | none => s
    | some i =>
      let g := ((r.shares[i]?.map (·.pos)).getD 0) / 16384
      if r.op = 1 && smGet 0 (s.ctl p).fresh g = 1 && ((s.ctl p).cyc % 4 != 0 || (s.ctl p).asks scrubPort) then s else s.shareStep p i

/-- Blocks of a bank (R105). -/
def bankBlocks : Nat := 16 * Config.rows

/-- The next block from index k on, 16 x row + column, of a written granule in a bank of channel p. -/
def State.nextBlock (s : State) (p hide k : Nat) : Option Nat :=
  ((s.ctl p).fresh.find? fun e => e.2 == 1 && e.1 % s.hides == hide && k / 16 ≤ e.1 / s.hides).map fun e => max k (16 * (e.1 / s.hides))

/-- The profiling work of one CTL cycle: the pre-read or post-read of the bank asks for its next block, one at a time (R213). -/
def State.profCycle (s : State) (p : Nat) : State :=
  let c := s.cur p
  if !(c.profStep = 1 || c.profStep = 3) || (s.ctl p).lent.contains (16 * c.profHide + c.profBank) || bankBlocks ≤ c.profAt || s.curQuiet p || !s.canIssue p || (s.ctl p).asks profPort then s
  else match s.nextBlock p c.profHide c.profAt with
    | none => s.onCur p fun c => { c with profAt := bankBlocks }
    | some k =>
      (s.onCur p fun c => { c with profAt := k + 1 }).currierRead p profPort
        (rowOffset s.hides c.profHide c.profBank (k / 16) + 64 * (k % 16))

/-! ### One CTL cycle -/

/-- Slot accounting of one direction: RETIRED, WASTED, STARVED_FRONT, STARVED_BACK (R435). -/
def State.slotCount (s : State) (p : Nat) (write : Bool) (k : Nat) : State :=
  let x := secOf p
  if s.histMode x || (s.seq.bist.phase != 0 && s.seq.bist.entry == (UnitId.ctl p).idx) || (s.fr (.ctl p)).st == .resetting ||
      (s.fr (.ctl p)).st == .fenced then s
  else s.onSec x fun e =>
    let key := 8 * posOf p + 4 * b2n write + k
    { e with slots := smSet 0 e.slots key (smGet 0 e.slots key + 1) }

/-- Category of a direction in a cycle: whether an issued entry is a request's, whether other work used the slot, and the
queue left. -/
def slotCat (issued : Option Entry) (other withheld : Bool) (q : List Entry) : Nat :=
  match issued with
  | some e => if e.inp < 4 then 0 else 1
  | none => if other || withheld then 1 else if q.all (fun e => 4 ≤ e.inp) then 2 else 3

/-- The column and row slots of one cycle (R148-R150, R156), with the slot accounting. -/
def State.slots (s : State) (p : Nat) : State :=
  let c0 := s.ctl p
  let withheld := c0.frozen || c0.selfRef
  if !s.canIssue p || s.blackout p 2 then ((s.onCtl p fun c => { c with rowUsed := true }).slotCount p false (slotCat none false withheld c0.rdQ)).slotCount p true (slotCat none false withheld c0.wrQ)
  else
    let rd := s.chooseRead p
    let wr := s.chooseWrite p rd
    -- fill blocks take every write slot that no other write is ready for, and three of four otherwise (R156)
    let fill := if wr.isNone || c0.fillSlots < 3 then s.chooseFill p rd else none
    let wr := if fill.isSome then none else wr
    let col := if fill.isSome then fill.map Fill.entry else wr
    let where_ := fun (e : Entry) => let l := s.place p e.off; (l.hide, l.bank, (locate s.hides e.off).col)
    let s := (s.slotCount p false (slotCat rd false false c0.rdQ)).slotCount p true (slotCat wr fill.isSome false c0.wrQ)
    let s := if rd.isSome || col.isSome then s.onCtl p fun c => { c with lastCol := colWord (rd.map where_) (col.map where_) } else s
    let s := match rd with
      | some e => s.issueRead p e
      | none => s
    let s := match fill, wr with
      | some f, _ => s.issueFill p f
      | none, some e => (s.issueWrite p e).onCtl p fun c => { c with fillSlots := 0 }
      | none, none => s
    let s := if rd.isSome && col.isSome then s.count (.ctl p) 0x05 else s
    -- the row command is chosen last (R148)
    let row := s.chooseRow p
    let s := s.onCtl p fun c => { c with rowUsed := row.isSome }
    match row with
    | some r => s.issueRow p r
    | none => s

/-- Buffer entries no operation has touched for 4 cycles, and those a waiting read needs, are written back (R155, R159). -/
def State.combIdle (s : State) (p : Nat) : State :=
  let c := s.ctl p
  ((c.comb.filter fun e => e.val.isSome && e.pend.isEmpty &&
      (e.last + 4 ≤ c.cyc || c.rdQ.any fun r => r.off == e.off && e.ord < r.ord)).map (·.off)).foldl
    (fun s off => s.combBack p off) s

/-- Kind L conditions of the cycle (R431). -/
def State.levels (s : State) (p : Nat) : State :=
  let c := s.ctl p
  let n := s.portAt p
  let raw := c.rdQ.any fun e => s.hazard p e
  let stall := match n with
    | some n => !(s.port n).rsp.isEmpty
    | none => false
  let holds := match n with
    | some n => s.holdBits n
    | none => 0
  let s := s.countL (.ctl p) 0x09 raw (c.lvl.getLsbD 0)
  let s := s.countL (.ctl p) 0x10 (c.pd != 0) (c.lvl.getLsbD 1)
  let s := s.countL (.ctl p) 0x13 stall (c.lvl.getLsbD 2)
  let s := s.countLC (.ctl p) 0x0E holds c.lvlHold
  let dark := s.blackout p 0 || s.blackout p 1 || s.blackout p 2
  let fast := (s.cur p).rate.any (· != 0)
  let s := s.countL (.link p) 0x05 dark (c.lvl.getLsbD 3)
  let s := s.countL (.link p) 0x06 (s.link p).rtSlice (c.lvl.getLsbD 4)
  let s := s.countL (.currier p) 0x07 fast (c.lvl.getLsbD 5)
  s.onCtl p fun c => { c with
    lvl := BitVec.ofNat 6 (b2n raw + 2 * b2n (c.pd != 0) + 4 * b2n stall + 8 * b2n dark + 16 * b2n (s.link p).rtSlice + 32 * b2n fast)
    lvlHold := holds }

/-- Nothing carries a row command in the present row slot; a command takes it (R146). -/
def State.rowFree (s : State) (p : Nat) : Bool := s.canIssue p && !(s.ctl p).rowUsed

/-- The row slot is taken by a command word. -/
def State.takeRow (s : State) (p : Nat) (w : BitVec 48) : State := s.onCtl p fun c => { c with rowUsed := true, lastRow := w }

/-- One CTL cycle of channel p: responses, admission, the slots, the copy, the tokens (R90, R123, R136, R148). -/
def State.ctlCycle (s : State) (p : Nat) : State :=
  let s0 := s
  let s := match s.portAt p with
    | some n => s.presentAck n
    | none => s
  let s :=
    if s.canIssue p then
      let s := s.arbitrate p false
      let s := if (s.ctl p).ordRun.isEmpty then s.arbitrate p true else s.ordStep p
      s.combIdle p
    else s
  let s := s.slots p
  let s := s.copyCycle p
  let s := s.rangeCycle p
  let s := s.profCycle p
  let s := (State.refill s0 s p false)
  let s := (State.refill s0 s p true)
  let s := s.levels p
  let s := s.refreshHolds p
  let s := match s.portAt p with
    | some n => s.onPort n fun q => { q with cyc := q.cyc + 1 }
    | none => s
  s.onCtl p fun c => { c with cyc := c.cyc + 1 }

end Sys2Proof.Machine
end

