-- ==== Sys2Proof/Machine/Graph.lean ====
section
/-! DEFINITION. The running of Harnesses: slots, submissions, node and Harness states, parts at the Awls, completion and
engine loss (R303-R305, R319, R321-R325, R328-R335). -/

namespace Sys2Proof.Machine

/-! ### Detail codes (R329) -/

/-- CYCLE. -/
def dCYCLE : Nat := 0x10
/-- DANGLING. -/
def dDANGLING : Nat := 0x11
/-- BUCKET_RANGE. -/
def dBUCKET : Nat := 0x12
/-- DESC. -/
def dDESC : Nat := 0x13
/-- NODE. -/
def dNODE : Nat := 0x14
/-- WORK_SHORT. -/
def dWORK : Nat := 0x15
/-- OVERLAP. -/
def dOVERLAP : Nat := 0x16
/-- PRIVILEGE. -/
def dPRIV : Nat := 0x17
/-- GEN_SRC. -/
def dGENSRC : Nat := 0x18
/-- LIMIT. -/
def dLIMIT : Nat := 0x19
/-- CANCELLED. -/
def dCANCEL : Nat := 0x1A
/-- STOPPED. -/
def dSTOPPED : Nat := 0x1B
/-- NO_MOVER. -/
def dNOMOVER : Nat := 0x1C
/-- AWL_LOST. -/
def dAWLLOST : Nat := 0x1D

/-! ### Accessors -/

/-- Slot k of engine x. -/
def State.slot (s : State) (x k : Nat) : HSlot := (s.har x).slots.getD k {}
/-- Change it. -/
def State.onSlot (s : State) (x k : Nat) (f : HSlot → HSlot) : State := s.onHar x fun h => { h with slots := upd h.slots k f }
/-- Node i of the Harness in slot k. -/
def State.node (s : State) (x k i : Nat) : Node := (s.slot x k).nodes.getD i {}
/-- Change it. -/
def State.onNode (s : State) (x k i : Nat) (f : Node → Node) : State := s.onSlot x k fun l => { l with nodes := upd l.nodes i f }

/-- State code of a node (R319). -/
def NodeSt.num : NodeSt → Nat
  | .waiting => 0 | .ready => 1 | .running => 2 | .done => 3 | .failed => 4 | .skipped => 5 | .notRun => 6
/-- The node has ended. -/
def NodeSt.ended : NodeSt → Bool
  | .done | .failed | .skipped | .notRun => true
  | _ => false
/-- State code of a slot (R339). -/
def SlotSt.num : SlotSt → Nat
  | .free => 0 | .validating => 1 | .running => 2 | .failing => 3 | .cancelling => 4 | .ended => 5
/-- A Harness whose nodes run or end. -/
def SlotSt.active : SlotSt → Bool
  | .running | .failing | .cancelling => true
  | _ => false

/-- The engine of sector x is lost (R335). -/
def State.engLost (s : State) (x : Nat) : Bool :=
  s.isFenced (.harness x) || (s.fr (.harness x)).st == .resetting || s.isFenced (.sector x) || (s.sec x).off

/-- No node is dispatched: a quiesce, a self-test slice, an orderly stop or the safe state (R334, R337, R404). -/
def State.paused (s : State) (x : Nat) : Bool :=
  let f := s.fr (.harness x)
  f.st == .quiescing || f.st == .quiesced || (s.seq.bist.phase != 0 && s.seq.bist.entry == (UnitId.harness x).idx) ||
  s.safe.on || s.seq.therm == .stopping || s.seq.therm == .stopped || s.seq.therm == .emergency

/-! ### The HAR_END queue and completion (R331, R332) -/

/-- Push a HAR_END entry; one that does not fit sets end_lost. -/
def State.pushEnd (s : State) (x slot : Nat) (code : BitVec 4) (signal : Bool) (node : Nat) : State :=
  s.onHar x fun h =>
    if h.endQ.length < 64 then
      { h with endQ := h.endQ ++ [fields [(slot, 0), (code.toNat, 6), (b2n signal, 10), (node % 4096, 11), (1, 31)]] }
    else { h with ev := h.ev ||| 0x20 }

/-- Set a HAR_EVENT bit. -/
def State.harEv (s : State) (x bit : Nat) : State := s.onHar x fun h => { h with ev := h.ev ||| ((1 : BitVec 6) <<< bit) }

/-- The completion record (R331). -/
def State.record (s : State) (x k : Nat) : Block :=
  let l := s.slot x k
  let num := fun (t : NodeSt) => (l.nodes.filter fun n => n.st == t).length
  BitVec.ofNat 512
    (l.code.toNat + l.detail * 2 ^ 8 + 2 ^ 31 + l.seq.toNat * 2 ^ 32 + l.user.toNat * 2 ^ 64 +
     (l.fail.getD 0) * 2 ^ 96 + b2n l.fail.isSome * 2 ^ 111 + x * 2 ^ 112 + k * 2 ^ 120 +
     num .done * 2 ^ 128 + num .failed * 2 ^ 144 + num .notRun * 2 ^ 160 + num .skipped * 2 ^ 176 +
     l.tSub.toNat * 2 ^ 192 + l.tEnd.toNat * 2 ^ 256)

/-! ### Submission (R304, R305) -/

/-- The lowest free slot. -/
def State.freeSlotOf (s : State) (x : Nat) : Option Nat := (s.har x).slots.findIdx? fun l => l.st == .free

/-- Answer a submission. -/
def State.answerSub (s : State) (x : Nat) (sub : Sub) (code : BitVec 4) (slot : Nat) : State :=
  match sub.port with
  | some (n, uid) => (s.onReq n uid fun r => { r with doneN := if code = cOK then 1 else 0 }).finish n uid code
  | none => s.onHar x fun h => { h with subBusy := false, subCode := code, subSlot := BitVec.ofNat 6 slot }

/-- A submission may take a slot now (R304, R334, R337). -/
def State.takesSlots (s : State) (x : Nat) : Bool :=
  let f := s.fr (.harness x)
  !(f.st == .quiescing || f.st == .quiesced || s.engLost x) && s.seq.therm != .stopped && s.seq.therm != .emergency &&
  !s.safe.on

/-- A submission takes the lowest free slot and is acknowledged (R304, R330). -/
def State.takeSlot (s : State) (x k : Nat) (sub : Sub) : State :=
  let s := s.onHar x fun h => { h with seq := h.seq + 1 }
  let s := s.onSlot x k fun _ =>
    { st := .validating, seq := (s.har x).seq, addr := sub.addr, origin := sub.origin, subCls := sub.cls, tSub := s.mgmt.elapsed }
  (s.answerSub x sub cOK k).count (.harness x) 0x01 none 1 (fields [(k, 0)])

/-- Waiting submissions take free slots in arrival order; a management submission waits through an orderly stop (R337). -/
def State.serveSubs (s : State) (x : Nat) : Nat → State
  | 0 => s
  | n + 1 =>
    if !s.takesSlots x then s
    else match (s.har x).waitQ, s.freeSlotOf x with
    | sub :: rest, some k =>
      if sub.port = none && s.seq.therm = .stopping then s
      else ((s.onHar x fun h => { h with waitQ := rest }).takeSlot x k sub).serveSubs x n
    | _, _ => s

/-- A submission arrives at engine x: refused, or it joins the queue and takes a slot when one is free. -/
def State.submit (s : State) (x : Nat) (sub : Sub) : State :=
  if s.safe.on || s.engLost x then s.answerSub x sub cFENCED 0
  else
    let s := s.onHar x fun h => { h with waitQ := h.waitQ ++ [sub], subBusy := h.subBusy || sub.port.isNone }
    s.serveSubs x 64

/-- The slot's record is written, or cannot be, and the slot is free (R330-R332). -/
def State.closeSlot (s : State) (x k : Nat) : State :=
  let l := s.slot x k
  let (code, s) := if l.read then s.posted (ownPost x) l.cls fun s => s.paWrite l.doneAt l.origin (s.record x k) else (cBAD, s)
  let ok := l.read && code == cOK
  let s := if ok then s else s.harEv x 3
  let s := if l.read && l.irqEnd then s.harEv x 0 else s
  let s := if !ok || l.irqEnd then s.pushEnd x k l.code false 0 else s
  (s.onSlot x k fun _ => {}).serveSubs x 64

/-! ### The work area (R319, R323) -/

/-- Byte offset of a node's successor list in the work area. -/
def HSlot.listAt (l : HSlot) (i : Nat) : Nat := 16 * l.nodes.length + 2 * ((l.nodes.take i).map (·.succ.length)).sum

/-- The 16 bytes of a node's entry. -/
def HSlot.entry (l : HSlot) (i : Nat) : List Byte :=
  let n := l.nodes.getD i {}
  leBytes (n.st.num + n.code.toNat * 16 + n.detail * 256 + n.disp * 65536 + n.prog % 2 ^ 32 * 2 ^ 32 + n.await % 65536 * 2 ^ 64 +
    n.succ.length % 65536 * 2 ^ 80 + l.listAt i * 2 ^ 96) 16

/-- Write the entry of a node; the code of the write. -/
def State.putEntry (s : State) (x k i : Nat) : BitVec 4 × State :=
  let l := s.slot x k
  if s.safe.on || s.seq.therm = .emergency then (cOK, s)
  else s.posted (ownPost x) l.cls fun s => s.paPatch (l.work + 16 * i) l.origin (l.entry i)

/-- Lower the count of awaited predecessors (R328). -/
def State.lower (s : State) (x k i : Nat) : State :=
  s.onNode x k i fun n =>
    if n.st != .waiting then n
    else { n with await := n.await - 1, st := if n.await ≤ 1 then .ready else .waiting }

/-- A failing or cancelled Harness: every node with always = 0 not dispatched becomes NOT_RUN, and its successors with
always = 1 are lowered (R324, R328). With `all`, every node not dispatched (R335, R337). -/
def State.sweep (s : State) (x k : Nat) (all : Bool := false) : State :=
  let l := s.slot x k
  let hit := (List.range l.nodes.length).filter fun i =>
    let n := l.nodes.getD i {}
    (all || !n.always) && (n.st == .waiting || n.st == .ready)
  let s := hit.foldl (fun s i => s.onNode x k i fun n => { n with st := .notRun }) s
  let s := hit.foldl (fun s i => (l.nodes.getD i {}).succ.foldl (fun s j => if (s.node x k j).always then s.lower x k j else s) s) s
  hit.foldl (fun s i => (s.putEntry x k i).2) s

/-- Every node has ended: the Harness is ENDED with its code (R330). -/
def State.settleSlot (s : State) (x k : Nat) : State :=
  let l := s.slot x k
  if l.st.active && l.nodes.all (fun n => n.st.ended) then
    let failed := l.fail.isSome || l.failCode != 0
    -- a Harness that fails without a first failure has met an orderly stop (R337)
    let code := if failed then l.failCode else if l.st = .running then cOK else cABORTED
    let detail := if failed then l.failDetail else if l.st = .running then 0 else if l.st = .cancelling then dCANCEL else dSTOPPED
    s.onSlot x k fun l => { l with st := .ended, code := code, detail := detail, tEnd := s.mgmt.elapsed }
  else s

/-- The Harness fails with a first cause (R323, R324). -/
def State.failHarness (s : State) (x k : Nat) (who : Option Nat) (code : BitVec 4) (detail : Nat) : State :=
  let l := s.slot x k
  let s := if l.fail.isSome || l.failCode != 0 then s
    else s.onSlot x k fun l => { l with fail := who, failCode := code, failDetail := detail }
  let s := s.onSlot x k fun l => { l with st := if l.st = .running then .failing else l.st }
  s.sweep x k

/-- Write a node's entry; a write that is not OK fails the Harness (R323). -/
def State.writeEntry (s : State) (x k i : Nat) : State :=
  match s.putEntry x k i with
  | (code, s) => if code = cOK || !(s.slot x k).st.active then s else s.failHarness x k none code 0

/-- A node ends: its entry, then its successors, then its Harness (R323, R324, R328). -/
def State.endNode (s : State) (x k i : Nat) (st : NodeSt) (code : BitVec 4) (detail : Nat) : State :=
  let n := s.node x k i
  let s := s.onNode x k i fun n => { n with st := st, code := code, detail := detail, epoch := none, mover := none }
  let s := s.writeEntry x k i
  let s := if st = .done then s.count (.harness x) 0x04 (some n.cls) 1 (fields [(k, 0), (i, 16)]) else
    if st = .failed then s.count (.harness x) 0x05 (some n.cls) 1 (fields [(k, 0), (i, 16)]) else s
  let s := if st = .failed then s.failHarness x k (some i) code detail else s
  let all := st == .done || st == .skipped
  let s := n.succ.foldl (fun s j => if all || (s.node x k j).always then s.lower x k j else s) s
  s.settleSlot x k

/-! ### Parts (R321-R325) -/

/-- A part of an Awl belongs to a node. -/
def Part.of (q : Part) (x k i : Nat) : Bool := q.sec == x && q.slot == k && q.node == i

/-- Parts an Awl holds of its own and of carried work. -/
def Awl.own (a : Awl) : Nat := a.waitQ.length + (if a.part.isSome && !a.lastCarry then 1 else 0)
/-- Carried parts. -/
def Awl.carried (a : Awl) : Nat := a.carryQ.length + (if a.part.isSome && a.lastCarry then 1 else 0)

/-- The Awl that takes a part of logical channel l (R322, R393). -/
def State.awlFor (s : State) (l : Nat) : Option Nat := (s.serving l).bind s.awlDoing

/-- Put a part in an Awl's queue where it has room (R321, R393): whether it went. -/
def State.queuePart (s : State) (q : Part) : Option (Nat × State) :=
  match s.serving q.lch with
  | none => none
  | some p =>
    match s.awlDoing p with
    | none => none
    | some a =>
      if a = p then
        if (s.awl a).own < 4 then some (a, s.onAwl a fun w => { w with waitQ := w.waitQ ++ [q] }) else none
      else if (s.awl a).carried < 4 then some (a, s.onAwl a fun w => { w with carryQ := w.carryQ ++ [q] }) else none

/-- The lowest failing part decides a node's code (R323). -/
def worstPart : List PartSt → Option (BitVec 4 × Nat)
  | [] => none
  | q :: l => match q.ended with
    | some (c, d) => if c = cOK then worstPart l else some (c, d)
    | none => worstPart l

/-- A part has ended; the node ends with its last part (R323). -/
def State.partEnded (s : State) (x k i part : Nat) (code : BitVec 4) (detail : Nat) : State :=
  let s := s.onNode x k i fun n => { n with parts := n.parts.map fun q => if q.part = part then { q with ended := some (code, detail) } else q }
  let n := s.node x k i
  if n.st = .running && n.parts.all (fun q => q.ended.isSome) then
    match worstPart n.parts with
    | some (c, d) => s.endNode x k i .failed c d
    | none => s.endNode x k i .done cOK 0
  else s

/-- Send the parts of a node that are not with an Awl, as Awls have room; a part whose channel is a hole, or whose Awl is
lost with no carrier, ends FENCED (R321, R322, R393). -/
def State.sendParts (s : State) (x k i : Nat) (tmpl : Part) : State :=
  let n := s.node x k i
  (n.parts.filter fun q => q.phys.isNone && q.ended.isNone).foldl (fun s q =>
    if (s.serving q.lch).isNone then s.partEnded x k i q.part cFENCED 0
    else if (s.awlFor q.lch).isNone then s.partEnded x k i q.part cFENCED dAWLLOST
    else match s.queuePart { tmpl with sec := x, slot := k, node := i, part := q.part, parts := n.parts.length, lch := q.lch,
                                       retried := q.retried } with
    | none => s
    | some (a, s) =>
      let s := s.onNode x k i fun n => { n with
        disp := n.disp + 1
        parts := n.parts.map fun r => if r.part = q.part then { r with phys := some a } else r }
      s.count (.harness x) 0x03 (some n.cls) 1 (fields [(k, 0), (i, 16)])) s

/-- A part was lost with its Awl: it is dispatched once more if its type may be repeated, else it ends ABORTED (R325). -/
def State.partLost (s : State) (q : Part) : State :=
  let rep := 2 ≤ q.ty && q.ty ≤ 5 && (s.slot q.sec q.slot).st.active
  if rep && !q.retried then
    let s := s.onNode q.sec q.slot q.node fun n => { n with
      parts := n.parts.map fun r => if r.part = q.part then { r with phys := none, retried := true } else r }
    (s.harEv q.sec 4).sendParts q.sec q.slot q.node q
  else s.partEnded q.sec q.slot q.node q.part cABORTED (if rep then dAWLLOST else 0)

/-- Remove from an Awl the parts a predicate picks; a running one stops. -/
def Awl.drop (a : Awl) (pick : Part → Bool) : Awl :=
  let a := { a with waitQ := a.waitQ.filter fun q => !pick q, carryQ := a.carryQ.filter fun q => !pick q }
  match a.part with
  | some q => if pick q then { a with part := none, st := .idle, memq := [], ending := none } else a
  | none => a

/-- Remove from every Awl the parts a predicate picks. -/
def State.dropParts (s : State) (pick : Part → Bool) : State :=
  { s with awls := s.awls.map fun a => a.drop pick }

/-- Stop the running work of a node: Awl parts end ABORTED, a mover stops at a block boundary (R326, R333). -/
def State.stopNode (s : State) (x k i : Nat) (detail : Nat) : State :=
  let n := s.node x k i
  if n.st != .running then s
  else
    let s := s.dropParts fun q => q.of x k i
    let s := match n.mover with
      | some (y, m) => s.onMov y fun b => { b with ch := upd b.ch m fun c => if c.st = 1 then { c with st := 0, reqs := [] } else c }
      | none => s
    s.endNode x k i .failed cABORTED detail

/-! ### Engine loss (R335) -/

/-- The lock of a context is orphaned: in its lock-table entry and in the lock word of its record (R264, R294, R295). -/
def State.orphanCtx (s : State) (ctx : Nat) : State :=
  let s : State := { s with pd := { s.pd with locks := s.pd.locks.map fun l => if l.ctx = ctx then { l with orphaned := true } else l } }
  let a := s.img.ctxBase * 2097152 + 64 * ctx
  match s.paRead a 0 with
  | (c, b) => if c = cOK then (s.posted ownDir 0 fun s => (s.touchRd a 0 1).paWrite a 0 (b ||| ((2 : Block) <<< 256))).2 else s

/-- Orphan every lock of an owner identity (R295). -/
def State.orphan (s : State) (owner : Nat) : State :=
  (s.pd.locks.filter fun l => l.owner == owner && !l.orphaned).foldl (fun s l => s.orphanCtx l.ctx) s

/-- Stop the channels that an engine drives. -/
def Mov.stop (b : Mov) (x : Nat) : Mov :=
  { b with ch := b.ch.map fun c => if c.st = 1 && c.eng.toNat = x then { c with st := 0, reqs := [] } else c }

/-- The node of a lost engine as its ledger leaves it (R335). -/
def Node.lose (n : Node) : Node :=
  if n.st.ended then n
  else if n.st = .running then { n with st := .failed, code := cABORTED, detail := 0, epoch := none, mover := none }
  else { n with st := .notRun, code := 0 }

/-- The page calls in the executor of engine x are answered ABORTED (R298, R335): past their commit point, their callers learn
what they did by QUERY. -/
def State.abortCalls (s : State) (x : Nat) : State :=
  s.endWhere (fun _ r => r.op == opPage && r.eng == some x) cABORTED

/-- The ledger ends what the engine of sector x held (R335). -/
def State.loseEngine (s : State) (x : Nat) : State :=
  let s := s.abortCalls x
  let s := s.dropParts fun q => q.sec == x
  let s : State := { s with movs := s.movs.map (·.stop x) }
  let s := s.orphan (0x200 + x)
  let waiting := (s.har x).waitQ
  let s := s.onHar x fun h => { h with waitQ := [] }
  let s := waiting.foldl (fun s sub => s.answerSub x sub cABORTED 0) s
  (List.range 64).foldl (fun s k =>
    let l := s.slot x k
    if l.st = .free then s
    else
      let s := if l.st = .ended then s
        else
          let s := s.onSlot x k fun l => { l with
            st := .ended, code := cLOST, detail := 0, tEnd := s.mgmt.elapsed
            nodes := l.nodes.map Node.lose }
          (List.range l.nodes.length).foldl (fun s i => if ((l.nodes.getD i {}).st).ended then s else (s.putEntry x k i).2) s
      if s.safe.on || s.seq.therm = .emergency then s.onSlot x k fun _ => {} else s.closeSlot x k) s

end Sys2Proof.Machine
end

