-- ==== Sys2Proof/Machine/Fence.lean ====
section
/-! DEFINITION. Fencing: frozen controllers, the sparing state machine, lent banks, carriers of lost Awls, lost engines and
movers, fenced sectors (R110-R117, R129, R170, R255, R391-R394, R402, R466). -/

namespace Sys2Proof.Machine

/-- Mark a unit fenced (R391); a reset under way ends FENCED. -/
def State.markFenced (s : State) (u : UnitId) : State :=
  (s.sliceBreak (· == u)).onFr u fun f => { f with fenced := true, st := if f.st = .resetting then .resetting else .fenced }

/-- Queue a retirement record (R65). -/
def State.queueRet (s : State) : State := { s with flash := { s.flash with retQ := s.flash.retQ + 1 } }

/-! ### What a channel's controller held (R402) -/

/-- Requests at a controller: (port, uid) of everything it holds that is not answered. -/
def Ctl.holds (c : Ctl) : List (Nat × Nat) :=
  ((c.inRd ++ c.inWr ++ c.ordWait ++ c.ordRun).map fun w => (w.port, w.uid)) ++
  ((c.rdQ ++ c.wrQ ++ c.flight).map fun e => (e.port, e.uid)) ++
  (c.comb.flatMap fun e => e.pend.map fun o => (o.port, o.uid)) ++
  (c.groups.flatMap fun g => g.waiting.map fun w => (w.port, w.uid))

/-- Drop from the requests' slot lists the slots a frozen channel keeps (R129). -/
def State.keepHeld (s : State) (p : Nat) : State :=
  { s with ports := s.ports.map fun q =>
      { q with tags := q.tags.map fun r =>
          { r with slots := r.slots.filter fun k => !(k.part == 5 && k.sec == secOf p && k.pos == posOf p) } } }

/-- Blocks of an agent's job that a controller holds. -/
def Ctl.jobBlocks (c : Ctl) (own uid : Nat) : Nat :=
  ((c.inRd.filter fun w => w.port == own && w.uid == uid).map (·.n)).sum +
  (c.inWr.filter fun w => w.port == own && w.uid == uid).length +
  ((c.rdQ ++ c.flight).filter fun e => e.port == own && e.uid == uid).length

/-- k blocks of a job are done. -/
def State.jobDoneN (s : State) (own uid : Nat) : Nat → State
  | 0 => s
  | k + 1 => (s.jobDone own uid).jobDoneN own uid k

/-- The ledger answers every request at controller p ABORTED, once per tag (R98, R402); an agent's channel work there is over. -/
def State.abortAt (s : State) (p : Nat) : State :=
  (s.ctl p).holds.eraseDups.foldl (fun s (n, uid) =>
    if 1024 ≤ n then s.jobDoneN n uid ((s.ctl p).jobBlocks n uid)
    else if n < 128 || 512 ≤ n then s.finish n uid cABORTED else s) s

/-- Pool slots that what a controller holds has booked. -/
def Ctl.slots (c : Ctl) : List Slot :=
  ((c.inRd ++ c.inWr ++ c.ordWait ++ c.ordRun).flatMap (·.slots)) ++ ((c.rdQ ++ c.wrQ ++ c.flight).flatMap (·.slots)) ++
  (c.comb.flatMap fun e => e.slots ++ e.pend.flatMap (·.slots)) ++ c.fills.filterMap (·.slot) ++
  (c.groups.flatMap fun g => g.waiting.flatMap (·.slots))

/-- Empty a controller's queues, giving back the slots of its entries (R399, R402). -/
def State.emptyCtl (s : State) (p : Nat) : State :=
  let s := s.freeSlots (s.ctl p).slots
  s.onCtl p fun c => { c with
    inRd := [], inWr := [], rdQ := [], wrQ := [], comb := [], fills := [], fillSlots := 0, flight := [], groups := [],
    ordWait := [], ordRun := [], rd := { c.rd with owner := none, prog := [] }, wr := { c.wr with owner := none, prog := [] } }

/-! ### Lent banks (R253, R255) -/

/-- The borrower of a sector's spare, if it lends. -/
def State.borrower (s : State) (x : Nat) : Option Nat :=
  (List.range 16).map (17 * x + ·) |>.find? fun p => !(s.ctl p).lent.isEmpty || (s.ctl p).bankCopy.isSome

/-- Lending to channel p is recalled (R255). -/
def State.recall (s : State) (p : Nat) : State :=
  let lent := (s.ctl p).lent
  let s := if (s.ctl p).bankCopy.isSome then
      s.onCtl p fun c => { c with bankCopy := none, retBusy := false, retCode := cBAD, retDone := true } else s
  if lent.isEmpty then s
  else
    let hides := (lent.map (· / 16)).eraseDups
    let hit := (s.ctl p).fresh.filter fun e => e.2 == 1 && hides.contains (e.1 % s.hides)
    let first := fun (h : Nat) => (hit.find? fun e => e.1 % s.hides == h).map (·.1)
    let num := fun (h : Nat) => (hit.filter fun e => e.1 % s.hides == h).length
    let s := hit.foldl (fun s e => s.poisonGran p e.1) s
    let s := match hit.head? with
      | some e => s.logPoison p e.1 8 0 hit.length
      | none => s
    let s := lent.foldl (fun s k =>
      s.log { kind := 6, source := 8, phys := p, hide := k / 16, bank := k % 16, off := (first (k / 16)).getD 0 * 16384,
              count := num (k / 16) }) s
    (s.onCtl p fun c => { c with lent := [] }).queueRet

/-- Recall what the spare of sector x lends, unless to channel p (R255). -/
def State.recallFor (s : State) (x p : Nat) : State :=
  match s.borrower x with
  | some b => if b = p then s else s.recall b
  | none => s

/-! ### Carriers (R393) -/

/-- The channel serving the logical channel at XOR i of l's position in its quad. -/
def quadMate (l i : Nat) : Nat := l / 4 * 4 + (l % 4 ^^^ i)

/-- Awl q can carry: in service and carrying nothing (R393). -/
def State.canCarry (s : State) (q : Nat) : Bool :=
  !s.isFenced (.awl q) && !s.chFenced q && (s.awl q).carries.isNone && (s.fr (.awl q)).st != .standby

/-- Choose a carrier for the lost Awl p (R393). -/
def State.assignCarrier (s : State) (p : Nat) : State :=
  match s.lchOf p with
  | none => s
  | some l =>
    match ([1, 2, 3].filterMap fun i => s.serving (quadMate l i)).find? fun q => s.canCarry q with
    | some q => (s.onAwl p fun a => { a with carriedBy := some q }).onAwl q fun a => { a with carries := some p }
    | none => s.onAwl p fun a => { a with carriedBy := none }

/-- End the arrangement that carries Awl p: its carried parts are lost and dispatched again (R325, R393). -/
def State.endCarry (s : State) (p : Nat) : State :=
  match (s.awl p).carriedBy with
  | none => s
  | some q =>
    let a := s.awl q
    let lost := (if a.lastCarry then a.part.toList else []) ++ a.carryQ
    let s := s.onAwl p fun w => { w with carriedBy := none }
    let s := s.onAwl q fun w => ({ w with carries := none }).drop fun r => lost.contains r
    lost.foldl State.partLost s

/-- The work an Awl held is lost: its queues empty, its image and cache go, its parts are dispatched again or end (R325,
R367, R399). -/
def State.dropAwl (s : State) (p : Nat) : State :=
  let a := s.awl p
  let lost := a.part.toList ++ a.waitQ ++ a.carryQ
  let s := s.onAwl p fun w => { w with
    st := .idle, resident := false, part := none, waitQ := [], carryQ := [], memq := [], xlat := [], ending := none,
    sreg := List.replicate 32 0, vreg := List.replicate 16 0, scr := [], code := [], pc := 0 }
  let s := s.orphan (0x100 + p)
  lost.foldl State.partLost s

/-- AWL unit p is fenced: a carrier takes its work, and that of an Awl it carried (R391, R393). -/
def State.fenceAwl (s : State) (p : Nat) : State :=
  if s.isFenced (.awl p) then s
  else
    let s0 := s
    let s := s.markFenced (.awl p)
    let other := (s.awl p).carries
    let s := s.onAwl p fun a => { a with carries := none }
    let s := match other with
      | some r => s.assignCarrier r
      | none => s
    let s := s.assignCarrier p
    let s := s.dropAwl p
    s.commit s0 ([.awl p] ++ ((List.range 17).map fun i => UnitId.awl (17 * secOf p + i)))

/-! ### Engines and movers (R335, R391) -/

/-- HARNESS unit x is fenced: its engine is lost. -/
def State.fenceHarness (s : State) (x : Nat) : State :=
  if s.isFenced (.harness x) then s
  else
    let s0 := s
    ((s.markFenced (.harness x)).loseEngine x).commit s0 [.harness x]

/-- Every running node on a mover channel of sector x ends ABORTED, and its channels stop (R391, R402). -/
def State.stopMovers (s : State) (x : Nat) : State :=
  let busy := (s.mov x).ch.filter fun c => c.st == 1
  let s := s.onMov x fun b => { b with ch := b.ch.map fun c => if c.st = 1 then { c with st := 0, reqs := [] } else c }
  busy.foldl (fun s c => s.endNode c.eng.toNat c.slot.toNat c.node.toNat .failed cABORTED 0) s

/-- MOVERS unit x is fenced. -/
def State.fenceMovers (s : State) (x : Nat) : State :=
  if s.isFenced (.movers x) then s
  else
    let s0 := s
    ((s.markFenced (.movers x)).stopMovers x).commit s0 [.movers x]

/-! ### Channels (R110, R114, R115, R466) -/

/-- The port of a logical channel now belongs to channel p: holds of units that no longer hold it end (R95, R99). -/
def State.rehold (s : State) (l p : Nat) : State :=
  match s.portOf l with
  | none => s
  | some n =>
    let mine := ((UnitId.ctl p).path ++ [UnitId.link p]).map UnitId.idx
    s.onPort n fun q => { q with holds := q.holds.filter fun h => match h with
      | .unit i => mine.contains i
      | .switch => false
      | .cls _ _ | .offer _ _ => false
      | _ => true }

/-- The spare of sector x takes position k: the map flips, its units leave STANDBY, the lost Awl's arrangement ends (R113,
R114, R393, R397). -/
def State.flipTo (s : State) (x k : Nat) : State :=
  let sp := spareOf x
  let old := 17 * x + k
  let s := s.onSec x fun e => { e with sp := .substituting, serve := some k, pos := BitVec.ofNat 4 k }
  let s := [UnitId.channel sp, .ctl sp, .link sp, .awl sp, .currier sp].foldl (fun s u =>
    s.onFr u fun f => { f with st := if f.st = .standby then .running else f.st }) s
  -- what the spare lent to the channel it now stands in for is its own (R255, R260)
  let s := (s.onCtl old fun c => { c with lent := [] }).endCarry old
  s.rehold (16 * x + k) sp

/-- The fence of the channel at position k of sector x that a flip replaces is reported on its line as a contained fault (R113
step 5). -/
def State.reportFlip (s : State) (x k : Nat) : State :=
  (s.latch (.quad x (k / 4)) (k % 4) .cont).collect (.quad x (k / 4))

/-- The spare's fresh map from granule g0 on: what the old map holds written or poisoned is poisoned (R114, R115). -/
def State.poisonFrom (s : State) (old sp g0 : Nat) : State :=
  let add := (s.ctl old).fresh.filter fun e => g0 ≤ e.1 && (e.2 == 1 || e.2 == 2)
  let keep := (s.ctl sp).fresh.filter fun e => e.1 < g0
  let s := s.onCtl sp fun c => { c with fresh := keep ++ add.map fun e => (e.1, 2) }
  match add.head? with
  | some e => s.logPoison sp e.1 8 0 add.length
  | none => s

/-- The spare is fenced (R110). -/
def State.loseSpare (s : State) (x : Nat) : State :=
  let e := s.sec x
  let s := match s.borrower x with
    | some b => s.recall b
    | none => s
  match e.sp with
  | .standby => s.onSec x fun e => { e with sp := .lost }
  | .copy =>
    -- mirroring is off: the writes that waited for the copy go on at the old channel (R110, R112)
    (s.onSec x fun e => { e with sp := .lost, code := cFENCED, done := true, copySub := 0, copyGot := 0 }).unheld (17 * x + e.pos.toNat)
  | .flip =>
    let s := s.onSec x fun e => { e with sp := .lost, code := cFENCED, done := true }
    match s.portOf (16 * x + e.pos.toNat) with
    | some n => s.unhold n .switch
    | none => s
  | .substituting =>
    s.onSec x fun e => { e with
      sp := .lost
      hole := match e.serve with
        | some k => e.hole ||| ((1 : BitVec 16) <<< k)
        | none => e.hole
      serve := none }
  | .lost => s

/-- The home channel at position k of sector x is fenced: the spare replaces it, or the position becomes a hole (R110, R114,
R115, R466). -/
def State.loseHome (s : State) (x k : Nat) : State :=
  let e := s.sec x
  let old := 17 * x + k
  let sp := spareOf x
  if e.fenced.getLsbD k then s
  else
    let s := s.onSec x fun e => { e with fenced := e.fenced ||| ((1 : BitVec 16) <<< k) }
    let hole := fun (s : State) => s.onSec x fun e => { e with hole := e.hole ||| ((1 : BitVec 16) <<< k) }
    match e.sp with
    | .standby =>
      let s := s.recallFor x old
      let s := s.poisonFrom old sp 0
      (s.flipTo x k).onSec x fun e => { e with code := cFENCED, done := true, auto := true }
    | .copy =>
      if k = e.pos.toNat then
        let s := s.poisonFrom old sp e.copyAt
        (s.flipTo x k).onSec x fun e => { e with code := cABORTED, done := true, auto := true }
      else hole s
    | .flip =>
      if k = e.pos.toNat then ((s.flipTo x k).onSec x fun e => { e with code := cOK, done := true, auto := false }).reportFlip x k
      else hole s
    | _ => hole s

/-- A link stops for good: no group is under calibration, a ROT that was sent is in effect, a retrain has ended, and its slice holds
the port no longer (R193, R194, R200). -/
def State.stopLink (s : State) (p : Nat) : State :=
  let l := s.link p
  let s := if l.rtSlice then (match s.portAt p with
    | some n => s.unhold n .slice
    | none => s) else s
  s.onLink p fun l => { l with
    st := .fenced, rtRun := false, rtSlice := false, sbBusy := false, sbQ := []
    calEv := if l.rtRun then l.calEv ||| 16 else l.calEv
    rotQ := [], slice := none
    grps := l.grps.map fun g => { g with
      c := (g.rot.map (·.1)).getD g.c, st := if g.st = .parked then .parked else .halted, rot := none, sweep := false, tries := [] } }

/-- The entries of the Tack Table that a fence of channel p can alter. -/
def fenceUnits (p : Nat) : List UnitId :=
  [UnitId.channel p, .channel (spareOf (secOf p))].flatMap UnitId.subtree ++
  ((List.range 17).map fun i => UnitId.channel (17 * secOf p + i)) ++ ((List.range 17).map fun i => UnitId.awl (17 * secOf p + i))

/-- Channel p is fenced: its units, what its controller held, the sparing (R110, R391, R402). A frozen controller keeps its
state and its shared slots (R129, R170). -/
def State.fenceChan (s : State) (p : Nat) : State :=
  if s.chFenced p then s
  else
    let x := secOf p
    let s := ([UnitId.channel p, .ctl p, .link p, .currier p].foldl State.markFenced s).stopLink p
    let s := s.onCtl p fun c => { c with
      retBusy := false, retCode := if c.retBusy then cFENCED else c.retCode, retDone := c.retDone || c.retBusy, bankCopy := none
      patrolOn := false }
    let frozen := (s.ctl p).frozen
    let s := if frozen then s.keepHeld p else s
    let s := s.abortAt p
    let s := if frozen then s else s.emptyCtl p
    let s := if posOf p = 16 then s.loseSpare x else s.loseHome x (posOf p)
    -- the channel's Awl goes with it; the spare's Awl, or none, does its work (R322, R393)
    let s := s.markFenced (.awl p)
    let other := (s.awl p).carries
    let s := s.onAwl p fun a => { a with carries := none }
    let s := match other with
      | some r => s.assignCarrier r
      | none => s
    (s.dropAwl p).queueRet

/-- The fence of channel p, committed in one generation (R43). -/
def State.fenceChannel (s : State) (p : Nat) : State :=
  if s.chFenced p then s else (s.fenceChan p).commit s (fenceUnits p)

/-- The controller of channel p freezes on source src (R170); the caller has latched the source. -/
def State.freeze (s : State) (p src : Nat) : State :=
  if (s.ctl p).frozen then s
  else
    let held := (s.pool (secOf p)).ofPos (posOf p)
    let s := s.onCtl p fun c => { c with
      frozen := true, frzSrc := BitVec.ofNat 4 src, frzValid := true, frzTime := s.mgmt.elapsed, frzRow := c.lastRow,
      frzCol := c.lastCol, selfRef := true }
    let s := s.onPool (secOf p) fun q => { q with lost := q.lost + held }
    s.fenceChannel p

/-- A contained CTL source: latched unless masked, and the controller freezes all the same (R169, R385). -/
def State.ctlFault (s : State) (p src : Nat) : State := (s.report (.ctl p) src).freeze p src

/-! ### Sectors (R394) -/

/-- The sector's spare is lost and every position becomes a hole, each with a retirement record queued (R110, R117, R394). -/
def State.holeSector (s : State) (x : Nat) : State :=
  let s := s.loseSpare x
  let n := ((List.range 16).filter fun k => !(s.sec x).hole.getLsbD k).length
  let s := s.onSec x fun e => { e with fenced := 0xFFFF, hole := 0xFFFF, serve := none }
  { s with flash := { s.flash with retQ := s.flash.retQ + n } }

/-- Sector x is fenced: every unit beneath it, its logical channels as holes, its engine lost, its ports answered. A frozen
controller keeps what it holds (R129). -/
def State.fenceSector (s : State) (x : Nat) : State :=
  if s.isFenced (.sector x) then s
  else
    let s0 := s
    let ports := (List.range 128).filter fun n => secOf (s.portPhys n) == x
    let s := (UnitId.sector x).subtree.foldl State.markFenced s
    -- requests of other sectors' ports inside the fenced sector, and every tag of its own ports
    let s := s.endWhere (fun n r => ports.contains n || (r.op != opPage && r.op != opBell && r.lch / 16 == x && r.taken != 0)) cABORTED
    let s := (List.range 17).foldl (fun s i =>
      (if (s.ctl (17 * x + i)).frozen then s.keepHeld (17 * x + i) else (s.abortAt (17 * x + i)).emptyCtl (17 * x + i)).stopLink (17 * x + i)) s
    let s := s.holeSector x
    let s := s.freeSlots (s.nets.flatMap fun b => (b.msgs.filter fun w => ports.contains w.port).flatMap (·.slots))
    let s : State := { s with nets := s.nets.map fun (b : Net) => { b with msgs := b.msgs.filter fun w => !ports.contains w.port } }
    -- messages of other sectors that were passing through are lost with the network (R402)
    let s := (s.net x).msgs.foldl (fun s w => (s.freeSlots w.slots).finishHome w.port w.uid cABORTED) s
    let s := s.onNet x fun b => { b with msgs := [] }
    let s := ports.foldl (fun s n => s.onPort n fun q => { q with openW := none, fencedAll := true }) s
    -- the sector drives level 7 from now on (R221, R224)
    let s := if s0.thrLvl x = 7 then s else { s with seq := { s.seq with thermEv := s.seq.thermEv ||| 2 } }
    let s := s.onSec x fun e => { e with off := true }
    let s := s.loseEngine x
    let s := s.stopMovers x
    let s := (List.range 17).foldl (fun s i => s.dropAwl (17 * x + i)) s
    s.commit s0 (UnitId.sector x).subtree

/-- A unit is fenced (R391). -/
def State.fenceUnit (s : State) (u : UnitId) : State :=
  match u with
  | .awl p => s.fenceAwl p
  | .harness x => s.fenceHarness x
  | .movers x => s.fenceMovers x
  | .ctl p | .link p | .currier p | .channel p => s.fenceChannel p
  | .pool x | .network x | .sector x => s.fenceSector x
  | .quad x q =>
    let ps := (List.range 4).map fun c => 17 * x + 4 * q + c
    (ps.foldl State.fenceChan (s.markFenced (.quad x q))).commit s (.quad x q :: ps.flatMap fenceUnits)
  | _ => s

/-- A leaf source of a unit is found: it latches unless masked, and its reaction takes place (R169, R204, R341, R384, R385,
R390). -/
def State.fault (s : State) (u : UnitId) (bit : Nat) : State :=
  let s := s.report u bit
  match u with
  | .ctl p => if 2 ≤ bit && bit ≤ 6 then s.freeze p bit else s
  | .link p => if 4 ≤ bit && bit ≤ 6 then s.fenceChannel p else s
  | .awl p => if 2 ≤ bit && bit ≤ 4 then s.fenceAwl p else s
  | .pool x => if bit = 1 then s.fenceSector x else s
  | .network x => if bit = 1 || bit = 2 then s.fenceSector x else s
  | .harness x => if bit < 2 then s.fenceHarness x else s
  | .movers x => if bit = 4 then s.fenceMovers x else s
  | _ => s

end Sys2Proof.Machine
end

