-- ==== Sys2Proof/Machine/Port.lean ====
section
/-! DEFINITION. The slice port commands and the network: requests accepted, beats, responses, messages (R72-R101, R106-R107,
R125, R132, R139, R464, R465). -/

namespace Sys2Proof.Machine

/-- What a command answers. -/
abbrev Out : Type := Host.Outcome State Fault Refusal

/-- A command on channel p of the block. -/
def onChan (p : Nat) (s : State) (f : State → State) : Out := if p < 136 then .next (f s) else .next s
/-- A command on port n. -/
def onPortN (n : Nat) (s : State) (f : State → State) : Out := if n < 128 then .next (f s) else .next s
/-- A command on sector x. -/
def onSect (x : Nat) (s : State) (f : State → State) : Out := if x < 8 then .next (f s) else .next s
/-- A command on a unit. -/
def onUnit (u : UnitId) (s : State) (f : State → State) : Out := if u.ok then .next (f s) else .next s

/-! ### Acceptance (R76-R78, R126) -/

/-- Logical channel of port n. -/
def State.portLch (s : State) (n : Nat) : Nat := s.img.ports.getD n n

/-- The port answers every request FENCED (R95 reason 7, R100, R394). -/
def State.allFenced (s : State) (n : Nat) : Bool := (s.port n).fencedAll || s.safe.on

/-- spN_hold is low for a request offered (R76, R126): its bit, the channel its block address decodes to, and the pool of its
sector. -/
def State.freeToOffer (s : State) (n cls : Nat) (write : Bool) (addr : Nat) : Bool :=
  s.allFenced n || (!(s.holdBits n).getLsbD cls && s.offerReason n cls write addr == 0)

/-- The grant of a direction is the port's or parked on it, or no input has had it yet (R92, R137). -/
def State.hasGrant (s : State) (n : Nat) (write : Bool) : Bool :=
  match ((s.ctl (s.portPhys n)).dir write).owner with
  | none => true
  | some i => i == 0

/-- The port takes requests and beats: it is open, not in a reset, and the answers of the last reset are out (R75, R98). -/
def State.portTakes (s : State) (n : Nat) : Bool := (s.port n).up && !s.portReset n && !(s.port n).flush

/-- spN_rq_ready (R76, R77, R92). -/
def State.rqReady (s : State) (n : Nat) : Bool :=
  s.portTakes n && (s.port n).rdFree ≤ (s.port n).cyc && (s.hasGrant n false || s.allFenced n)
/-- spN_wq_ready (R77, R92, R94). -/
def State.wqReady (s : State) (n : Nat) : Bool :=
  s.portTakes n && (s.port n).wrFree ≤ (s.port n).cyc && (s.hasGrant n true || s.allFenced n)

/-- A request is offered and not accepted: it is announced to the arbiter, and it may be held (R92, R126). -/
def State.offer (s : State) (n cls : Nat) (write : Bool) (addr : Nat) : State :=
  (s.onPort n fun q => if write then { q with askWr := some (cls, addr) } else { q with askRd := some (cls, addr) }).refreshHolds
    (s.portPhys n)

/-- It is accepted, or nothing is offered any more. -/
def State.unask (s : State) (n : Nat) (write : Bool) : State :=
  s.onPort n fun q => if write then { q with askWr := none } else { q with askRd := none }

/-- The tag is in use (R78). -/
def State.tagUsed (s : State) (n tag : Nat) : Bool := (s.port n).tags.any fun r => r.tag == tag

/-- A request accepted with a tag in use (R78). -/
def State.dupTag (s : State) (n tag : Nat) : State := (s.pushAck n ⟨tag, cBAD, 0, true⟩).misb n 2

/-- The next request number. -/
def State.nextUid (s : State) : State := { s with uid := s.uid + 1 }

/-! ### Routing (R102, R106, R108) -/

/-- Hand a work of port n to its channel: the own slice directly, anything else by the network; an own slice that is a hole
answers FENCED from the port stage (R100, R108). -/
def State.hand (s : State) (n : Nat) (w : Work) : State :=
  let x := secOf (s.portPhys n)
  if w.lch = s.portLch n then
    match s.serving w.lch with
    | none => if w.op = 0 then s.finish n w.uid cFENCED else s.blockFail n w.uid w.idx cFENCED
    | some p =>
      if w.op = 0 then s.onCtl p fun c => { c with inRd := c.inRd ++ [{ w with inp := 0 }] }
      else s.onCtl p fun c => { c with inWr := c.inWr ++ [{ w with inp := 0 }] }
  else (s.onReq n w.uid fun r => { r with remote := true }).onNet x fun b => { b with msgs := b.msgs ++ [{ w with inp := 1 }] }

/-! ### Reads -/

/-- READ: a read request is offered; accepted, it is judged, decoded and routed (R72, R73, R76-R78, R88, R102). -/
def State.read (s : State) (n tag cls addr len : Nat) : State :=
  let l := s.portLch n
  if !s.portTakes n then s
  else if !s.rqReady n || !s.freeToOffer n cls false addr then s.offer n cls false addr
  else
    let s := (s.unask n false).onPort n fun q => { q with rdFree := q.cyc + len + 1 }
    if s.tagUsed n tag then s.dupTag n tag
    else
      let s := s.nextUid
      let uid := s.uid
      let d := s.decode (addr * 64) l
      let s := s.onPort n fun q => { q with tags := q.tags ++
        [{ tag := tag, uid := uid, op := 0, cls := cls, len := len, addr := addr * 64, lch := (d.map (·.1)).getD 0, taken := len + 1,
           closed := true, t0 := q.cyc }] }
      if s.allFenced n then s.finish n uid cFENCED
      else if crosses addr len then s.finish n uid cBAD
      else match d with
      | none => s.finish n uid cBAD
      | some (l', off) =>
        s.hand n { port := n, uid := uid, tag := tag, cls := cls, req := n, op := 0, arg := 0, lch := l', off := off, idx := 0,
                   n := len + 1, data := [], be := 0, inp := 0, first := 0, key := addr, len := len }

/-! ### The write channel -/

/-- A beat failed its check (R87). -/
def State.chkFail (s : State) (n : Nat) : State :=
  ((s.onPort n fun q => { q with chkCnt := satAdd q.chkCnt 1 }).misb n 4).count (.ctl (s.portPhys n)) 0x12

/-- The open request collects its blocks before they are executed: an ordered contribution, which is applied whole, and a
reduction under the port check, of which nothing is executed when a beat fails (R87, R163). -/
def collects (op : Nat) (chkEn : Bool) : Bool := op == opOrd || (op == opRed && chkEn)

/-- Hand one block of the open request (R125, R132). An armed SLOT_DATA fires here (R390, R405). -/
def State.handBlock (s : State) (n uid : Nat) (d : Block) (be : BitVec 64) : State :=
  match s.reqOf n uid with
  | none => s
  | some r =>
    let x := secOf (s.portPhys n)
    let (hit, s) := s.fire (.pool x) 0 false
    let off := (s.decode (r.addr + 64 * r.taken) (s.portLch n)).getD (0, 0)
    let w : Work := { port := n, uid := uid, tag := r.tag, cls := r.cls, req := n, op := r.op, arg := r.arg, lch := off.1, off := off.2,
                      idx := r.taken, n := 1, data := [d], be := be, inp := 0, slots := r.slots.take 1, first := 1,
                      key := r.addr / 64, len := r.len }
    let s := s.onReq n uid fun r => { r with taken := r.taken + 1, slots := r.slots.drop 1 }
    if hit then ((s.freeSlots w.slots).report (.pool x) 0).blockFail n uid w.idx cPOISON else s.hand n w

/-- Hand the blocks that were collected: one work for an ordered contribution, one for each block otherwise. -/
def State.flushOpen (s : State) (n : Nat) (w : OpenW) : State :=
  match s.reqOf n w.uid with
  | none => s
  | some r =>
    if w.dead || w.blocks.isEmpty then s
    else if r.op = opOrd then
      let off := (s.decode r.addr (s.portLch n)).getD (0, 0)
      let k := w.blocks.length
      let s := s.onReq n w.uid fun r => { r with taken := k, slots := r.slots.drop k }
      s.hand n { port := n, uid := w.uid, tag := r.tag, cls := r.cls, req := n, op := opOrd, arg := r.arg, lch := off.1, off := off.2,
                 idx := 0, n := 1, data := w.blocks, be := 0, inp := 0, slots := r.slots.take k, first := k, key := r.addr / 64, len := r.len }
    else w.blocks.foldl (fun s d => s.handBlock n w.uid d 0) s

/-- The open request ends at its last accepted beat, complete or with BAD_REQUEST (R79, R80, R464). -/
def State.endOpen (s : State) (n : Nat) (bad : Bool) : State :=
  match (s.port n).openW with
  | none => s
  | some w =>
    let s := s.onPort n fun q => { q with openW := none }
    let s := s.flushOpen n w
    let s := s.onReq n w.uid fun r =>
      if r.failed then r else { r with closed := true, failed := bad, code := if bad then cBAD else r.code }
    s.checkEnd n w.uid

/-- A beat of the open request: its check, its block, its end (R79, R87). -/
def State.takeWBeat (s : State) (n : Nat) (b : Beat) : State :=
  match (s.port n).openW with
  | none => s
  | some w =>
    let ok := chkOk w.chkEn b
    let s := if ok then s else s.chkFail n
    let len := w.len
    let dead := w.dead || !ok
    let col := collects w.op w.chkEn
    let s := s.onPort n fun q => { q with openW := q.openW.map fun w =>
      { w with beats := w.beats + 1, dead := dead, blocks := if col && !dead then w.blocks ++ [b.data] else w.blocks } }
    let s :=
      if !ok && !w.dead then s.blockFail n w.uid (if col then 0 else w.beats) cPOISON
      else if dead || col then s
      else s.handBlock n w.uid b.data b.be
    if b.last then s.endOpen n (w.beats != len)
    else if w.beats = len then s.endOpen n true
    else s

/-- The slots a first beat books: one for each block, and one for the return of an atomic with ret or of a call (R132). -/
def State.bookFirst (s : State) (n op : Nat) (h : WHdr) (memory : Bool) : Option (List Slot × State) :=
  let x := secOf (s.portPhys n)
  let pos := posOf (s.portPhys n)
  match (if memory then s.bookN x pos 1 h.cls.toNat (h.len.toNat + 1) else some ([], s)) with
  | none => none
  | some (k, s) =>
    if onData op h.arg.toNat then (s.book x pos 0 h.cls.toNat).map fun (j, s) => (k ++ [j], s) else some (k, s)

/-- The single beat of a call or a doorbell (R79, R87, R465): refused by its header, a failed check, a missing spN_wq_last, or run.
Beats that follow a beat without spN_wq_last belong to it up to spN_wq_len + 1 and are only checked. -/
def State.lone (s : State) (n uid : Nat) (h : WHdr) (b : Beat) (refused : Bool) (single : State → Nat → State) : State :=
  let ok := chkOk h.chkEn b
  let s := if ok then s else s.chkFail n
  let s := s.onPort n fun q => { q with openW := if b.last || h.len = 0 then none else q.openW.map fun w => { w with beats := 1, dead := true } }
  if refused then s
  else if !ok then s.finish n uid cPOISON
  else if !b.last then s.finish n uid cBAD
  else single s uid

/-- A first beat is offered on the write channel with opcode op (R76-R80, R87, R132, R465). `single` runs the request's own
work once it has passed steps 1 and 2 of R465: the operations that travel in one beat and are not memory operations. -/
def State.first (s : State) (n op : Nat) (h : WHdr) (b : Beat) (single : State → Nat → State) : State :=
  if !s.portTakes n then s
  else
    let s := if (s.port n).openW.isSome then (s.endOpen n true).misb n 6 else s
    let cls := h.cls.toNat
    let tag := h.tag.toNat
    let l := s.portLch n
    let memory := op != opPage && op != opBell
    -- a call and a doorbell decode to no channel: no window holds this address
    let addr := if memory then h.addr.toNat else 2 ^ 42
    if !s.wqReady n || !s.freeToOffer n cls true addr then s.offer n cls true addr
    else
      -- the allocation state is checked at each booking (R390, R405)
      let (par, s) := if memory then s.fire (.pool (secOf (s.portPhys n))) 1 false else (false, s)
      let s := if par then s.fault (.pool (secOf (s.portPhys n))) 1 else s
      let dup := s.tagUsed n tag
      let bad := s.hdrBad l op h
      let fenced := s.allFenced n
      match (if dup || bad || fenced then some ([], s) else s.bookFirst n op h memory) with
      | none => s.offer n cls true addr
      | some (slots, s) =>
        let s := (s.unask n true).onPort n fun q => { q with wrFree := q.cyc + 1, orphan := false }
        if dup then
          let s := s.dupTag n tag
          let s := if chkOk h.chkEn b then s else s.chkFail n
          if b.last || h.len = 0 then s
          else s.onPort n fun q => { q with openW := some { uid := 0, op := op, len := h.len.toNat, beats := 1, chkEn := h.chkEn, dead := true, blocks := [] } }
        else
          let s := s.nextUid
          let uid := s.uid
          let d := (s.decode (h.addr.toNat * 64) l).getD (0, 0)
          let s := s.onPort n fun q => { q with
            tags := q.tags ++ [{ tag := tag, uid := uid, op := op, cls := cls, len := h.len.toNat, arg := h.arg.toNat,
                                 addr := h.addr.toNat * 64, lch := d.1, t0 := q.cyc, slots := slots }]
            openW := some { uid := uid, op := op, len := h.len.toNat, beats := 0, chkEn := h.chkEn, dead := bad || fenced, blocks := [] } }
          let s := if fenced then s.finish n uid cFENCED else if bad then s.finish n uid cBAD else s
          if !memory then s.lone n uid h b (bad || fenced) single
          -- step 3 for an atomic: its reserved bytes, after its check (R465)
          else if isAtomic op && !bad && !fenced && chkOk h.chkEn b && atomDataBad op h.arg.toNat b.data then
            (s.onPort n fun q => { q with openW := none }).finish n uid cBAD
          else s.takeWBeat n b

/-- A write beat with spN_wq_first low (R77, R79). A beat of a burst that has lost its grant is not taken: the tile keeps it
presented (R94). -/
def State.laterBeat (s : State) (n : Nat) (b : Beat) : State :=
  if !s.portTakes n then s
  else if !s.wqReady n then
    match (s.port n).openW.bind fun w => s.reqOf n w.uid with
    | some r => s.offer n r.cls true (2 ^ 42)
    | none => s
  else
    let s := (s.unask n true).onPort n fun q => { q with wrFree := q.cyc + 1 }
    match (s.port n).openW with
    | some _ => s.takeWBeat n b
    | none => if (s.port n).orphan then s else (s.onPort n fun q => { q with orphan := true }).misb n 3

/-! ### The port's outputs (R74, R92-R95) -/

/-- spN_hint_pre: the open write burst, or a read with blocks moved and blocks left, waits at a block boundary (R94). -/
def State.hintPre (s : State) (n : Nat) : Bool :=
  let c := s.ctl (s.portPhys n)
  ((s.port n).openW.isSome && !s.hasGrant n true) ||
  (!s.hasGrant n false && c.inRd.any fun w => w.inp == 0 && w.port == n && c.rd.prog.contains (0, w.uid))

/-- spN_hint_rd and spN_hint_wr: 0 with no request announced or offered, or one that can be accepted in the next cycle; 0xFF while
its class is held; else the arbiter's estimate (R93, R126, R138). -/
def State.hint (s : State) (n : Nat) (write : Bool) : Nat :=
  match (s.port n).ask write with
  | none => 0
  | some (c, a) =>
    let p := s.portPhys n
    if s.clsReason p write c != 0 || s.offerReason n c write a != 0 || (s.port n).holds.any Hold.all then 0xFF
    else if s.hasGrant n write then 0 else max 1 (s.estimate p write 0 c)

/-- What port n drives (R74). -/
structure PortOut where
  up : Bool
  rqReady : Bool
  wqReady : Bool
  /-- the data beat offered, with its fresh port check -/
  rsp : Option (RspBeat × BitVec 16)
  ack : Option Ack
  hold : BitVec 16
  hintRsn : Nat
  hintRd : Nat
  hintWr : Nat
  hintPre : Bool
deriving DecidableEq, Repr, Inhabited

/-- The outputs of port n. -/
def State.portOut (s : State) (n : Nat) : PortOut :=
  { up := (s.port n).up, rqReady := s.rqReady n, wqReady := s.wqReady n
    rsp := if s.portReset n then none else (s.port n).rsp.head?.map fun b => (b, b.chk)
    ack := (s.port n).ackPin, hold := s.holdBits n, hintRsn := s.holdRsn n
    hintRd := s.hint n false, hintWr := s.hint n true, hintPre := s.hintPre n }

/-! ### Meanings -/

/-- READ. -/
def execRead (n : Nat) (tag : BitVec 8) (cls : BitVec 4) (addr : BitVec 42) (len : BitVec 5) (s : State) : Out :=
  onPortN n s fun s => s.read n tag.toNat cls.toNat addr.toNat len.toNat

/-- WRITE (R81). -/
def execWrite (n : Nat) (h : WHdr) (b : Beat) (s : State) : Out := onPortN n s fun s => s.first n opWrite h b fun s _ => s
/-- WRITE_MASKED (R84). -/
def execWriteMasked (n : Nat) (h : WHdr) (b : Beat) (s : State) : Out := onPortN n s fun s => s.first n opMasked h b fun s _ => s
/-- ATOM_ADD (R160). -/
def execAtomAdd (n : Nat) (h : WHdr) (b : Beat) (s : State) : Out := onPortN n s fun s => s.first n opAdd h b fun s _ => s
/-- ATOM_MAX (R160). -/
def execAtomMax (n : Nat) (h : WHdr) (b : Beat) (s : State) : Out := onPortN n s fun s => s.first n opMax h b fun s _ => s
/-- ATOM_MIN (R160). -/
def execAtomMin (n : Nat) (h : WHdr) (b : Beat) (s : State) : Out := onPortN n s fun s => s.first n opMin h b fun s _ => s
/-- ATOM_SWAP (R160). -/
def execAtomSwap (n : Nat) (h : WHdr) (b : Beat) (s : State) : Out := onPortN n s fun s => s.first n opSwap h b fun s _ => s
/-- ATOM_CAS (R160). -/
def execAtomCas (n : Nat) (h : WHdr) (b : Beat) (s : State) : Out := onPortN n s fun s => s.first n opCas h b fun s _ => s
/-- REDUCE_ADD (R162). -/
def execReduceAdd (n : Nat) (h : WHdr) (b : Beat) (s : State) : Out := onPortN n s fun s => s.first n opRed h b fun s _ => s
/-- REDUCE_ADD_ORD (R163). -/
def execReduceAddOrd (n : Nat) (h : WHdr) (b : Beat) (s : State) : Out := onPortN n s fun s => s.first n opOrd h b fun s _ => s

/-- DOORBELL (R85, R303, R305): after its checks it is a submission to the engine it names. -/
def execDoorbell (n : Nat) (h : WHdr) (b : Beat) (s : State) : Out :=
  onPortN n s fun s => s.first n opBell h b fun s uid =>
    if s.bellBad (s.portLch n) b.data then s.finish n uid cBAD
    else s.submit (blkGet b.data 8 1 % 8)
      { port := some (n, uid), addr := blkGet b.data 0 8, origin := s.portLch n, cls := h.cls.toNat }

/-- WRITE_BEAT (R77). -/
def execWriteBeat (n : Nat) (b : Beat) (s : State) : Out := onPortN n s fun s => s.laterBeat n b

/-- GAP_CUT (R79): the 17th cycle of a gap; cycles of preemption do not count (R94). -/
def execGapCut (n : Nat) (s : State) : Out :=
  onPortN n s fun s => if (s.port n).openW.isSome && s.hasGrant n true then (s.endOpen n true).misb n 0 else s

/-- RSP_BEAT_TAKEN (R96). -/
def execRspBeatTaken (n : Nat) (s : State) : Out := onPortN n s fun s => s.takeBeat n

/-- RSP_STALL (R97): the 1,025th cycle in which a beat is offered and not taken. -/
def execRspStall (n : Nat) (s : State) : Out :=
  onPortN n s fun s =>
    if (s.port n).rsp.isEmpty then s
    else ((s.onPort n fun q => { q with stalled := true }).misb n 1).hold n .stall

/-! ### The network (R15, R16, R106, R107, R132, R136) -/

/-- Next sector on the shorter way round the ring; distance 4 goes upward (R107). -/
def ringNext (x t : Nat) : Nat := if (t + 8 - x) % 8 ≤ 4 then (x + 1) % 8 else (x + 7) % 8

/-- The ring stops that a message passes between sector x and sector t, neither counted. -/
def ringPath (x t : Nat) : Nat → List Nat
  | 0 => []
  | k + 1 => let y := ringNext x t; if y = t then [] else y :: ringPath y t k

/-- A message's request ends without execution; a lost response is answered by the ledger. -/
def State.failWork (s : State) (w : Work) (code : BitVec 4) : State :=
  let s := s.freeSlots w.slots
  if w.ans.isSome then s.finishHome w.port w.uid code
  else if w.op = 0 || w.op = opOrd then s.finish w.port w.uid code else s.blockFail w.port w.uid w.idx code

/-- The network unit of sector x, or a group above it, takes no new message (R395). -/
def State.netQuiet (s : State) (x : Nat) : Bool := s.pathIn (.network x) [.quiescing, .quiesced, .resetting]

/-- The network unit of sector x is in a reset: its crossings are not ready toward either side (R16). -/
def State.netHeld (s : State) (x : Nat) : Bool := s.pathIn (.network x) [.resetting]

/-- Sector a message comes from. -/
def State.msgSrc (s : State) (w : Work) : Nat := if w.ans.isSome then w.lch / 16 else secOf (s.portPhys w.port)
/-- Sector it goes to. -/
def State.msgDst (s : State) (w : Work) : Nat := if w.ans.isSome then secOf (s.portPhys w.port) else w.lch / 16
/-- Position of the channel it goes to. -/
def State.msgPos (s : State) (w : Work) : Nat :=
  if w.ans.isSome then posOf (s.portPhys w.port) else ((s.serving w.lch).map posOf).getD (w.lch % 16)
/-- Position of the channel it comes from, in its source sector. -/
def State.msgFrom (s : State) (w : Work) : Nat :=
  if w.ans.isSome then ((s.serving w.lch).map posOf).getD (w.lch % 16) else posOf (s.portPhys w.port)

/-- The output of sector x's network that a message asks for: the crossbar output of a position, or 17 and 18 for the ring upward
and downward. -/
def State.msgOut (s : State) (x : Nat) (w : Work) : Nat :=
  let t := s.msgDst w
  if t = x then s.msgPos w else if (t + 8 - x) % 8 ≤ 4 then 17 else 18

/-- Tier of a message at the network arbiters (R136): responses; class 15; classes below their scaled pool guarantee; the
others. -/
def State.msgTier (s : State) (x : Nat) (w : Work) : Nat :=
  if w.ans.isSome then 1
  else if w.cls = 15 then 2
  else if (s.pool x).cls w.cls < s.poolGuar x w.cls then 3 else 5

/-- The slots that a request books before it enters the ring (R132): a read's response slots in its own sector, a write's in the
target's, for every block. -/
def State.ringBook (s : State) (w : Work) : Option (List Slot × State) :=
  if w.ans.isSome then some ([], s)
  else if w.op = 0 then s.bookN (s.msgSrc w) (posOf (s.portPhys w.port)) 0 w.cls w.n
  else s.bookN (s.msgDst w) (s.msgPos w) 1 w.cls w.data.length

/-- A message waiting at sector x can move: neither side's crossing is held in a reset, it has room for one of 8 entries, nothing
before it of its source goes to its channel, its slots are free, a flip or a quiesce does not stop it (R15, R16, R107, R113, R132,
R395). No other stop's reserved ring slot may be filled (R106). -/
def State.msgCan (s : State) (x : Nat) (w : Work) (before : List Work) : Bool :=
  let t := s.msgDst w
  let enters := s.msgSrc w == x
  !s.netHeld x && !(before.any fun v => v.port == w.port && v.lch == w.lch && v.ans.isSome == w.ans.isSome) &&
  !(enters && w.ans.isNone && s.netQuiet x) &&
  (if t = x then
     (if w.ans.isSome then !s.portReset w.port
      else match s.serving w.lch with
      | none => true
      | some p =>
        let e := s.sec x
        let c := s.ctl p
        !(e.sp == .flip && posOf p == e.pos.toNat) && (s.fr (.ctl p)).st != .resetting && (s.fr (.channel p)).st != .resetting &&
        ((c.inRd ++ c.inWr).filter fun v => v.inp == 1 && v.port < 1024).length < 8)
   else
     let y := ringNext x t
     !s.netHeld y && ((s.net y).msgs.filter fun v => s.msgSrc v != y && ringNext (s.msgSrc v) y == ringNext x y).length < 8 &&
     (!enters || ((s.ringBook w).isSome && ((s.net x).reserved || (ringPath x t 8).all fun z => !(s.net z).reserved))))

/-- Rank of a message for its output (R106, R136): on the ring a reserved entry, then what travels already; then the tier, the
least recently granted class, the least recently granted input. -/
def State.msgRank (s : State) (x : Nat) (w : Work) : Nat :=
  let o := s.msgOut x w
  let b := s.net x
  let ring := if o < 17 then 0 else if s.msgSrc w = x then (if b.reserved then 0 else 2) else 1
  let age := fun (f : Nat × Nat × Nat → Bool) => match b.lru.findIdx? f with
    | none => 0
    | some i => 999 - min i 998
  ((ring * 10 + s.msgTier x w) * 1000 + age fun e => e.1 == o && e.2.1 == w.cls) * 1000 + age fun e => e == (o, w.cls, s.msgFrom w)

/-- The message that an output of sector x's network grants: its place in the list. -/
def State.msgPick (s : State) (x o : Nat) : Option Nat :=
  let l := (s.net x).msgs
  leastBy (fun i => match l[i]? with
    | some w => s.msgRank x w
    | none => 0) ((List.range l.length).filter fun i => match l[i]? with
    | some w => s.msgOut x w == o && s.msgCan x w (l.take i)
    | none => false)

/-- Deliver a message at its sector: a response to its port; a request to the channel that serves it, or the answer FENCED for a
hole (R98, R108, R113). -/
def State.deliver (s : State) (x : Nat) (w : Work) : State :=
  let s := s.count (.network x) 1 none 1 (fields [(s.msgPos w, 0), (w.cls, 8)]) (some (fields [(w.req, 0)]))
  match w.ans with
  | some a => if (s.reqOf w.port w.uid).isSome then s.putAns w.port a else s
  | none => match s.serving w.lch with
    | none => s.failWork w cFENCED
    | some p => s.onCtl p fun c => if w.op = 0 then { c with inRd := c.inRd ++ [w] } else { c with inWr := c.inWr ++ [w] }

/-- A message enters the ring or takes its next hop: the slots it needs beyond the ring are booked first, and its own sector's
are free when the ring takes it (R106, R132). -/
def State.hop (s : State) (x : Nat) (w : Work) : State :=
  let t := s.msgDst w
  let y := ringNext x t
  let pos := s.msgPos w
  let ev := fun (s : State) (x k : Nat) => s.count (.network x) k none 1 (fields [(pos, 0), (w.cls, 8)]) (some (fields [(w.req, 0)]))
  let go := fun (s : State) (w : Work) => (if y = t then ev s y 3 else s).onNet y fun b => { b with msgs := b.msgs ++ [w] }
  if s.msgSrc w != x then go s w
  else
    match s.ringBook w with
    | none => go s w
    | some (k, s) =>
      let s := ev (s.onNet x fun b => { b with reserved := false }) x 2
      if w.ans.isSome then go s w
      else if w.op = 0 then go (s.onReq w.port w.uid fun r => { r with slots := r.slots ++ k }) w
      else go (s.freeSlots w.slots) { w with slots := k }

/-- NETWORK_MESSAGE (R106, R107, R136): message i waiting at sector x moves, where it is what its output's arbiter grants. -/
def State.message (s : State) (x i : Nat) : State :=
  match (s.net x).msgs[i]? with
  | none => s
  | some w =>
    let o := s.msgOut x w
    if s.msgPick x o != some i then s
    else
      let from' := s.msgFrom w
      let (par, s) := s.fire (.network x) 0 false
      let (led, s) := s.fire (.network x) 2 false
      if led then s.fault (.network x) 2
      else
        let s := s.onNet x fun b => { b with
          msgs := b.msgs.eraseIdx i, lru := (o, w.cls, from') :: (b.lru.filter (· != (o, w.cls, from'))) }
        if par then (s.report (.network x) 0).failWork w cABORTED
        else if s.msgDst w = x then s.deliver x w
        else s.hop x w

/-- NETWORK_MESSAGE. -/
def execNetworkMessage (x i : Nat) (s : State) : Out := onSect x s fun s => s.message x i

/-- RING_RESERVE (R106): the ring stop of sector x reserves the next slot that passes. -/
def execRingReserve (x : Nat) (s : State) : Out :=
  onSect x s fun s =>
    if (s.net x).msgs.any fun w => s.msgSrc w == x && s.msgDst w != x then
      (s.onNet x fun b => { b with reserved := true }).count (.network x) 5
    else s

end Sys2Proof.Machine
end

