-- ==== Sys2Proof/Machine/Channel.lean ====
section
/-! DEFINITION. The commands of a channel controller: its cycle, its timers, its ordered groups, the return and decoding of a
read burst, regulation periods (R120, R128, R136, R139, R148-R168, R179, R234-R236, R243, R247). -/

namespace Sys2Proof.Machine

/-- A source's check runs and finds a fault, or not; an armed injection makes it fail (R405, R406). -/
def State.check (s : State) (u : UnitId) (bit : Nat) (real : Bool) : State :=
  let (hit, s) := s.fire u bit real
  if hit || real then s.fault u bit else s

/-- A bank key of the installed Hides. -/
def State.bankOk (s : State) (key : Nat) : Bool := key < 16 * s.hides

/-! ### The erasure set and the decoder (R197, R234) -/

/-- The codeword symbols that dead lanes of the read and write groups carry (R174, R197). -/
def Link.erased (l : Link) : List Nat :=
  sorted ((List.range 18).flatMap fun i => (l.grps.getD i {}).dead.map fun j => (16 * (i % 9) + j) / 2).eraseDups (· ≤ ·)

/-- What a codeword decodes to (R235): the symbols corrected, or uncorrectable. -/
inductive Decoded where
  | ok (syms : List Nat)
  | bad
deriving DecidableEq, Repr, Inhabited

/-- Symbols corrected and detected for a number of erasures (R234). -/
def decLimit (erasures : Nat) : Nat × Nat := if erasures = 0 then (3, 5) else if erasures = 1 then (2, 5) else (2, 4)

/-- R234 on a received word of the block d, with erasure set `er`: the symbols in error outside it. Beyond the limits the outcome, the
data and the symbols reported are free values (log 11). -/
def State.decodeWord (s : State) (er w : List Nat) (d : Block) : Decoded × Block × State :=
  let e := (symDiff d w).filter fun k => !er.contains k
  let lim := decLimit er.length
  if e.length ≤ lim.1 then (.ok e, d, s)
  else if e.length ≤ lim.2 then (.bad, d, s)
  else
    let w := Config.freeWord s.free
    let s' : State := { s with free := s.free + 1 }
    match Config.beyondDecode s.free with
    | none => (.bad, d, s')
    | some b => (.ok (((List.range (w.toNat % lim.1 + 1)).map fun i => (bits w.toNat (8 + 8 * i) 8) % 72).eraseDups), b, s')

/-! ### Corrected codewords (R247) -/

/-- Log a coalescing entry. -/
def State.logCoal (s : State) (p : Nat) (c : Coal) : State :=
  s.log { kind := 1, source := c.source, phys := p, hide := c.hide, bank := c.bank, blocks := c.blocks, row := c.row, col := c.col,
          most := c.most, req := c.req, off := c.off, syms := c.first, count := c.syms }

/-- Commit coalescing entry i. -/
def State.commitCoal (s : State) (p i : Nat) : State :=
  match (s.ctl p).coal[i]? with
  | none => s
  | some c => (s.onCtl p fun t => { t with coal := t.coal.eraseIdx i }).logCoal p c

/-- Coalesce a corrected codeword of n symbols at p (R247). -/
def State.coalesce (s : State) (p source req off n : Nat) (syms : List Nat) : State :=
  let l := locate s.hides off
  let c := (s.ctl p).coal
  match c.findIdx? fun e => e.hide == l.hide && e.bank == l.bank && e.row == l.row with
  | some i =>
    let s := s.onCtl p fun t => { t with coal := upd t.coal i fun e =>
      { e with blocks := e.blocks + 1, syms := e.syms + n, most := max e.most n } }
    if 255 ≤ (c.getD i default).blocks + 1 then s.commitCoal p i else s
  | none =>
    let s := if 8 ≤ c.length then s.commitCoal p 0 else s
    s.onCtl p fun t => { t with coal := t.coal ++
      [{ hide := l.hide, bank := l.bank, row := l.row, col := l.col, off := off, req := req, source := source, blocks := 1, syms := n,
         most := n, first := syms }] }

/-- A corrected codeword latches CE, counts and is coalesced for the log, unless a profiling read met it (R235, R242, R247). -/
def State.corrected (s : State) (p source req off n : Nat) (syms : List Nat) : State :=
  let s := s.report (.ctl p) 0
  let s := s.onCtl p fun c => { c with eccCe := satAdd c.eccCe 1, eccSym := satAdd c.eccSym n }
  let s := s.count (.ctl p) 0x0C none 1 (fields [(req, 0)]) (BitVec.ofNat 32 (off / 64))
  if source = 5 then s else s.coalesce p source req off n syms

/-- An uncorrectable codeword latches UE_DATA, counts and is logged at once (R235, R247). -/
def State.uncorrectable (s : State) (p source req off : Nat) : State :=
  let l := locate s.hides off
  let s := s.report (.ctl p) 1
  let s := s.onCtl p fun c => { c with eccUe := satAdd c.eccUe 1, eccEv := c.eccEv ||| 1 }
  let s := s.count (.ctl p) 0x0D none 1 (fields [(req, 0)]) (BitVec.ofNat 32 (off / 64))
  s.log { kind := 2, source := source, phys := p, hide := l.hide, bank := l.bank, blocks := 1, row := l.row, col := l.col, req := req,
          off := off }

/-- The errors that reads of the written blocks of channel p that `area` holds meet: those named, and every block that stands
uncorrectable (R238). -/
def State.meets (s : State) (p l : Nat) (area : Nat → Bool) (errs : List BlkErr) : List BlkErr :=
  let stands := s.bad.filter fun b => b.1 == p && area b.2 && s.fresh p b.2 == 1
  errs.filter (fun e => !stands.any fun b => b.2 == e.off / 64 * 64) ++ stands.map fun b => { chan := l, off := b.2, syms := [], ue := true }

/-! ### The return of a read burst (R175, R235, R236, R243) -/

/-- A newer write of the block has reached the ordering point since the read entered, or its granule has changed state (R243). -/
def State.superseded (s : State) (p : Nat) (e : Entry) : Bool :=
  s.fresh p e.off != 1 || e.stale || (s.ctl p).wrQ.any fun f => f.off == e.off && e.ord < f.ord

/-- Symbols corrected from which a read's block is written back: one for a scrub, two for a read of a tile, an Awl, a mover, the
page service or the arithmetic unit; copies and profiling queue none (R236, R242). -/
def Entry.wbFrom (e : Entry) : Nat :=
  if e.inp = 5 || (e.inp = 4 && e.port = profPort) then 73 else if e.inp = 4 then 1 else 2

/-- Queue the write-back of a corrected codeword (R236, R243). -/
def State.queueWb (s : State) (p : Nat) (e : Entry) (d : Block) : State :=
  if s.superseded p e then s
  else
    let s := s.onCur p fun c => { c with wbQ := (c.wbQ.filter fun f => f.1 != e.off) ++ [(e.off, d)] }
    s.onCtl p fun c => { c with inWr := c.inWr ++
      [{ port := if e.inp = 4 then e.port else noPort, uid := 0, tag := 0, cls := 0, req := reqCurrier, op := opWrite, arg := 0, lch := 0,
         off := e.off, idx := 0, n := 1, data := [d], be := BitVec.allOnes 64, inp := 4, first := 1 }] }

/-- A block that the migration copy read has come back; one that does not decode poisons its granule at the spare, which the copy
then leaves (R112, R240, R249). -/
def State.copyBack (s : State) (p : Nat) (e : Entry) (d : Block) (bad : Bool) : State :=
  let x := secOf p
  let g := e.off / 16384
  if !bad then s.copyBlock p e.off d
  else if (s.sec x).sp != .copy || posOf p != (s.sec x).pos.toNat || g != (s.sec x).copyAt then s
  else (((s.discardGran (spareOf x) g).setFresh (spareOf x) g 2).logPoison (spareOf x) g 6 reqMig 1).copyNext p

/-- Hand the outcome of a read to what asked for it: a port or an agent, the copy, the Currier's own work, or an operation of the
arithmetic unit, which sees the granule's present state (R161, R235, R239, R240). Slots that the read itself held are free. -/
def State.deliverRead (s : State) (p : Nat) (e : Entry) (d : Block) (n : Nat) (bad : Bool) : State :=
  let s := s.freeSlots e.slots
  if e.inp = 5 then s.copyBack p e d bad
  else if e.inp = 4 then s.currierBack p e n bad
  else if e.op = 0 then s.gotBlock e.port e.uid e.idx d bad
  else if s.fresh p e.off = 0 then (s.firstWrite p e.off).resolveComb p e.off 0
  else if bad || s.fresh p e.off = 2 then s.failComb p e.off cPOISON
  else s.resolveComb p e.off d

/-- What the error log calls the source of a read (R249). -/
def Entry.source (e : Entry) : Nat :=
  if e.inp = 5 then 6
  else if e.inp = 4 then (if e.port = scrubPort then 4 else if e.port = profPort then 5 else 3)
  else if e.op != 0 then 7
  else if e.port < 128 then 0
  else if e.port < 1536 then 1
  else 2

/-- A framed burst is decoded at channel q, which drove it; a block found uncorrectable stays so (R235, R238). -/
def State.burst (s : State) (p q : Nat) (e : Entry) (errs : SymErrs) : State :=
  let source := e.source
  let (r, d, s) := s.decodeWord (s.link q).erased (received e.data errs) e.data
  let realUe := r == .bad || e.ue
  let realCe := !realUe && match r with
    | .ok l => !l.isEmpty
    | .bad => false
  let (ue, s) := s.fire (.ctl q) 1 realUe
  let (ce, s) := s.fire (.ctl q) 0 realCe
  if realUe || ue then
    let s := if realUe && !s.superseded p e then s.markBad p e.off else s
    let s := s.uncorrectable q source e.req e.off
    let run := (if realUe then (s.ctl q).ueRun ++ [(locate s.hides e.off).key] else (s.ctl q).ueRun)
    let run := run.drop (run.length - 4)
    let s := s.onCtl q fun c => { c with ueRun := run }
    let s := s.deliverRead p e 0 0 true
    s.check (.ctl q) 4 (realUe && run.length == 4 && decide (2 ≤ run.eraseDups.length))
  else
    let syms := match r with
      | .ok l => l
      | .bad => []
    let s := s.onCtl q fun c => { c with ueRun := [] }
    let s := if realCe then s.corrected q source e.req e.off syms.length (if ce then [] else syms)
      else if ce then s.corrected q source e.req e.off 1 []
      else s
    let s := s.deliverRead p e d syms.length false
    let s := if e.wbFrom ≤ syms.length then s.queueWb p e d else s
    s.check (.ctl q) 4 false

/-- Drift tracking (R175): the strobe error of group g in a burst of Hide h, in phase steps, is added up over 256 bursts; a mean beyond 2
steps moves the Hide's strobe offset for the group by one step, toward the edge (log 14). -/
def Link.driftAt (l : Link) (h g : Nat) (err : Int) : Link :=
  let k := 8 * g + h
  let (n, sum) := smGet (0, 0) l.drift k
  if n + 1 < 256 then { l with drift := smSet (0, 0) l.drift k (n + 1, sum + err) }
  else
    let m := sum + err
    let move := fun (v : Byte) => if 512 < m then v + 1 else if m < -512 then v - 1 else v
    { l with drift := smSet (0, 0) l.drift k (0, 0), strobes := upd l.strobes k move }

/-- READ_BURST_RETURN: the oldest burst in flight at channel p; a framing failure raises LINK_RD, with a burst due or without one
(R175, R235). -/
def State.burstReturn (s : State) (p : Nat) (framed : Bool) (errs : BurstErrs) : State :=
  match (s.ctl p).flight with
  | [] => if framed || (s.link p).st = .off || s.chFenced p then s else (s.fire (.ctl p) 3 true).2.ctlFault p 3
  | e :: rest =>
    let q := if s.isLent p e.off then spareOf (secOf p) else p
    let (hit, s) := s.fire (.ctl q) 3 (!framed)
    if !framed || hit then s.ctlFault q 3
    else
      let h := (locate s.hides e.off).hide
      let s := s.onLink q fun l => errs.edge.zipIdx.foldl (fun l (x, g) => if g < 9 then l.driftAt h g x else l) l
      (s.onCtl p fun c => { c with flight := rest }).burst p q e errs.syms

/-! ### Ordered groups (R163, R165) -/

/-- A group closes, and a waiting key takes its place (R163). -/
def State.closeGroup (s : State) (p key : Nat) : State :=
  let s := s.onCtl p fun c => { c with groups := c.groups.filter fun g => g.key != key }
  match (s.ctl p).ordWait with
  | [] => s
  | w :: _ =>
    let same := (s.ctl p).ordWait.filter fun v => v.key == w.key
    let s := s.onCtl p fun c => { c with ordWait := c.ordWait.filter fun v => v.key != w.key }
    same.foldl (fun s v => s.contribute p v) s

/-- An open group ends with every waiting contribution REDUCTION_INCOMPLETE, and ORD_LAST records it (R165). -/
def State.timeoutGroup (s : State) (p : Nat) (g : OGroup) : State :=
  let s := g.waiting.foldl (fun s c => (s.freeSlots c.slots).finish c.port c.uid cINCOMPLETE) s
  let s := s.onCtl p fun c => { c with
    ordEvent := true, ordLastNext := BitVec.ofNat 8 g.next, ordLastCount := BitVec.ofNat 8 g.count }
  s.closeGroup p g.key

/-! ### Meanings -/

/-- ENTRY_AGED (R148). -/
def execEntryAged (p : Nat) (write : Bool) (i : Nat) (s : State) : Out :=
  onChan p s fun s => s.onCtl p fun c =>
    if c.frozen then c
    else if write then { c with wrQ := upd c.wrQ i fun e => { e with aged := true } }
    else { c with rdQ := upd c.rdQ i fun e => { e with aged := true } }

/-- HIT_LIMIT (R150): 16 consecutive column commands have gone to the open row while an entry older than theirs waits for another
row of the bank. -/
def execHitLimit (p bank : Nat) (s : State) : Out :=
  onChan p s fun s =>
    let b := (s.ctl p).bk bank
    let conflict := ((s.ctl p).rdQ ++ (s.ctl p).wrQ).any fun f =>
      f.ord < b.ordLast && (let m := s.place p f.off; m.key == bank && m.row != b.row)
    if s.bankOk bank && !(s.ctl p).frozen && b.st == .opn && 16 ≤ b.hits && conflict then
      s.onCtl p fun c => c.onBk bank fun b => { b with noHit := true }
    else s

/-- IDLE_ROW_CLOSE (R151): no column command for 32 cycles, nothing hits the row, and a free row slot carries the precharge. -/
def execIdleRowClose (p bank : Nat) (s : State) : Out :=
  onChan p s fun s =>
    let c := s.ctl p
    let b := c.bk bank
    let idle := since c.cyc b.tRd 32 && since c.cyc b.tWr 32 && since c.cyc b.tAct 32
    if s.bankOk bank && s.rowFree p && idle && s.preOk p bank && !s.rowWanted p bank then
      (s.doPre p bank false).onCtl p fun c => { c with rowUsed := true }
    else s

/-- SCHED_STALL (R152). -/
def execSchedStall (p : Nat) (s : State) : Out :=
  onChan p s fun s =>
    if s.canIssue p && !((s.ctl p).rdQ.isEmpty && (s.ctl p).wrQ.isEmpty) then s.check (.ctl p) 6 true else s

/-- Cycles that a bank spends in a transient state: tRCD, tRP, tRFCpb, tTRR; with the time of the command that began it (R147,
R153). -/
def State.bankPast (s : State) (p bank : Nat) : Bool :=
  let c := s.ctl p
  let b := c.bk bank
  match b.st with
  | .opening => since c.cyc b.tAct (s.img.tc 1)
  | .closing => since c.cyc b.tPre (s.img.tc 2)
  | .refreshing => since c.cyc b.tRef (s.img.tc (if b.trr then 0x0E else 0x0D))
  | _ => true

/-- A bank state's timer has passed (R153). -/
def State.bankTimer (s : State) (p bank : Nat) (a b : BankSt) : State :=
  if s.bankOk bank && !(s.ctl p).frozen && ((s.ctl p).bk bank).st == a && s.bankPast p bank then
    s.onCtl p fun c => c.onBk bank fun k => { k with st := b }
  else s

/-- BANK_OPENING_DONE: tRCD (R153). -/
def execBankOpeningDone (p bank : Nat) (s : State) : Out := onChan p s fun s => s.bankTimer p bank .opening .opn
/-- BANK_CLOSING_DONE: tRP (R153). -/
def execBankClosingDone (p bank : Nat) (s : State) : Out := onChan p s fun s => s.bankTimer p bank .closing .closed
/-- BANK_REFRESH_DONE: tRFCpb or tTRR (R153). -/
def execBankRefreshDone (p bank : Nat) (s : State) : Out := onChan p s fun s => s.bankTimer p bank .refreshing .closed

/-- ZERO_FILL_DONE (R156): a running fill has issued its last block; its slot is free, and the next waiting fill runs. -/
def execZeroFillDone (p gran : Nat) (s : State) : Out :=
  onChan p s fun s =>
    match ((s.ctl p).fills.take 4).find? fun f => f.gran == gran with
    | some f =>
      if s.canIssue p && 256 ≤ f.k then
        (s.freeSlots f.slot.toList).onCtl p fun c => { c with fills := c.fills.filter fun f => f.gran != gran }
      else s
    | none => s

/-- COMBINE_WRITEBACK (R159): entry i has been left untouched. -/
def execCombineWriteback (p i : Nat) (s : State) : Out :=
  onChan p s fun s =>
    match (s.ctl p).comb[i]? with
    | some e => if s.canIssue p then s.combBack p e.off else s
    | none => s

/-- ORD_TIMEOUT (R165): 100 µs with a contribution waiting and none applied. -/
def execOrdTimeout (p g : Nat) (s : State) : Out :=
  onChan p s fun s =>
    match (s.ctl p).groups[g]? with
    | some k =>
      if (s.ctl p).frozen || k.waiting.isEmpty || (s.ctl p).ordRun.any (fun w => w.key == k.key) then s else s.timeoutGroup p k
    | none => s

/-- POWER_DOWN_ENTRY (R157): no command for pd_idle cycles, every bank CLOSED, no queued entry for the layer-bank, and a free row
slot. -/
def execPowerDownEntry (p hide : Nat) (s : State) : Out :=
  onChan p s fun s =>
    let c := s.ctl p
    let busy := (c.rdQ ++ c.wrQ ++ c.running.map Fill.entry).any fun e => !s.isLent p e.off && (s.place p e.off).hide == hide
    let idle := s.img.policy.pdIdle
    if idle != 0 && hide < s.hides && s.rowFree p && !c.pd.getLsbD hide && !busy && since c.cyc (smGet 0 c.hideIdle hide) idle &&
        (List.range 16).all (fun b => (c.bk (16 * hide + b)).st == .closed) then
      (s.onCtl p fun c => { c with pd := c.pd ||| ((1 : BitVec 8) <<< hide) }).takeRow p (pdWord 5 false (2 ^ hide))
    else s

/-- TRR_LIMIT (R167). -/
def execTrrLimit (p i : Nat) (s : State) : Out :=
  onChan p s fun s =>
    if (s.ctl p).frozen then s
    else s.onCur p fun c => { c with trr := upd c.trr i fun t => if t.selfRow then t else { t with limit := true } }

/-- RH_PENALTY_END (R168): the window of a slice port, an Awl or a mover channel ends. -/
def execRhPenaltyEnd (req : BitVec 9) (s : State) : Out :=
  if req.toNat < 128 then .next (s.unhold req.toNat .rowPenalty)
  else .next { s with rhHeld := s.rhHeld.filter (· != req.toNat) }

/-- READ_BURST_RETURN (R235). -/
def execReadBurstReturn (p : Nat) (framed : Bool) (errs : BurstErrs) (s : State) : Out :=
  onChan p s fun s => if (s.ctl p).frozen then s else s.burstReturn p framed errs

/-- HIDE_ALERT (R179): ca_err at the Hide, the alert traced, LINK_CA. -/
def execHideAlert (p hide : Nat) (s : State) : Out :=
  onChan p s fun s =>
    if s.hides ≤ hide || s.chFenced p || (s.ctl p).unpowered then s
    else
      (s.onLink p fun l => { l with
        alert := l.alert ||| ((1 : BitVec 8) <<< hide)
        mr := smSet 0 l.mr (256 * hide + 3) (smGet 0 l.mr (256 * hide + 3) ||| 1) }).check (.ctl p) 2 true

/-- REGULATION_PERIOD_START (R120). -/
def execRegulationPeriodStart (p : Nat) (s : State) : Out := onChan p s fun s => if s.isRunning then s.periodStart p else s

/-- POOL_SCALE_UPDATE (R128). -/
def execPoolScaleUpdate (x : Nat) (s : State) : Out := onSect x s fun s => if s.isRunning then s.poolScale x else s

/-- TIER4_WAIT_LIMIT (R136): the input of waiting work i has asked for 64 cycles. -/
def execTier4WaitLimit (p : Nat) (write : Bool) (i : Nat) (s : State) : Out :=
  onChan p s fun s =>
    match (if write then (s.ctl p).inWr else (s.ctl p).inRd)[i]? with
    | some w => if 4 ≤ w.inp then s.onCtl p fun c => c.onDir write fun r => { r with wait4 := 64 } else s
    | none => s

/-- The works of the request that waits first at an input of a channel leave it, and their slots are free (R139). -/
def State.withdraw (s : State) (p : Nat) (write : Bool) (pick : Work → Bool) : Option (Work × State) :=
  let l := if write then (s.ctl p).inWr else (s.ctl p).inRd
  match l.find? pick with
  | none => none
  | some w =>
    let gone := fun (v : Work) => v.inp == w.inp && v.port == w.port && v.uid == w.uid
    let s := s.freeSlots ((l.filter gone).flatMap (·.slots))
    some (w, s.onCtl p fun c =>
      let c := if write then { c with inWr := c.inWr.filter fun v => !gone v } else { c with inRd := c.inRd.filter fun v => !gone v }
      c.onDir write fun r => { r with owner := none, prog := r.prog.filter (· != (w.inp, w.uid)) })

/-- The request of a withdrawn work ends BAD_REQUEST; an agent's job loses the blocks that were withdrawn, and a copy read is asked
for again. -/
def State.cutEnd (s0 s : State) (p : Nat) (w : Work) : State :=
  if 4 ≤ w.inp then s.onSec (secOf p) fun e => { e with copySub := e.copyGot }
  else if 1024 ≤ w.port then
    s.jobDoneN w.port w.uid ((s0.ctl p).jobBlocks w.port w.uid - (s.ctl p).jobBlocks w.port w.uid)
  else if w.op = 0 || w.op = opOrd then s.finish w.port w.uid cBAD else s.blockFail w.port w.uid w.idx cBAD

/-- The owner of an input of a channel's arbiters is cut off. -/
def State.cutOff (s : State) (p : Nat) (write : Bool) (pick : Work → Bool) : State :=
  match s.withdraw p write pick with
  | none => s
  | some (w, t) => State.cutEnd s t p w

/-- ARBITER_CUTOFF (R139): the owner's request ends BAD_REQUEST and the input's sticky bit is set. -/
def execArbiterCutoff (i : ArbInput) (s : State) : Out :=
  match i with
  | .port n write =>
    onPortN n s fun s =>
      if write then (if (s.port n).openW.isSome then (s.endOpen n true).misb n 0 else s)
      else
        let mine := fun (w : Work) => w.inp == 0 && w.port == n
        if (s.ctl (s.portPhys n)).inRd.any mine then (s.cutOff (s.portPhys n) false mine).misb n 0 else s
  | .ctl p bit =>
    onChan p s fun s =>
      if 5 ≤ bit then s
      else
        let s := s.onCtl p fun c => { c with arbMisb := c.arbMisb ||| ((1 : BitVec 5) <<< bit) }
        -- bits 0 and 1 the Awl, 2 and 3 the network, 4 the migration copy
        s.cutOff p (bit == 1 || bit == 3) fun w => w.inp == if bit < 2 then 2 else if bit < 4 then 1 else 5
  | .net x bit =>
    onSect x s fun s =>
      if 18 ≤ bit then s
      else
        let s := s.onNet x fun b => { b with arbMisb := b.arbMisb ||| ((1 : BitVec 18) <<< bit) }
        match (s.net x).msgs.find? fun w => w.ans.isNone && (if s.msgSrc w = x then s.msgFrom w == bit else bit == 17) with
        | some w => (s.onNet x fun b => { b with msgs := b.msgs.filter (· != w) }).failWork w cBAD
        | none => s

/-- CE_COMMIT (R247): 1 ms after its creation an entry is committed. -/
def execCeCommit (p i : Nat) (s : State) : Out := onChan p s fun s => s.commitCoal p i

end Sys2Proof.Machine
end

