-- ==== Sys2Proof/Machine/Mgmt.lean ====
section
/-! DEFINITION. Management writes: acceptance and answers of the management port, and writes to a unit's frame (R27, R34, R50,
R404, R447). -/

namespace Sys2Proof.Machine

/-- mg_req_ready: after CLOCK, with fewer than 8 requests outstanding (R447). -/
def State.mgOpen (s : State) : Bool := !s.boot.rstLow && s.boot.phase != 0 && s.mgmt.rsp.length < 8

/-- Queue a management response. -/
def State.answer (s : State) (d : Word) (code : BitVec 4) : State :=
  { s with mgmt := { s.mgmt with rsp := s.mgmt.rsp ++ [(d, code)] } }

/-- The checks of the management island run at each access: an armed ELOG_PAR drops the oldest entry as lost, an armed TACK_PAR has
the table rebuilt under a new generation (R390, R405). -/
def State.mgmtChecks (s : State) : State :=
  let (e, s) := s.fire .mgmt 0 false
  let s := if e then
      let s := s.fault .mgmt 0
      match s.mgmt.elog with
      | [] => s
      | _ :: l => { s with mgmt := { s.mgmt with
          elog := l, elogHead := seqNext s.mgmt.elogHead, elogEv := s.mgmt.elogEv ||| 2
          lostOther := if s.mgmt.lostOther = 0xFFFF then s.mgmt.lostOther else s.mgmt.lostOther + 1 } }
    else s
  let (t, s) := s.fire .mgmt 1 false
  if t then
    let s := s.fault .mgmt 1
    { s with tack := { s.tack with gen := s.tack.gen + 1, changed := true } }
  else s

/-- A write accepted for a register of unit u whose own rule is f (R50, R404, R447). -/
def State.mgAccess (s : State) (u : UnitId) (f : State → State) : State :=
  if !s.mgOpen then s
  else
    let s := (s.count .mgmt 1).mgmtChecks
    if !u.ok || (!s.isRunning && u != .array) then s.answer 0 cBAD
    else if s.safe.on then s.answer 0 cFENCED
    else (f s).answer 0 cOK

/-- The registers of unit u but FRAME_CTRL and the other identity words read zero and take no write: it is RESETTING, or in a self-test
slice (R34, R414). -/
def State.shut (s : State) (u : UnitId) : Bool :=
  (s.fr u).st == .resetting || (s.seq.bist.phase != 0 && s.seq.bist.entry == u.idx)

/-- A read that changes state: what it answers and leaves. -/
def State.mgRead (s : State) (u : UnitId) (f : State → Word × State) : State :=
  if !s.mgOpen then s
  else
    let s := (s.count .mgmt 1).mgmtChecks
    if !u.ok || (!s.isRunning && u != .array) then s.answer 0 cBAD
    else if s.shut u then s.answer 0 cOK
    else match f s with
      | (d, s) => s.answer d cOK

/-- A write to a register other than FRAME_CTRL: ignored while the unit is shut (R34, R414). -/
def State.mgWrite (s : State) (u : UnitId) (f : State → State) : State := s.mgAccess u fun s => if s.shut u then s else f s

/-- A management write command. -/
def onMgmt (u : UnitId) (s : State) (f : State → State) : Out := .next (s.mgWrite u f)

/-- FRAME_STATUS.ctrl_rej (R28). -/
def State.reject (s : State) (u : UnitId) : State := s.onFr u fun f => { f with ctrlRej := true }

/-- The key field of a word holds 0x5A. -/
def keyed (v : Word) : Bool := bits v.toNat 24 8 == 0x5A

/-- Field of a written word. -/
def fld (v : Word) (lo len : Nat) : Nat := bits v.toNat lo len

end Sys2Proof.Machine
end

