-- ==== Sys2Proof/Machine/Migrate.lean ====
section
/-! DEFINITION. Live migration of a channel to its sector's spare (R110-R113, R118). -/

namespace Sys2Proof.Machine

/-- The spare's fresh map, all UNWRITTEN. -/
def State.wipeSpare (s : State) (x : Nat) : State := s.onCtl (spareOf x) fun c => { c with fresh := [] }

/-- The migration in COPY ends without a flip (R110). -/
def State.cancelCopy (s : State) (x : Nat) : State :=
  let e := s.sec x
  if e.sp != .copy then s
  else
    let s := (s.wipeSpare x).onSec x fun e => { e with sp := .standby, code := cABORTED, done := true, copySub := 0, copyGot := 0 }
    s.unheld (17 * x + e.pos.toNat)

/-- Start of a migration of position k (R110, R255). -/
def State.startCopy (s : State) (x k : Nat) : State :=
  let e := s.sec x
  match e.sp with
  | .copy | .flip => s.reject (.sector x)
  | .standby =>
    if e.fenced.getLsbD k || e.hole.getLsbD k then
      s.onSec x fun e => { e with pos := BitVec.ofNat 4 k, code := cBAD, done := true }
    else
      let s0 := s
      let s := s.recallFor x (17 * x + k)
      let s := (s.wipeSpare x).onSec x fun e => { e with sp := .copy, pos := BitVec.ofNat 4 k, copyAt := 0, copySub := 0, copyGot := 0, copyT := 0 }
      s.commit s0 ((List.range 17).map fun i => UnitId.channel (17 * x + i))
  | _ => s.onSec x fun e => { e with pos := BitVec.ofNat 4 k, code := cBAD, done := true }

/-- A write to SPARE_CTRL (R118). -/
def State.wSpareCtrl (s : State) (x : Nat) (v : Word) : State :=
  let start := bitN v.toNat 4
  let cancel := bitN v.toNat 5
  if ((start || cancel) && !keyed v) || (start && cancel) then s.reject (.sector x)
  else if start && ((s.sec x).sp == .copy || (s.sec x).sp == .flip) then s.reject (.sector x)
  else
    let s := s.onSec x fun e => { e with ctrlPos := BitVec.ofNat 4 (fld v 0 4), irqEn := bitN v.toNat 6 }
    if start then s.startCopy x (fld v 0 4)
    else if cancel then s.cancelCopy x
    else s

/-- The copy has passed the last granule: FLIP (R113 step 1). -/
def State.copyDone (s : State) (x : Nat) : State :=
  let e := s.sec x
  let p := 17 * x + e.pos.toNat
  if e.sp != .copy || e.copyAt < s.grans || s.ctlQuiet p || s.ctlQuiet (spareOf x) then s
  else
    let s := (s.onSec x fun e => { e with copySub := 0, copyGot := 0 }).unheld p
    let s := s.onSec x fun e => { e with sp := .flip }
    match s.portOf (16 * x + e.pos.toNat) with
    | some n => s.hold n .switch
    | none => s

/-- Nothing is left at the old channel's scheduler and its Awl runs nothing (R113 step 2). -/
def State.flipDrained (s : State) (p : Nat) : Bool :=
  let c := s.ctl p
  c.inRd.all (4 ≤ ·.inp) && c.inWr.all (4 ≤ ·.inp) && c.rdQ.isEmpty && c.wrQ.isEmpty && c.comb.isEmpty && c.flight.isEmpty && c.ordRun.isEmpty &&
  (s.awl p).part.isNone

/-- The waiting parts of the old channel's Awl wait at the spare's (R113). -/
def State.moveParts (s : State) (p sp : Nat) : State :=
  let l := (s.awl p).waitQ
  let s := (s.onAwl p fun a => { a with waitQ := [] }).onAwl sp fun a => { a with waitQ := a.waitQ ++ l }
  l.foldl (fun s q => s.onNode q.sec q.slot q.node fun n => { n with
    parts := n.parts.map fun r => if r.part = q.part then { r with phys := some sp } else r }) s

/-- The flip: the groups move, and the old channel is fenced; its fence, which flips the map, is reported as a contained fault
(R113, R466). -/
def State.flip (s : State) (x : Nat) : State :=
  let k := (s.sec x).pos.toNat
  let p := 17 * x + k
  let sp := spareOf x
  let g := (s.ctl p).groups
  let w := (s.ctl p).ordWait
  let s := s.onCtl p fun c => { c with groups := [], ordWait := [] }
  let s := s.onCtl sp fun c => { c with groups := g, ordWait := w }
  (s.moveParts p sp).fenceChannel p

/-- MIGRATION_START (R110). -/
def execMigrationStart (x : Nat) (v : Word) (s : State) : Out := onMgmt (.sector x) s fun s => s.wSpareCtrl x v

/-- MIGRATION_CANCEL (R110). -/
def execMigrationCancel (x : Nat) (v : Word) (s : State) : Out := onMgmt (.sector x) s fun s => s.wSpareCtrl x v

/-- MIGRATION_COPY_DONE (R113), of the position that SPARE_STATUS names; of another it is no event (log 2). -/
def execMigrationCopyDone (x pos : Nat) (s : State) : Out :=
  onSect x s fun s => if (s.sec x).pos.toNat = pos then s.copyDone x else s

/-- The drain has passed drain_us: the old channel is reset as wedged, its requests are answered ABORTED, and the flip
completes (R110). -/
def State.flipLate (s : State) (x : Nat) : State :=
  let k := (s.sec x).pos.toNat
  let p := 17 * x + k
  let s := (s.abortAt p).emptyCtl p
  let s := s.onFr (.quad x (k / 4)) fun f => { f with fltWedged := f.fltWedged ||| ((1 : BitVec 16) <<< (k % 4)) }
  s.flip x

end Sys2Proof.Machine
end

