-- ==== Sys2Proof/Machine/LinkCal.lean ====
section
/-! DEFINITION. The Alisteri link: calibration by lane rotation, tracking, parked and dead lanes, retraining (R173-R204; the
sideband is in Sideband.lean). -/

namespace Sys2Proof.Machine

/-! ### Groups and positions (R173) -/

/-- Index of a group or half among the 20 of a link. -/
def grpIx (set grp : Nat) : Nat := 9 * set + grp
/-- The group exists. -/
def grpOk (set grp : Nat) : Bool := if set < 2 then grp < 9 else set == 2 && grp < 2
/-- Last position of a set's groups. -/
def lastPos (set : Nat) : Nat := if set = 2 then 12 else 16
/-- Key of a position's trims. -/
def laneKey (set grp pos : Nat) : Nat := if set = 2 then 306 + 13 * grp + pos else 153 * set + 17 * grp + pos
/-- The position exists. -/
def lposOk (l : LanePos) : Bool := grpOk l.set l.group && l.pos ≤ lastPos l.set
/-- Key of a position. -/
def lposKey (l : LanePos) : Nat := laneKey l.set l.group l.pos
/-- A group of a link. -/
def Link.grp (l : Link) (i : Nat) : Grp := l.grps.getD i {}
/-- Trims of a position. -/
def Link.lane (l : Link) (k : Nat) : Lane := smGet {} l.lanes k
/-- Change a group. -/
def State.onGrp (s : State) (p i : Nat) (f : Grp → Grp) : State := s.onLink p fun l => { l with grps := upd l.grps i f }
/-- Change a position's trims. -/
def State.onLane (s : State) (p k : Nat) (f : Lane → Lane) : State :=
  s.onLink p fun l => { l with lanes := smSet {} l.lanes k (f (l.lane k)) }

/-- Logical index that travels on a position when c is the calibration position (R173). -/
def laneIdx (c pos : Nat) : Nat := if pos < c then pos else pos - 1

/-- Distance of two phases of 1/128 UI. -/
def phaseDist (a b : Int) : Nat := min ((a - b) % 128).toNat ((b - a) % 128).toNat

/-- The link calibrates: its channel is trained, in service and not halted (R193). -/
def State.calOn (s : State) (p : Nat) : Bool :=
  ((s.link p).st == .running || (s.link p).st == .retrain) && !(s.ctl p).frozen && !s.chFenced p && !(s.ctl p).selfRef

/-- No bank of the channel holds more than 4 deferred refreshes (R197). -/
def State.sliceOk (s : State) (p : Nat) : Bool := (s.cur p).bank.all fun b => b.2.count ≤ 4

/-- A LINK unit takes no rotation step and no tracking slice (R395). -/
def State.linkQuiet (s : State) (p : Nat) : Bool :=
  (UnitId.link p).path.any fun u => (s.fr u).st == .quiescing || (s.fr u).st == .quiesced || (s.fr u).st == .resetting

/-- A position calibrates successfully: trims, count and time (R191). -/
def State.calPass (s : State) (p key set : Nat) (phase : Int) (ref : BitVec 6) (width : Nat) : State :=
  s.onLane p key fun l => { l with
    phase := BitVec.ofInt 7 phase, ref := if set = 0 then ref else l.ref
    count := if l.count = 0xFFFF then l.count else l.count + 1
    time := s.mgmt.elapsed, stale := false, width := width }

/-- The group after its position has passed: STEP, or the end of a sweep (R190, R193). -/
def Grp.passed (g : Grp) (set : Nat) : Grp :=
  let turn := if g.up then g.c == lastPos set else g.c == 0
  if turn && set = 0 then { g with up := !g.up, sweep := false, st := .cal, tries := [], unresolved := 0 }
  else { g with up := if turn then !g.up else g.up, st := .step, tries := [] }

/-- Where a group's park holds, or will once its ROT is in effect (R196). -/
def Link.parkPos (l : Link) (i : Nat) : Nat :=
  let g := l.grp i
  match l.rotQ.find? fun e => grpIx e.1 e.2.1 == i with
  | some e => e.2.2
  | none => (g.rot.map (·.1)).getD g.c

/-- A position is parked (R196): its ROT goes out in a row slot, and c moves there 8 cycles later (R194). -/
def State.park (s : State) (p set grp pos : Nat) : State :=
  let s0 := s
  let s := s.onGrp p (grpIx set grp) fun g => { g with parked := true, st := .parked, tries := [], unresolved := 0 }
  let s := s.onLink p fun l => { l with calEv := l.calEv ||| 1, rotQ := l.rotQ ++ [(set, grp, pos)] }
  let s := (s.report (.link p) 0).count (.link p) 4 none 1 (fields [(set, 0), (grp, 4), (pos, 8)])
  (s.commit s0 [.link p]).queueRet

/-- The logical lane of a second lost position is dead, or the link is at its limit (R197): a CA half has no dead lane, and the erasure
set at most 2 symbols. -/
def State.laneDead (s : State) (p set grp pos : Nat) : State :=
  let i := grpIx set grp
  let g := (s.link p).grp i
  let j := laneIdx g.c pos
  if set = 2 then s.fault (.link p) 5
  else if g.dead.contains j then s
  else
    let l : Link := { s.link p with grps := upd (s.link p).grps i fun g => { g with dead := g.dead ++ [j] } }
    if 2 < l.erased.length then s.fault (.link p) 5
    else
      let s := s.onLink p fun _ => { l with calEv := l.calEv ||| 2 }
      (s.fault (.link p) 2).queueRet

/-- A position fails calibration (R196, R197): the first of its group is parked, a second is dead. -/
def State.posFail (s : State) (p set grp pos : Nat) : State :=
  let l := s.link p
  if !(l.grp (grpIx set grp)).parked then s.park p set grp pos
  else if l.parkPos (grpIx set grp) = pos then s
  else s.laneDead p set grp pos

/-- The link halts: a ROT that waits or is pending has taken effect first, attempts start again (R193, R194). -/
def State.haltLink (s : State) (p : Nat) : State :=
  s.onLink p fun l =>
    if l.st = .off || l.st = .fenced then l
    else { l with
      st := .halted
      slice := none
      rotQ := []
      grps := (List.range 20).map fun i =>
        let g : Grp := { l.grp i with c := l.parkPos i, rot := none }
        if g.parked then g else { g with st := .halted, tries := [] } }

/-- The link leaves HALTED (R193). -/
def State.unhaltLink (s : State) (p : Nat) : State :=
  s.onLink p fun l =>
    if l.st = .halted then
      { l with st := if l.rtRun then .retrain else .running
               grps := l.grps.map fun g => if g.parked then g else { g with st := .cal, tries := [] } }
    else l

/-! ### Calibration -/

/-- CAL_ATTEMPT_DONE (R191-R193): an attempt at position c of a group. -/
def State.attempt (s : State) (p set grp passing : Nat) (centre : Int) (ref : BitVec 6) : State :=
  let i := grpIx set grp
  let g := (s.link p).grp i
  if !grpOk set grp || !s.calOn p || g.st != .cal || g.rot.isSome || (set = 0 && !g.sweep) then s
  else
    let s := s.check (.link p) 0 false
    let s := s.check (.link p) 1 false
    -- the search reads CMP_FLAGS of every Hide, which clears them (R183, R191)
    let s := if set = 0 then s
      else s.onLink p fun l => { l with mr := (List.range s.hides).foldl (fun m h => smSet 0 m (256 * h + 0x16) 0) l.mr }
    let key := laneKey set grp g.c
    let ctx := fields [(set, 0), (grp, 4), (g.c, 8)]
    let code := if passing < 39 then 3 else if phaseDist centre ((s.link p).lane key).phase.toNat ≤ 8 then 1 else 2
    let tries := g.tries ++ [(code, centre, ref)]
    let cs := tries.map (·.2.1)
    let agree := tries.length == 3 && tries.all (·.1 == 2) && cs.all fun a => cs.all fun b => phaseDist a b ≤ 2
    let s := s.onLane p key fun l => { l with last := if agree then 1 else BitVec.ofNat 2 code, repeats := BitVec.ofNat 2 (tries.length - 1) }
    let s := if tries.length = 1 then s
      else (s.onLink p fun l => { l with repeats := l.repeats + 1 }).count (.link p) 2 none 1 ctx
    if code = 1 || agree then
      let s := (s.calPass p key set centre ref passing).count (.link p) 1 none 1 ctx
      let s := if agree then s.onLink p fun l => { l with calEv := l.calEv ||| 8 } else s
      s.onGrp p i fun g => g.passed set
    else if tries.length < 3 then s.onGrp p i fun g => { g with tries := tries }
    else if tries.all (·.1 == 3) || 8 ≤ g.unresolved + 1 then s.park p set grp g.c
    else s.onGrp p i fun g => { g with st := .wait, tries := [], unresolved := g.unresolved + 1 }

/-- CAL_ATTEMPT_DONE. -/
def execCalAttemptDone (p set grp passing : Nat) (centre : Int) (ref : BitVec 6) (s : State) : Out :=
  onChan p s fun s => s.attempt p set grp passing centre ref

/-- CAL_WAIT_END (R193): the 64 µs wait ends. -/
def execCalWaitEnd (p set grp : Nat) (s : State) : Out :=
  onChan p s fun s =>
    if grpOk set grp && s.calOn p && ((s.link p).grp (grpIx set grp)).st == .wait then
      s.onGrp p (grpIx set grp) fun g => { g with st := .cal }
    else s

/-- Regulation periods between two steps: 2 in a data set, 8 in a CA half (R190, R195). -/
def stepGap (set : Nat) : Nat := if set < 2 then 2048 else 8192
/-- Which of the paced sets a group belongs to. -/
def stepKey (set grp : Nat) : Nat := if set < 2 then set else 2 + grp

/-- ROT_STEP (R190, R194, R195): a step slot carries the ROT of a group in STEP, in the row slot that the last cycle left free. -/
def execRotStep (p set grp : Nat) (s : State) : Out :=
  onChan p s fun s =>
    let g := (s.link p).grp (grpIx set grp)
    let now := (s.ctl p).cyc
    if !grpOk set grp || !s.calOn p || s.linkQuiet p || !s.rowFree p || g.st != .step || g.rot.isSome ||
        !since now ((s.link p).stepT.getD (stepKey set grp) 0) (stepGap set) then s
    else
      let c := if g.up then g.c + 1 else g.c - 1
      let s := s.onGrp p (grpIx set grp) fun g => { g with st := .cal, unresolved := 0 }
      let s := s.sendRot p set grp c (now - 1) false
      (s.onLink p fun l => { l with steps := l.steps + 1, stepT := upd l.stepT (stepKey set grp) fun _ => now + 1 }).count (.link p) 3 none 1
        (fields [(set, 0), (grp, 4), (c, 8)])

/-- ROT_EFFECT (R194): 8 cycles after the ROT both ends apply the new c; column commands of the set wait for it. -/
def execRotEffect (p set grp : Nat) (s : State) : Out :=
  onChan p s fun s =>
    match ((s.link p).grp (grpIx set grp)).rot with
    | some (c, n) =>
      if grpOk set grp && decide (n + 8 ≤ (s.ctl p).cyc) then s.onGrp p (grpIx set grp) fun g => { g with c := c, rot := none } else s
    | none => s

/-- CTL cycles in one millisecond (R18). -/
def cycMs : Nat := 1600000

/-- READ_SWEEP_START (R190): the read groups begin a sweep, once in every 1 ms. -/
def execReadSweepStart (p : Nat) (s : State) : Out :=
  onChan p s fun s =>
    let now := (s.ctl p).cyc
    if s.calOn p && since now (s.link p).sweepT cycMs then
      s.onLink p fun l => { l with
        sweepT := now + 1, grps := (l.grps.take 9).map (fun g => if g.parked then g else { g with sweep := true }) ++ l.grps.drop 9 }
    else s

/-! ### Tracking slices (R197) -/

/-- A group whose park is in effect: tracking slices keep its positions (R196, R197). -/
def Link.tracked (l : Link) (set grp : Nat) : Bool :=
  let g := l.grp (grpIx set grp)
  grpOk set grp && g.parked && g.rot.isNone && !(l.rotQ.any fun e => e.1 == set && e.2.1 == grp)

/-- A slice tests every position but the parked one of every tracked group of the set (R197). -/
def Link.covers (l : Link) (set : Nat) (res : List TrackRes) : Bool :=
  (List.range 9).all fun grp => !l.tracked set grp ||
    (List.range (lastPos set + 1)).all fun pos => pos == (l.grp (grpIx set grp)).c || res.any fun r => r.group == grp && r.pos == pos

/-- One result of a tracking slice at a parked group of the set. A test that passes on both sides leaves the centre and is a
successful calibration (log 14). -/
def State.track (s : State) (p set : Nat) (r : TrackRes) : State :=
  let g := (s.link p).grp (grpIx set r.group)
  if !(s.link p).tracked set r.group || lastPos set < r.pos || r.pos = g.c then s
  else if r.lowFail && r.highFail then s.laneDead p set r.group r.pos
  else
    let key := laneKey set r.group r.pos
    let l := (s.link p).lane key
    let move : Int := if r.lowFail then 2 else if r.highFail then -2 else 0
    s.calPass p key set (l.phase.toNat + move) l.ref l.width

/-- TRACKING_SLICE (R197): once in 1 ms for a data set, in 2 ms for the CA halves. The set's column commands, or every command for a
CA slice, wait for its end, at most 1.5 µs later; its length is a free value (log 14). -/
def execTrackingSlice (p set : Nat) (res : List TrackRes) (s : State) : Out :=
  onChan p s fun s =>
    let now := (s.ctl p).cyc
    if 2 < set || !s.calOn p || s.linkQuiet p || !s.canIssue p || !s.sliceOk p || !(s.link p).covers set res ||
        !since now ((s.link p).sliceT.getD set 0) (if set < 2 then cycMs else 2 * cycMs) then s
    else
      let s := [2, 5].foldl (fun s b => s.check (.link p) b false) s
      let s := s.countL (.link p) 6 true false
      let (w, s) := s.takeFree
      let s := s.onLink p fun l => { l with sliceT := upd l.sliceT set fun _ => now + 1, slice := some (set, now + w.toNat % 2400 + 1) }
      res.foldl (fun s r => s.track p set r) s

/-! ### Staleness and retraining (R199, R200) -/

/-- A full retrain starts. -/
def State.startRetrain (s : State) (p : Nat) : State :=
  if (s.link p).rtRun then s
  else s.onLink p fun l => { l with rtRun := true, rtDone := 0, st := if l.st = .running then .retrain else l.st }

/-- LANE_STALE (R199): a position that carries traffic has had no success for 8 ms. -/
def execLaneStale (p : Nat) (l : LanePos) (s : State) : Out :=
  onChan p s fun s =>
    if !lposOk l || !s.calOn p || l.pos == ((s.link p).grp (grpIx l.set l.group)).c then s
    else
      let s := s.onLane p (lposKey l) fun k => { k with stale := true }
      let s := (s.onLink p fun k => { k with calEv := k.calEv ||| 4 }).check (.link p) 1 true
      s.startRetrain p

/-- A write to LINK_CTRL (R200, R203). -/
def State.wLinkCtrl (s : State) (p : Nat) (v : Word) : State :=
  if !bitN v.toNat 0 || !keyed v then s
  else if (s.link p).rtRun then s.reject (.link p)
  else if s.calOn p then s.startRetrain p
  else s

/-- FULL_RETRAIN (R200). -/
def execFullRetrain (p : Nat) (v : Word) (s : State) : Out := onMgmt (.link p) s fun s => s.wLinkCtrl p v

/-- RETRAIN_SLICE (R200): a slice starts, at least 20 µs after the one before, and the channel is held. -/
def execRetrainSlice (p : Nat) (s : State) : Out :=
  onChan p s fun s =>
    let l := s.link p
    let now := (s.ctl p).cyc
    if !l.rtRun || l.rtSlice || l.st != .retrain || !s.canIssue p || !s.sliceOk p || !since now l.rtT 32000 then s
    else
      let s := s.onLink p fun l => { l with rtSlice := true, rtT := now + 1 }
      match s.portAt p with
      | some n => s.hold n .slice
      | none => s

/-- The references a training or a retrain leaves in the Hides' mode registers (R183, R188). -/
def Link.vrefs (l : Link) (hides : Nat) : Link :=
  { l with mr := (List.range hides).foldl (fun m h =>
      (List.range 9).foldl (fun m g => smSet 0 m (256 * h + 8 + g) ((l.wrVref.getD (8 * g + h) 0).setWidth 16))
        (smSet 0 m (256 * h + 7) (l.caVref.getD h 0))) l.mr }

/-- The trims a training or a retrain has found (R188, R200, R202). -/
def State.applyTrims (s : State) (p : Nat) (r : TrainRes) : State :=
  let s := s.onLink p fun l => ({ l with strobes := r.strobes, caStb := r.caStb, caVref := r.caVref, wrVref := r.wrVref }).vrefs s.hides
  (r.trims.filter fun t => lposOk t.1).foldl (fun s t =>
    s.onLane p (lposKey t.1) fun l => { l with phase := t.2.1, ref := if t.1.set = 0 then t.2.2 else l.ref }) s

/-- Every position of a link (R173). -/
def allPos : List LanePos :=
  (List.range 20).flatMap fun i =>
    let set := if i < 18 then i / 9 else 2
    (List.range (lastPos set + 1)).map fun pos => ⟨set, if i < 18 then i % 9 else i - 18, pos⟩

/-- The positions that carry traffic and are stale (R199). -/
def Link.staleAt (l : Link) : List LanePos :=
  allPos.filter fun q => (l.lane (lposKey q)).stale && q.pos != (l.grp (grpIx q.set q.group)).c

/-- RETRAIN_SLICE_END (R200): the hold ends; after the last slice the retrain ends with its new trims, the positions that
failed or are still stale parked or dead, or RETRAIN_FAIL. -/
def execRetrainSliceEnd (p : Nat) (final : Bool) (r : TrainRes) (s : State) : Out :=
  onChan p s fun s =>
    if !(s.link p).rtSlice then s
    else
      let s := s.onLink p fun l => { l with rtSlice := false, rtDone := l.rtDone + 1 }
      let s := match s.portAt p with
        | some n => s.unhold n .slice
        | none => s
      if !final && (s.link p).rtDone != 0 then s
      else
        let s := s.onLink p fun l => { l with rtRun := false, st := if l.st = .retrain then .running else l.st, calEv := l.calEv ||| 16 }
        let s := s.check (.link p) 6 r.noEye
        if r.noEye then s
        else
          let s := s.applyTrims p r
          let s := (r.trims.filter fun t => lposOk t.1).foldl (fun s t =>
            if r.fails.contains t.1 then s
            else s.calPass p (lposKey t.1) t.1.set ((s.link p).lane (lposKey t.1)).phase.toNat t.2.2 ((s.link p).lane (lposKey t.1)).width) s
          let stale := (s.link p).staleAt.filter fun q => !r.fails.contains q
          (r.fails.filter lposOk ++ stale).foldl (fun s l => if s.chFenced p then s else s.posFail p l.set l.group l.pos) s

/-- LINK_HALT_END (R193): the halting condition has ended and tXS has passed. -/
def execLinkHaltEnd (p : Nat) (s : State) : Out :=
  onChan p s fun s =>
    if (s.ctl p).frozen || s.chFenced p || (s.ctl p).selfRef || s.linkQuiet p && (s.fr (.link p)).st == .resetting ||
        (s.seq.bist.phase != 0 && (UnitId.link p).path.any fun u => s.seq.bist.entry == u.idx) then s
    else s.unhaltLink p

end Sys2Proof.Machine
end

