-- ==== Sys2Proof/Machine/Heat.lean ====
section
/-! DEFINITION. Refresh, weak rows, retention profiling, sensors and patrol scrub of a Currier slice (R205-R218, R241). Readings
are in 0.25 °C. -/

namespace Sys2Proof.Machine

/-! ### Refresh (R205-R209, R211) -/

/-- The channel's Hides are refreshed by its Currier: driven, not frozen, not in self-refresh. -/
def State.curOn (s : State) (p : Nat) : Bool :=
  let c := s.ctl p
  !c.frozen && !c.unpowered && !c.selfRef && !s.chFenced p && (s.link p).st != .off && (s.link p).st != .training

/-- A due item raises a bank's deferral count (R206, R211); it never exceeds 8. -/
def State.dueItem (s : State) (p key : Nat) (f : State → State) : State :=
  if !s.bankOk key || !s.curOn p || (s.ctl p).lent.contains key || 8 ≤ (smGet {} (s.cur p).bank key).count then s
  else f (s.onCur p fun c => { c with bank := smSet {} c.bank key (let b := smGet {} c.bank key; { b with count := b.count + 1 }) })

/-- REFRESH_DUE_TICK (R206). -/
def execRefreshDueTick (p bank : Nat) (s : State) : Out := onChan p s fun s => s.dueItem p bank id

/-- REFRESH_ROUND_END (R206, R209). -/
def execRefreshRoundEnd (p bank : Nat) (s : State) : Out :=
  onChan p s fun s => if Config.roundRefs ≤ (smGet {} (s.cur p).bank bank).pos then s.roundEnd p bank else s

/-- The position in its bank's round at which a binned row's next refresh falls due: the midpoint for bin 1, the quarter points for
bin 2; none once it has had them all (R211). -/
def Weak.dueAt (w : Weak) : Option Nat :=
  if w.bin = 1 then (if w.done = 0 then some (Config.roundRefs / 2) else none)
  else if w.done < 3 then some (Config.roundRefs / 4 * (w.done + 1)) else none

/-- WEAK_ROW_REFRESH_DUE (R211): TRR with self = 1 to a binned row. -/
def execWeakRowRefreshDue (p i : Nat) (s : State) : Out :=
  onChan p s fun s =>
    match (s.cur p).weak[i]? with
    | none => s
    | some w =>
      let key := 16 * w.hide + w.bank
      match w.dueAt with
      | none => s
      | some k =>
        if (smGet {} (s.cur p).bank key).pos < k then s
        else s.dueItem p key fun s => s.onCur p fun c => { c with
          trr := c.trr ++ [⟨w.hide, w.bank, w.row, true, 0, false⟩]
          weak := upd c.weak i fun w => { w with done := w.done + 1 } }

/-! ### Rates (R205, R209) -/

/-- Band of a reading: 0 base, 1 double, 2 quadruple. -/
def State.bandOf (s : State) (t : Int) : Nat :=
  if t ≤ 4 * s.img.policy.warm then 0 else if t ≤ 4 * s.img.policy.hot then 1 else 2

/-- Lower edge of the band of a rate. -/
def State.edgeOf (s : State) (rate : Nat) : Int := if rate = 1 then 4 * s.img.policy.warm else 4 * s.img.policy.hot

/-- The rate of a layer-bank follows its reading: it rises at once, and falls at each bank's next round after two readings 2 °C
below the edge (R205, R209). -/
def State.rateStep (s : State) (p h : Nat) : State :=
  let c := s.cur p
  let tp := c.temp.getD h {}
  let r := c.rate.getD h 0
  let band := if tp.bad then 2 else s.bandOf tp.t
  let set := fun (rate below : Nat) (fall : Option Nat) => s.onCur p fun c =>
    { c with
      rate := upd c.rate h fun _ => rate, below := upd c.below h fun _ => below, fall := upd c.fall h fun _ => fall
      fell := if fall = c.fall.getD h none then c.fell else c.fell.filter fun k => k / 16 != h }
  if r < band then set band 0 none
  else if r = 0 || band = 2 then set r 0 none
  else if tp.t ≤ s.edgeOf r - 8 then
    let n := c.below.getD h 0 + 1
    let low := 4 * s.img.policy.warm - 8
    if n < 2 then set r n none
    else set r n (some (if r = 1 || (decide (tp.t ≤ low) && decide (tp.prev ≤ low)) then 0 else 1))
  else set r 0 none

/-! ### Sensors (R215-R218) -/

/-- Compensated reading of a raw code, rounded to 0.25 °C, a half upward (R215, log 15). -/
def tempOf (kLo kHi raw : Nat) : Int :=
  let d : Int := (kHi : Int) - kLo
  if d = 0 then 0 else (240 * d + 560 * ((raw : Int) - kLo) + d) / (2 * d)

/-- A channel's sensors take part in readings (R215). -/
def State.sensed (s : State) (p : Nat) : Bool :=
  !s.chFenced p && !(s.ctl p).frozen && !(s.ctl p).unpowered && (s.link p).st != .off

/-- Highest valid reading of a Hide among channels. -/
def State.maxOf (s : State) (h : Nat) (ps : List Nat) : Option Int :=
  ps.foldl (fun m p =>
    let t := (s.cur p).temp.getD h {}
    if s.sensed p && t.valid then some (match m with | some x => max x t.t | none => t.t) else m) none

/-- A reading of Hide h at channel p (R215-R217). -/
def State.reading (s : State) (p h : Nat) (raw : BitVec 16) : State :=
  let t := (s.cur p).temp.getD h {}
  let v := tempOf t.kLo t.kHi (raw.toNat % 4096)
  let bad := t.bad || decide (v < -80) || decide (600 < v)
  let s := s.check (.currier p) 0 bad
  let put := fun (v : Int) (valid subst : Bool) => s.onCur p fun c =>
    { c with temp := upd c.temp h fun t => { t with t := v, valid := valid, subst := subst, prev := t.t } }
  let s :=
    if !bad then put v true false
    else
      let s' := put t.t false false
      let x := secOf p
      match s'.maxOf h ((List.range 17).map (17 * x + ·)) with
      | some m => put m false true
      | none => match (List.range 8).foldl (fun m k => match s'.maxOf k (List.range 136), m with
            | some a, some b => some (max a b)
            | some a, none => some a
            | none, m => m) none with
        | some m => put m false true
        | none => s'
  s.rateStep p h

/-- SENSOR_READ (R215, R216): SENS to each Hide; one in power-down or self-refresh has converted by itself, and its SENS_RAW is read
over the sideband. -/
def execSensorRead (p : Nat) (s : State) : Out :=
  onChan p s fun s =>
    if s.sensed p && (s.link p).st != .training then
      let asleep := fun (h : Nat) => (s.ctl p).selfRef || (s.ctl p).pd.getLsbD h
      let hs := (List.range s.hides).filter fun h => !(s.link p).sbQ.contains h && !(s.cur p).sensReq.contains h
      (s.onCur p fun c => { c with sensReq := c.sensReq ++ hs.filter fun h => !asleep h }).onLink p fun l =>
        { l with sbQ := l.sbQ ++ hs.filter asleep }
    else s

/-- A profiling pass moves to the next bank not lent (R213). -/
def State.nextProf (s : State) (p : Nat) : State :=
  let n := 16 * s.hides
  let k := 16 * (s.cur p).profHide + (s.cur p).profBank
  let nxt := ((List.range n).map fun i => (k + 1 + i) % n).find? fun j => !(s.ctl p).lent.contains j
  s.onCur p fun c => { c with
    profStep := 1, profAt := 0, profPre := [], profHits := [], profHide := (nxt.getD 0) / 16, profBank := (nxt.getD 0) % 16 }

/-- Rate of a bank: its Hide's, or the lower one a fall has brought it at the start of its round (R209). -/
def Cur.rateOf (c : Cur) (key : Nat) : Nat :=
  if c.fell.contains key then (c.fall.getD (key / 16) none).getD (c.rate.getD (key / 16) 0) else c.rate.getD (key / 16) 0

/-- A stretch ends when the reading or the rate rises; the pass is discarded (R213). -/
def State.stretchEnd (s : State) (p h : Nat) : State :=
  let c := s.cur p
  if c.profStep = 2 && c.profHide = h &&
      (decide (4 * (s.img.policy.warm : Int) - 32 < (c.temp.getD h {}).t) || c.rate.getD h 0 != 0) then s.nextProf p
  else s

/-- DIE_SENSOR_READ (R218): the count is converted, and compared with the channel's H0 reading. -/
def execDieSensorRead (p count : Nat) (s : State) : Out :=
  onChan p s fun s =>
    if !s.sensed p || !s.isRunning then s
    else
      let t := s.dieSlope * count + s.dieIcpt - (s.cur p).dieOfs
      let low := decide (t < ((s.cur p).temp.getD 0 {}).t - 20)
      let n := if low then (s.cur p).disagree + 1 else 0
      let s := s.onCur p fun c => { c with die := t, dieValid := true, disagree := n, useMax := c.useMax || decide (3 ≤ n) }
      s.check (.currier p) 1 (n == 3)

/-! ### Profiling (R212-R214) -/

/-- A weak row enters the table, or finds it full (R212, R213). -/
def State.binRow (s : State) (p hide bank : Nat) (f : Nat × Bool) : State :=
  let s := s.onCur p fun c => { c with profFound := satAdd c.profFound 1 }
  let w := (s.cur p).weak
  match w.findIdx? fun e => e.hide == hide && e.bank == bank && e.row == f.1 with
  | some i => s.onCur p fun c => { c with weak := upd w i fun e => { e with bin := 2, found := true } }
  | none =>
    if 512 ≤ w.length then s.check (.currier p) 2 true
    else s.onCur p fun c => { c with weak := w ++ [{ hide := hide, bank := bank, row := f.1, bin := if f.2 then 2 else 1, found := true }] }

/-- The rows that a post-read has shown weak, each once: whether a codeword gained 2 symbols or is uncorrectable (R213). -/
def Cur.weakRows (c : Cur) : List (Nat × Bool) :=
  ((c.profHits.map (·.1)).eraseDups).map fun r => (r, c.profHits.any fun e => e.1 == r && e.2)

/-- PROFILING_STEP_DONE (R213): the pre-read has read every block, the stretch has run, the post-read has read every block. A pass of a
bank that has been lent meanwhile is discarded (R254). The end of a step that does not run is no event (log 2). -/
def execProfilingStepDone (p step : Nat) (s : State) : Out :=
  onChan p s fun s =>
    let c := s.cur p
    let h := c.profHide
    let key := 16 * h + c.profBank
    let allRead := decide (bankBlocks ≤ c.profAt) && !(s.ctl p).asks profPort
    if !s.curOn p || (UnitId.currier p).path.any (fun u => (s.fr u).st == .quiescing || (s.fr u).st == .quiesced) || c.profStep = 0 || c.profStep != step then s
    else if (s.ctl p).lent.contains key then s.nextProf p
    else if c.profStep = 1 then
      if allRead && decide ((c.temp.getD h {}).t ≤ 4 * (s.img.policy.warm : Int) - 40) && c.rateOf key == 0 then
        s.onCur p fun c => { c with profStep := 2 }
      else s
    else if c.profStep = 2 then s.onCur p fun c => { c with profStep := 3, profAt := 0, profHits := [] }
    else if !allRead then s
    else
      let s := s.check (.currier p) 2 false
      let s := c.weakRows.foldl (fun s f => s.binRow p h c.profBank f) s
      (s.onCur p fun c => { c with profPasses := c.profPasses + 1 }).nextProf p

/-- WEAK_AGEING (R214). -/
def execWeakAgeing (p : Nat) (s : State) : Out :=
  onChan p s fun s => s.onCur p fun c => { c with
    weak := c.weak.filterMap fun e =>
      if e.found then some { e with found := false } else if e.bin ≤ 1 then none else some { e with bin := e.bin - 1 } }

/-! ### Patrol scrub (R241) -/

/-- The read of the pass's next block; a pass that has read its last block ends, and the next starts at once (R241). -/
def State.patrol (s : State) (p : Nat) : State :=
  let c := s.ctl p
  match c.fresh.find? fun e => e.2 == 1 && c.ptPos ≤ e.1 with
  | none => s.onCtl p fun c => { c with ptPasses := c.ptPasses + 1, ptPos := 0, ptBlk := 0 }
  | some (g, _) =>
    let k := if g = c.ptPos then c.ptBlk else 0
    let s := s.onCtl p fun c => { c with ptPos := if k = 255 then g + 1 else g, ptBlk := if k = 255 then 0 else k + 1 }
    s.currierRead p noPort (g * 16384 + 64 * k)

/-- PATROL_READ (R241). -/
def execPatrolRead (p : Nat) (s : State) : Out :=
  onChan p s fun s =>
    if (s.ctl p).patrolOn && s.canIssue p && (s.lchOf p).isSome && !s.curQuiet p then s.patrol p else s

/-- PATROL_LATE (R241). -/
def execPatrolLate (p : Nat) (s : State) : Out :=
  onChan p s fun s => if (s.ctl p).patrolOn then s.onCtl p fun c => { c with eccEv := c.eccEv ||| 2 } else s

end Sys2Proof.Machine
end

