-- ==== Sys2Proof/Machine/Sideband.lean ====
section
/-! DEFINITION. The sideband: its frames, what a Hide answers, the driver's transactions and the Currier's sensor reads
(R180-R183, R203, R215-R217). -/

namespace Sys2Proof.Machine

/-! ### Frames (R180) -/

/-- One bit of the CRC-8, x^8 + x^2 + x + 1. -/
def crc8Bit (c : Nat) (b : Bool) : Nat :=
  let top := bitN c 7 != b
  c * 2 % 256 ^^^ (if top then 7 else 0)

/-- CRC-8 of a 32-bit payload, most significant bit first, initial value 0 (R180). -/
def crc8 (payload : Nat) : Nat := (List.range 32).foldl (fun c i => crc8Bit c (bitN payload (31 - i))) 0

/-- A frame: start nibble, payload, CRC-8. -/
def sbFrame (start payload : Nat) : BitVec 44 := BitVec.ofNat 44 (start * 2 ^ 40 + payload % 2 ^ 32 * 256 + crc8 (payload % 2 ^ 32))

/-- The 11 nibbles that move on sb_out[3:0] or sb_in[3:0], one in each sb_clk cycle, most significant first. -/
def sbNibbles (f : BitVec 44) : List (BitVec 4) := (List.range 11).map fun i => (f >>> (4 * (10 - i))).setWidth 4

/-- The payload of a frame. -/
def sbPayload (f : BitVec 44) : Nat := bits f.toNat 8 32

/-- A frame with the given start nibble and its CRC right. -/
def sbGood (start : Nat) (f : BitVec 44) : Bool := bits f.toNat 40 4 == start && crc8 (sbPayload f) == f.toNat % 256

/-- A request. The block sends no broadcast of its own. -/
def sbRequest (op hide addr data : Nat) : BitVec 44 := sbFrame 0xA (op * 2 ^ 28 + hide * 2 ^ 25 + addr * 2 ^ 16 + data)

/-- A response. -/
def sbAnswer (status hide addr data : Nat) : BitVec 44 := sbFrame 0x5 (status * 2 ^ 28 + hide * 2 ^ 25 + addr * 2 ^ 16 + data)

/-! ### Mode registers (R183) -/

/-- A mode register that can be read, and one that can be written over the sideband. -/
def mrReads (a : Nat) : Bool := (a ≤ 0x10) || (0x13 ≤ a && a ≤ 0x16) || (0x18 ≤ a && a ≤ 0x21)
/-- The same for writes. -/
def mrWrites (a : Nat) : Bool := 4 ≤ a && a ≤ 0x10
/-- Mode registers that a read clears. -/
def mrClears (a : Nat) : Bool := a == 0x16 || (0x18 ≤ a && a ≤ 0x21)
/-- Constants of the Hide, which a layer reset leaves. -/
def mrFixed (a : Nat) : Bool := a ≤ 2 || a == 0x13 || a == 0x14

/-- Bits of the mode registers that only the Hide itself sets: internal fault of STATUS, SENS_RAW, CMP_FLAGS and LANE_ERR. -/
def mrMeasured (a : Nat) : BitVec 16 :=
  if a = 3 then 2 else if a = 0x15 then 0xFFF else if a = 0x16 || a = 0x21 then 0x7FF else if 0x18 ≤ a && a ≤ 0x20 then 0xFFFF else 0

/-- Value of a mode register of Hide h at channel p; STATUS shows self-refresh and power-down as they stand. -/
def State.mrValue (s : State) (p h a : Nat) : BitVec 16 :=
  let v := smGet 0 (s.link p).mr (256 * h + a)
  if a = 3 then (v &&& 3) ||| BitVec.ofNat 16 (4 * b2n (s.ctl p).selfRef + 8 * b2n ((s.ctl p).pd.getLsbD h)) else v

/-- Layer reset of Hide h: its mode registers return to their reset values, at every channel that reaches it (R181, R183). -/
def State.layerReset (s : State) (h : Nat) : State :=
  { s with links := s.links.map fun (l : Link) => { l with mr := l.mr.filter fun e => e.1 / 256 != h || mrFixed (e.1 % 256) } }

/-- What a read of a mode register finds: `held` in the bits that only the Hide sets (log 27). -/
def State.mrFound (s : State) (p h a : Nat) (held : BitVec 16) : BitVec 16 :=
  (s.mrValue p h a &&& ~~~(mrMeasured a)) ||| (held &&& mrMeasured a)

/-- What the Hides of channel p do on a request frame as they receive it: the response, or none, and what it leaves (R180, R181). -/
def State.hideAnswers (s : State) (p : Nat) (f : BitVec 44) (held : BitVec 16) : Option (BitVec 44) × State :=
  let d := sbPayload f
  let hide := bits d 25 3
  let addr := bits d 16 8
  let data := d % 2 ^ 16
  if bits f.toNat 40 4 != 0xA || s.hides ≤ hide || bitN d 24 then (none, s)
  else if !sbGood 0xA f then (some (sbAnswer 1 hide addr 0), s)
  else
    let key := 256 * hide + addr
    let put := fun (k : Nat) (v : BitVec 16) => s.onLink p fun l => { l with mr := smSet 0 l.mr k v }
    match bits d 28 4 with
    | 1 =>
      if !mrReads addr then (some (sbAnswer 2 hide addr 0), s)
      else (some (sbAnswer 0 hide addr (s.mrFound p hide addr held).toNat), if mrClears addr then put key 0 else s)
    | 2 =>
      if !mrWrites addr then (some (sbAnswer 2 hide addr 0), s)
      else (some (sbAnswer 0 hide addr data), put key (BitVec.ofNat 16 data))
    | 3 => (some (sbAnswer 0 hide addr (s.mrFound p hide 3 held).toNat), put (256 * hide + 3) 0)
    | 4 => (some (sbAnswer 0 hide addr 0), s.layerReset hide)
    | _ => (some (sbAnswer 2 hide addr 0), s)

/-! ### Transactions (R182, R203) -/

/-- A write to SB_CMD (R203). -/
def State.wSbCmd (s : State) (p : Nat) (v : Word) : State :=
  if !s.has 4 then s.onLink p fun l => { l with sbCode := cBAD }
  else if (s.link p).sbBusy then s
  else
    s.onLink p fun l => { l with
      sbOp := BitVec.ofNat 4 (fld v 0 4), sbHide := BitVec.ofNat 3 (fld v 4 3), sbAddr := BitVec.ofNat 8 (fld v 8 8)
      sbData := BitVec.ofNat 16 (fld v 16 16), sbBusy := fld v 0 4 != 0, sbTries := 0 }

/-- The request on the wire: the driver's, else the Currier's read of SENS_RAW. -/
def Link.sbWire (l : Link) : Option (BitVec 44) :=
  if l.sbBusy then some (sbRequest l.sbOp.toNat l.sbHide.toNat l.sbAddr.toNat l.sbData.toNat)
  else (l.sbQ.head?).map fun h => sbRequest 1 h 0x15 0

/-- An attempt of the transaction has failed: it is repeated up to 3 times, then SB_LOST fences the link (R182). -/
def State.sbFail (s : State) (p : Nat) : State :=
  let l := s.link p
  if l.sbBusy then
    if 3 ≤ l.sbTries then (s.onLink p fun l => { l with sbBusy := false, sbCode := cABORTED }).check (.link p) 4 true
    else (s.onLink p fun l => { l with sbTries := l.sbTries + 1 }).count (.link p) 7
  else if l.sbQ.isEmpty then s
  else if 3 ≤ l.sensTries then (s.onLink p fun l => { l with sbQ := l.sbQ.drop 1, sensTries := 0 }).check (.link p) 4 true
  else (s.onLink p fun l => { l with sensTries := l.sensTries + 1 }).count (.link p) 7

/-- The Currier's read of a sensor ends with a code: SB_ERR after a repeat, the reading, and what it ends (R182, R213, R215). -/
def State.sensorDone (s : State) (p hide : Nat) (raw : BitVec 16) : State :=
  let again := decide (0 < (s.link p).sensTries)
  let s := s.onLink p fun l => { l with sbQ := l.sbQ.filter (· != hide), sensTries := 0 }
  let s := (s.check (.link p) 3 again).check (.link p) 4 false
  if s.chFenced p || !s.sensed p then s else (s.reading p hide raw).stretchEnd p hide

/-- A response with status OK or 2 ends the transaction on the wire. -/
def State.sbEnd (s : State) (p status data : Nat) : State :=
  let l := s.link p
  if l.sbBusy then
    let s := s.onLink p fun l => { l with
      sbBusy := false, sbCode := if status = 0 then cOK else cBAD, sbRdata := BitVec.ofNat 16 data }
    (s.check (.link p) 3 (decide (0 < l.sbTries))).check (.link p) 4 false
  else match l.sbQ with
    | h :: _ => s.sensorDone p h (BitVec.ofNat 16 data)
    | [] => s

/-- SB_RESPONSE (R180-R182): the Hides see the request on the wire with the line errors `reqErr`, and the response arrives with the
line errors `respErr`; bits that only the Hide sets are as `held`. -/
def execSbResponse (p : Nat) (reqErr respErr : BitVec 44) (held : BitVec 16) (s : State) : Out :=
  onChan p s fun s =>
    match (s.link p).sbWire with
    | none => s
    | some f => match s.hideAnswers p (f ^^^ reqErr) held with
      | (none, s) => s
      | (some r, s) =>
        let r := r ^^^ respErr
        let status := bits (sbPayload r) 28 4
        if !sbGood 0x5 r || status == 1 then s.sbFail p else s.sbEnd p status (sbPayload r % 2 ^ 16)

/-- SB_TIMEOUT (R182): the response is missing. -/
def execSbTimeout (p : Nat) (s : State) : Out := onChan p s fun s => if (s.link p).sbWire.isSome then s.sbFail p else s

/-- SENSOR_RESULT (R215-R217): SENS_RAW holds the conversion of the Hide's sensor, and the Currier's read of it succeeds. -/
def execSensorResult (p hide : Nat) (raw : BitVec 16) (s : State) : Out :=
  onChan p s fun s =>
    if !s.sensed p || s.hides ≤ hide || !(s.link p).sbQ.contains hide then s
    else
      let s := s.onLink p fun l => { l with mr := smSet 0 l.mr (256 * hide + 0x15) (raw &&& 0xFFF) }
      s.sensorDone p hide raw

/-- MODE_REGISTER_READ (R181). -/
def execModeRegisterRead (p : Nat) (v : Word) (s : State) : Out := onMgmt (.link p) s fun s => s.wSbCmd p v
/-- MODE_REGISTER_WRITE (R181). -/
def execModeRegisterWrite (p : Nat) (v : Word) (s : State) : Out := onMgmt (.link p) s fun s => s.wSbCmd p v
/-- STATUS_READ_CLEAR (R181). -/
def execStatusReadClear (p : Nat) (v : Word) (s : State) : Out := onMgmt (.link p) s fun s => s.wSbCmd p v
/-- LAYER_RESET (R181). -/
def execLayerReset (p : Nat) (v : Word) (s : State) : Out := onMgmt (.link p) s fun s => s.wSbCmd p v

end Sys2Proof.Machine
end

