-- ==== Sys2Proof/Machine/Repair.lean ====
section
/-! DEFINITION. Range operations, the error log's acknowledgement, row and bank retirement, and the entries of the retirement
record (R109, R198, R239, R244-R258, R261, R262). -/

namespace Sys2Proof.Machine

/-! ### Range operations (R244-R246) -/

/-- Offset in a channel's share of a window that lies before byte o of the window, for n channels in stripes of 2 KiB. -/
def stripeAt (n k o : Nat) : Nat := o / (2048 * n) * 2048 + min 2048 (o % (2048 * n) - k * 2048)

/-- The shares of the range of len bytes from byte o of a window (R102, R245). -/
def sharesOf (w : Window) (o len origin : Nat) : List Share :=
  let base := w.chanBase * 2097152
  let mk := fun (n k l : Nat) => ({ lch := l, pos := base + stripeAt n k o, stop := base + stripeAt n k (o + len) } : Share)
  ((if w.mode = 0 then [{ lch := origin, pos := base + o, stop := base + o + len }]
    else if w.mode = 1 then (List.range 16).map fun k => mk 16 k (16 * w.sector + k)
    else (List.range 128).map fun k => mk 128 k k).filter fun (a : Share) => a.pos < a.stop).map fun (a : Share) => { a with start := a.pos }

/-- The shares of a range, or nothing where it breaks R244. -/
def State.rangeShares (s : State) (op base len rec origin : Nat) : Option (List Share) :=
  match s.winOf base with
  | none => none
  | some w =>
    let bytes := 64 * len
    let o := base - w.base * 2097152
    let unit := if w.mode = 0 then 16384 else if w.mode = 1 then 262144 else 2097152
    if len = 0 || w.size * 2097152 < o + bytes || (s.decode (base + bytes - 64) origin).isNone || (s.winOf rec).isNone ||
        (s.decode rec origin).isNone || (op != 1 && (base % unit != 0 || bytes % unit != 0)) then none
    else some (sharesOf w o bytes origin)

/-- Every share that has not ended, and has work left, ends with a code. -/
def RangeOp.endAll (r : RangeOp) (code : BitVec 4) : RangeOp :=
  { r with shares := r.shares.map fun a => if a.ended || a.stop ≤ a.pos then a else { a with ended := true, code := code } }

/-- The share of a logical channel ends ABORTED: its CTL or CURRIER unit is reset (R245). -/
def State.abortShare (s : State) (l : Nat) : State :=
  s.onRange fun r => { r with
    shares := r.shares.map fun a => if a.lch = l && !a.ended && a.pos < a.stop then { a with ended := true, code := cABORTED } else a }

/-- A range operation starts (R244). -/
def State.startRange (s : State) (op : Nat) : State :=
  let s := s.onRange fun r => { r with
    op := op, seq := r.seq + 1, tStart := s.mgmt.elapsed, doneCnt := 0, changed := 0, skipped := 0, corr := 0, syms := 0, ue := 0, back := 0,
    shares := [] }
  let r := s.seq.range
  match s.rangeShares op r.base.toNat r.len.toNat r.recAddr.toNat r.origin.toNat with
  | none => s.onRange fun r => { r with code := cBAD, done := true }
  | some l => s.onRange fun r => { r with busy := true, shares := l }

/-- A write to RANGE_CTRL (R244, R261). -/
def State.wRangeCtrl (s : State) (v : Word) : State :=
  let op := fld v 0 2
  let cancel := bitN v.toNat 4
  if (op != 0 || cancel) && !keyed v then s
  else if op != 0 && s.seq.range.busy then s.reject .currierSeq
  else
    let s := s.onRange fun r => { r with
      irqEn := bitN v.toNat 5, cls := BitVec.ofNat 4 (fld v 8 4), origin := BitVec.ofNat 7 (fld v 16 7) }
    if op != 0 then s.startRange op
    else if cancel && s.seq.range.busy then s.onRange fun r => r.endAll cABORTED
    else s

/-- Worst code met: ABORTED, then FENCED, then OK (R245). -/
def worstCode (l : List Share) : BitVec 4 :=
  if l.any (·.code == cABORTED) then cABORTED else if l.any (·.code == cFENCED) then cFENCED else cOK

/-- The summary record (R246). -/
def rangeRecord (r : RangeOp) (code : BitVec 4) (tEnd : Dword) : Block :=
  let w := fun (n at_ : Nat) => n % 2 ^ 32 * 2 ^ (8 * at_)
  BitVec.ofNat 512
    (w 0x52535745 0 + w (r.op + code.toNat * 16 + r.cls.toNat * 256 + r.origin.toNat * 65536) 4 + w r.seq.toNat 8 +
     r.tStart.toNat * 2 ^ 128 + tEnd.toNat * 2 ^ 192 +
     w (if r.op = 1 then r.doneCnt.toNat else r.changed) 0x20 +
     w (if r.op = 1 then r.doneCnt.toNat - r.corr - r.ue else 0) 0x24 + w r.corr 0x28 + w r.syms 0x2C + w r.ue 0x30 + w r.skipped 0x34 +
     w ((r.shares.map fun a => (a.stop - a.pos) / 64).sum) 0x38 + w r.back 0x3C)

/-- A share in a hole, or in a channel fenced with no substitute, is skipped with code FENCED (R245). -/
def State.skipShares (s : State) : State :=
  s.onRange fun r => { r with shares := r.shares.map fun a =>
    if !a.ended && a.pos < a.stop && (s.serving a.lch).isNone then { a with ended := true, code := cFENCED } else a }

/-- Every share has ended, and no write-back of the scrub waits for its admission (R245, R246). -/
def State.sharesOver (s : State) : Bool :=
  s.seq.range.shares.all (fun a => a.ended || a.stop ≤ a.pos) &&
  !s.ctls.any fun c => c.inWr.any fun w => w.inp == 4 && w.port == scrubPort

/-- RANGE_DONE (R246): every share has ended; the record is written, with the class of RANGE_CTRL, and done set. Where no write can be
made, in an emergency, the safe state or a stop, the operation stays busy (log 13). -/
def State.rangeEnd (s : State) : State :=
  if !s.seq.range.busy then s
  else
    let s := s.skipShares
    let r := s.seq.range
    if !s.sharesOver || s.safe.on then s
    else
      let code := worstCode r.shares
      s.agent ownSeq r.cls.toNat fun s =>
        ((s.paWrite r.recAddr.toNat r.origin.toNat (rangeRecord r code s.mgmt.elapsed)).2).onRange fun r =>
          { r with busy := false, code := code, done := true }

/-- RANGE_SCRUB (R245). -/
def execRangeScrub (v : Word) (s : State) : Out := onMgmt .currierSeq s fun s => s.wRangeCtrl v
/-- RANGE_CLEAR (R239). -/
def execRangeClear (v : Word) (s : State) : Out := onMgmt .currierSeq s fun s => s.wRangeCtrl v
/-- RANGE_POISON (R239). -/
def execRangePoison (v : Word) (s : State) : Out := onMgmt .currierSeq s fun s => s.wRangeCtrl v
/-- RANGE_CANCEL (R245). -/
def execRangeCancel (v : Word) (s : State) : Out := onMgmt .currierSeq s fun s => s.wRangeCtrl v
/-- RANGE_DONE (R246), of the operation in progress; of another it is no event (log 2). -/
def execRangeDone (op : Nat) (s : State) : Out := .next (if s.seq.range.op = op then s.rangeEnd else s)

/-! ### The error log (R248, R262) -/

/-- A write to ELOG_ACK. -/
def State.wElogAck (s : State) (v : Word) : State :=
  let m := s.mgmt
  let seqs := m.elog.map fun e => e.headD 0
  match (if v = m.elogNext then some seqs.length else seqs.findIdx? (· == v)) with
  | none => s.reject .mgmt
  | some i => { s with mgmt := { m with elog := m.elog.drop i, elogHead := v, elogAck := v } }

/-- ELOG_ACK (R262). -/
def execElogAck (v : Word) (s : State) : Out := onMgmt .mgmt s fun s => s.wElogAck v

/-! ### The retirement record's entries (R109, R198, R256, R257) -/

/-- Spare entry of a sector whose map differs from home (R109). -/
def State.spareEntry (s : State) (x : Nat) : List (List Byte) :=
  let e := s.sec x
  let lost := e.sp == .lost
  if e.fenced = 0 && e.hole = 0 && e.serve.isNone && !lost then []
  else
    let f := e.fenced.toNat
    let h := e.hole.toNat
    [[0x10, BitVec.ofNat 8 x, BitVec.ofNat 8 ((e.serve.getD 0) + 16 * b2n e.serve.isSome + 32 * b2n lost), 0,
      BitVec.ofNat 8 f, BitVec.ofNat 8 (f / 256), BitVec.ofNat 8 h, BitVec.ofNat 8 (h / 256)]]

/-- Bank entries of a channel (R257). -/
def State.bankEntries (s : State) (p : Nat) : List (List Byte) :=
  if s.chFenced p then []
  else (s.ctl p).lent.map fun k => [0x40, BitVec.ofNat 8 p, BitVec.ofNat 8 (k / 16 + 8 * (k % 16)), 0, 0, 0, 0, 0]

/-- Row entries of a channel (R257). -/
def State.rowEntries (s : State) (p : Nat) : List (List Byte) :=
  if s.chFenced p then []
  else (s.ctl p).remaps.map fun m =>
    [0x30, BitVec.ofNat 8 p, BitVec.ofNat 8 (m.hide + 8 * m.bank), BitVec.ofNat 8 m.row,
     BitVec.ofNat 8 (m.row / 256 + 128 * b2n m.abandoned), BitVec.ofNat 8 m.spare, 0, 0]

/-- Lane entries of a channel (R198). -/
def State.laneEntries (s : State) (p : Nat) : List (List Byte) :=
  (List.range 20).filterMap fun i =>
    let g := (s.link p).grp i
    if !g.parked then none
    else
      let set := if i < 18 then i / 9 else 2
      some [0x20, BitVec.ofNat 8 p, BitVec.ofNat 8 (set + 16 * (if i < 18 then i % 9 else i - 18)), BitVec.ofNat 8 (g.c + 128),
            BitVec.ofNat 8 (match g.dead.head? with | some j => j + 128 | none => 0), 0, 0, 0]

/-- Every entry of the retirement record, in the order in which it is applied (R256). -/
def State.retEntries (s : State) : List (List Byte) :=
  (List.range 8).flatMap s.spareEntry ++ (List.range 136).flatMap s.bankEntries ++ (List.range 136).flatMap s.rowEntries ++
  (List.range 136).flatMap s.laneEntries

/-! ### Retirement (R250-R255, R259) -/

/-- A generation that a rule asks for whether or not a live word differs (R251, R254). -/
def State.advance (s0 s : State) (us : List UnitId) : State :=
  let s := s.commit s0 us
  if s.tack.pend = s0.tack.pend && s.isRunning then { s with tack := { s.tack with busy := true, pend := s.tack.pend ++ [[]] } } else s

/-- A retirement ends with a code. -/
def State.retEnd (s : State) (p : Nat) (code : BitVec 4) : State :=
  s.onCtl p fun c => { c with retBusy := false, retCode := code, retDone := true }

/-- Lowest unused spare index of a bank (R250). -/
def nextSpare (c : Ctl) (hide bank : Nat) : Option Nat :=
  (List.range 64).find? fun i => !c.remaps.any fun m => m.hide == hide && m.bank == bank && m.spare == i

/-- The 16 blocks of a row, by column. -/
def State.rowData (s : State) (p off : Nat) : List Block := (List.range 16).map fun k => s.stored p (off + 64 * k)
/-- Store them. -/
def State.putRow (s : State) (p off : Nat) (l : List Block) : State :=
  (List.range 16).foldl (fun s k => s.store p (off + 64 * k) (l.getD k 0)) s

/-- Errors that a retirement's copy met: an uncorrectable block poisons its granule (R237, R251, R254). -/
def State.retErr (s : State) (p : Nat) (e : BlkErr) : State :=
  if e.ue then
    let g := e.off / 16384
    ((s.uncorrectable p 6 reqCurrier e.off).poisonGran p g).logPoison p g 6 reqCurrier 1
  else if e.syms.isEmpty then s
  else s.corrected p 6 reqCurrier e.off e.syms.length e.syms

/-- Row retirement (R251, R252). -/
def State.retireRow (s : State) (p hide bank : Nat) (errs : List BlkErr) : State :=
  let c := s.ctl p
  let row := c.retRow.toNat
  let key := 16 * hide + bank
  if s.chFenced p then s.retEnd p cFENCED
  else match nextSpare c hide bank with
  | none => s.retEnd p cBAD
  | some i =>
    if Config.rows ≤ row || s.hides ≤ hide || c.lent.contains key || 8186 ≤ s.retEntries.length then s.retEnd p cBAD
    else
      let s0 := s
      let off := rowOffset s.hides hide bank row
      let old := rowOn c hide bank row
      let data := s.rowData p off
      let s := s.onCtl p fun c =>
        let c := if (c.bk key).st = .opn && (c.bk key).row = old then
            c.onBk key fun b => { b with st := .closing, tPre := c.cyc + 1 } else c
        { c with remaps := (c.remaps.map fun m =>
            if m.hide = hide && m.bank = bank && m.row = row then { m with abandoned := true } else m) ++ [⟨hide, bank, row, false, i⟩] }
      let written := s.fresh p off == 1
      let s := if written then s.putRow p off data else s
      let area := fun (o : Nat) => decide (off ≤ o) && decide (o < off + 1024)
      let s := if written then (s0.meets p 0 area (errs.filter fun e => area e.off)).foldl (fun s e => s.retErr p e) s else s
      let s := s.onCur p fun c => { c with weak := c.weak.filter fun w => !(w.hide == hide && w.bank == bank && w.row == row) }
      let s := s.log { kind := 4, source := 6, phys := p, hide := hide, bank := bank, row := row, req := reqCurrier, off := off, count := i }
      let s := (s.onCtl p fun c => { c with retSpare := BitVec.ofNat 6 i }).retEnd p cOK
      (State.advance s0 s [.channel p]).queueRet

/-- Bank retirement begins (R253, R254). -/
def State.retireBank (s : State) (p hide bank : Nat) : State :=
  let c := s.ctl p
  let key := 16 * hide + bank
  if s.chFenced p then s.retEnd p cFENCED
  else if posOf p = 16 || s.hides ≤ hide || (s.sec (secOf p)).sp != .standby || c.lent.contains key || 8 ≤ c.lent.length ||
      (match s.borrower (secOf p) with | some b => b != p | none => false) then s.retEnd p cBAD
  else s.onCtl p fun c => { c with retBusy := true, bankCopy := some key }

/-- A write to RETIRE_CTRL (R259). -/
def State.wRetireCtrl (s : State) (p : Nat) (v : Word) (errs : List BlkErr) : State :=
  let op := fld v 0 2
  let start := op == 1 || op == 2
  if start && (!keyed v || (s.ctl p).retBusy) then s.reject (.ctl p)
  else
    let hide := fld v 2 3
    let bank := fld v 5 4
    let s := s.onCtl p fun c => { c with
      retHide := BitVec.ofNat 3 hide, retBank := BitVec.ofNat 4 bank, retIrqEn := bitN v.toNat 9 }
    if op = 1 then s.retireRow p hide bank errs else if op = 2 then s.retireBank p hide bank else s

/-- ROW_RETIREMENT (R251). -/
def execRowRetirement (p : Nat) (v : Word) (errs : List BlkErr) (s : State) : Out := onMgmt (.ctl p) s fun s => s.wRetireCtrl p v errs

/-- BANK_RETIREMENT (R254). -/
def execBankRetirement (p : Nat) (v : Word) (s : State) : Out := onMgmt (.ctl p) s fun s => s.wRetireCtrl p v []

/-- The bank copy ends, and accesses flip to the spare's bank (R254). -/
def State.bankCopyEnd (s : State) (p key : Nat) (errs : List BlkErr) : State :=
  let s0 := s
  let hide := key / 16
  let bank := key % 16
  let gs := (s.ctl p).fresh.filter fun e => e.2 == 1 && e.1 % s.hides == hide
  let offs := gs.map fun e => rowOffset s.hides hide bank (e.1 / s.hides)
  let data := offs.map fun o => (o, s.rowData p o)
  let s := s.onCtl p fun c =>
    { c.onBk key (fun b => { b with st := .closed }) with
      lent := c.lent ++ [key], bankCopy := none, remaps := c.remaps.filter fun m => !(m.hide == hide && m.bank == bank) }
  let s := data.foldl (fun s d => s.putRow p d.1 d.2) s
  let area := fun (o : Nat) => (locate s0.hides o).key == key && s0.fresh p o == 1
  let s := (s0.meets p 0 area (errs.filter fun e => area e.off)).foldl (fun s e => s.retErr p e) s
  let s := s.log { kind := 5, source := 6, phys := p, hide := hide, bank := bank, req := reqCurrier }
  (State.advance s0 (s.retEnd p cOK) [.channel p]).queueRet

/-- BANK_COPY_DONE (R254). -/
def execBankCopyDone (p : Nat) (errs : List BlkErr) (s : State) : Out :=
  onChan p s fun s =>
    match (s.ctl p).bankCopy with
    | some key => if s.canIssue p then s.bankCopyEnd p key errs else s
    | none => s

end Sys2Proof.Machine
end

