-- ==== Sys2Proof/Machine/Kv.lean ====
section
/-! DEFINITION. The stored structures of the page service and how they are read: context records, page headers, table entries,
page rows and their scales (R264-R276, R343). -/

namespace Sys2Proof.Machine

/-- A read that may fail with a code and a detail, and notes the blocks it reads. -/
abbrev Res (α : Type) : Type := ExceptT (BitVec 4 × Nat) (StateM (List Acc)) α

/-- Its answer alone. -/
def resGet {α : Type} (r : Res α) : Except (BitVec 4 × Nat) α := (r.run.run []).1

/-- Its answer, with the blocks noted as the agent's. -/
def State.ask {α : Type} (s : State) (r : Res α) : Except (BitVec 4 × Nat) α × State :=
  match r.run.run s.acc with
  | (a, l) => (a, { s with acc := l })

/-- A read whose failure is an answer too. -/
def resTry {α : Type} (r : Res α) : Res (Except (BitVec 4 × Nat) α) := ExceptT.mk (do pure (.ok (← r.run)))

/-- Note a block read. -/
def noteRd (l x : Nat) : Res Unit := modify fun acc => addAcc acc false l x

/-- Detail RANGE (R284). -/
def dRANGE : Nat := 0x04
/-- Detail TABLE. -/
def dTABLE : Nat := 0x0B
/-- Detail CTX_STATE. -/
def dCTX : Nat := 0x01

/-- Quotient rounded up. -/
def ceilDiv (a b : Nat) : Nat := (a + b - 1) / b

/-! ### Page formats (R271, R272) -/

/-- Head dimension of a dim code. -/
def headDim (dim : Nat) : Nat := 64 * 2 ^ dim
/-- Bytes of one row. -/
def rowBytes (fmt dim : Nat) : Nat := if fmt = 0 then headDim dim * 2 else if fmt = 5 then headDim dim / 2 else headDim dim
/-- T, tokens of a page. -/
def pageTokens (fmt dim : Nat) : Nat := 8192 / rowBytes fmt dim
/-- An MX format. -/
def isMx (fmt : Nat) : Bool := 3 ≤ fmt && fmt ≤ 5
/-- The page has an aux block. -/
def needsAux (fmt dim : Nat) : Bool := isMx fmt || dim == 2
/-- Scale bytes of one row of an MX page. -/
def scaleBytes (dim : Nat) : Nat := headDim dim / 32
/-- Byte of the aux block where the scales of slot j begin: keys, or values. -/
def scaleAt (fmt dim : Nat) (val : Bool) (j : Nat) : Nat :=
  0x80 + (if val then pageTokens fmt dim * scaleBytes dim else 0) + j * scaleBytes dim

/-- Bit codes of the elements of a row. -/
def rowCodes (fmt : Nat) (row : List Byte) : List Nat :=
  if fmt = 0 then (chunks 2 row (row.length / 2)).map leNat
  else if fmt = 5 then row.flatMap fun b => [b.toNat % 16, b.toNat / 16]
  else row.map (·.toNat)

/-- Element format code of R372 of a page format. -/
def elemOf (fmt : Nat) : Nat := if fmt = 0 then 1 else if fmt = 1 || fmt = 3 then 2 else if fmt = 2 || fmt = 4 then 3 else if fmt = 5 then 4 else 5

/-- A row decoded to fp32 with its scales (R343). -/
def decRow (fmt : Nat) (row scales : List Byte) (isc : Word) : List Word :=
  (rowCodes fmt row).zipIdx.map fun (w, i) =>
    let v := elemDec (elemOf fmt) w
    if fmt = 0 then BitVec.ofNat 32 (w * 65536)
    else if isMx fmt then enc32 (fMul v (e8m0 (scales.getD (i / 32) 0).toNat))
    else if fmt = 6 then enc32 (fMul v (dec32 isc))
    else enc32 v

/-! ### Context records (R266, R294) -/

/-- A context record. -/
structure PRec where
  state : Nat
  fmt : Nat
  dim : Nat
  kind : Nat
  quad : Nat
  committed : Nat
  staged : Nat
  pages : Nat
  roots : List Nat
  lock : Nat
  gen : Nat
deriving DecidableEq, Repr, Inhabited

/-- lock.held. -/
def PRec.held (r : PRec) : Bool := bitN r.lock 0
/-- lock.orphaned. -/
def PRec.orphaned (r : PRec) : Bool := bitN r.lock 1
/-- lock.owner. -/
def PRec.owner (r : PRec) : Nat := bits r.lock 2 10
/-- lock.gen. -/
def PRec.lockGen (r : PRec) : Nat := bits r.lock 32 16
/-- Tokens of a page of the context. -/
def PRec.t (r : PRec) : Nat := pageTokens r.fmt r.dim

/-- The record in a block; none where it is malformed (R6). -/
def recDec (b : Block) : Option PRec :=
  let w := fun k => blkGet b k 4
  let r : PRec :=
    { state := bits (w 0) 0 2, fmt := bits (w 0) 2 4, dim := bits (w 0) 6 2, kind := bits (w 0) 8 1, quad := bits (w 0) 9 2,
      committed := w 4, staged := w 8, pages := w 12, roots := [w 16, w 20, w 24, w 28], lock := blkGet b 32 8, gen := w 40 }
  if bits (w 0) 11 21 != 0 || 2 ^ 24 < r.committed || 2 ^ 24 < r.staged || 2 ^ 21 ≤ r.pages || bits r.lock 12 4 != 0 ||
     bits r.lock 48 16 != 0 || blkGet b 44 20 != 0 || 6 < r.fmt || r.dim = 3 || (r.kind = 0 && r.quad != 0) then none
  else some r

/-- The block of a record. -/
def recEnc (r : PRec) : Block :=
  BitVec.ofNat 512
    (r.state + r.fmt * 2 ^ 2 + r.dim * 2 ^ 6 + r.kind * 2 ^ 8 + r.quad * 2 ^ 9 + r.committed * 2 ^ 32 + r.staged * 2 ^ 64 +
     r.pages * 2 ^ 96 + (r.roots.getD 0 0) * 2 ^ 128 + (r.roots.getD 1 0) * 2 ^ 160 + (r.roots.getD 2 0) * 2 ^ 192 +
     (r.roots.getD 3 0) * 2 ^ 224 + r.lock * 2 ^ 256 + r.gen % 2 ^ 32 * 2 ^ 320)

/-- Port address of the record of a context (R264). -/
def State.recAt (s : State) (ctx : Nat) : Nat := s.img.ctxBase * 2097152 + 64 * ctx

/-- A block at a port address, or the code its read answers. -/
def State.blkRes (s : State) (a origin : Nat) : Res Block :=
  match s.decode a origin with
  | none => throw (cBAD, 0)
  | some (l, x) => do
    noteRd l x
    match s.memRead l x with
    | (c, b) => if c = cOK then pure b else throw (c, 0)

/-- Read the record of a context; a malformed one is answered BAD_REQUEST, TABLE. -/
def State.readRec (s : State) (ctx : Nat) : Res PRec := do
  let b ← s.blkRes (s.recAt ctx) 0
  match recDec b with
  | some r => pure r
  | none => throw (cBAD, dTABLE)

/-! ### Page headers (R270) -/

/-- A page header. -/
structure PHdr where
  refs : Nat := 0
  owner : Nat := 0
  ov : Bool := false
  cls : Nat := 0
  kind : Nat := 0
  tokens : Nat := 0
  fmt : Nat := 0
  dim : Nat := 0
  mask : Nat := 0
  index : Nat := 0
  last : Nat := 0
  aux : Nat := 0
  ks : Word := 0
  vs : Word := 0
  summ : List Byte := List.replicate 128 0
deriving DecidableEq, Repr, Inhabited

/-- Port address of the header of a frame (R264). -/
def State.hdrAt (s : State) (f : Nat) : Nat := s.img.hdrBase * 2097152 + 256 * f

/-- Logical channel of a frame (R268). -/
def State.frameCh (s : State) (f : Nat) : Nat := f / s.grans
/-- Granule of a frame. -/
def State.frameGr (s : State) (f : Nat) : Nat := f % s.grans
/-- The frame is in the pools. -/
def State.inPools (s : State) (f : Nat) : Bool :=
  s.frameCh f < 128 && s.img.granLo ≤ s.frameGr f && s.frameGr f < s.img.granHi

/-- A table or aux entry: nothing when not valid; an error when malformed (R268, R274). -/
def State.entryRes (s : State) (w : Nat) (l3 : Bool) : Res (Option Nat) :=
  if !bitN w 31 then pure none
  else if bits w 27 4 != 0 || !s.inPools (bits w 0 24) || (l3 && bits w 24 3 != 0) then throw (cBAD, dTABLE)
  else pure (some w)

/-- Block 0 of a header. -/
def hdrEnc (h : PHdr) : Block :=
  BitVec.ofNat 512
    (h.refs % 2 ^ 32 + h.owner * 2 ^ 32 + b2n h.ov * 2 ^ 55 + h.cls * 2 ^ 56 + h.kind * 2 ^ 60 + h.tokens * 2 ^ 64 + h.fmt * 2 ^ 73 +
     h.dim * 2 ^ 77 + h.mask * 2 ^ 80 + h.index * 2 ^ 96 + h.last % 2 ^ 32 * 2 ^ 128 + h.aux * 2 ^ 160 + h.ks.toNat * 2 ^ 192 +
     h.vs.toNat * 2 ^ 224)

/-- The four blocks of a header. -/
def hdrBlocks (h : PHdr) : List Block := [hdrEnc h, 0, bytesBlock h.summ, bytesBlock (h.summ.drop 64)]

/-- The header in four blocks; none where it is malformed for itself. -/
def hdrDec (b0 b1 b2 b3 : Block) : Option PHdr :=
  let w := fun k => blkGet b0 k 4
  let h : PHdr :=
    { refs := w 0, owner := bits (w 4) 0 21, ov := bitN (w 4) 23, cls := bits (w 4) 24 4, kind := bits (w 4) 28 2,
      tokens := bits (w 8) 0 9, fmt := bits (w 8) 9 4, dim := bits (w 8) 13 2, mask := bits (w 8) 16 8, index := w 12, last := w 16,
      aux := w 20, ks := BitVec.ofNat 32 (w 24), vs := BitVec.ofNat 32 (w 28), summ := blockBytes b2 ++ blockBytes b3 }
  if bits (w 4) 21 2 != 0 || bits (w 4) 30 2 != 0 || bitN (w 8) 15 || bits (w 8) 24 8 != 0 || 2 ^ 20 ≤ h.index || b1 != 0 ||
     blkGet b0 32 32 != 0 || h.kind = 3 || (h.kind = 1 && (6 < h.fmt || h.dim = 3)) then none
  else some h

/-- The aux entry of a page's header is as R272 asks. -/
def State.auxOk (s : State) (f : Nat) (h : PHdr) : Bool :=
  if needsAux h.fmt h.dim then
    bitN h.aux 31 && bits h.aux 27 4 == 0 && s.inPools (bits h.aux 0 24) && s.frameCh (bits h.aux 0 24) == s.frameCh f
  else !bitN h.aux 31

/-- Read the header of a frame. -/
def State.readHdr (s : State) (f : Nat) : Res PHdr := do
  let b0 ← s.blkRes (s.hdrAt f) 0
  let b1 ← s.blkRes (s.hdrAt f + 64) 0
  let b2 ← s.blkRes (s.hdrAt f + 128) 0
  let b3 ← s.blkRes (s.hdrAt f + 192) 0
  match hdrDec b0 b1 b2 b3 with
  | some h => pure h
  | none => throw (cBAD, dTABLE)

/-- Read the header of a page: a frame of another kind, or a wrong aux entry, is malformed (R272). -/
def State.readPage (s : State) (f : Nat) : Res PHdr := do
  let h ← s.readHdr f
  if h.kind != 1 || !s.auxOk f h then throw (cBAD, dTABLE) else pure h

/-! ### Frames' bytes -/

/-- Bytes of a logical channel, or the code of the first block that does not answer OK. -/
def State.lcBytes (s : State) (l x n : Nat) : Res (List Byte) :=
  if n = 0 then pure []
  else do
    let bs ← (List.range ((x % 64 + n + 63) / 64)).mapM fun i => (do
      noteRd l (x / 64 * 64 + 64 * i)
      match s.memRead l (x / 64 * 64 + 64 * i) with
      | (c, b) => if c = cOK then pure (blockBytes b) else throw (c, 0) : Res (List Byte))
    pure ((bs.flatten.drop (x % 64)).take n)

/-- Bytes at a port address that starts a block. -/
def State.paBytes (s : State) (a origin n : Nat) : Res (List Byte) := do
  let bs ← (List.range (ceilDiv n 64)).mapM fun i => s.blkRes (a + 64 * i) origin
  pure ((bs.flatMap blockBytes).take n)

/-- n bytes of a frame from byte b. -/
def State.frameBytes (s : State) (f b n : Nat) : Res (List Byte) := s.lcBytes (s.frameCh f) (s.frameGr f * 16384 + b) n

/-- Byte of a frame where a block entry's block begins (R269). -/
def blkOff (e : Nat) : Nat := 2048 * bits e 24 3

/-- Word i of the table block that entry e names. -/
def State.tblWord (s : State) (e i : Nat) : Res Nat := do
  pure (leNat (← s.frameBytes (bits e 0 24) (blkOff e + 4 * i) 4))

/-- The frame of page p; none where the table has no valid entry (R274). -/
def State.pageFrame (s : State) (r : PRec) (p : Nat) : Res (Option Nat) := do
  match ← s.entryRes (r.roots.getD (p / 262144 % 4) 0) false with
  | none => pure none
  | some e1 =>
    match ← s.entryRes (← s.tblWord e1 (p / 512 % 512)) false with
    | none => pure none
    | some e2 =>
      match ← s.entryRes (← s.tblWord e2 (p % 512)) true with
      | none => pure none
      | some e3 => pure (some (bits e3 0 24))

/-- The frame of a mapped page; a page without a valid entry is malformed (R275). -/
def State.mapped (s : State) (r : PRec) (p : Nat) : Res Nat := do
  match ← s.pageFrame r p with
  | some f => pure f
  | none => throw (cBAD, dTABLE)

/-- Row j of a page, keys or values, decoded to fp32. -/
def State.pageRow (s : State) (f : Nat) (h : PHdr) (val : Bool) (j : Nat) : Res (List Word) := do
  let rb := rowBytes h.fmt h.dim
  let row ← s.frameBytes f ((if val then 8192 else 0) + j * rb) rb
  let sc ← if isMx h.fmt then s.frameBytes (bits h.aux 0 24) (blkOff h.aux + scaleAt h.fmt h.dim val j) (scaleBytes h.dim)
    else pure []
  pure (decRow h.fmt row sc (if val then h.vs else h.ks))

/-- The summary key of a page with n committed tokens, one E4M3 byte each dimension (R273). -/
def State.summary (s : State) (f : Nat) (h : PHdr) (n : Nat) : Res (List Byte) := do
  let rows ← (List.range n).mapM fun j => s.pageRow f h false j
  match rows with
  | [] => pure (List.replicate (headDim h.dim) 0)
  | r :: l =>
    let sum := l.foldl (fun a x => List.zipWith add32 a x) r
    pure (sum.map fun w => BitVec.ofNat 8 (elemEnc 2 (dec32 (div32 w (itof32 n)))))

/-! ### Spread sets (R276) -/

/-- The spread set of a context. -/
def spreadOf (ctx : Nat) (r : PRec) : List Nat :=
  let x := ctx / 262144
  if r.kind = 1 then (List.range 4).map (16 * x + 4 * r.quad + ·) else (List.range 16).map (16 * x + ·)

/-- The channels of the spread set from index i on, in spread order. -/
def orderFrom (l : List Nat) (i : Nat) : List Nat :=
  let k := i % l.length
  l.drop k ++ l.take k

end Sys2Proof.Machine
end

