-- ==== Sys2Proof/Machine/Pages.lean ====
section
/-! DEFINITION. The page service: frames and blocks granted and freed, page references, copies, locks and the eleven operations,
each run whole at its commit point; a call that fails leaves everything as it was (R263-R302, log 13). -/

namespace Sys2Proof.Machine

/-- What a call runs with, and what it has done so far. -/
structure PSt where
  s : State
  owner : Nat
  cls : Nat
  origin : Nat
  ctx : Nat
  /-- the choices of frames still unused: 17 bits each (R276 leaves the frame of a channel open) -/
  pick : Nat
  /-- frames granted, frames returned -/
  granted : List Nat := []
  freed : Nat := 0
  /-- bitmap words struck by FREE_PAR, by their first frame -/
  struck : List Nat := []
  /-- FORK: the child, and the parent's frames it began to share (R288) -/
  child : Option (Nat × PRec) := none
  shared : List Nat := []
deriving Inhabited

/-- A step of a call. -/
abbrev PM (α : Type) : Type := ExceptT (BitVec 4 × Nat) (StateM PSt) α

/-- A read of the state. -/
def pRead {α : Type} (f : State → Res α) : PM α := do
  let t ← get
  match t.s.ask (f t.s) with
  | (r, s) =>
    set { t with s := s }
    match r with
    | .ok a => pure a
    | .error e => throw e

/-- A change of the state. -/
def pMod (f : State → State) : PM Unit := modify fun t => { t with s := f t.s }

/-- A write that may be answered otherwise than OK. -/
def pWrite (f : State → BitVec 4 × State) : PM Unit := do
  match f (← get).s with
  | (c, s) => if c = cOK then modify fun t => { t with s := s } else throw (c, 0)

/-- Change the directory. -/
def State.onPd (s : State) (f : Pd → Pd) : State := { s with pd := f s.pd }

/-- Set a PD_EVENT bit. -/
def State.pdEv (s : State) (bit : Nat) : State := s.onPd fun d => { d with ev := d.ev ||| ((1 : BitVec 3) <<< bit) }

/-! ### Frames (R277-R280) -/

/-- The frame is not free. -/
def Pd.used (d : Pd) (f : Nat) : Bool := (d.held.any fun e => e.1 == f) || (d.returning.any fun e => e.1 == f) || d.quar.contains f

/-- Free frames of a logical channel; none in a hole (R279). -/
def State.freeIn (s : State) (l : Nat) : Nat :=
  if (s.serving l).isNone then 0
  else
    let used := ((s.pd.held.map (·.1)) ++ (s.pd.returning.map (·.1)) ++ s.pd.quar).eraseDups.filter fun f => s.frameCh f == l
    (s.img.granHi - s.img.granLo) - used.length

/-- Free frames of a sector. -/
def State.freeOf (s : State) (x : Nat) : Nat := ((List.range 16).map fun i => s.freeIn (16 * x + i)).sum

/-- Frames a class holds in a sector: charged until they are free again. -/
def State.heldBy (s : State) (x c : Nat) : Nat :=
  (s.pd.held.filter fun e => s.frameCh e.1 / 16 == x && e.2 == c).length +
  (s.pd.returning.filter fun e => s.frameCh e.1 / 16 == x && e.2.1 == c).length

/-- Reserve of a class in a sector (PAGES, R277). -/
def State.reserve (s : State) (x c : Nat) : Nat := s.img.reserves.getD (16 * x + c) 0

/-- A frame for class c is granted in sector x (R277). -/
def State.grantOk (s : State) (x c : Nat) : Bool :=
  let free := s.freeOf x
  free != 0 &&
  (s.heldBy x c < s.reserve x c ||
   (((List.range 16).filter (· != c)).map fun k => s.reserve x k - s.heldBy x k).sum < free)

/-- The first free frame of channel l at or after granule offset k of its pool range, wrapping. -/
def State.freeFrom (s : State) (l k : Nat) : Nat → Option Nat
  | 0 => none
  | n + 1 =>
    let f := l * s.grans + s.img.granLo + k % (s.img.granHi - s.img.granLo)
    if s.pd.used f then s.freeFrom l (k + 1) n else some f

/-- Free one frame of a channel by the operand's choice. -/
def State.pickFrame (s : State) (l k : Nat) : Option Nat :=
  s.freeFrom l k (s.pd.held.length + s.pd.returning.length + s.pd.quar.length + 1)

/-- The 64 frames of the bitmap word of frame f are quarantined (R301). -/
def State.strikeWord (s : State) (f : Nat) : State :=
  let f0 := f / s.grans * s.grans + s.frameGr f / 64 * 64
  let add := (List.range 64).map (f0 + ·) |>.filter fun g => s.inPools g && !s.pd.quar.contains g
  (s.onPd fun d => { d with quar := d.quar ++ add }).pdEv 2

/-- Grant a frame to the call in the first of the channels that has one; kind 1 page, 2 block frame (R276-R278). -/
def grantTry (chans : List Nat) : Nat → PM Nat
  | 0 => throw (cEXHAUSTED, 0)
  | n + 1 => do
    let t ← get
    let s := t.s
    let x := t.ctx / 262144
    if !s.grantOk x t.cls then throw (cEXHAUSTED, 0)
    match chans.find? fun l => s.freeIn l != 0 with
    | none => throw (cEXHAUSTED, 0)
    | some l =>
      match s.pickFrame l (t.pick % 131072) with
      | none => throw (cEXHAUSTED, 0)
      | some f =>
        let (hit, s) := s.fire .pageDir 0 false
        if hit then
          set { t with s := (s.fault .pageDir 0).strikeWord f, struck := t.struck ++ [f] }
          grantTry chans n
        else
          let s := match s.serving l with
            | some p => s.clearGran p (s.frameGr f)
            | none => s
          let s := s.onPd fun d => { d with held := smSet 16 d.held f t.cls }
          set { t with s := s.count .pageDir 1 (some t.cls) 1 (BitVec.ofNat 32 t.ctx) (BitVec.ofNat 32 f)
                       pick := t.pick / 131072, granted := t.granted ++ [f] }
          pure f

/-- Grant a frame. -/
def grant (chans : List Nat) : PM Nat := grantTry chans 2

/-- Write a header whole. -/
def putHdr (f : Nat) (h : PHdr) : PM Unit :=
  pWrite fun s => s.paWriteN (s.hdrAt f) 0 4 ((hdrBlocks h).flatMap blockBytes)

/-- A frame whose last reference is gone waits for its readers, which may still read it; one in a hole never returns (R279, R280,
R293). -/
def freeFrame (f : Nat) : PM Unit := do
  let t ← get
  if (t.s.serving (t.s.frameCh f)).isSome then
    set { t with
      freed := t.freed + 1
      s := t.s.onPd fun d =>
        { d with held := smSet 16 d.held f 16, returning := d.returning ++ [(f, smGet 16 d.held f, d.epoch)] } }

/-! ### Blocks (R269, R275) -/

/-- The lowest zero bit of a block mask. -/
def freeBit (m : Nat) : Nat := ((List.range 8).find? fun k => !bitN m k).getD 8

/-- The block frames of a channel with a block free. -/
def State.openBlocks (s : State) (l : Nat) : List (Nat × PHdr) :=
  s.pd.held.filterMap fun e =>
    if s.frameCh e.1 != l then none
    else match resGet (s.readHdr e.1) with
    | .ok h => if h.kind = 2 && h.mask != 0xFF then some (e.1, h) else none
    | .error _ => none

/-- Write all 32 blocks of a block with zeros. -/
def zeroBlock (e : Nat) : PM Unit :=
  (List.range 32).forM fun i => pWrite fun s =>
    s.memWrite (s.frameCh (bits e 0 24)) (s.frameGr (bits e 0 24) * 16384 + blkOff e + 64 * i) 0

/-- A new block in the first of the channels that has one: its entry. -/
def newBlock (chans : List Nat) : PM Nat := do
  let s := (← get).s
  let room := fun (l : Nat) => !(s.openBlocks l).isEmpty || s.freeIn l != 0
  match chans.find? room with
  | none => throw (cEXHAUSTED, 0)
  | some l =>
    let e ← (match s.openBlocks l with
      | (f, h) :: _ => do
        let k := freeBit h.mask
        putHdr f { h with mask := h.mask + 2 ^ k }
        pure (f + k * 2 ^ 24 + 2 ^ 31)
      | [] => do
        let f ← grant [l]
        putHdr f { refs := 1, kind := 2, cls := (← get).cls, mask := 1 }
        pure (f + 2 ^ 31) : PM Nat)
    zeroBlock e
    pure e

/-- Free the block of an entry; the last one frees its frame. -/
def freeBlock (e : Nat) : PM Unit := do
  let f := bits e 0 24
  let h ← pRead fun s => s.readHdr f
  let m := if bitN h.mask (bits e 24 3) then h.mask - 2 ^ bits e 24 3 else h.mask
  putHdr f { h with mask := m, refs := if m = 0 then 0 else h.refs }
  if m = 0 then freeFrame f

/-! ### Table entries (R274, R275) -/

/-- Write bytes inside a frame, block by block. -/
def putFrame (f b : Nat) (bs : List Byte) : PM Unit := do
  let s := (← get).s
  let l := s.frameCh f
  let x := s.frameGr f * 16384 + b
  let old ← pRead fun s => s.lcBytes l (x / 64 * 64) (ceilDiv (x % 64 + bs.length) 64 * 64)
  let new := old.take (x % 64) ++ bs ++ old.drop (x % 64 + bs.length)
  (List.range (new.length / 64)).forM fun i =>
    pWrite fun s => s.memWrite l (x / 64 * 64 + 64 * i) (bytesBlock (new.drop (64 * i)))

/-- Write word i of a table block. -/
def putWord (e i v : Nat) : PM Unit := putFrame (bits e 0 24) (blkOff e + 4 * i) (leBytes v 4)

/-- The level-3 block of page p, made with the blocks above it when absent; the record with its roots. -/
def level3 (r : PRec) (p : Nat) : PM (PRec × Nat) := do
  let ctx := (← get).ctx
  let chans := orderFrom (spreadOf ctx r) ctx
  let k := p / 262144 % 4
  let (r, e1) ← (do
    match ← pRead fun s => s.entryRes (r.roots.getD k 0) false with
    | some e => pure (r, e)
    | none =>
      let e ← newBlock chans
      pure ({ r with roots := upd r.roots k fun _ => e }, e) : PM (PRec × Nat))
  let w ← pRead fun s => s.tblWord e1 (p / 512 % 512)
  match ← pRead fun s => s.entryRes w false with
  | some e => pure (r, e)
  | none =>
    let e ← newBlock chans
    putWord e1 (p / 512 % 512) e
    pure (r, e)

/-- Set the level-3 entry of page p. -/
def setEntry (r : PRec) (p w : Nat) : PM PRec := do
  let (r, e) ← level3 r p
  putWord e (p % 512) w
  pure r

/-- Write the record: the commit point (R286). -/
def putRec (ctx : Nat) (r : PRec) : PM Unit := pWrite fun s => s.paWrite (s.recAt ctx) 0 (recEnc r)

/-! ### References and copies (R289-R291) -/

/-- The elapsed counter in ms. -/
def State.nowMs (s : State) : Nat := s.mgmt.elapsed.toNat / 1000 % 2 ^ 32

/-- last_use of a touched page: written only when at least 1,000 ms old (R270). -/
def touched (h : PHdr) (now : Nat) : PHdr := if 1000 ≤ (now + 2 ^ 32 - h.last) % 2 ^ 32 then { h with last := now } else h

/-- Lower refs of a page; at zero its aux block and its frame are freed (R290). -/
def dropRef (f : Nat) (h : PHdr) : PM Unit := do
  putHdr f { h with refs := h.refs - 1 }
  if h.refs ≤ 1 then
    if bitN h.aux 31 then freeBlock h.aux
    freeFrame f

/-- Remove the reference of page p. -/
def removePage (r : PRec) (p : Nat) : PM PRec := do
  let f ← pRead fun s => s.mapped r p
  let h ← pRead fun s => s.readPage f
  let r ← setEntry r p 0
  dropRef f h
  pure r

/-- Remove pages lo to hi - 1, highest first. -/
def removePages (r : PRec) (lo hi : Nat) : PM PRec :=
  (List.range (hi - lo)).foldlM (fun r i => removePage r (hi - 1 - i)) r

/-- A new page frame for page p with its aux block: the frame and the aux entry (R272, R276). -/
def newPage (r : PRec) (p : Nat) : PM (Nat × Nat) := do
  let ctx := (← get).ctx
  let f ← grant (orderFrom (spreadOf ctx r) (ctx + p))
  if needsAux r.fmt r.dim then do
    let l := (← get).s.frameCh f
    pure (f, ← newBlock [l])
  else pure (f, 0)

/-- Copy a shared page before it is changed: the slots below n, its aux block and header; the new frame and header (R289). -/
def copyPage (r : PRec) (p n f : Nat) (h : PHdr) : PM (PRec × Nat × PHdr) := do
  let (g, aux) ← newPage r p
  let rb := rowBytes h.fmt h.dim
  let ks ← pRead fun s => s.frameBytes f 0 (n * rb)
  let vs ← pRead fun s => s.frameBytes f 8192 (n * rb)
  putFrame g 0 ks
  putFrame g 8192 vs
  if bitN aux 31 then
    let a ← pRead fun s => s.frameBytes (bits h.aux 0 24) (blkOff h.aux) 2048
    putFrame (bits aux 0 24) (blkOff aux) a
  let t ← get
  let h' : PHdr := { h with refs := 1, owner := t.ctx, ov := true, cls := t.cls, index := p, aux := aux, last := t.s.nowMs }
  putHdr g h'
  let r ← setEntry r p (g + 2 ^ 31)
  dropRef f h
  pure (r, g, h')

/-- The page p the writer may change in place: itself when private, else its copy. n: slots in use by the writer. -/
def ownPage (r : PRec) (p : Nat) : PM (PRec × Nat × PHdr) := do
  let f ← pRead fun s => s.mapped r p
  let h ← pRead fun s => s.readPage f
  if 1 < h.refs then copyPage r p (min r.t (max h.tokens (r.staged - p * r.t))) f h else pure (r, f, h)

/-- Set a page's committed tokens and its summary (R273, R287 step 6). -/
def setTokens (f : Nat) (h : PHdr) (n : Nat) : PM Unit := do
  let h := { h with tokens := n }
  let k ← pRead fun s => s.summary f h n
  if h.dim = 2 then putFrame (bits h.aux 0 24) (blkOff h.aux) (k.drop 128)
  putHdr f { h with summ := (k ++ List.replicate 64 0).take 128 }

/-- Set tokens and summaries of the pages that hold tokens lo to hi - 1, when hi are committed. -/
def commitPages (r : PRec) (lo hi : Nat) : PM PRec :=
  if hi ≤ lo then pure r
  else (List.range (ceilDiv hi r.t - lo / r.t)).foldlM (fun r i => do
    let p := lo / r.t + i
    let (r, f, h) ← ownPage r p
    setTokens f h (min r.t (hi - p * r.t))
    pure r) r

/-- Release the strays of the context: valid entries beyond its pages (R275). -/
def dropStrays (r : PRec) : PM PRec := do
  -- the valid entries of a table block that reach past the context's pages, each entry spanning `span` pages from page p0 on
  let entries := fun (e p0 span : Nat) => (do
    let b ← pRead fun s => s.frameBytes (bits e 0 24) (blkOff e) 2048
    let ws := (((chunks 4 b 512).map leNat).zipIdx).filter fun w => decide (r.pages < p0 + (w.2 + 1) * span)
    let es ← ws.mapM fun (w, i) => (do
      pure ((← pRead fun s => s.entryRes w (span == 1)).map fun w => (p0 + i * span, w)) : PM (Option (Nat × Nat)))
    pure (es.filterMap id) : PM (List (Nat × Nat)))
  let l2 ← ((List.range 4).filter fun k => r.pages < (k + 1) * 262144).mapM fun k => (do
    match ← pRead fun s => s.entryRes (r.roots.getD k 0) false with
    | none => pure []
    | some e => entries e (k * 262144) 512 : PM (List (Nat × Nat)))
  let l3 ← l2.flatten.mapM fun (p0, w) => entries w p0 1
  l3.flatten.foldlM (fun r e => removePage r e.1) r

/-- Discard the staged tail (R290, R297). -/
def dropTail (r : PRec) : PM PRec := do
  let keep := ceilDiv r.committed r.t
  let r ← removePages r keep r.pages
  pure { r with staged := r.committed, pages := keep }

/-! ### The call block (R281) -/

/-- A call block. -/
structure Call where
  op : Nat
  commit : Bool
  salvage : Bool
  lockGen : Nat
  ctx : Nat
  arg0 : Nat
  arg1 : Nat
  addr : Nat
  ctx2 : Nat
  tag : Nat
  ks : Word
  vs : Word
  origin : Nat
deriving DecidableEq, Repr, Inhabited

/-- The fields of a call block. -/
def callDec (b : Block) : Call :=
  let w := fun k => blkGet b k 4
  { op := bits (w 0) 0 8, commit := bitN (w 0) 8, salvage := bitN (w 0) 9, lockGen := bits (w 0) 16 16, ctx := bits (w 4) 0 21,
    arg0 := w 8, arg1 := w 12, addr := blkGet b 16 6, ctx2 := bits (blkGet b 24 4) 0 21, tag := blkGet b 0x1A 2,
    ks := BitVec.ofNat 32 (w 0x1C), vs := BitVec.ofNat 32 (w 0x20), origin := bits (w 0x24) 0 7 }

/-- A call block reserved by R281 or R283: a reserved bit or a reserved op. ctx2 and tag share word 0x18: bits 20:0, and the tag
in the upper half (log 16). -/
def callBad (b : Block) : Bool :=
  let w := fun k => blkGet b k 4
  bits (w 0) 10 6 != 0 || bits (w 4) 21 11 != 0 || bits (w 0x14) 16 16 != 0 || bits (w 0x24) 7 25 != 0 || blkGet b 0x28 24 != 0 ||
  bits (w 0) 0 8 = 0 || 0x0B < bits (w 0) 0 8

/-- The operation changes its context (R283): refused to all but the holder while the context is locked. -/
def Call.mutating (c : Call) : Bool := c.op = 1 || c.op = 2 || c.op = 4 || c.op = 5 || c.op = 6
/-- The operation needs the lock. -/
def Call.needsLock (c : Call) : Bool := c.op = 3 || c.op = 8 || c.op = 0x0A || (c.op = 2 && !c.commit)

/-- The operations a record's state permits (R267). -/
def Call.permitted (c : Call) (st : Nat) : Bool :=
  if st = 0 then c.op = 1 else if st = 1 then c.op != 1 else if st = 2 then c.op = 9 else false

/-! ### The operations -/

/-- The lock word with held, orphaned, owner and tag clear (R290). -/
def clearLock (w : Nat) : Nat := bits w 32 16 * 2 ^ 32

/-- CREATE (R267, R283). -/
def opCreate (c : Call) (r : PRec) : PM Unit := do
  if 2 ^ 9 ≤ c.arg0 then throw (cBAD, 0)
  let fmt := bits c.arg0 0 4
  let dim := bits c.arg0 4 2
  let kind := bits c.arg0 6 1
  let quad := bits c.arg0 7 2
  if 6 < fmt || dim = 3 then throw (cBAD, 5)
  if kind = 0 && quad != 0 then throw (cBAD, dRANGE)
  putRec c.ctx { state := 1, fmt := fmt, dim := dim, kind := kind, quad := quad, committed := 0, staged := 0, pages := 0,
                 roots := [0, 0, 0, 0], lock := r.lock, gen := (r.gen + 1) % 2 ^ 32 }
  pMod fun s => s.onPd fun d => { d with live := d.live + 1 }

/-- The source regions of n tokens: keys, values, key scales, value scales (R285). -/
def readSource (c : Call) (r : PRec) (n : Nat) : PM (List Byte × List Byte × List Byte × List Byte) := do
  let origin := (← get).origin
  let rb := n * rowBytes r.fmt r.dim
  let sb := if isMx r.fmt then n * scaleBytes r.dim else 0
  let up := fun (a : Nat) => ceilDiv a 64 * 64
  let rd := fun (o k : Nat) => (do
    let s := (← get).s
    if k != 0 && ((s.decode (c.addr + o) origin).isNone || (s.decode (c.addr + o + k - 1) origin).isNone) then throw (cBAD, dRANGE)
    pRead fun s => s.paBytes (c.addr + o) origin k : PM (List Byte))
  let o2 := up rb
  let o3 := o2 + up rb
  let o4 := o3 + up sb
  pure (← rd 0 rb, ← rd o2 rb, ← rd o3 sb, ← rd o4 sb)

/-- Write one token's rows and scales into slot j of a page. -/
def putToken (f : Nat) (h : PHdr) (j : Nat) (k v ks vs : List Byte) : PM Unit := do
  let rb := rowBytes h.fmt h.dim
  putFrame f (j * rb) k
  putFrame f (8192 + j * rb) v
  if isMx h.fmt then
    putFrame (bits h.aux 0 24) (blkOff h.aux + scaleAt h.fmt h.dim false j) ks
    putFrame (bits h.aux 0 24) (blkOff h.aux + scaleAt h.fmt h.dim true j) vs

/-- Write n source tokens at token t0 on, into pages the writer may change. -/
def putTokens (r : PRec) (t0 n : Nat) (src : List Byte × List Byte × List Byte × List Byte) : PM PRec := do
  let rb := rowBytes r.fmt r.dim
  let sb := scaleBytes r.dim
  (List.range (ceilDiv (t0 + n) r.t - t0 / r.t)).foldlM (fun r i => do
    let p := t0 / r.t + i
    let (r, f, h) ← ownPage r p
    putHdr f (touched h (← get).s.nowMs)
    let lo := max t0 (p * r.t)
    let hi := min (t0 + n) ((p + 1) * r.t)
    (List.range (hi - lo)).forM fun q =>
      let k := lo + q - t0
      putToken f h (lo + q - p * r.t) ((src.1.drop (k * rb)).take rb) ((src.2.1.drop (k * rb)).take rb)
        ((src.2.2.1.drop (k * sb)).take sb) ((src.2.2.2.drop (k * sb)).take sb)
    pure r) r

/-- An int8 call's scales equal those of the existing pages lo to hi - 1 (R287 step 4). -/
def sameScales (c : Call) (r : PRec) (lo hi : Nat) : PM Unit :=
  if r.fmt != 6 then pure ()
  else (List.range (hi - lo)).forM fun i => do
    let f ← pRead fun s => s.mapped r (lo + i)
    let h ← pRead fun s => s.readPage f
    if h.ks != c.ks || h.vs != c.vs then throw (cBAD, 6)

/-- n is 1 to 4,096 and addr 64-byte aligned (R283). -/
def checkN (c : Call) : PM Unit := if c.arg0 = 0 || 4096 < c.arg0 || c.addr % 64 != 0 then throw (cBAD, dRANGE) else pure ()

/-- APPEND (R287). -/
def opAppend (c : Call) (r : PRec) : PM Unit := do
  checkN c
  let n := c.arg0
  if 2 ^ 24 < r.staged + n then throw (cBAD, dRANGE)
  let r ← dropStrays r
  let last := ceilDiv (r.staged + n) r.t
  sameScales c r (r.staged / r.t) (min last r.pages)
  let src ← readSource c r n
  let r ← (List.range (last - r.pages)).foldlM (fun r i => do
    let p := r.pages + i
    let (f, aux) ← newPage r p
    let t ← get
    putHdr f { refs := 1, owner := c.ctx, ov := true, cls := t.cls, kind := 1, fmt := r.fmt, dim := r.dim, index := p,
               last := t.s.nowMs, aux := aux, ks := if r.fmt = 6 then c.ks else 0, vs := if r.fmt = 6 then c.vs else 0 }
    let e := f + 2 ^ 31
    setEntry r p e) r
  let t0 := r.staged
  let r ← putTokens { r with pages := last } t0 n src
  let r := { r with staged := t0 + n }
  let r ← if c.commit then (do
      let r ← commitPages r r.committed r.staged
      pure { r with committed := r.staged } : PM PRec) else pure r
  putRec c.ctx r

/-- COMMIT (R287 step 6). -/
def opCommit (c : Call) (r : PRec) : PM Unit := do
  let r ← commitPages r r.committed r.staged
  putRec c.ctx { r with committed := r.staged }

/-- PATCH: n committed tokens from token arg1 are overwritten (R283, R285, R289). -/
def opPatch (c : Call) (r : PRec) : PM Unit := do
  checkN c
  let n := c.arg0
  if r.committed < c.arg1 + n then throw (cBAD, dRANGE)
  let r ← dropStrays r
  sameScales c r (c.arg1 / r.t) (ceilDiv (c.arg1 + n) r.t)
  let src ← readSource c r n
  let r ← putTokens r c.arg1 n src
  let r ← (List.range (ceilDiv (c.arg1 + n) r.t - c.arg1 / r.t)).foldlM (fun r i => do
    let (r, f, h) ← ownPage r (c.arg1 / r.t + i)
    setTokens f h h.tokens
    pure r) r
  putRec c.ctx r

/-- FORK (R288). -/
def opFork (c : Call) (r : PRec) : PM Unit := do
  if c.ctx2 / 262144 != c.ctx / 262144 then throw (cBAD, dRANGE)
  let y ← pRead fun s => s.readRec c.ctx2
  if y.state != 0 then throw (cBAD, dCTX)
  let r ← dropStrays r
  let n := ceilDiv r.committed r.t
  let y : PRec := { y with state := 3, fmt := r.fmt, dim := r.dim, kind := r.kind, quad := r.quad, committed := r.committed,
                           staged := r.committed, pages := n, roots := [0, 0, 0, 0] }
  -- the child's blocks are obtained before anything is shared (R278)
  modify fun t => { t with ctx := c.ctx2 }
  let y ← (List.range (ceilDiv n 512)).foldlM (fun y i => do pure (← level3 y (512 * i)).1) y
  putRec c.ctx2 y
  modify fun t => { t with child := some (c.ctx2, y) }
  let y ← (List.range n).foldlM (fun y p => do
    let f ← pRead fun s => s.mapped r p
    let h ← pRead fun s => s.readPage f
    if h.refs = 0xFFFFFFFF then throw (cBAD, 7)
    putHdr f { h with refs := h.refs + 1, ov := false }
    modify fun t => { t with shared := t.shared ++ [f] }
    let e := f + 2 ^ 31
    setEntry y p e) y
  modify fun t => { t with ctx := c.ctx }
  putRec c.ctx2 { y with state := 1 }
  pMod fun s => s.onPd fun d => { d with live := d.live + 1 }

/-- TRIM (R290). -/
def opTrim (c : Call) (r : PRec) : PM Unit := do
  if r.committed < c.arg0 then throw (cBAD, dRANGE)
  let r ← dropStrays r
  let keep := ceilDiv c.arg0 r.t
  let r ← removePages r keep r.pages
  let r := { r with staged := c.arg0, pages := keep }
  let r ← if c.arg0 % r.t = 0 then pure r else (do
    let p := c.arg0 / r.t
    let f ← pRead fun s => s.mapped r p
    let h ← pRead fun s => s.readPage f
    let k := c.arg0 - p * r.t
    if h.tokens = k then pure r
    else
      let (r, f, h) ← ownPage r p
      setTokens f h k
      pure r : PM PRec)
  putRec c.ctx { r with committed := c.arg0, staged := c.arg0 }

/-- The table blocks of a context: level-2 blocks and the level-3 blocks they name. -/
def State.tableBlocks (s : State) (r : PRec) : Res (List Nat) := do
  let l ← (List.range 4).mapM fun k => do
    match ← s.entryRes (r.roots.getD k 0) false with
    | none => pure []
    | some e =>
      let b ← s.frameBytes (bits e 0 24) (blkOff e) 2048
      let ws := (chunks 4 b 512).map leNat
      pure ((ws.filter fun w => bitN w 31) ++ [e])
  pure l.flatten

/-- RELEASE (R290, R292); the number of pages quarantined. -/
def opRelease (c : Call) (r : PRec) : PM Nat := do
  let r ← dropStrays r
  let q ← (List.range r.pages).foldlM (fun q p => do
    let f ← pRead fun s => s.mapped r p
    let _ ← setEntry r p 0
    match ← pRead fun s => resTry (s.readPage f) with
    | .ok h =>
      dropRef f h
      pure q
    | .error (code, d) =>
      if code = cPOISON && c.salvage then
        pMod fun s => (s.onPd fun d => { d with quar := if d.quar.contains f then d.quar else d.quar ++ [f] })
        pure (q + 1)
      else throw (code, d)) 0
  let bs ← pRead fun s => s.tableBlocks r
  bs.forM freeBlock
  putRec c.ctx { r with state := 0, lock := clearLock r.lock, committed := 0, staged := 0, pages := 0, roots := [0, 0, 0, 0] }
  pMod fun s => s.onPd fun d => { d with live := d.live - 1, locks := d.locks.filter fun k => k.ctx != c.ctx }
  if q != 0 then pMod fun s => (s.pdEv 2).report .pageDir 2
  pure q

/-- LOCK (R295, R297): code and detail. -/
def opLock (c : Call) (r : PRec) : PM (BitVec 4 × Nat) := do
  let t ← get
  if r.held && !r.orphaned then pure (cOK, 9)
  else if !r.held && 4096 ≤ t.s.pd.locks.length then pure (cOK, 8)
  else
    let broken := r.orphaned
    let r ← if broken then dropTail r else pure r
    let gen := r.lockGen % 65535 + 1
    putRec c.ctx { r with lock := 1 + t.owner * 4 + c.tag * 2 ^ 16 + gen * 2 ^ 32 }
    pMod fun s => s.onPd fun d => { d with locks := (d.locks.filter fun k => k.ctx != c.ctx) ++ [⟨c.ctx, t.owner, false⟩] }
    pMod fun s => s.count .pageDir 4 none 1 (BitVec.ofNat 32 c.ctx)
    if broken then
      pMod fun s => (s.pdEv 1).count .pageDir 5 none 1 (BitVec.ofNat 32 c.ctx)
      pure (cBROKEN, 0)
    else pure (cOK, 0)

/-- UNLOCK (R297). -/
def opUnlock (c : Call) (r : PRec) : PM Unit := do
  let r ← dropTail (← dropStrays r)
  putRec c.ctx { r with lock := clearLock r.lock }
  pMod fun s => s.onPd fun d => { d with locks := d.locks.filter fun k => k.ctx != c.ctx }

/-- An eligible page of the coldest-page report: last_use, frame, context, index (R299). -/
abbrev ColdPage : Type := Nat × Nat × Nat × Nat

/-- COLD (R299): entries written. -/
def opCold (c : Call) (r : PRec) : PM Nat := do
  checkN c
  if c.ctx2 != 0 && c.ctx2 != 0x1FFFFF then throw (cBAD, dRANGE)
  let t ← get
  if (t.s.decode c.addr t.origin).isNone then throw (cBAD, dRANGE)
  let l : List ColdPage ← if c.ctx2 = 0 then
      (List.range r.pages).foldlM (fun l p => do
        let f ← pRead fun s => s.mapped r p
        let h ← pRead fun s => s.readPage f
        pure (if h.refs = 1 then l ++ [(h.last, f, c.ctx, p)] else l)) []
    else
      (t.s.pd.held.filter fun e => t.s.frameCh e.1 / 16 == c.ctx / 262144).foldlM (fun l e => do
        let h ← pRead fun s => s.readHdr e.1
        pure (if h.kind = 1 && h.ov && h.cls = t.cls then l ++ [(h.last, e.1, h.owner, h.index)] else l)) []
  let l := (sorted l fun a b => a.1 < b.1 || (a.1 == b.1 && a.2.1 ≤ b.2.1)).take c.arg0
  if l.length != 0 && (t.s.decode (c.addr + 16 * l.length - 1) t.origin).isNone then throw (cBAD, dRANGE)
  (l.zipIdx).forM fun (e, i) => pWrite fun s =>
    s.paPatch (c.addr + 16 * i) t.origin (leBytes (e.2.2.1 + e.2.2.2 * 2 ^ 32 + e.2.1 * 2 ^ 64 + e.1 * 2 ^ 96) 16)
  pure l.length

/-! ### The call (R263, R278, R282, R286, R296) -/

/-- The call on its context: code, detail and extra. -/
def runOpOn (c : Call) (r : PRec) : PM (BitVec 4 × Nat × Nat) := do
  let t ← get
  let holds := r.held && !r.orphaned && r.owner = t.owner && c.lockGen = r.lockGen && c.lockGen != 0
  if c.mutating || c.needsLock then
    if c.lockGen != 0 && c.lockGen != r.lockGen then throw (cBAD, 3)
    if (c.needsLock || r.held) && !holds then throw (cBAD, 2)
  let done := fun (m : PM Unit) => (do
    m
    pure (cOK, 0, 0) : PM (BitVec 4 × Nat × Nat))
  if c.op = 1 then done (opCreate c r)
  else if c.op = 2 then done (opAppend c r)
  else if c.op = 3 then done (opCommit c r)
  else if c.op = 4 then done (opFork c r)
  else if c.op = 5 then done (opTrim c r)
  else if c.op = 6 then do
    let q ← opRelease c r
    pure (cOK, if q = 0 then 0 else 0x0A, q)
  else if c.op = 7 then do
    let (code, d) ← opLock c r
    pure (code, d, 0)
  else if c.op = 8 then done (opUnlock c r)
  else if c.op = 9 then pure (cOK, 0, 0)
  else if c.op = 0x0A then done (opPatch c r)
  else do
    let n ← opCold c r
    pure (cOK, 0, n)

/-- The body of a call: block, record, state, operation. -/
def callBody (b : Block) : PM (BitVec 4 × Nat × Nat) := do
  if callBad b then throw (cBAD, 0)
  let c := callDec b
  let r ← pRead fun s => s.readRec c.ctx
  if !c.permitted r.state then throw (cBAD, dCTX)
  runOpOn c r

/-- What stays after a failed call: the frames it was granted are free again but cleared; a struck bitmap word stays struck; a
fork's child is FREE and the pages it began to share keep owner_valid clear (R278, R288, R301). -/
def State.undo (s0 : State) (t : PSt) : State :=
  let s := t.granted.foldl (fun s f => match s.serving (s.frameCh f) with
    | some p => ((s.clearGran p (s.frameGr f)).count .pageDir 1 (some t.cls) 1 (BitVec.ofNat 32 t.ctx) (BitVec.ofNat 32 f)).count
        .pageDir 2 (some t.cls) 1 (BitVec.ofNat 32 t.ctx) (BitVec.ofNat 32 f)
    | none => s) { s0 with acc := t.s.acc.filter fun a => !a.write }
  let s := t.struck.foldl (fun s f => ((s.fire .pageDir 0 false).2.fault .pageDir 0).strikeWord f) s
  match t.child with
  | none => s
  | some (y, r) =>
    let s := (s.paWrite (s.recAt y) 0 (recEnc { r with state := 0, committed := 0, staged := 0, pages := 0, roots := [0, 0, 0, 0] })).2
    t.shared.foldl (fun s f => match resGet (s.readHdr f) with
      | .ok h => (s.paWrite (s.hdrAt f) 0 (hdrEnc { h with ov := false })).2
      | .error _ => s) s

/-- A result block (R282): POISON, ABORTED and FENCED hold only code and detail. -/
def State.resultOf (s : State) (ctx : Nat) (code : BitVec 4) (detail got freed extra : Nat) : Block :=
  if code = cPOISON || code = cABORTED || code = cFENCED then resultShort code detail
  else match resGet (s.readRec ctx) with
  | .error _ => resultShort code detail
  | .ok r =>
    BitVec.ofNat 512
      (code.toNat + detail * 2 ^ 8 + r.committed * 2 ^ 32 + r.staged * 2 ^ 64 + r.pages * 2 ^ 96 + r.lock * 2 ^ 128 + r.gen * 2 ^ 192 +
       got % 2 ^ 32 * 2 ^ 224 + freed % 2 ^ 32 * 2 ^ 256 + extra % 2 ^ 32 * 2 ^ 288)

/-- An engine executes the calls of a sector: its own, or the next in service (R263). -/
def State.executor (s : State) (x : Nat) : Option Nat := ((List.range 8).map fun i => (x + i) % 8).find? fun y => !s.engLost y

/-- The engine that would run a call is gated: the call waits, and wakes it (R17). -/
def State.callGated (s : State) (b : Block) : Option Nat :=
  (s.executor ((callDec b).ctx / 262144)).filter fun y => (s.fr (.harness y)).st == .gated

/-- An armed LOCK_PAR strikes the lock-table entry of the call's context (R301, R405). -/
def State.lockParity (s : State) (ctx : Nat) : State :=
  if s.pd.locks.any fun k => k.ctx == ctx then
    let (hit, s) := s.fire .pageDir 1 false
    if hit then (s.fault .pageDir 1).orphanCtx ctx else s
  else s

/-- A page call runs whole: its code, detail and result block, and the state it leaves. -/
def State.pageCall (s : State) (owner cls origin pick : Nat) (b : Block) : (BitVec 4 × Nat × Block) × State :=
  let c := callDec b
  if (s.executor (c.ctx / 262144)).isNone then ((cFENCED, 0, resultShort cFENCED 0), s)
  else
    let s := s.lockParity c.ctx
    match (callBody b).run.run { s := s, owner := owner, cls := cls, origin := origin, ctx := c.ctx, pick := pick } with
    | (.ok (code, d, x), t) => ((code, d, t.s.resultOf c.ctx code d t.granted.length t.freed x), t.s)
    | (.error (code, d), t) =>
      let s' := s.undo t
      let s' := if code = cEXHAUSTED then
          (s'.pdEv 0).onPd (fun d => { d with exhCtx := BitVec.ofNat 21 c.ctx, exhCls := BitVec.ofNat 4 cls, exhCnt := satAdd d.exhCnt 1 })
            |>.count .pageDir 3 (some cls) 1 (BitVec.ofNat 32 c.ctx)
        else s'
      ((code, d, s'.resultOf c.ctx code d 0 0 0), s')

end Sys2Proof.Machine
end

