-- ==== Sys2Proof/Machine/Nodes.lean ====
section
/-! DEFINITION. Nodes as they stand in memory: the node table, its checks, the parameters of a dispatch, and the dispatch itself
(R307-R312, R315, R318, R320-R322, R327). -/

namespace Sys2Proof.Machine

/-! ### Fields of a node entry (R308, R311) -/

/-- Field of a 128-byte node entry: byte offset, lowest bit, length. -/
def nf (n off lo len : Nat) : Nat := n / 2 ^ (8 * off + lo) % 2 ^ len

/-- The entry with a field replaced. -/
def nfPut (n off lo len v : Nat) : Nat := n - nf n off lo len * 2 ^ (8 * off + lo) + v % 2 ^ len * 2 ^ (8 * off + lo)

/-- Node type codes (R310). -/
def tNOP : Nat := 0
/-- PAGE. -/
def tPAGE : Nat := 1
/-- SCORE. -/
def tSCORE : Nat := 2
/-- SELECT. -/
def tSELECT : Nat := 3
/-- PARTIAL. -/
def tPARTIAL : Nat := 4
/-- MERGE. -/
def tMERGE : Nat := 5
/-- REDUCE. -/
def tREDUCE : Nat := 6
/-- COPY. -/
def tCOPY : Nat := 7
/-- FILL. -/
def tFILL : Nat := 8
/-- BUCKET. -/
def tBUCKET : Nat := 9
/-- AWL_PROG. -/
def tPROG : Nat := 0x0A
/-- SIGNAL. -/
def tSIGNAL : Nat := 0x0B

/-- Fields of the node header: byte offset, lowest bit, length. -/
def hdrFields : List (Nat × Nat × Nat) :=
  [(0, 0, 19), (4, 0, 13), (4, 16, 13), (8, 0, 13), (8, 16, 13), (12, 0, 13), (12, 16, 13), (16, 0, 48), (24, 0, 24), (24, 24, 7)]

/-- Fields of a type's parameters. -/
def parFields (ty : Nat) : List (Nat × Nat × Nat) :=
  match ty with
  | 1 => [(0x20, 0, 512), (0x60, 0, 48), (0x68, 0, 1), (0x6C, 0, 13), (0x6C, 15, 1)]
  | 2 => [(0x20, 0, 21), (0x24, 0, 5), (0x24, 8, 1), (0x28, 0, 20), (0x2C, 0, 21), (0x30, 0, 48), (0x38, 0, 48)]
  | 3 => [(0x20, 0, 48), (0x28, 0, 21), (0x2C, 0, 11), (0x2C, 16, 8), (0x30, 0, 8), (0x34, 0, 20), (0x38, 0, 48)]
  | 4 => [(0x20, 0, 21), (0x24, 0, 5), (0x24, 8, 1), (0x28, 0, 48), (0x30, 0, 1), (0x34, 0, 20), (0x38, 0, 21), (0x3C, 0, 32),
      (0x40, 0, 48), (0x48, 0, 48)]
  | 5 => [(0x20, 0, 48), (0x28, 0, 21), (0x2C, 0, 5), (0x2C, 8, 2), (0x2C, 12, 1), (0x30, 0, 48), (0x38, 0, 48)]
  | 6 => [(0x20, 0, 48), (0x28, 0, 48), (0x30, 0, 24), (0x34, 0, 2), (0x34, 8, 16)]
  | 7 => [(0x20, 0, 48), (0x28, 0, 48), (0x30, 0, 24)]
  | 8 => [(0x20, 0, 48), (0x28, 0, 64), (0x30, 0, 24)]
  | 9 => [(0x20, 0, 48), (0x28, 0, 13), (0x28, 16, 4), (0x30, 0, 48)] ++
      ((List.range 8).map fun b => (0x38 + 4 * b, 0, 25)) ++
      ((List.range 8).flatMap fun b => [(0x58 + 4 * b, 0, 13), (0x58 + 4 * b, 16, 13)])
  | 10 => [(0x20, 0, 3), (0x20, 16, 16), (0x28, 0, 48), (0x30, 0, 48), (0x38, 0, 7), (0x3C, 0, 21), (0x3C, 31, 1)]
  | 11 => [(0x20, 0, 48), (0x28, 0, 64), (0x30, 0, 2)]
  | _ => []

/-- Byte offsets of a type's address parameters (R315). -/
def addrFields (ty : Nat) : List Nat :=
  match ty with
  | 1 => [0x60, 0x30]
  | 2 => [0x30, 0x38]
  | 3 => [0x20, 0x38]
  | 4 => [0x28, 0x40, 0x48]
  | 5 => [0x20, 0x30, 0x38]
  | 6 => [0x20, 0x28]
  | 7 => [0x20, 0x28]
  | 8 => [0x20]
  | 9 => [0x20, 0x30]
  | 10 => [0x28, 0x30]
  | 11 => [0x20]
  | _ => []

/-- Byte offset of the context of a type. -/
def ctxField (ty : Nat) : Option Nat :=
  match ty with
  | 1 => some 0x24
  | 2 => some 0x20
  | 4 => some 0x20
  | 10 => some 0x3C
  | _ => none

/-- Type of an entry. -/
def nTy (n : Nat) : Nat := nf n 0 0 8
/-- Class. -/
def nCls (n : Nat) : Nat := nf n 0 8 4
/-- tgt. -/
def nTgt (n : Nat) : Nat := nf n 0x18 24 7

/-- Inline predecessors named. -/
def inlinePred (n : Nat) : List Nat :=
  [nf n 4 0 13, nf n 4 16 13, nf n 8 0 13, nf n 8 16 13].take (nf n 0 16 3)

/-- An a64 field is aligned. -/
def al64 (n off : Nat) : Bool := nf n off 0 6 == 0

/-- Parameter ranges of a type (R311, R318 step 4, R351, R369). -/
def parOk (n : Nat) : Bool :=
  let g := fun (off : Nat) => 1 ≤ nf n off 0 5 && nf n off 0 5 ≤ 16
  match nTy n with
  | 0 => true
  | 1 =>
    let b : Block := BitVec.ofNat 512 (nf n 0x20 0 512)
    let c := callDec b
    !callBad b && al64 n 0x60 && c.addr % 64 == 0 &&
    (if c.op = 2 || c.op = 0x0A || c.op = 0x0B then 1 ≤ c.arg0 && c.arg0 ≤ 4096 else true) &&
    (if c.op = 1 then bits c.arg0 0 4 ≤ 6 && bits c.arg0 4 2 != 3 else true)
  | 2 => g 0x24 && nf n 0x2C 0 21 ≤ 2 ^ 20 && al64 n 0x30 && al64 n 0x38
  | 3 => 1 ≤ nf n 0x28 0 21 && nf n 0x28 0 21 ≤ 2 ^ 20 && 1 ≤ nf n 0x2C 0 11 && nf n 0x2C 0 11 ≤ 1024 && al64 n 0x20 && al64 n 0x38 &&
      nf n 0x34 0 20 + nf n 0x28 0 21 ≤ 2 ^ 20
  | 4 => g 0x24 && nf n 0x38 0 21 ≤ 2 ^ 20 && al64 n 0x28 && al64 n 0x40 && al64 n 0x48 &&
      (let w := nf n 0x3C 0 32; 0 < w && w < 0x7F800000)
  | 5 => g 0x2C && nf n 0x28 0 21 ≤ 2 ^ 20 && nf n 0x2C 8 2 ≤ 2 && al64 n 0x20 && al64 n 0x30 && al64 n 0x38
  | 6 => al64 n 0x20 && al64 n 0x28 && nf n 0x30 0 24 != 0 && (nf n 0x34 1 1 == 0 || nf n 0x34 8 8 ≤ nf n 0x34 16 8)
  | 7 => al64 n 0x20 && al64 n 0x28 && nf n 0x30 0 24 != 0
  | 8 => al64 n 0x20 && nf n 0x30 0 24 != 0
  | 9 =>
    let nb := nf n 0x28 16 4
    let bound := fun (b : Nat) => nf n (0x38 + 4 * b) 0 25
    1 ≤ nf n 0x28 0 13 && nf n 0x28 0 13 ≤ 4096 && 1 ≤ nb && nb ≤ 8 && al64 n 0x20 && al64 n 0x30 &&
    (List.range (nb - 1)).all (fun b => bound b < bound (b + 1)) && (List.range nb).all fun b => nf n (0x58 + 4 * b) 16 13 ≤ 4095
  | 10 => nf n 0x20 1 2 ≤ 2 && nf n 0x38 0 7 ≤ 64 && al64 n 0x28 && al64 n 0x30 &&
      (nf n 0x20 0 1 == 1 || nf n 0x20 16 16 == 0x100 || nf n 0x20 16 16 == 0x101)
  | 11 => nf n 0x20 0 3 == 0
  | _ => false

/-- Check 4 of R318 on one entry, but for its extended list. -/
def nodeOk (n : Nat) : Bool :=
  let ty := nTy n
  let used := ((hdrFields ++ parFields ty).map fun f => nf n f.1 f.2.1 f.2.2 * 2 ^ (8 * f.1 + f.2.1)).sum
  decide (ty ≤ 11) && n == used && nf n 0 16 3 ≤ 4 && nf n 12 0 13 ≤ 4095 && nf n 12 16 13 ≤ 4095 && al64 n 0x10 &&
  (if ty = 3 || ty = 5 || ty = 10 then true else if 6 ≤ ty && ty ≤ 8 then nTgt n < 8 else nTgt n == 0) && parOk n

/-! ### Reading entries -/

/-- The 128-byte entry of node i. -/
def State.nodeEntry (s : State) (x k i : Nat) : Res Nat := do
  let l := s.slot x k
  pure (leNat (← s.paBytes (l.ntab + 128 * i) l.origin 128))

/-- The extended predecessor list of an entry. -/
def State.extPreds (s : State) (x k n : Nat) : Res (List Nat) := do
  let b ← s.paBytes (nf n 0x10 0 48) (s.slot x k).origin (2 * nf n 12 0 13)
  pure ((chunks 2 b (nf n 12 0 13)).map leNat)

/-- Bind substitution: the entry's ctx, and every address raised by item x stride blocks (R315). -/
def substBound (n : Nat) (b : Option (Nat × Nat)) (stride : Nat) : Nat :=
  match b with
  | none => n
  | some (ctx, item) =>
    let n := match ctxField (nTy n) with
      | some o => nfPut n o 0 21 ctx
      | none => n
    (addrFields (nTy n)).foldl (fun n o => nfPut n o 0 48 (nf n o 0 48 + item * stride * 64)) n

/-- The parameters of a dispatch, read and checked again (R320). -/
def State.params (s : State) (x k i : Nat) : Res Nat := do
  let n ← s.nodeEntry x k i
  let nd := s.node x k i
  if !nodeOk n || nTy n != nd.ty then throw (cBAD, dNODE)
  pure (substBound n nd.bound nd.stride)

/-! ### Dispatch (R321, R322) -/

/-- The mover block of sector y starts no node (R395). -/
def State.movStops (s : State) (y : Nat) : Bool :=
  s.isFenced (.movers y) || (UnitId.movers y).path.any fun u => (s.fr u).st == .quiescing || (s.fr u).st == .quiesced ||
    (s.fr u).st == .resetting

/-- A part of the node can leave the engine now: its Awl has room, or there is none to wait for. -/
def State.somePart (s : State) (parts : List PartSt) : Bool :=
  parts.any fun q => q.phys.isNone && q.ended.isNone &&
    (match s.awlFor q.lch with
     | none => true
     | some a => if (s.serving q.lch) = some a then (s.awl a).own < 4 else (s.awl a).carried < 4)

/-- Channels of an AWL_PROG node (R311). -/
def progChans (n : Nat) : List Nat :=
  let t := nTgt n
  match nf n 0x20 1 2 with
  | 0 => [t]
  | 1 => (List.range 4).map (t / 4 * 4 + ·)
  | _ => (List.range 16).map (t / 16 * 16 + ·)

/-- Logical channels of the parts of an Awl node, from its checked parameters (R310). -/
def State.partChans (s : State) (n : Nat) : Res (List Nat) :=
  if nTy n = tSCORE || nTy n = tPARTIAL then do pure (spreadOf (nf n 0x20 0 21) (← s.readRec (nf n 0x20 0 21)))
  else pure (if nTy n = tPROG then progChans n else [nTgt n])

/-- The target of node i has room (R314, R321): an Awl for a part, an idle mover channel, an engine that is awake for a call. A node
that would end at once needs none. -/
def State.nodeRoom (s : State) (x k i : Nat) : Bool :=
  match resGet (s.params x k i) with
  | .error _ => true
  | .ok n =>
    let ty := nTy n
    if ty = tPAGE then (s.callGated (BitVec.ofNat 512 (nf n 0x20 0 512))).isNone
    else if ty = tREDUCE || ty = tCOPY || ty = tFILL then
      let ch := (s.mov (nTgt n)).ch
      s.isFenced (.movers (nTgt n)) || ch.all (fun c => c.st == 2) || (!s.movStops (nTgt n) && ch.any fun c => c.st == 0)
    else if ty = tNOP || ty = tBUCKET || ty = tSIGNAL then true
    else match resGet (s.partChans n) with
    | .error _ => true
    | .ok l => s.somePart (l.map fun c => { part := 0, lch := c })

/-- Node j of slot m goes before node i of slot k: higher prio, then earlier submission, then lower index (R321). -/
def State.goesBefore (s : State) (x m j k i : Nat) : Bool :=
  let a := s.node x m j
  let b := s.node x k i
  let sa := (s.slot x m).seq.toNat
  let sb := (s.slot x k).seq.toNat
  b.prio < a.prio || (a.prio == b.prio && (sa < sb || (sa == sb && j < i)))

/-- The engine has a node, or a part of one, to dispatch before node i of slot k (R321). -/
def State.outranked (s : State) (x k i : Nat) : Bool :=
  (List.range 64).any fun m => (s.slot x m).st.active && (List.range (s.slot x m).nodes.length).any fun j =>
    s.goesBefore x m j k i &&
    (let nd := s.node x m j
     if nd.st = .ready then s.nodeRoom x m j else nd.st == .running && s.somePart nd.parts)

/-- Node i of slot k is READY, of type ty, in a Harness that runs on a working engine, and next to be dispatched (R321). -/
def State.readyNode (s : State) (x k i ty : Nat) : Bool :=
  x < 8 && k < 64 && !s.paused x && !s.engLost x && (s.slot x k).st.active && i < (s.slot x k).nodes.length &&
  (s.node x k i).st == .ready && (s.node x k i).ty == ty && !s.outranked x k i

/-- The checks of an engine run at a dispatch: an armed source fires (R341, R405). Whether the engine is still in service. -/
def State.engCheck (s : State) (x : Nat) : Bool × State :=
  let s := (s.check (.harness x) 0 false).check (.harness x) 1 false
  (!s.engLost x, s)

/-- The node is RUNNING, and its reader epoch is taken (R327). -/
def State.runNode (s : State) (x k i : Nat) : State :=
  let nd := s.node x k i
  let rd := nd.ty == 2 || nd.ty == 4 || nd.ty == 10
  s.onNode x k i fun n => { n with st := .running, epoch := if rd then some s.pd.epoch else none }

/-- The entry of a dispatched node is written (R323): it shows the parts sent so far. A node that has ended has its final entry. -/
def State.noteSent (s : State) (x k i : Nat) : State :=
  if (s.node x k i).st == .running then s.writeEntry x k i else s

/-- The node is RUNNING; its entry is written (R323). -/
def State.startNode (s : State) (x k i : Nat) : State := (s.runNode x k i).writeEntry x k i

/-- A node that does not go to Awls is dispatched as one part. -/
def State.startOne (s : State) (x k i : Nat) : State :=
  let s := s.onNode x k i fun n => { n with disp := 1 }
  (s.startNode x k i).count (.harness x) 0x03 (some (s.node x k i).cls) 1 (fields [(k, 0), (i, 16)])

/-- Dispatch a READY node that the engine, the page service or a mover runs: `run` gets the checked parameters. -/
def State.dispatchOne (s : State) (x k i ty : Nat) (run : State → Nat → State) : State :=
  if !s.readyNode x k i ty then s
  else s.agent (ownHar x) (s.node x k i).cls fun s =>
    match s.engCheck x with
    | (false, s) => s
    | (true, s) =>
      let s := s.startOne x k i
      match s.ask (s.params x k i) with
      | (.error (c, d), s) => s.endNode x k i .failed c d
      | (.ok n, s) => run (s.onNode x k i fun nd => { nd with par := BitVec.ofNat 1024 n }) n

/-- The part template of an Awl node (R321, R365). -/
def State.template (s : State) (x k i : Nat) : Part :=
  let nd := s.node x k i
  let n := nd.par.toNat
  let prog := nd.ty == 10
  { sec := x, slot := k, node := i, parts := nd.parts.length, ty := nd.ty, cls := nd.cls, origin := (s.slot x k).origin
    kind := if prog then nf n 0x20 0 1 else 0
    routine := if prog then nf n 0x20 16 16 else nd.ty - 1
    prog := nf n 0x28 0 48, args := nf n 0x30 0 48, argLen := if prog then nf n 0x38 0 7 else 0
    ctx := if prog && nf n 0x3C 31 1 == 1 then some (nf n 0x3C 0 21) else none }

/-- Dispatch an Awl node: `prep` makes the node's parts and what it reads at dispatch, from the checked parameters; parts go as
their Awls have room, and the command given again sends those that waited (R321). -/
def State.dispatchParts (s : State) (x k i ty : Nat) (prep : State → Nat → Res (List Nat × Block × List (Nat × Nat) × List (Nat × BitVec 4 × Nat))) :
    State :=
  let nd := s.node x k i
  if s.readyNode x k i ty then s.agent (ownHar x) nd.cls fun s =>
    match s.engCheck x with
    | (false, s) => s
    | (true, s0) =>
      match s0.ask (do let n ← s0.params x k i; pure (n, ← prep s0 n) : Res (Nat × List Nat × Block × List (Nat × Nat) × List (Nat × BitVec 4 × Nat))) with
      | (.error (c, d), s) => (s.startNode x k i).endNode x k i .failed c d
      | (.ok (n, chans, recb, snap, err), s) =>
        let parts : List PartSt := chans.zipIdx.map fun (l, j) => { part := j, lch := l }
        if !s.somePart parts then s0
        else
          let s := s.onNode x k i fun q =>
            { q with par := BitVec.ofNat 1024 n, parts := parts, recb := recb, snap := snap, snapErr := err }
          let s := s.runNode x k i
          (s.sendParts x k i (s.template x k i)).noteSent x k i
  else if x < 8 && k < 64 && !s.paused x && !s.engLost x && nd.st == .running && nd.ty == ty && s.somePart nd.parts && !s.outranked x k i then
    (s.sendParts x k i (s.template x k i)).noteSent x k i
  else s

/-- What a fan-out node reads at dispatch: the record, the range check, and the frames of the context's committed pages (R312,
R342). -/
def State.fanOut (s : State) (ctx first count : Nat) (ranged : Bool) : Res (List Nat × Block × List (Nat × Nat) × List (Nat × BitVec 4 × Nat)) := do
  let b ← s.blkRes (s.recAt ctx) 0
  let r ← s.readRec ctx
  if r.state != 1 then throw (cBAD, dCTX)
  let n := ceilDiv r.committed r.t
  if ranged && (n < first || (count != 0 && n < first + count)) then throw (cBAD, dRANGE)
  let pages ← (List.range n).mapM fun p => (do pure (p, ← resTry (s.mapped r p)) : Res (Nat × Except (BitVec 4 × Nat) Nat))
  let ok := pages.filterMap fun (p, f) => match f with
    | .ok f => some (p, f)
    | .error _ => none
  let err := pages.filterMap fun (p, f) => match f with
    | .ok _ => none
    | .error e => some (p, e)
  pure (spreadOf ctx r, b, ok, err)

end Sys2Proof.Machine
end

