-- ==== Sys2Proof/Machine/Parts.lean ====
section
/-! DEFINITION. Parts at an Awl: their start, the loading of a program, traps, and their end (R365-R370, R381, R383, R393). -/

namespace Sys2Proof.Machine

/-! ### CRC-32 (R10) -/

/-- One bit of the reflected CRC-32. -/
def crc32Bit (c : Nat) : Nat := if c % 2 = 1 then (c / 2) ^^^ 0xEDB88320 else c / 2
/-- One byte. -/
def crc32Byte (c b : Nat) : Nat :=
  crc32Bit (crc32Bit (crc32Bit (crc32Bit (crc32Bit (crc32Bit (crc32Bit (crc32Bit (c ^^^ b))))))))
/-- CRC-32 of bytes: polynomial 0x04C11DB7, reflected, initial value and final XOR all ones. -/
def crc32 (l : List Byte) : Word := BitVec.ofNat 32 ((l.foldl (fun c b => crc32Byte c b.toNat) 0xFFFFFFFF) ^^^ 0xFFFFFFFF)

/-! ### Traps and ends (R368, R381) -/

/-- Trap causes (R381). -/
def trapOf (data : Bool) (code : BitVec 4) : Nat := if code = cPOISON then (if data then 3 else 1) else if data then 4 else 2

/-- Code of a failed read or store as a part sees it. -/
def isData (code : BitVec 4) : Bool := code == cPOISON || code == cFENCED

/-- The part at Awl p will end with a code once its memory operations are done (R368). -/
def State.ending (s : State) (p : Nat) (code : BitVec 4) (detail : Nat) : State :=
  s.onAwl p fun a => { a with ending := some (code, detail), st := .ending }

/-- A trap ends the part at Awl p and is recorded (R381, R383). -/
def State.trap (s : State) (p cause : Nat) (code : BitVec 4) (pc addr : Nat) : State :=
  match (s.awl p).part with
  | none => s
  | some q =>
    let s := s.onAwl p fun a => { a with
      trapCause := BitVec.ofNat 4 cause, trapCode := code, trapValid := true, trapPc := BitVec.ofNat 15 pc
      trapAddr := BitVec.ofNat 48 addr, trapTime := s.mgmt.elapsed
      trapNode := fields [(q.node, 0), (q.slot, 16), (q.sec, 24), (q.part, 28)]
      traps := satAdd a.traps 1, trapEv := true }
    (s.ending p code 0).countAwl p 8

/-- The part at Awl p has ended with its code: it is reported to its engine (R323, R368). -/
def State.reportPart (s : State) (p : Nat) (code : BitVec 4) (detail : Nat) : State :=
  match (s.awl p).part with
  | none => s
  | some q =>
    let s := s.countAwl p 7 (some q.cls)
    let s := s.onAwl p fun a => { a with st := .idle, part := none, ending := none, memq := [], parts := satAdd a.parts 1 }
    s.partEnded q.sec q.slot q.node q.part code detail

/-! ### Start (R365-R367, R370, R393) -/

/-- The routine identifier of a kind-0 or fixed part (R369). -/
def Part.rid (q : Part) : Nat := if q.ty = 10 then q.routine else q.ty - 1

/-- The patch that replaces the routine of a part. -/
def Awl.patchOf (a : Awl) (q : Part) : Option Patch := if q.kind = 1 then none else a.patches.find? fun t => t.routine == q.rid

/-- The code the running part's instructions come from: the resident image, or its routine's patch. -/
def Awl.words (a : Awl) : List Word :=
  match a.part with
  | none => []
  | some q => if q.kind = 1 then a.code else ((a.patchOf q).map (·.code)).getD []

/-- The running part is a loaded program or a patched routine: it runs by instructions. -/
def Awl.byCode (a : Awl) : Bool :=
  match a.part with
  | none => false
  | some q => q.kind = 1 || (a.patchOf q).isSome

/-- Write bytes into scratch. -/
def scrWrite (m : SMap Byte) (a : Nat) : List Byte → SMap Byte
  | [] => m
  | b :: l => scrWrite (smSet 0 m a b) (a + 1) l

/-- Read n bytes of scratch. -/
def scrRead (m : SMap Byte) (a n : Nat) : List Byte := (List.range n).map fun i => smGet 0 m (a + i)

/-- Set a scalar register; s0 stays zero (R362). -/
def setS (l : List Dword) (i : Nat) (v : Dword) : List Dword := if i = 0 then l else upd l i fun _ => v

/-- The next part of Awl p: the two queues alternate while both hold parts (R393); and whether it is carried. -/
def Awl.nextPart (a : Awl) : Option (Part × Bool × Awl) :=
  match a.waitQ, a.carryQ with
  | [], [] => none
  | q :: l, [] => some (q, false, { a with waitQ := l })
  | [], q :: l => some (q, true, { a with carryQ := l })
  | q :: l, r :: m => if a.lastCarry then some (q, false, { a with waitQ := l }) else some (r, true, { a with carryQ := m })

/-- No part starts at Awl p: it, or a group above it, is not RUNNING (R395, R397), or its clock is gated. -/
def State.awlStops (s : State) (p : Nat) : Bool :=
  (UnitId.awl p).path.any (fun u => (s.fr u).st != .running) || s.safe.on ||
  s.seq.therm == .stopping || s.seq.therm == .stopped || s.seq.therm == .emergency

/-- Step 4 of R365: the image header and the code, from memory or resident (R366, R367). -/
def State.loadImage (s : State) (p : Nat) (q : Part) : State :=
  match s.ask (s.paBytes q.prog q.origin 64) with
  | (.error (c, _), s) => if isData c then s.trap p (trapOf false c) c 0 q.prog else s.trap p 8 cBAD 0 q.prog
  | (.ok h, s) =>
    let w := fun (o : Nat) => leNat ((h.drop o).take 4)
    let len := w 8
    if w 0 != 0x504C5741 || w 4 != 1 || len < 4 || 32768 < len || len % 4 != 0 || len ≤ w 12 || w 12 % 4 != 0 ||
        (h.drop 0x14).any (· != 0) then s.trap p 0xE cBAD 0 q.prog
    else
      let a := s.awl p
      let go := fun (s : State) => s.onAwl p fun a => { a with pc := w 12, st := .running }
      if a.resident && a.imgAddr.toNat == q.prog && a.imgLen.toNat == len && a.imgCrc.toNat == w 16 then go s
      else
        -- an armed ICACHE_PAR fails the load; it repeats once (R384)
        let (hit, s) := s.fire (.awl p) 0 false
        let s := if hit then s.report (.awl p) 0 else s
        match s.ask (s.paBytes (q.prog + 64) q.origin len) with
        | (.error (c, _), s) =>
          let s := s.onAwl p fun a => { a with resident := false }
          if isData c then s.trap p (trapOf false c) c 0 (q.prog + 64) else s.trap p 8 cBAD 0 (q.prog + 64)
        | (.ok code, s) =>
          if crc32 code != BitVec.ofNat 32 (w 16) then (s.onAwl p fun a => { a with resident := false }).trap p 0xE cBAD 0 q.prog
          else go (s.onAwl p fun a => { a with
            resident := true, imgAddr := BitVec.ofNat 48 q.prog, imgLen := BitVec.ofNat 16 len, imgCrc := BitVec.ofNat 32 (w 16)
            code := (chunks 4 code (len / 4)).map fun b => BitVec.ofNat 32 (leNat b), loads := satAdd a.loads 1 })

/-- Steps 2 to 5 of R365 for a part of an AWL_PROG node, and R370 for a patched routine. -/
def State.startPart (s : State) (p : Nat) (q : Part) : State :=
  let nd := s.node q.sec q.slot q.node
  let patched := ((s.awl p).patchOf q).isSome
  -- step 2: arguments; a patched routine gets its node's entry
  let args : Res (List Byte) := if patched then pure (leBytes nd.par.toNat 128) else s.paBytes q.args q.origin (64 * q.argLen)
  match s.ask args with
  | (.error (c, _), s) => if isData c then s.trap p (trapOf true c) c 0 q.args else s.trap p 8 cBAD 0 q.args
  | (.ok bs, s) =>
    let s := s.onAwl p fun a => { a with scr := scrWrite [] 0 bs }
    -- step 3: the context record
    let ctx : Option Nat := if patched && q.ty != 10 then (ctxField q.ty).map fun o => nf nd.par.toNat o 0 21 else q.ctx
    let rec' : Res (Option (Block × PRec)) := match ctx with
      | none => pure none
      | some x => (do
        let b ← s.blkRes (s.recAt x) 0
        let r ← s.readRec x
        pure (some (b, r)) : Res (Option (Block × PRec)))
    match s.ask rec' with
    | (.error (c, _), s) => if isData c then s.trap p (trapOf true c) c 0 (s.recAt (ctx.getD 0)) else s.ending p c 0
    | (.ok r, s) =>
      if (r.map fun e => e.2.state != 1).getD false then s.ending p cBAD dCTX
      else
        let recb := (r.map (·.1)).getD 0
        let w := fun (n : Nat) => BitVec.ofNat 64 n
        let regs : List (Nat × Dword) :=
          [(1, w q.part), (2, w q.parts), (3, w (if patched then 128 else 64 * q.argLen)),
           (4, match ctx with | some x => w x | none => BitVec.allOnes 64),
           (5, w ((r.map fun e => e.2.committed).getD 0)), (6, w (blkGet recb 0 4)), (7, w ((r.map fun e => e.2.t).getD 0)),
           (8, w q.lch), (9, w q.cls)]
        let s := s.onAwl p fun a => { a with
          part := some { q with recb := recb, ctx := ctx }
          sreg := regs.foldl (fun l e => setS l e.1 e.2) (List.replicate 32 0) }
        if q.kind = 1 then s.loadImage p q else s.onAwl p fun a => { a with pc := 0, st := .running }

/-- PART_ENTRY: the next part of Awl p starts (R362, R365, R370, R393). -/
def State.enterPart (s : State) (p : Nat) : State :=
  if s.awlStops p || (s.awl p).part.isSome then s
  else
    match (s.awl p).nextPart with
    | none => s
    | some (q, carried, a') => s.agent (ownAwl p) q.cls fun s =>
      let s := s.onAwl p fun _ => { a' with
        part := some q, lastCarry := carried, st := .running, kind := q.kind
        routine := if q.kind = 1 then a'.routine else BitVec.ofNat 16 q.rid
        sreg := List.replicate 32 0, vreg := List.replicate 16 0, scr := [], xlat := [], memq := [], cycle := 0, pc := 0, ending := none }
      let s := s.countAwl p 5
      if q.ty = 10 || (a'.patchOf q).isSome then s.startPart p q else s

end Sys2Proof.Machine
end

