-- ==== Sys2Proof/Machine/Attention.lean ====
section
/-! DEFINITION. The fixed routines: what SCORE, SELECT, PARTIAL and MERGE parts and the IDENT and CONVERT routines write, bit for
bit (R312, R342-R357, R369). -/

namespace Sys2Proof.Machine

/-! ### Reading and writing arrays -/

/-- A step that reads or writes memory: its answer, and the state. -/
abbrev SM (α : Type) : Type := ExceptT (BitVec 4 × Nat) (StateM State) α

/-- A read. -/
def sRead {α : Type} (f : State → Res α) : SM α := do
  let s ← get
  match s.ask (f s) with
  | (r, s) =>
    set s
    match r with
    | .ok a => pure a
    | .error e => throw e

/-- Write bytes from a port address on, block by block. -/
def sPut (a origin : Nat) (bs : List Byte) : SM Unit := do
  let head := min bs.length (64 - a % 64)
  let put := fun (a : Nat) (l : List Byte) => (do
    match (← get).paPatch a origin l with
    | (c, s) => if c = cOK then set s else throw (c, 0) : SM Unit)
  if bs.isEmpty then pure ()
  else do
    put a (bs.take head)
    let rest := bs.drop head
    (List.range (ceilDiv rest.length 64)).forM fun i => put (a + head + 64 * i) ((rest.drop (64 * i)).take 64)

/-- n little-endian words at a port address. -/
def readWords (a origin n : Nat) : SM (List Word) := do
  let b ← sRead fun s => s.paBytes a origin (4 * n)
  pure ((chunks 4 b n).map fun w => BitVec.ofNat 32 (leNat w))

/-- The bytes of fp32 words. -/
def wordBytes (l : List Word) : List Byte := l.flatMap fun w => leBytes w.toNat 4

/-- The query rows of a SCORE or PARTIAL node (R344). -/
def readQuery (a origin g d fmt : Nat) : SM (List (List Word)) := do
  if fmt = 1 then do
    let l ← readWords a origin (g * d)
    pure (chunks d l g)
  else do
    let b ← sRead fun s => s.paBytes a origin (2 * g * d)
    pure (chunks d ((chunks 2 b (g * d)).map fun w => BitVec.ofNat 32 (leNat w * 65536)) g)

/-- A page is touched: its last_use (R270). -/
def touchPage (f : Nat) (h : PHdr) : SM Unit := do
  let s ← get
  let h' := touched h s.nowMs
  if h'.last != h.last then
    match s.paWrite (s.hdrAt f) 0 (hdrEnc h') with
    | (c, s) => if c = cOK then set s else throw (c, 0)

/-- ATT_NAN advances (R361). -/
def noteNan (p n : Nat) : SM Unit :=
  if n = 0 then pure () else modify fun s => s.onAwl p fun a => { a with attNan := satAdd a.attNan n, attEv := a.attEv ||| 1 }

/-- ATT_EMPTY advances. -/
def noteEmpty (p n : Nat) : SM Unit :=
  if n = 0 then pure () else modify fun s => s.onAwl p fun a => { a with attEmpty := satAdd a.attEmpty n, attEv := a.attEv ||| 2 }

/-- A page scored or attended: the node's progress, and its multiply-accumulates (R319, R358, R361). -/
def notePage (p : Nat) (q : Part) (mac : Nat) : SM Unit :=
  modify fun s =>
    let s := s.onNode q.sec q.slot q.node fun n => { n with prog := n.prog + 1 }
    (s.onAwl p fun a => { a with attPages := satAdd a.attPages 1 }).countAwl p 2 none mac

/-- The word is -infinity. -/
def negInf : Word := 0xFF800000

/-! ### SCORE (R349, R350) -/

/-- The score of a page: the largest dot product over the heads, NaN where any is. -/
def scoreOf (q : List (List Word)) (sm : List Word) : Word :=
  let ds := q.map fun r => dot32 r sm
  if ds.any isNan32 then nan32
  else match ds with
    | [] => 0
    | x :: l => l.foldl (fun m v => if fLt (dec32 m) (dec32 v) then v else m) x

/-- The decoded summary of a page (R343). -/
def State.summaryOf (s : State) (h : PHdr) (dim : Nat) : Res (List Word) := do
  let lo := (h.summ.take (headDim dim)).map fun b => enc32 (fDec e4m3 b.toNat)
  if dim = 2 then do
    let hi ← s.frameBytes (bits h.aux 0 24) (blkOff h.aux) 128
    pure (lo ++ hi.map fun b => enc32 (fDec e4m3 b.toNat))
  else pure lo

/-- A page that a part reads stands in a table entry that cannot be read, or is malformed: the part ends with its code (R350, R354).
Which part an entry without a readable frame belongs to is open: every part meets it (log 13). -/
def noSnapErr (nd : Node) (mine : Nat → Bool) : SM Unit :=
  match nd.snapErr.find? fun e => mine e.1 with
  | some e => throw e.2
  | none => pure ()

/-- The header of a page of a context, its fmt and dim as in the record (R270, R272). -/
def State.readPageAs (s : State) (f : Nat) (r : PRec) : Res PHdr := do
  let h := { (← s.readPage f) with fmt := r.fmt, dim := r.dim }
  if s.auxOk f h then pure h else throw (cBAD, dTABLE)

/-- A SCORE part. -/
def scorePart (p : Nat) (q : Part) : SM Unit := do
  let s ← get
  let nd := s.node q.sec q.slot q.node
  let n := nd.par.toNat
  let r := (recDec nd.recb).getD default
  let first := nf n 0x28 0 20
  let cnt := if nf n 0x2C 0 21 = 0 then ceilDiv r.committed r.t - first else nf n 0x2C 0 21
  noSnapErr nd fun pg => decide (first ≤ pg) && decide (pg < first + cnt)
  let rows ← readQuery (nf n 0x30 0 48) q.origin (nf n 0x24 0 5) (headDim r.dim) (nf n 0x24 8 1)
  (nd.snap.filter fun e => first ≤ e.1 && e.1 < first + cnt && s.frameCh e.2 == q.lch).forM fun (pg, f) => do
    let h ← sRead fun s => s.readPageAs f r
    let sm ← sRead fun s => s.summaryOf h r.dim
    let v := scoreOf rows sm
    sPut (nf n 0x38 0 48 + 4 * (pg - first)) q.origin (leBytes v.toNat 4)
    touchPage f h
    notePage p q (nf n 0x24 0 5 * headDim r.dim)
    noteNan p (b2n (isNan32 v))

/-! ### SELECT (R351) -/

/-- a ranks before b: NaN below every number, equal scores by lower entry. -/
def ranks (a b : Nat × Word) : Bool :=
  if isNan32 a.2 then isNan32 b.2 && a.1 ≤ b.1
  else if isNan32 b.2 then true
  else fLt (dec32 b.2) (dec32 a.2) || (!fLt (dec32 a.2) (dec32 b.2) && a.1 ≤ b.1)

/-- The entries a SELECT takes, ascending. -/
def selected (sc : List Word) (k anchors recent : Nat) : List Nat :=
  let n := sc.length
  let always := fun (i : Nat) => decide (i < min anchors n) || decide (n - recent ≤ i)
  let rest := sorted (((List.range n).zip sc).filter fun e => !always e.1) ranks
  let top := (rest.take k).map (·.1)
  (List.range n).filter fun i => always i || top.contains i

/-- A SELECT part. -/
def selectPart (q : Part) : SM Unit := do
  let n := ((← get).node q.sec q.slot q.node).par.toNat
  let sc ← readWords (nf n 0x20 0 48) q.origin (nf n 0x28 0 21)
  let l := selected sc (nf n 0x2C 0 11) (nf n 0x2C 16 8) (nf n 0x30 0 8)
  sPut (nf n 0x38 0 48) q.origin
    (leBytes l.length 64 ++ l.flatMap fun i => leBytes (nf n 0x34 0 20 + i) 4)
  modify fun s => s.onNode q.sec q.slot q.node fun nd => { nd with prog := l.length }

/-! ### PARTIAL (R352-R354) -/

/-- A record: m, l, o. -/
structure Rec where
  m : Word
  l : Word
  o : List Word
deriving DecidableEq, Repr, Inhabited

/-- Bytes of a record (R312). -/
def recSize (d : Nat) : Nat := 64 * ceilDiv (8 + 4 * d) 64

/-- The record of a page and a head: scores s, value rows v. -/
def partialRec (d : Nat) (s : List Word) (v : List (List Word)) : Rec :=
  let m := match s with
    | [] => negInf
    | x :: l => l.foldl (fun m x => if fLt (dec32 m) (dec32 x) then x else m) x
  if s.any isNan32 || m = 0x7F800000 then ⟨nan32, nan32, List.replicate d nan32⟩
  else if m = negInf then ⟨negInf, 0, List.replicate d 0⟩
  else
    let r := (s.zip v).foldl (fun (a : Word × List Word) e =>
      let w := exp32 (sub32 e.1 m)
      (add32 a.1 w, List.zipWith (fun x o => fma32 w x o) e.2 a.2)) (0, List.replicate d 0)
    ⟨m, r.1, r.2⟩

/-- The bytes of a record. -/
def Rec.bytes (r : Rec) (d : Nat) : List Byte :=
  let b := wordBytes (r.m :: r.l :: r.o)
  b ++ List.replicate (recSize d - b.length) 0

/-- The pages a PARTIAL node selects, in order. -/
def partialPages (n : Nat) (q : Part) (r : PRec) : SM (List Nat) := do
  if nf n 0x30 0 1 = 1 then do
    let c ← readWords (nf n 0x28 0 48) q.origin 1
    let l ← readWords (nf n 0x28 0 48 + 64) q.origin (c.headD 0).toNat
    pure (l.map fun w => bits w.toNat 0 20)
  else
    let first := nf n 0x34 0 20
    let cnt := if nf n 0x38 0 21 = 0 then ceilDiv r.committed r.t - first else nf n 0x38 0 21
    pure ((List.range cnt).map (first + ·))

/-- A PARTIAL part. -/
def partialPart (p : Nat) (q : Part) : SM Unit := do
  let s ← get
  let nd := s.node q.sec q.slot q.node
  let n := nd.par.toNat
  let r := (recDec nd.recb).getD default
  let g := nf n 0x24 0 5
  let d := headDim r.dim
  let rows ← readQuery (nf n 0x40 0 48) q.origin g d (nf n 0x24 8 1)
  let sel ← partialPages n q r
  if sel.any fun pg => ceilDiv r.committed r.t ≤ pg then throw (cBAD, dRANGE)
  noSnapErr nd fun pg => sel.contains pg
  let scale : Word := BitVec.ofNat 32 (nf n 0x3C 0 32)
  (sel.zipIdx).forM fun (pg, i) =>
    match (nd.snap.find? fun e => e.1 == pg).map (·.2) with
    | none => throw (cBAD, dTABLE)
    | some f => do
      if s.frameCh f = q.lch then
        let h ← sRead fun s => s.readPageAs f r
        let t := min r.t (r.committed - pg * r.t)
        let ks ← (List.range t).mapM fun j => sRead fun s => s.pageRow f h false j
        let vs ← (List.range t).mapM fun j => sRead fun s => s.pageRow f h true j
        (rows.zipIdx).forM fun (qr, hd) => do
          let rc := partialRec d (ks.map fun k => mul32 scale (dot32 qr k)) vs
          sPut (nf n 0x48 0 48 + (i * g + hd) * recSize d) q.origin (rc.bytes d)
          noteNan p (b2n (isNan32 rc.m))
        touchPage f h
        notePage p q (2 * t * d * g)

/-! ### MERGE (R355, R356) -/

/-- combine(a, b) (R355). -/
def combine (a b : Rec) : Rec :=
  let d := a.o.length
  if isNan32 a.m || isNan32 b.m then ⟨nan32, nan32, List.replicate d nan32⟩
  else
    let m := max32 a.m b.m
    if m = negInf then ⟨negInf, 0, List.replicate d 0⟩
    else
      let ea := exp32 (sub32 a.m m)
      let eb := exp32 (sub32 b.m m)
      ⟨m, fma32 a.l ea (mul32 b.l eb), List.zipWith (fun x y => fma32 x ea (mul32 y eb)) a.o b.o⟩

/-- One level of the merge tree. -/
def mergeLevel : List Rec → List Rec
  | a :: b :: l => combine a b :: mergeLevel l
  | l => l

/-- merge (R356): levels until one record is left. -/
def mergeTree : Nat → List Rec → Option Rec
  | _, [] => none
  | _, [r] => some r
  | 0, _ => none
  | k + 1, l => mergeTree k (mergeLevel l)

/-- The output row of a merged record: its values, whether it is empty (R356). -/
def mergeRow (d : Nat) (r : Option Rec) : List Word × Bool :=
  match r with
  | none => (List.replicate d 0, true)
  | some r => if r.l = 0 then (List.replicate d 0, true) else (r.o.map fun x => div32 x r.l, false)

/-- A MERGE part. -/
def mergePart (p : Nat) (q : Part) : SM Unit := do
  let n := ((← get).node q.sec q.slot q.node).par.toNat
  let g := nf n 0x2C 0 5
  let d := headDim (nf n 0x2C 8 2)
  let z := recSize d
  let cnt ← (if nf n 0x28 0 21 = 0 then do
      let c ← readWords (nf n 0x30 0 48) q.origin 1
      pure (c.headD 0).toNat
    else pure (nf n 0x28 0 21) : SM Nat)
  (List.range g).forM fun hd => do
    let rs ← (List.range cnt).mapM fun i => (do
      let w ← readWords (nf n 0x20 0 48 + (i * g + hd) * z) q.origin (2 + d)
      pure (⟨w.getD 0 0, w.getD 1 0, w.drop 2⟩ : Rec) : SM Rec)
    let (row, empty) := mergeRow d (mergeTree (rs.length + 1) rs)
    if nf n 0x2C 12 1 = 1 then
      sPut (nf n 0x38 0 48 + hd * d * 2) q.origin (row.flatMap fun w => leBytes (toB w) 2)
    else sPut (nf n 0x38 0 48 + hd * d * 4) q.origin (wordBytes row)
    noteEmpty p (b2n empty)
    noteNan p (b2n (row.any isNan32))

/-! ### IDENT and CONVERT (R369) -/

/-- Marks of a part that ends for its arguments, or for a misaligned address; no detail codes of R329. -/
def badArgs : Nat := 0x100
/-- The MISALIGN trap. -/
def misaligned : Nat := 0x101

/-- The address that an IDENT part writes to: argument bytes 0-7 (R369). -/
def State.identAddr (s : State) (p : Nat) : Nat := leNat (scrRead (s.awl p).scr 0 8)

/-- An IDENT part: the identity block. -/
def identPart (p : Nat) (q : Part) : SM Unit := do
  let s ← get
  let a := s.identAddr p
  let b := [BitVec.ofNat 8 p, BitVec.ofNat 8 q.lch, 1, BitVec.ofNat 8 q.part] ++ leBytes s.build.toNat 4
  if a % 64 != 0 then throw (cBAD, misaligned)
  sPut a q.lch (b ++ List.replicate 56 0)

/-- Bytes of n elements of a fmt code. -/
def elemBytes (fmt n : Nat) : Nat := n * fmtBits fmt / 8

/-- Element codes of packed bytes (R271, R372). -/
def elemCodes (fmt : Nat) (bs : List Byte) : List Nat :=
  let z := fmtBits fmt
  if z = 4 then bs.flatMap fun b => [b.toNat % 16, b.toNat / 16] else (chunks (z / 8) bs (bs.length / (z / 8))).map leNat

/-- Packed bytes of element codes. -/
def elemPack (fmt : Nat) (cs : List Nat) : List Byte :=
  let z := fmtBits fmt
  if z = 4 then (chunks 2 cs (cs.length / 2)).map fun e => BitVec.ofNat 8 (e.headD 0 % 16 + 16 * e.getD 1 0)
  else cs.flatMap fun c => leBytes c (z / 8)

/-- A CONVERT part: its share of the elements, decoded under R343 and encoded under R377. -/
def convertPart (p : Nat) (q : Part) : SM Unit := do
  let s ← get
  let bs := scrRead (s.awl p).scr 0 28
  let rd := fun (o k : Nat) => leNat ((bs.drop o).take k)
  let src := rd 0 8
  let dst := rd 8 8
  let cnt := rd 16 4
  let sf := rd 20 1
  let df := rd 21 1
  let scale := BitVec.ofNat 32 (rd 24 4)
  if 7 ≤ sf || 7 ≤ df || cnt % 1024 != 0 || 2 ^ 24 < cnt then throw (cBAD, badArgs)
  if src % 64 != 0 || dst % 64 != 0 then throw (cBAD, misaligned)
  let lo := q.part * cnt / q.parts
  let hi := (q.part + 1) * cnt / q.parts
  (List.range ((hi - lo) / 64)).forM fun i => do
    let e0 := lo + 64 * i
    let b ← sRead fun s => do
      let blk := (src + elemBytes sf e0) / 64 * 64
      let l ← s.paBytes blk q.lch ((src + elemBytes sf e0) % 64 + elemBytes sf 64)
      pure ((l.drop ((src + elemBytes sf e0) % 64)).take (elemBytes sf 64))
    let out := (elemCodes sf b).map fun c =>
      let v := elemDec sf c
      elemEnc df (dec32 (enc32 (if sf = 5 then fMul v (dec32 scale) else v)))
    sPut (dst + elemBytes df e0) q.lch (elemPack df out)

/-! ### Running a fixed routine to its end -/

/-- A fixed part runs whole: it ends OK, or with the code of the access that failed; a failed data access is a trap (R240, R368,
R381), whose place in the routine the spec leaves open (log 6), and so the address concerned where `at_` does not give it. -/
def State.runFixed (s : State) (p : Nat) (m : SM Unit) (at_ : Option Nat := none) : State :=
  match m.run.run s with
  | (.ok _, s) => s.ending p cOK 0
  | (.error (c, d), s) =>
    let trap := fun (cause : Nat) =>
      let (pc, s) := s.takeFree
      match at_ with
      | some a => s.trap p cause c pc.toNat a
      | none =>
        let (ad, s) := s.takeFree
        s.trap p cause c pc.toNat ad.toNat
    if isData c then trap (trapOf true c)
    else if d = misaligned then trap 6
    else if d = badArgs then s.ending p c 0
    else if c = cBAD && d = 0 then trap 8
    else s.ending p c d

end Sys2Proof.Machine
end

