-- ==== Sys2Proof/Machine/Calls.lean ====
section
/-! DEFINITION. The page operations as commands: a PAGE_CALL beat at a port, or a PAGE node of a Harness (R85, R281, R313). -/

namespace Sys2Proof.Machine

/-- A PAGE_CALL beat is this row's command: it names the row's operation, or none that exists. -/
def callIs (op : Nat) (b : Block) : Bool :=
  let o := blkGet b 0 1
  o == op || o == 0 || 0x0B < o

/-- An accepted page call runs; its answer goes out when its channel work is done (R125). -/
def State.runCall (s : State) (n uid cls pick : Nat) (b : Block) : State :=
  let s := s.onReq n uid fun q => { q with eng := s.executor ((callDec b).ctx / 262144) }
  let s := s.agent (ownCall n) cls (uid := some uid) fun s =>
    match s.pageCall n cls (s.portLch n) pick b with
    | ((code, _, r), s) => s.onReq n uid fun q => { q with res := some (code, r) }
  if s.jobs.any fun j => j.own == ownCall n && j.uid == uid then s else s.release n uid

/-- A PAGE_CALL at a port (R85, R281, R294): the port is the owner, its logical channel the origin. It is not accepted while its
engine's island wakes, or while a channel it reaches is shut (R16, R17; log 13). -/
def State.portCall (s : State) (n op pick : Nat) (h : WHdr) (b : Beat) : State :=
  if !callIs op b.data then s
  else
    let s := s.onPort n fun q => { q with callTo := none }
    let runs := s.wqReady n && s.freeToOffer n h.cls.toNat true (2 ^ 42) && !s.tagUsed n h.tag.toNat && !s.hdrBad (s.portLch n) opPage h &&
      !s.allFenced n && chkOk h.chkEn b && (b.last || h.len == 0)
    match (if runs then s.callGated b.data else none) with
    | some y => (s.offer n h.cls.toNat true (2 ^ 42)).onPort n fun q => { q with callTo := some y }
    | none =>
      if runs && ((s.pageCall n h.cls.toNat (s.portLch n) pick b.data).2.acc.any fun a => s.shutAt a.lch) then
        s.offer n h.cls.toNat true (2 ^ 42)
      else s.first n opPage h b fun s uid => s.runCall n uid h.cls.toNat pick b.data

/-- The call block of a PAGE node: with gen_en, lock_gen is that of node gen_src's result (R313). -/
def State.nodeCall (s : State) (x k n : Nat) : Res Block :=
  let b := nf n 0x20 0 512
  if nf n 0x6C 15 1 = 0 then pure (BitVec.ofNat 512 b)
  else do
    let g := s.node x k (nf n 0x6C 0 13)
    let r ← s.blkRes (nf g.par.toNat 0x60 0 48) (s.slot x k).origin
    pure (BitVec.ofNat 512 (nfPut b 0 16 16 (bits (blkGet r 16 8) 32 16)))

/-- A PAGE node runs its call; it ends with the result's code and detail, a LOCK that does not acquire with BAD_REQUEST (R313). -/
def State.runPageNode (s : State) (x k i pick n : Nat) : State :=
  match s.ask (s.nodeCall x k n) with
  | (.error (c, d), s) => s.endNode x k i .failed c d
  | (.ok b, s) =>
    let nd := s.node x k i
    match s.pageCall (0x200 + x) nd.cls (callDec b).origin pick b with
    | ((code, d, r), s) =>
      let (wc, s) := if nf n 0x68 0 1 = 1 then s.paWrite (nf n 0x60 0 48) (s.slot x k).origin r else (cOK, s)
      let lock := (callDec b).op == 7
      if wc != cOK then s.endNode x k i .failed wc 0
      else if lock && code = cOK && d != 0 then s.endNode x k i .failed cBAD d
      else if code = cOK || (lock && code = cBROKEN) then s.endNode x k i .done code d
      else s.endNode x k i .failed code d

/-- A page operation of either source. -/
def pageOp (op : Nat) (src : PageSrc) (pick : Nat) (s : State) : Out :=
  match src with
  | .port n h b => onPortN n s fun s => s.portCall n op pick h b
  | .node x k i =>
    match resGet (s.params x k i) with
    | .ok n =>
      -- a call for a gated engine waits, and wakes it (R17)
      if (s.callGated (BitVec.ofNat 512 (nf n 0x20 0 512))).isSome then .next s
      else if nf n 0x20 0 8 = op then .next (s.dispatchOne x k i tPAGE fun s n => s.runPageNode x k i pick n) else .next s
    | .error _ => .next (s.dispatchOne x k i tPAGE fun s _ => s)

/-- CREATE (R267). -/
def execCreate (src : PageSrc) (s : State) : Out := pageOp 1 src 0 s
/-- APPEND (R287). -/
def execAppend (src : PageSrc) (pick : Nat) (s : State) : Out := pageOp 2 src pick s
/-- COMMIT (R287). -/
def execCommit (src : PageSrc) (s : State) : Out := pageOp 3 src 0 s
/-- FORK (R288). -/
def execFork (src : PageSrc) (pick : Nat) (s : State) : Out := pageOp 4 src pick s
/-- TRIM (R290). -/
def execTrim (src : PageSrc) (pick : Nat) (s : State) : Out := pageOp 5 src pick s
/-- RELEASE (R290, R292). -/
def execRelease (src : PageSrc) (s : State) : Out := pageOp 6 src 0 s
/-- LOCK (R297). -/
def execLock (src : PageSrc) (s : State) : Out := pageOp 7 src 0 s
/-- UNLOCK (R297). -/
def execUnlock (src : PageSrc) (s : State) : Out := pageOp 8 src 0 s
/-- QUERY (R283). -/
def execQuery (src : PageSrc) (s : State) : Out := pageOp 9 src 0 s
/-- PATCH (R283). -/
def execPatch (src : PageSrc) (pick : Nat) (s : State) : Out := pageOp 0x0A src pick s
/-- COLD (R299). -/
def execCold (src : PageSrc) (s : State) : Out := pageOp 0x0B src 0 s

/-- PD_ORPHAN (R295, R300). -/
def State.wOrphan (s : State) (v : Word) : State := if keyed v then s.orphan (fld v 0 10) else s.reject .pageDir
/-- PD_ORPHAN. -/
def execPdOrphan (v : Word) (s : State) : Out := onMgmt .pageDir s fun s => s.wOrphan v

/-- Running readers of an epoch value at engine x (R327). -/
def State.readers (s : State) (x : Nat) (e : Bool) : Nat :=
  ((s.har x).slots.map fun l => (l.nodes.filter fun n => n.st == .running && n.epoch == some e).length).sum

/-- EPOCH_CHECK (R280, R293, R327): frames tagged not-E are free again, with their class credited. -/
def State.epochCheck (s : State) : State :=
  let e := !s.pd.epoch
  if (List.range 8).any fun x => !s.engLost x && s.readers x e != 0 then s
  else
    let back := s.pd.returning.filter fun r => r.2.2 == e
    let s := s.onPd fun d => { d with returning := d.returning.filter fun r => r.2.2 != e, epoch := e }
    back.foldl (fun s r =>
      let s := (s.posted ownDir r.2.1 fun s => ((), match s.ask (s.readHdr r.1) with
        | (.ok h, s) => (s.paWrite (s.hdrAt r.1) 0 (hdrEnc { h with kind := 0, refs := 0 })).2
        | (.error _, s) => s)).2
      s.count .pageDir 2 (some r.2.1) 1 none (some <| BitVec.ofNat 32 r.1)) s
/-- EPOCH_CHECK. -/
def execEpochCheck (s : State) : Out := .next (if s.isRunning then s.epochCheck else s)

end Sys2Proof.Machine
end

