-- ==== Sys2Proof/Machine/Harness.lean ====
section
/-! DEFINITION. Harnesses as commands: submission, the checks of a graph, nodes dispatched, movers, parts, limits, completion
records, cancels (R303-R341). -/

namespace Sys2Proof.Machine

/-- A command on slot k of engine x. -/
def onHarness (x k : Nat) (s : State) (f : State → State) : Out := if x < 8 && k < 64 then .next (f s) else .next s

/-! ### Submission (R303, R339) -/

/-- HAR_SUBMIT_CTRL. -/
def State.wHarSubmit (s : State) (x : Nat) (v : Word) : State :=
  let h := s.har x
  if !keyed v || h.subBusy then s.reject (.harness x)
  else if fld v 0 1 = 0 then s
  else
    let a := h.subLo.toNat / 64 * 64 + bits h.subHi.toNat 0 16 * 2 ^ 32
    let sub : Sub := { port := none, addr := a, origin := bits h.subHi.toNat 16 7, cls := bits h.subHi.toNat 24 4 }
    if (s.winOf a).isNone || (s.decode a sub.origin).isNone then s.answerSub x sub cBAD 0 else s.submit x sub
/-- HAR_SUBMIT. -/
def execHarSubmit (x : Nat) (v : Word) (s : State) : Out := onMgmt (.harness x) s fun s => s.wHarSubmit x v

/-! ### The checks of a graph (R307, R309, R318, R319) -/

/-- How the checks end. -/
inductive Check where
  | pass (nodes : List Node) (lists : List Byte)
  | fail (code : BitVec 4) (detail : Nat) (node : Option Nat)
deriving DecidableEq, Repr, Inhabited

/-- A node entry with its predecessors as named. -/
structure NEnt where
  n : Nat
  preds : List Nat
deriving DecidableEq, Repr, Inhabited

/-- Ranges of a BUCKET entry: first and length of each bucket. -/
def bucketRanges (n : Nat) : List (Nat × Nat) :=
  if nTy n = tBUCKET then (List.range (nf n 0x28 16 4)).map fun b => (nf n (0x58 + 4 * b) 0 13, nf n (0x58 + 4 * b) 16 13) else []

/-- Nodes of a bucket's range. -/
def rangeNodes (r : Nat × Nat) : List Nat := (List.range r.2).map (r.1 + ·)

/-- The fields of a descriptor (R307), as the slot keeps them. -/
def slotDesc (l : HSlot) (b : Block) : HSlot :=
  { l with read := true, cls := bits (blkGet b 4 4) 16 4, irqEnd := bitN (blkGet b 4 4) 20, origin := bits (blkGet b 4 4) 24 7
           limit := blkGet b 12 4, ntab := blkGet b 16 6, work := blkGet b 24 6, workLen := blkGet b 32 4
           user := BitVec.ofNat 32 (blkGet b 36 4), doneAt := blkGet b 40 6 }

/-- Check 2 (R307). -/
def State.descOk (s : State) (l : HSlot) (b : Block) : Bool :=
  let inWin := fun (a : Nat) => (s.winOf a).isSome && (s.decode a l.origin).isSome
  blkGet b 0 4 == 0x4E524148 && bits (blkGet b 4 4) 0 16 == 1 && bits (blkGet b 4 4) 21 3 == 0 && bits (blkGet b 4 4) 31 1 == 0 &&
  1 ≤ blkGet b 8 4 && blkGet b 8 4 ≤ 4096 && l.limit ≤ 10000000 && blkGet b 22 2 == 0 && blkGet b 30 2 == 0 && blkGet b 46 2 == 0 &&
  blkGet b 0x30 16 == 0 && l.ntab % 64 == 0 && l.work % 64 == 0 && l.workLen % 64 == 0 && l.doneAt % 64 == 0 &&
  inWin l.ntab && inWin l.work && inWin l.doneAt

/-- Two address ranges meet. -/
def meet (a b : Nat × Nat) : Bool := a.1 < b.1 + b.2 && b.1 < a.1 + a.2

/-- Check 3: descriptor, node table, work area and record do not overlap. -/
def noOverlap (l : HSlot) (n : Nat) : Bool :=
  let r := [(l.addr, 64), (l.ntab, 128 * n), (l.work, l.workLen), (l.doneAt, 64)]
  (List.range 4).all fun i => (List.range 4).all fun j => i == j || !meet (r.getD i (0, 0)) (r.getD j (0, 0))

/-- Check 4 on node i. -/
def State.readNode (s : State) (x k i : Nat) : Res NEnt := do
  let node := fun {α : Type} (r : Res α) => (tryCatch r fun e => throw (e.1, if e.1 = cBAD then dNODE else 0) : Res α)
  let n ← node (s.nodeEntry x k i)
  if !nodeOk n then throw (cBAD, dNODE)
  let l ← node (s.extPreds x k n)
  if l.any fun j => 8192 ≤ j then throw (cBAD, dNODE)
  pure ⟨n, inlinePred n ++ l⟩

/-- The lowest index whose element satisfies a predicate. -/
def firstBad {α : Type} (l : List α) (p : Nat → α → Bool) : Option Nat :=
  ((l.zipIdx).find? fun e => p e.2 e.1).map (·.2)

/-- Checks 5 to 8 of a list of nodes. -/
def State.graphBad (s : State) (l : List NEnt) : Option (BitVec 4 × Nat × Nat) :=
  let n := l.length
  let ranges := (l.zipIdx).flatMap fun e => (bucketRanges e.1.n).map fun r => (e.2, r)
  let inRange := ranges.flatMap fun r => rangeNodes r.2
  let bad5 := firstBad l fun _ e => nTy e.n == tPROG && nf e.n 0x20 0 1 == 1 && !s.has 2
  let bad6 := firstBad l fun i e => e.preds.any fun j => n ≤ j || j == i
  let bad7 := firstBad l fun i e =>
    ((bucketRanges e.n).any fun r =>
      (r.2 != 0 && n < r.1 + r.2) || (rangeNodes r).contains i || (rangeNodes r).any fun j => 2 ≤ inRange.count j) ||
    (nf e.n 0 15 1 == 1 && !inRange.contains i)
  let bad8 := firstBad l fun _ e =>
    nTy e.n == tPAGE && nf e.n 0x6C 15 1 == 1 &&
    (let j := nf e.n 0x6C 0 13
     let g := (l.getD j default).n
     !(e.preds.contains j && nTy g == tPAGE && nf g 0x20 0 8 == 7 && nf g 0x68 0 1 == 1))
  match bad5, bad6, bad7, bad8 with
  | some i, _, _, _ => some (cBAD, dPRIV, i)
  | _, some i, _, _ => some (cCYCLE, dDANGLING, i)
  | _, _, some i, _ => some (cCYCLE, dBUCKET, i)
  | _, _, _, some i => some (cBAD, dGENSRC, i)
  | _, _, _, _ => none

/-- Successors of node i: every naming, and the implicit edges of a BUCKET node (R309, R315). -/
def succsOf (l : List NEnt) (i : Nat) : List Nat :=
  ((l.zipIdx).flatMap fun e => (e.1.preds.filter (· == i)).map fun _ => e.2) ++
  ((bucketRanges (l.getD i default).n).flatMap rangeNodes)

/-- Take away nodes that await nothing, until none is left or none goes: what is left, by index. -/
def unsorted : Nat → List (Nat × List Nat) → List Nat
  | 0, l => l.map (·.1)
  | k + 1, l =>
    let go := (l.filter fun e => !(l.any fun f => f.2.contains e.1)).map (·.1)
    if go.isEmpty then l.map (·.1) else unsorted k (l.filter fun e => !go.contains e.1)

/-- A node as the engine holds it. -/
def mkNode (e : NEnt) (succ : List Nat) (await : Nat) : Node :=
  { ty := nTy e.n, cls := nCls e.n, prio := nf e.n 0 12 2, always := nf e.n 0 14 1 == 1, bind := nf e.n 0 15 1 == 1
    slot := nf e.n 12 16 13, stride := nf e.n 0x18 0 24, succ := succ, await := await
    st := if await = 0 then .ready else .waiting }

/-- Checks 2 to 10 of a slot whose descriptor has been read. -/
def State.checkGraph (s : State) (x k : Nat) (b : Block) : Res Check := do
  let l := s.slot x k
  let n := blkGet b 8 4
  if !s.descOk l b then pure (.fail cBAD dDESC none)
  else if !noOverlap l n then pure (.fail cBAD dOVERLAP none)
  else
    let rs ← (List.range n).mapM fun i => resTry (s.readNode x k i)
    pure <| match (rs.zipIdx).findSome? fun e => match e.1 with
      | .error c => some (c, e.2)
      | .ok _ => none with
    | some ((c, d), i) => .fail c d (some i)
    | none =>
      let es := rs.filterMap fun r => match r with
        | .ok e => some e
        | .error _ => none
      match s.graphBad es with
      | some (c, d, i) => .fail c d (some i)
      | none =>
        let succ := (List.range n).map (succsOf es)
        let all := succ.flatten
        if l.workLen < 64 * ceilDiv (16 * n + 2 * all.length) 64 then .fail cBAD dWORK none
        else match unsorted n ((List.range n).zip succ) with
        | i :: _ => .fail cCYCLE dCYCLE (some i)
        | [] =>
          .pass ((es.zip succ).zipIdx.map fun e => mkNode e.1.1 e.1.2 (all.count e.2)) (all.flatMap fun j => leBytes j 2)

/-- A Harness ends from VALIDATING (R318, R330, R339). -/
def State.endChecking (s : State) (x k : Nat) (code : BitVec 4) (detail : Nat) (node : Option Nat) (failed : Bool) : State :=
  let s := s.onSlot x k fun l => { l with
    st := .ended, code := code, detail := detail, fail := node, failCode := code, failDetail := detail, tEnd := s.mgmt.elapsed }
  let s := s.onHar x fun h => { h with
    rejCode := code, rejDetail := BitVec.ofNat 8 detail, rejNode := BitVec.ofNat 13 (node.getD 0), rejValid := true }
  let s := if failed then s.harEv x 2 else s
  s.count (.harness x) 2 none 1 (fields [(k, 0)])

/-- HARNESS_CHECK_DONE: the whole of R318, and the work area (R319); during an orderly stop the Harness then ends at once
(R337). -/
def State.checkDone (s : State) (x k : Nat) : State :=
  let l := s.slot x k
  if l.st != .validating || s.engLost x || s.safe.on || (s.fr (.harness x)).st == .gated then s
  else s.agent (ownHar x) l.subCls fun s => match s.ask (s.blkRes l.addr l.origin) with
  | (.error (c, _), s) => s.endChecking x k c 0 none true
  | (.ok b, s) =>
    let s := s.onSlot x k fun l => slotDesc l b
    match s.ask (s.checkGraph x k b) with
    | (.error (c, d), s) => s.endChecking x k c d none true
    | (.ok (.fail c d i), s) => s.endChecking x k c d i true
    | (.ok (.pass nodes lists), s) =>
      let stop := s.seq.therm == .stopping || s.seq.therm == .stopped || s.seq.therm == .emergency
      let nodes := if stop then nodes.map fun n => { n with st := .notRun } else nodes
      let s := s.onSlot x k fun l => { l with nodes := nodes }
      let l := s.slot x k
      let area := ((List.range nodes.length).flatMap l.entry) ++ lists
      let z := ceilDiv area.length 64
      match s.paWriteN l.work l.origin z (area ++ List.replicate (64 * z - area.length) 0) with
      | (c, s) =>
        if c != cOK then (s.onSlot x k fun l => { l with nodes := [] }).endChecking x k c 0 none true
        else if stop then s.endChecking x k cABORTED dSTOPPED none false
        else s.onSlot x k fun l => { l with st := .running }
/-- HARNESS_CHECK_DONE. -/
def execHarnessCheckDone (x slot : Nat) (s : State) : Out := onHarness x slot s fun s => s.checkDone x slot

/-! ### Nodes the engine runs (R310, R315, R317) -/

/-- NOP. -/
def execNop (x slot node : Nat) (s : State) : Out :=
  .next (s.dispatchOne x slot node tNOP fun s _ => s.endNode x slot node .done cOK 0)

/-- The input of a BUCKET node: ctx, committed, item (R315). -/
def State.bucketInput (s : State) (origin n : Nat) : Res (List (Nat × Nat × Nat)) := do
  let b ← s.paBytes (nf n 0x20 0 48) origin (8 * nf n 0x28 0 13)
  (chunks 8 b (nf n 0x28 0 13)).mapM fun e => do
    let ctx := bits (leNat (e.take 4)) 0 21
    let r ← s.readRec ctx
    if r.state != 1 then throw (cBAD, dCTX)
    pure (ctx, r.committed, leNat (e.drop 4))

/-- The bucket of a committed count. -/
def bucketFor (n c : Nat) : Nat :=
  let nb := nf n 0x28 16 4
  ((List.range nb).find? fun b => c ≤ nf n (0x38 + 4 * b) 0 25).getD (nb - 1)

/-- The list of a bucket. -/
def bucketList (l : List (Nat × Nat × Nat)) : List Byte :=
  leBytes l.length 4 ++ leBytes ((l.map (·.2.1)).foldl max 0) 4 ++ leBytes ((l.map (·.2.1)).sum) 4 ++ List.replicate 52 0 ++
  l.flatMap fun e => leBytes e.1 4 ++ leBytes e.2.1 4 ++ leBytes e.2.2 4 ++ List.replicate 4 0

/-- A BUCKET node: its lists, then the nodes of its ranges bound or skipped (R315, R328). -/
def State.runBucket (s : State) (x k i n : Nat) : State :=
  let origin := (s.slot x k).origin
  match s.ask (s.bucketInput origin n) with
  | (.error (c, d), s) => s.endNode x k i .failed c d
  | (.ok l, s) =>
    let stride := 64 * ceilDiv (64 + 16 * nf n 0x28 0 13) 64
    let nb := nf n 0x28 16 4
    let lists := (List.range nb).map fun b => l.filter fun e => bucketFor n e.2.1 == b
    match ((lists.zipIdx).forM fun (e : List (Nat × Nat × Nat) × Nat) =>
        (sPut (nf n 0x30 0 48 + e.2 * stride) origin (bucketList e.1) : SM Unit)).run.run s with
    | (.error (c, d), s) => s.endNode x k i .failed c d
    | (.ok _, s) =>
      let s := s.onNode x k i fun nd => { nd with prog := l.length }
      let s := ((bucketRanges n).zipIdx).foldl (fun s (r, b) =>
        let ents := lists.getD b []
        (rangeNodes r).foldl (fun s j =>
          let nd := s.node x k j
          if nd.st != .waiting then s
          else if ents.isEmpty || (nd.bind && ents.length ≤ nd.slot) then
            (s.onNode x k j fun nd => { nd with await := nd.await - 1 }).endNode x k j .skipped 0 0
          else if nd.bind then
            let e := ents.getD nd.slot default
            s.onNode x k j fun nd => { nd with bound := some (e.1, e.2.2) }
          else s) s) s
      s.endNode x k i .done cOK 0
/-- BUCKET. -/
def execBucket (x slot node : Nat) (s : State) : Out := .next (s.dispatchOne x slot node tBUCKET fun s n => s.runBucket x slot node n)

/-- A SIGNAL node: its word written or added to, its entry in the HAR_END queue (R317, R332). -/
def State.runSignal (s : State) (x k i n : Nat) : State :=
  let a := nf n 0x20 0 48
  let origin := (s.slot x k).origin
  let v := nf n 0x28 0 64
  let (c, s) :=
    if nf n 0x30 0 1 = 0 then s.paPatch a origin (leBytes v 8)
    else match s.paRead (a / 64 * 64) origin with
      | (c, b) => if c = cOK then (s.touchRd (a / 64 * 64) origin 1).paPatch a origin (leBytes (blkGet b (a % 64) 8 + v) 8) else (c, s)
  let s := if nf n 0x30 1 1 = 1 then (s.pushEnd x k c true i).harEv x 1 else s
  s.endNode x k i (if c = cOK then .done else .failed) c 0
/-- SIGNAL. -/
def execSignal (x slot node : Nat) (s : State) : Out := .next (s.dispatchOne x slot node tSIGNAL fun s n => s.runSignal x slot node n)

/-! ### Nodes of the Awls -/

/-- SCORE (R310, R312, R349). -/
def execScore (x slot node : Nat) (s : State) : Out :=
  .next (s.dispatchParts x slot node tSCORE fun s n => s.fanOut (nf n 0x20 0 21) (nf n 0x28 0 20) (nf n 0x2C 0 21) true)
/-- PARTIAL (R310, R312, R352). -/
def execPartialAtt (x slot node : Nat) (s : State) : Out :=
  .next (s.dispatchParts x slot node tPARTIAL fun s n =>
    s.fanOut (nf n 0x20 0 21) (nf n 0x34 0 20) (nf n 0x38 0 21) (nf n 0x30 0 1 == 0))
/-- SELECT (R310, R351). -/
def execSelect (x slot node : Nat) (s : State) : Out :=
  .next (s.dispatchParts x slot node tSELECT fun _ n => pure ([nTgt n], 0, [], []))
/-- MERGE (R310, R356). -/
def execMerge (x slot node : Nat) (s : State) : Out :=
  .next (s.dispatchParts x slot node tMERGE fun _ n => pure ([nTgt n], 0, [], []))

/-- AWL_PROG (R316). -/
def execAwlProg (x slot node : Nat) (s : State) : Out :=
  .next (s.dispatchParts x slot node tPROG fun _ n => pure (progChans n, 0, [], []))

/-- The running part of Awl a is part j of node i. -/
def Awl.runs (a : Awl) (x k i j : Nat) : Bool :=
  match a.part with
  | some q => q.of x k i && q.part == j
  | none => false

/-- The self-checks of an Awl run: an armed contained source fires and fences it (R384, R405). -/
def State.awlChecks (s : State) (p : Nat) : State := [2, 3, 4].foldl (fun s b => s.check (.awl p) b false) s

/-- PART_END: a fixed routine that has run, or a part whose memory operations are done, ends and is reported (R323, R368). -/
def State.endPart (s : State) (x k i j : Nat) : State :=
  match ((s.node x k i).parts.find? fun q => q.part == j && q.ended.isNone).bind (·.phys) with
  | none => s
  | some p =>
    if !(s.awl p).runs x k i j then s
    else s.agent (ownAwl p) (s.node x k i).cls fun s =>
      let s := if (s.awl p).ending.isNone && !(s.awl p).byCode then s.awlChecks p else s
      match (s.awl p).part with
      | none => s
      | some q =>
        let s :=
          if (s.awl p).ending.isSome || (s.awl p).byCode then s
          else if q.ty = tSCORE then s.runFixed p (scorePart p q)
          else if q.ty = tSELECT then s.runFixed p (selectPart q)
          else if q.ty = tPARTIAL then s.runFixed p (partialPart p q)
          else if q.ty = tMERGE then s.runFixed p (mergePart p q)
          else s
        match (s.awl p).ending with
        | some (c, d) => if (s.awl p).memq.isEmpty then s.reportPart p c d else s
        | none => s
/-- PART_END. -/
def execPartEnd (x slot node part : Nat) (s : State) : Out := onHarness x slot s fun s => s.endPart x slot node part

/-- PART_ENTRY (R365). -/
def execPartEntry (p : Nat) (s : State) : Out := onChan p s fun s => s.enterPart p

/-- A callable routine runs on Awl p (R369). -/
def State.runCallable (s : State) (p rid : Nat) (m : Part → SM Unit) (at_ : Option Nat := none) : State :=
  match (s.awl p).part with
  | some q =>
    if q.ty = tPROG && q.kind = 0 && q.routine = rid && (s.awl p).ending.isNone && !(s.awl p).byCode && (s.awl p).st == .running then s.agent (ownAwl p) q.cls fun s =>
      let s := s.awlChecks p
      if (s.awl p).part = some q then s.runFixed p (m q) at_ else s
    else s
  | none => s
/-- IDENT. -/
def execIdent (p : Nat) (s : State) : Out := onChan p s fun s => s.runCallable p 0x100 (identPart p) (some (s.identAddr p))
/-- CONVERT. -/
def execConvert (p : Nat) (s : State) : Out := onChan p s fun s => s.runCallable p 0x101 (convertPart p)

/-! ### Movers (R314, R338, R359) -/

/-- Change channel m of mover block y. -/
def State.onMovCh (s : State) (y m : Nat) (f : MovCh → MovCh) : State := s.onMov y fun b => { b with ch := upd b.ch m f }

/-- A mover channel is idle again and its node ends. -/
def State.endMover (s : State) (x k i y m : Nat) (code : BitVec 4) (detail : Nat) : State :=
  let s := s.onMovCh y m fun c => { c with st := if c.st = 1 then 0 else c.st, reqs := [] }
  s.endNode x k i (if code = cOK then .done else .failed) code detail

/-- A block is answered otherwise than OK: POISON and FENCED halt the channel (R338). -/
def State.haltMover (s : State) (x k i y m : Nat) (code : BitVec 4) (addr : Nat) (dst : Bool) : State :=
  if !isData code then s.endMover x k i y m code 0
  else
    let s0 := s
    let s := s.onMovCh y m fun c => { c with st := 2, failAddr := BitVec.ofNat 48 addr, failDst := dst, reqs := [] }
    let s := (s.fault (.movers y) m).count (.movers y) 2 none 1 none (some (fields [(0x1A0 + 4 * y + m, 0)]))
    (s.endNode x k i .failed code 0).commit s0 [.movers y]

/-- Addresses of block j of a node. -/
def movSrc (n j : Nat) : Nat := nf n 0x20 0 48 + 64 * j
/-- Destination of block j. -/
def movDst (n j : Nat) : Nat := (if nTy n = tFILL then nf n 0x20 0 48 else nf n 0x28 0 48) + 64 * j

/-- k more blocks have been moved. -/
def State.moved (s : State) (x k i y m num : Nat) : State :=
  let s := s.onMovCh y m fun c => { c with done := c.done + BitVec.ofNat 24 num }
  let s := s.onNode x k i fun nd => { nd with prog := nd.prog + num }
  s.count (.movers y) 1 (some (s.node x k i).cls) num none (some (fields [(0x1A0 + 4 * y + m, 0)]))

/-- Move one block of a COPY, FILL or unordered REDUCE node (R314): what came of it, and where it failed. -/
def State.moveOne (s : State) (n origin j : Nat) : (BitVec 4 × Nat × Bool) × State :=
  let src := movSrc n j
  let dst := movDst n j
  let rd : BitVec 4 × Block :=
    if nTy n = tFILL then (cOK, BitVec.ofNat 512 (leNat ((List.range 8).flatMap fun _ => leBytes (nf n 0x28 0 64) 8))) else s.paRead src origin
  let s := if nTy n = tFILL then s else s.touchRd src origin 1
  if rd.1 != cOK then ((rd.1, src, false), s)
  else if nTy n = tREDUCE then
    match s.paRead dst origin with
    | (c, old) =>
      if c != cOK then ((c, dst, true), s)
      else match s.paWrite dst origin (redBlock (nf n 0x34 0 1) old rd.2) with
        | (c, s) => ((c, dst, true), s)
  else match s.paWrite dst origin rd.2 with
    | (c, s) => ((c, dst, true), s)

/-- An armed HALT_Mm or MOV_PAR (R338, R341, R405): a fired halt answers POISON for the next block. -/
def State.movChecks (s : State) (y m : Nat) : Bool × State :=
  let s := s.check (.movers y) 4 false
  if s.isFenced (.movers y) then (false, s) else s.fire (.movers y) m false

/-- Move up to `num` blocks. -/
def State.moveBlocks (s : State) (x k i y m : Nat) : Nat → State
  | 0 => s
  | num + 1 =>
    let nd := s.node x k i
    let n := nd.par.toNat
    let j := ((s.mov y).ch.getD m {}).done.toNat
    if nd.st != .running then s
    else if nf n 0x30 0 24 ≤ j then s.endMover x k i y m cOK 0
    else match s.movChecks y m with
    | (true, s) => s.haltMover x k i y m cPOISON (if nTy n = tFILL then movDst n j else movSrc n j) false
    | (false, s) =>
      if (s.node x k i).st != .running then s
      else match s.moveOne n (s.slot x k).origin j with
      | ((c, a, d), s) =>
        if c != cOK then s.haltMover x k i y m c a d
        else
          let s := s.moved x k i y m 1
          if j + 1 = nf n 0x30 0 24 then s.endMover x k i y m cOK 0 else s.moveBlocks x k i y m num

/-! ### Ordered REDUCE nodes (R163, R314, R359) -/

/-- Blocks of the burst that starts at block j: within one 2 KiB stripe of dst. -/
def burstLen (n j : Nat) : Nat := min (32 - movDst n j / 64 % 32) (nf n 0x30 0 24 - j)

/-- Account the contributions answered in full, oldest first; a failed one ends the node (R165, R338). -/
def State.settleOrd (s : State) (x k i y m : Nat) : Nat → State
  | 0 => s
  | f + 1 =>
    match ((s.mov y).ch.getD m {}).reqs with
    | [] => s
    | r :: rest =>
      if !r.answered then s
      else if r.code = cOK then
        ((s.onMovCh y m fun c => { c with reqs := rest }).moved x k i y m (r.len + 1)).settleOrd x k i y m f
      else
        let s := s.moved x k i y m r.doneN
        s.haltMover x k i y m r.code (r.addr + 64 * r.doneN) true

/-- Issue the next burst of an ordered REDUCE node as one contribution of its channel's group: whether it went. -/
def State.issueOrd (s : State) (x k i y m : Nat) : Bool × State :=
  let nd := s.node x k i
  let n := nd.par.toNat
  let origin := (s.slot x k).origin
  let c := (s.mov y).ch.getD m {}
  let j := c.done.toNat + ((c.reqs.map fun r => r.len + 1).sum)
  let len := burstLen n j
  if nd.st != .running || nf n 0x30 0 24 ≤ j then (false, s)
  else match s.movChecks y m with
  | (true, s) => (false, s.haltMover x k i y m cPOISON (movSrc n j) false)
  | (false, s) =>
    match s.decode (movDst n j) origin with
    | none => (false, s.haltMover x k i y m cBAD (movDst n j) true)
    | some (l, off) =>
      match s.serving l with
      | none => (false, s.haltMover x k i y m cFENCED (movDst n j) true)
      | some p =>
        if 2 ≤ (c.reqs.filter fun r => !r.answered && r.lch == l).length then (false, s)
        -- the movers' write slots of its blocks come first (R131, R134)
        else match s.bookN (secOf p) (posOf p) 3 nd.cls len with
        | none => (false, s)
        | some (ks, t) => match s.paReadN (movSrc n j) origin len with
        | (e, bs) =>
          if e != cOK then (false, (s.touchRd (movSrc n j) origin len).haltMover x k i y m e (movSrc n j) false)
          else
            let s := t.touchRd (movSrc n j) origin len
            let s := s.nextUid
            let uid := s.uid
            let arg := nf n 0x34 0 1 + nf n 0x34 8 8 * 256 + nf n 0x34 16 8 * 65536
            let s := s.onMovCh y m fun c => { c with reqs := c.reqs ++
              [{ uid := uid, op := opOrd, cls := nd.cls, len := len - 1, arg := arg, addr := movDst n j, lch := l, taken := len, closed := true }] }
            let w : Work :=
              { port := movReq y m, uid := uid, tag := 0, cls := nd.cls, req := 0x1A0 + 4 * y + m, op := opOrd, arg := arg, lch := l, off := off,
                idx := 0, n := 1, data := (chunks 64 bs len).map bytesBlock, be := 0, inp := jobInp (ownMov y m) p, slots := ks, first := len,
                key := movDst n j / 64, len := len - 1 }
            (true, s.onCtl p fun c => { c with inWr := c.inWr ++ [w] })

/-- Up to `num` bursts. -/
def State.ordBlocks (s : State) (x k i y m : Nat) : Nat → State
  | 0 => s
  | num + 1 =>
    match s.issueOrd x k i y m with
    | (true, s) => s.ordBlocks x k i y m num
    | (false, s) => s

/-- An ordered REDUCE node goes on: contributions answered, then new ones, then its end. -/
def State.runOrd (s : State) (x k i y m num : Nat) : State :=
  let s := s.settleOrd x k i y m (((s.mov y).ch.getD m {}).reqs.length)
  let s := s.ordBlocks x k i y m num
  let s := s.settleOrd x k i y m (((s.mov y).ch.getD m {}).reqs.length)
  let nd := s.node x k i
  if nd.st == .running && nf nd.par.toNat 0x30 0 24 ≤ ((s.mov y).ch.getD m {}).done.toNat then s.endMover x k i y m cOK 0 else s

/-- A mover node goes on by up to num blocks. -/
def State.runMover (s : State) (x k i num : Nat) : State :=
  match (s.node x k i).mover with
  | none => s
  | some (y, m) =>
    let n := (s.node x k i).par.toNat
    s.agent (ownMov y m) (s.node x k i).cls fun s => if nTy n = tREDUCE && nf n 0x34 1 1 = 1 then s.runOrd x k i y m num else s.moveBlocks x k i y m num

/-- A mover node is dispatched to the lowest idle channel of its sector, or goes on (R314). -/
def State.mover (s : State) (x k i ty op num : Nat) : State :=
  if s.readyNode x k i ty then
    match resGet (s.params x k i) with
    | .error _ => s.dispatchOne x k i ty fun s _ => s
    | .ok n =>
      let y := nTgt n
      let ch := (s.mov y).ch
      let idle := ((List.range 4).find? fun m => (ch.getD m {}).st == 0)
      if s.isFenced (.movers y) || ch.all fun c => c.st == 2 then
        s.dispatchOne x k i ty fun s _ => s.endNode x k i .failed cFENCED dNOMOVER
      else match (if s.movStops y then none else idle) with
      | none => s
      | some m => s.dispatchOne x k i ty fun s _ =>
          let s := s.nextUid
          let s := if ch.any fun c => c.st == 1 then s else s.count (.movers y) 3 none 1 none (some (fields [(0x1A0 + 4 * y + m, 0)]))
          let s := s.onMovCh y m fun _ =>
            { st := 1, op := BitVec.ofNat 2 op, eng := BitVec.ofNat 3 x, slot := BitVec.ofNat 6 k, node := BitVec.ofNat 13 i, uid := s.uid }
          (s.onNode x k i fun nd => { nd with mover := some (y, m) }).runMover x k i num
  else if x < 8 && k < 64 && (s.node x k i).st == .running && (s.node x k i).ty == ty && !s.safe.on && s.seq.therm != .emergency then
    s.runMover x k i num
  else s

/-- REDUCE (R314): dispatched, or going on by blocks (bursts, when ordered). -/
def execReduce (x slot node blocks : Nat) (s : State) : Out := .next (s.mover x slot node tREDUCE 2 blocks)
/-- COPY (R314). -/
def execCopy (x slot node blocks : Nat) (s : State) : Out := .next (s.mover x slot node tCOPY 0 blocks)
/-- FILL (R314). -/
def execFill (x slot node blocks : Nat) (s : State) : Out := .next (s.mover x slot node tFILL 1 blocks)

/-- MOV_CTRL: halted channels are released (R338, R340). -/
def State.wMovCtrl (s : State) (x : Nat) (v : Word) : State :=
  if !keyed v then s.reject (.movers x)
  else
    let s' := s.onMov x fun b => { b with ch := (b.ch.zipIdx).map fun (c, m) => if v.getLsbD m && c.st = 2 then { c with st := 0 } else c }
    s'.commit s [.movers x]
/-- MOVER_RELEASE. -/
def execMoverRelease (x : Nat) (v : Word) (s : State) : Out := onMgmt (.movers x) s fun s => s.wMovCtrl x v

/-! ### Limits, completion, cancel (R326, R330-R333, R341) -/

/-- The node is one that limit_us holds for (R326). -/
def limited (ty : Nat) : Bool := (2 ≤ ty && ty ≤ 8) || ty == 10
/-- NODE_LIMIT. -/
def execNodeLimit (x slot node : Nat) (s : State) : Out :=
  onHarness x slot s fun s =>
    if (s.slot x slot).limit != 0 && limited (s.node x slot node).ty && (s.slot x slot).st.active then s.stopNode x slot node dLIMIT else s

/-- COMPLETION_RECORD_WRITTEN. -/
def execCompletionRecordWritten (x slot : Nat) (s : State) : Out :=
  onHarness x slot s fun s =>
    if (s.slot x slot).st == .ended && !s.engLost x && !s.safe.on && s.seq.therm != .emergency then s.closeSlot x slot else s

/-- HAR_CANCEL (R330, R333). -/
def State.wHarCancel (s : State) (x : Nat) (v : Word) : State :=
  let k := fld v 0 6
  let s := s.onHar x fun h => { h with cancelSlot := BitVec.ofNat 6 k }
  if !keyed v then s.reject (.harness x)
  else if fld v 8 1 = 0 then s
  else match (s.slot x k).st with
  | .free | .ended => s.reject (.harness x)
  | .validating => s.endChecking x k cABORTED dCANCEL none false
  | .cancelling => s
  | .running | .failing =>
    let s := s.onSlot x k fun l => { l with st := .cancelling }
    let s := s.sweep x k
    let s := (List.range (s.slot x k).nodes.length).foldl (fun s i =>
      if (s.node x k i).st == .running && limited (s.node x k i).ty then s.stopNode x k i dCANCEL else s) s
    s.settleSlot x k
/-- HAR_CANCEL. -/
def execHarCancel (x : Nat) (v : Word) (s : State) : Out := onMgmt (.harness x) s fun s => s.wHarCancel x v

/-- HAR_END read: the oldest entry is returned and removed (R339). -/
def execHarEndRead (x : Nat) (s : State) : Out :=
  .next (s.mgRead (.harness x) fun s =>
    match (s.har x).endQ with
    | [] => (0, s)
    | w :: l => (w, s.onHar x fun h => { h with endQ := l }))

/-- ENG_STALL (R341): a READY node has waited 1 ms while its target had room. -/
def execEngStall (x slot node : Nat) (s : State) : Out :=
  onHarness x slot s fun s =>
    if (s.slot x slot).st.active && node < (s.slot x slot).nodes.length && (s.node x slot node).st == .ready && !s.paused x && !s.engLost x then
      s.check (.harness x) 1 true
    else s

end Sys2Proof.Machine
end

