-- ==== Sys2Proof/Machine/AwlCode.lean ====
section
/-! DEFINITION. The instruction words of an Awl and how one issues: the formats and encodings, the fetch, the waits for pending
registers and scratch, the advance of the program counter, and the traps that an instruction raises (R362, R363, R371-R381). -/

namespace Sys2Proof.Machine

/-! ### Decoding (R371-R379) -/

/-- Field of an instruction word. -/
def wf (w : Word) (lo len : Nat) : Nat := bits w.toNat lo len

/-- The R-type instructions of opcode 0x01 (R373). -/
def awlR (p : Nat) (w : Word) : Option Instr :=
  let d := wf w 21 5
  let a := wf w 16 5
  let b := wf w 11 5
  match wf w 0 11 with
  | 0x000 => some (.aAdd p d a b)
  | 0x001 => some (.aSub p d a b)
  | 0x002 => some (.aAnd p d a b)
  | 0x003 => some (.aOr p d a b)
  | 0x004 => some (.aXor p d a b)
  | 0x005 => some (.aSll p d a b)
  | 0x006 => some (.aSrl p d a b)
  | 0x007 => some (.aSra p d a b)
  | 0x008 => some (.aSlt p d a b)
  | 0x009 => some (.aSltu p d a b)
  | 0x00A => some (.aMul p d a b)
  | 0x00B => some (.aDivu p d a b)
  | 0x00C => some (.aRemu p d a b)
  | 0x010 => some (.aFadd p d a b)
  | 0x011 => some (.aFsub p d a b)
  | 0x012 => some (.aFmul p d a b)
  | 0x013 => some (.aFdiv p d a b)
  | 0x014 => some (.aFmin p d a b)
  | 0x015 => some (.aFmax p d a b)
  | 0x016 => some (.aFlt p d a b)
  | 0x017 => some (.aFeq p d a b)
  | 0x018 => if b = 0 then some (.aFtoi p d a) else none
  | 0x019 => if b = 0 then some (.aItof p d a) else none
  | _ => none

/-- The state reads of opcode 0x1E (R374). -/
def awlMfs (p d n : Nat) : Option Instr :=
  match n with
  | 0 => some (.mfsCycle p d)
  | 1 => some (.mfsElapsed p d)
  | 2 => some (.mfsPhys p d)
  | 3 => some (.mfsGran p d)
  | 4 => some (.mfsOutst p d)
  | 5 => some (.mfsIsa p d)
  | _ => none

/-- The I-type and jump instructions (R373). -/
def awlI (p : Nat) (w : Word) : Option Instr :=
  let d := wf w 21 5
  let a := wf w 16 5
  let imm := BitVec.ofNat 16 (wf w 0 16)
  match wf w 26 6 with
  | 0x02 => some (.aAddi p d a imm)
  | 0x03 => some (.aAndi p d a imm)
  | 0x04 => some (.aOri p d a imm)
  | 0x05 => some (.aXori p d a imm)
  | 0x06 =>
    let amt := BitVec.ofNat 6 (wf w 0 6)
    if wf w 8 8 != 0 then none
    else match wf w 6 2 with
    | 0 => some (.aShiSll p d a amt)
    | 1 => some (.aShiSrl p d a amt)
    | 2 => some (.aShiSra p d a amt)
    | _ => none
  | 0x07 => if a = 0 then some (.aLui p d imm) else none
  | 0x08 => some (.aLsh p d a imm)
  | 0x09 => some (.aLw p d a imm)
  | 0x0A => some (.aLd p d a imm)
  | 0x0B => some (.aSw p d a imm)
  | 0x0C => some (.aSd p d a imm)
  | 0x10 => some (.aBeq p d a imm)
  | 0x11 => some (.aBne p d a imm)
  | 0x12 => some (.aBlt p d a imm)
  | 0x13 => some (.aBge p d a imm)
  | 0x14 => some (.aBltu p d a imm)
  | 0x15 => some (.aBgeu p d a imm)
  | 0x16 => some (.aJal p (BitVec.ofNat 26 (wf w 0 26)))
  | 0x17 => some (.aJalr p d a imm)
  | 0x1E => if a = 0 then awlMfs p d (wf w 0 16) else none
  | 0x1F =>
    if d != 0 then none
    else match wf w 0 16 with
    | 0 => if a = 0 then some (.sysHalt p) else none
    | 1 => some (.sysFail p a)
    | 2 => some (.sysMwait p a)
    | 3 => if a = 0 then some (.sysNop p) else none
    | _ => none
  | _ => none

/-- Elements of a vector register in a format (R372). -/
def vElems (fmt : Nat) : Nat := 4096 / fmtBits fmt

/-- The fields of a VCVT are in their ranges (R376). -/
def vcvtOk (fmt sr sel mode : Nat) : Bool :=
  let n := if bitN mode 0 then 256 else 128
  fmt < 7 && n * (sel + 1) ≤ vElems fmt &&
  (match bits mode 1 2 with
   | 0 => sr == 0
   | 1 => 2 ≤ fmt && fmt ≤ 4
   | 2 => fmt == 5 || fmt == 6
   | _ => false)

/-- The V-type instructions (R375-R378). -/
def awlV (p : Nat) (w : Word) : Option Instr :=
  let vd := wf w 22 4
  let va := wf w 18 4
  let vb := wf w 14 4
  let sr := wf w 9 5
  let fmt := wf w 6 3
  let sel := wf w 3 3
  let mode := wf w 0 3
  let plain := fmt == 0 && sel == 0 && mode == 0
  match wf w 26 6 with
  | 0x20 => if plain && va == 0 && vb == 0 then some (.vld p vd sr) else none
  | 0x21 => if plain && vd == 0 && vb == 0 then some (.vst p va sr) else none
  | 0x22 => if fmt ≤ 1 && va == 0 && vb == 0 && sel == 0 && mode == 0 then some (.vbcast p vd sr fmt) else none
  | 0x23 => if plain && va == 0 && vb == 0 then some (.viota p vd sr) else none
  | 0x24 => if vb == 0 && vcvtOk fmt sr sel mode then some (.vcvt p vd va sr fmt sel mode) else none
  | 0x25 =>
    if vb == 0 && sr == 0 && mode == 0 && 1 ≤ fmt && fmt < 7 && 128 * (sel + 1) ≤ vElems fmt then some (.vpack p vd va fmt sel) else none
  | 0x26 => if fmt < 7 && sel == 0 && mode < 4 then some (.vdot p vd va vb sr fmt mode) else none
  | 0x27 => if plain && sr == 0 then some (.vadd p vd va vb) else none
  | 0x28 => if plain && sr == 0 then some (.vsub p vd va vb) else none
  | 0x29 => if plain && sr == 0 then some (.vmul p vd va vb) else none
  | 0x2A => if plain && sr == 0 then some (.vfma p vd va vb) else none
  | 0x2B => if plain && sr == 0 then some (.vmax p vd va vb) else none
  | 0x2C => if plain && sr == 0 then some (.vmin p vd va vb) else none
  | 0x2D => if plain && vb == 0 && sr == 0 then some (.vexp p vd va) else none
  | 0x2E => if plain && vb == 0 then some (.vmuls p vd va sr) else none
  | 0x2F => if plain then some (.sacc p vd va vb sr) else none
  | 0x30 =>
    if vb != 0 || fmt != 0 || sel != 0 then none
    else if mode = 0 then some (.vfoldSum p vd va sr) else if mode = 1 then some (.vfoldMax p vd va sr) else none
  | 0x31 => if plain && vd == 0 && vb == 0 then some (.vget p va sr) else none
  | 0x32 => if plain && vb == 0 && sr == 0 then some (.vmov p vd va) else none
  | _ => none

/-- The memory instructions of opcode 0x38 (R379). -/
def awlM (p : Nat) (w : Word) : Option Instr :=
  let ra := wf w 21 5
  let rb := wf w 16 5
  let rc := wf w 11 5
  let rn := wf w 6 5
  match wf w 0 6 with
  | 0 => if rc = 0 then some (.mld p ra rb rn) else none
  | 1 => if rc = 0 then some (.mst p ra rb rn) else none
  | 2 => some (.mred p ra rb rc rn)
  | 3 => some (.fld p ra rb rc rn)
  | 4 => if rc = 0 && rn = 0 then some (.hld p ra rb) else none
  | 5 => if rc = 0 && rn = 0 then some (.xlat p ra rb) else none
  | 6 => if rc = 0 && rn = 0 then some (.xlata p ra rb) else none
  | 7 => some (.pgath p ra rb rc rn)
  | 8 => some (.fst p ra rb rc rn)
  | 9 => if rn = 0 then some (.hst p ra rb rc) else none
  | _ => none

/-- The instruction of Awl p that a word encodes; none for a word that raises ILLEGAL by its encoding (R371). -/
def awlDecode (p : Nat) (w : Word) : Option Instr :=
  let op := wf w 26 6
  if op = 1 then awlR p w
  else if op < 0x20 then awlI p w
  else if op < 0x38 then awlV p w
  else if op = 0x38 then awlM p w
  else none

/-! ### Issue (R363, R384) -/

/-- The word at the program counter. -/
def Awl.word (a : Awl) : Option Word := a.words[a.pc / 4]?

/-- A part runs by code on Awl p, and its next instruction may issue: the unit and the groups above it are in service, and the
block is neither safe nor in emergency. A quiescing unit lets its part run (R395). -/
def State.runsCode (s : State) (p : Nat) : Bool :=
  let a := s.awl p
  decide (p < 136) && a.byCode && a.ending.isNone && a.st == .running &&
  (UnitId.awl p).path.all (fun u => let t := (s.fr u).st; t != .fenced && t != .resetting && t != .gated) &&
  !s.safe.on && s.seq.therm != .stopped && s.seq.therm != .emergency

/-- The next word of Awl p encodes instruction i. -/
def State.nextIs (s : State) (p : Nat) (i : Instr) : Bool := s.runsCode p && (s.awl p).word.bind (awlDecode p) == some i

/-- An XLAT or XLATA outstanding will write scalar register r (R380). -/
def Awl.pendingS (a : Awl) (r : Nat) : Bool := r != 0 && a.memq.any fun o => (o.func == 5 || o.func == 6) && o.dest == r

/-- A parity error in a resident line: the image is discarded and its code read again (R384). -/
def State.reloadCode (s : State) (p : Nat) : State :=
  let a := s.awl p
  match a.part with
  | none => s
  | some q =>
    let at' := a.imgAddr.toNat + 64
    match s.posted (ownAwl p) q.cls fun s => s.ask (s.paBytes at' q.origin a.imgLen.toNat) with
    | (.error (c, _), s) =>
      let s := s.onAwl p fun a => { a with resident := false }
      if isData c then s.trap p (trapOf false c) c a.pc at' else s.trap p 8 cBAD a.pc at'
    | (.ok code, s) =>
      if crc32 code != a.imgCrc then (s.onAwl p fun a => { a with resident := false }).trap p 0xE cBAD a.pc a.imgAddr.toNat
      else s.onAwl p fun a => { a with
        code := (chunks 4 code (code.length / 4)).map fun b => BitVec.ofNat 32 (leNat b), loads := satAdd a.loads 1 }

/-- The checks of an instruction's fetch and registers: armed sources fire (R384, R405). -/
def State.fetchChecks (s : State) (p : Nat) : State :=
  let s := s.check (.awl p) 4 false
  if (s.awl p).kind = 1 then
    match s.fire (.awl p) 0 false with
    | (true, s) => if s.runsCode p then (s.report (.awl p) 0).reloadCode p else s.report (.awl p) 0
    | (false, s) => s
  else s.check (.awl p) 2 false

/-- Instruction i of Awl p issues when its word is next and none of its scalar registers is pending (R363); else it waits, and
nothing changes. -/
def State.issue (s : State) (p : Nat) (i : Instr) (regs : List Nat) (run : Awl → State → State) : State :=
  if !s.nextIs p i || regs.any (s.awl p).pendingS then s
  else
    let s := s.fetchChecks p
    if s.nextIs p i then run (s.awl p) s else s

/-! ### Registers -/

/-- Scalar register n. -/
def Awl.s (a : Awl) (n : Nat) : Dword := a.sreg.getD n 0
/-- Vector register n. -/
def Awl.v (a : Awl) (n : Nat) : BitVec 4096 := a.vreg.getD n 0

/-- Write a scalar register of Awl p. -/
def State.putS (s : State) (p d : Nat) (v : Dword) : State := s.onAwl p fun a => { a with sreg := setS a.sreg d v }
/-- Write a vector register of Awl p. -/
def State.putV (s : State) (p d : Nat) (v : BitVec 4096) : State := s.onAwl p fun a => { a with vreg := upd a.vreg d fun _ => v }

/-! ### Traps and the program counter (R381) -/

/-- A trap that concerns no address: TRAP_ADDR is a free value (log 6). -/
def State.trapBare (s : State) (p cause : Nat) (code : BitVec 4) (pc : Nat) : State :=
  let (lo, s) := s.takeFree
  let (hi, s) := s.takeFree
  s.trap p cause code pc (lo.toNat + 2 ^ 32 * (hi.toNat % 65536))

/-- ILLEGAL at the program counter. -/
def State.illegal (s : State) (p : Nat) : State := s.trapBare p 5 cBAD (s.awl p).pc

/-- The instruction at the program counter has issued: it took `cost` issue cycles (R382), and the target issues next; one outside
the code raises PC_RANGE (R373). -/
def State.goTo (s : State) (p cost : Nat) (t : Int) : State :=
  let s := s.countAwl p 1
  let s := s.onAwl p fun a => { a with cycle := a.cycle + BitVec.ofNat 64 cost, pc := (t % 32768).toNat }
  if t % 4 != 0 || t < 0 || 4 * ((s.awl p).words.length : Int) ≤ t then s.trapBare p 0xB cBAD (t % 32768).toNat else s

/-- The next instruction in sequence issues next. -/
def State.goOn (s : State) (p cost : Nat) : State := s.goTo p cost ((s.awl p).pc + 4)

/-! ### Scratch (R362, R373, R380) -/

/-- Two byte ranges meet. -/
def meets (a n b m : Nat) : Bool := a < b + m && b < a + n

/-- An outstanding operation writes some of n scratch bytes from a. -/
def Awl.scrWritten (a : Awl) (x n : Nat) : Bool := a.memq.any fun o => o.write && meets o.sc o.scLen x n
/-- An outstanding operation writes or reads some of them. -/
def Awl.scrBusy (a : Awl) (x n : Nat) : Bool := a.memq.any fun o => meets o.sc o.scLen x n

/-- The trap of n scratch bytes at x that must start at a multiple of al: MISALIGN, then SCRATCH_RANGE. -/
def scrFault (x n al : Nat) : Option Nat := if x % al != 0 then some 6 else if 0x40000 < x + n then some 7 else none

/-- An instruction reads n scratch bytes at x, aligned to al: it traps, waits for an outstanding operation that writes them, or runs
with the bytes. -/
def State.scrIn (s : State) (p x n al : Nat) (run : List Byte → State → State) : State :=
  match scrFault x n al with
  | some c => s.trap p c cBAD (s.awl p).pc x
  | none =>
    if (s.awl p).scrWritten x n then s
    else
      let pc := (s.awl p).pc
      let s := s.check (.awl p) 3 false
      if s.runsCode p && (s.awl p).pc == pc then run (scrRead (s.awl p).scr x n) s else s

/-- An instruction writes bytes to scratch at x, aligned to al: it traps, waits, or they are written and it runs on. -/
def State.scrOut (s : State) (p x al : Nat) (bs : List Byte) (run : State → State) : State :=
  match scrFault x bs.length al with
  | some c => s.trap p c cBAD (s.awl p).pc x
  | none =>
    if (s.awl p).scrBusy x bs.length then s
    else
      let pc := (s.awl p).pc
      let s := s.check (.awl p) 3 false
      if s.runsCode p && (s.awl p).pc == pc then run (s.onAwl p fun a => { a with scr := scrWrite a.scr x bs }) else s

/-- ILLEGAL_INSTRUCTION (R371, R381): the word at the program counter encodes no instruction. -/
def State.illegalNext (s : State) (p : Nat) : State :=
  if s.runsCode p && ((s.awl p).word.bind (awlDecode p)).isNone then
    let s := s.fetchChecks p
    if s.runsCode p && ((s.awl p).word.bind (awlDecode p)).isNone then s.illegal p else s
  else s
/-- ILLEGAL_INSTRUCTION. -/
def execIllegalInstruction (p : Nat) (s : State) : Out := .next (s.illegalNext p)

end Sys2Proof.Machine
end

