-- ==== Sys2Proof/Machine/Scalar.lean ====
section
/-! DEFINITION. The scalar instructions of an Awl, one meaning each (R362, R364, R368, R373, R374). -/

namespace Sys2Proof.Machine

/-! ### Shared forms -/

/-- rd = f(rs1, rs2). -/
def State.alu (s : State) (p : Nat) (i : Instr) (rd rs1 rs2 cost : Nat) (f : Dword → Dword → Dword) : State :=
  s.issue p i [rd, rs1, rs2] fun a s => (s.putS p rd (f (a.s rs1) (a.s rs2))).goOn p cost

/-- rd = f(rs1). -/
def State.alu1 (s : State) (p : Nat) (i : Instr) (rd rs1 cost : Nat) (f : Dword → Dword) : State :=
  s.issue p i [rd, rs1] fun a s => (s.putS p rd (f (a.s rs1))).goOn p cost

/-- Bits 31:0 of a scalar register. -/
def lo32 (d : Dword) : Word := d.truncate 32
/-- An fp32 result, zero-extended. -/
def zx32 (w : Word) : Dword := w.zeroExtend 64
/-- An fp32 operation on bits 31:0 of its operands, zero-extended (R373). -/
def onLo (f : Word → Word → Word) (a b : Dword) : Dword := zx32 (f (lo32 a) (lo32 b))
/-- 1 or 0. -/
def flag64 (b : Bool) : Dword := if b then 1 else 0
/-- Sign-extended and zero-extended immediates. -/
def sx16 (i : BitVec 16) : Dword := i.signExtend 64
/-- Zero-extended immediate. -/
def zx16 (i : BitVec 16) : Dword := i.zeroExtend 64

/-- Shifts by the low 6 bits of the amount (R373). -/
def shl64 (a b : Dword) : Dword := a <<< (b.toNat % 64)
/-- Logical right shift. -/
def shr64 (a b : Dword) : Dword := a >>> (b.toNat % 64)
/-- Arithmetic right shift. -/
def sar64 (a b : Dword) : Dword := a.sshiftRight (b.toNat % 64)
/-- Unsigned quotient; a divisor of 0 gives all ones. -/
def divu64 (a b : Dword) : Dword := if b = 0 then BitVec.allOnes 64 else a / b
/-- Unsigned remainder; a divisor of 0 gives the dividend. -/
def remu64 (a b : Dword) : Dword := if b = 0 then a else a % b

/-- The comparisons of the branches. -/
def State.branch (s : State) (p : Nat) (i : Instr) (rs1 rs2 : Nat) (off : BitVec 16) (c : Dword → Dword → Bool) : State :=
  s.issue p i [rs1, rs2] fun a s => if c (a.s rs1) (a.s rs2) then s.goTo p 3 (a.pc + 4 * off.toInt) else s.goOn p 1

/-- Scratch address rs1 + sext(imm). -/
def scrAddr (a : Awl) (rs1 : Nat) (imm : BitVec 16) : Nat := (a.s rs1 + sx16 imm).toNat

/-- rd = zext of n scratch bytes. -/
def State.loadS (s : State) (p : Nat) (i : Instr) (rd rs1 : Nat) (imm : BitVec 16) (n : Nat) : State :=
  s.issue p i [rd, rs1] fun a s =>
    s.scrIn p (scrAddr a rs1 imm) n n fun bs s => (s.putS p rd (BitVec.ofNat 64 (leNat bs))).goOn p 1

/-- n scratch bytes = the low bytes of rd. -/
def State.storeS (s : State) (p : Nat) (i : Instr) (rd rs1 : Nat) (imm : BitVec 16) (n : Nat) : State :=
  s.issue p i [rd, rs1] fun a s => s.scrOut p (scrAddr a rs1 imm) n (leBytes (a.s rd).toNat n) fun s => s.goOn p 1

/-- rd = a state register (R374). -/
def State.mfs (s : State) (p : Nat) (i : Instr) (rd : Nat) (v : State → Dword) : State :=
  s.issue p i [rd] fun _ s => (s.putS p rd (v s)).goOn p 1

/-! ### R-type (R373) -/

/-- ADD (R373). -/
def execAAdd (p rd rs1 rs2 : Nat) (s : State) : Out := .next (s.alu p (.aAdd p rd rs1 rs2) rd rs1 rs2 1 (· + ·))
/-- SUB (R373). -/
def execASub (p rd rs1 rs2 : Nat) (s : State) : Out := .next (s.alu p (.aSub p rd rs1 rs2) rd rs1 rs2 1 (· - ·))
/-- AND (R373). -/
def execAAnd (p rd rs1 rs2 : Nat) (s : State) : Out := .next (s.alu p (.aAnd p rd rs1 rs2) rd rs1 rs2 1 (· &&& ·))
/-- OR (R373). -/
def execAOr (p rd rs1 rs2 : Nat) (s : State) : Out := .next (s.alu p (.aOr p rd rs1 rs2) rd rs1 rs2 1 (· ||| ·))
/-- XOR (R373). -/
def execAXor (p rd rs1 rs2 : Nat) (s : State) : Out := .next (s.alu p (.aXor p rd rs1 rs2) rd rs1 rs2 1 (· ^^^ ·))
/-- SLL (R373). -/
def execASll (p rd rs1 rs2 : Nat) (s : State) : Out := .next (s.alu p (.aSll p rd rs1 rs2) rd rs1 rs2 1 shl64)
/-- SRL (R373). -/
def execASrl (p rd rs1 rs2 : Nat) (s : State) : Out := .next (s.alu p (.aSrl p rd rs1 rs2) rd rs1 rs2 1 shr64)
/-- SRA (R373). -/
def execASra (p rd rs1 rs2 : Nat) (s : State) : Out := .next (s.alu p (.aSra p rd rs1 rs2) rd rs1 rs2 1 sar64)
/-- SLT (R373). -/
def execASlt (p rd rs1 rs2 : Nat) (s : State) : Out := .next (s.alu p (.aSlt p rd rs1 rs2) rd rs1 rs2 1 (fun a b => flag64 (a.slt b)))
/-- SLTU (R373). -/
def execASltu (p rd rs1 rs2 : Nat) (s : State) : Out := .next (s.alu p (.aSltu p rd rs1 rs2) rd rs1 rs2 1 (fun a b => flag64 (a.ult b)))
/-- MUL (R373). -/
def execAMul (p rd rs1 rs2 : Nat) (s : State) : Out := .next (s.alu p (.aMul p rd rs1 rs2) rd rs1 rs2 1 (· * ·))
/-- DIVU (R373). -/
def execADivu (p rd rs1 rs2 : Nat) (s : State) : Out := .next (s.alu p (.aDivu p rd rs1 rs2) rd rs1 rs2 20 divu64)
/-- REMU (R373). -/
def execARemu (p rd rs1 rs2 : Nat) (s : State) : Out := .next (s.alu p (.aRemu p rd rs1 rs2) rd rs1 rs2 20 remu64)
/-- FADD (R373). -/
def execAFadd (p rd rs1 rs2 : Nat) (s : State) : Out := .next (s.alu p (.aFadd p rd rs1 rs2) rd rs1 rs2 1 (onLo add32))
/-- FSUB (R373). -/
def execAFsub (p rd rs1 rs2 : Nat) (s : State) : Out := .next (s.alu p (.aFsub p rd rs1 rs2) rd rs1 rs2 1 (onLo sub32))
/-- FMUL (R373). -/
def execAFmul (p rd rs1 rs2 : Nat) (s : State) : Out := .next (s.alu p (.aFmul p rd rs1 rs2) rd rs1 rs2 1 (onLo mul32))
/-- FDIV (R373). -/
def execAFdiv (p rd rs1 rs2 : Nat) (s : State) : Out := .next (s.alu p (.aFdiv p rd rs1 rs2) rd rs1 rs2 12 (onLo div32))
/-- FMIN (R373). -/
def execAFmin (p rd rs1 rs2 : Nat) (s : State) : Out := .next (s.alu p (.aFmin p rd rs1 rs2) rd rs1 rs2 1 (onLo min32))
/-- FMAX (R373). -/
def execAFmax (p rd rs1 rs2 : Nat) (s : State) : Out := .next (s.alu p (.aFmax p rd rs1 rs2) rd rs1 rs2 1 (onLo max32))
/-- FLT (R373). -/
def execAFlt (p rd rs1 rs2 : Nat) (s : State) : Out := .next (s.alu p (.aFlt p rd rs1 rs2) rd rs1 rs2 1 (fun a b => flag64 (fLt (dec32 (lo32 a)) (dec32 (lo32 b)))))
/-- FEQ (R373). -/
def execAFeq (p rd rs1 rs2 : Nat) (s : State) : Out := .next (s.alu p (.aFeq p rd rs1 rs2) rd rs1 rs2 1 (fun a b => flag64 (fEq (dec32 (lo32 a)) (dec32 (lo32 b)))))
/-- FTOI (R373). -/
def execAFtoi (p rd rs1 : Nat) (s : State) : Out := .next (s.alu1 p (.aFtoi p rd rs1) rd rs1 1 fun a => BitVec.ofInt 64 (ftoi32 (lo32 a)))
/-- ITOF (R373). -/
def execAItof (p rd rs1 : Nat) (s : State) : Out := .next (s.alu1 p (.aItof p rd rs1) rd rs1 1 fun a => zx32 (itof32 a.toInt))

/-! ### I-type (R373) -/

/-- ADDI (R373). -/
def execAAddi (p rd rs1 : Nat) (imm : BitVec 16) (s : State) : Out := .next (s.alu1 p (.aAddi p rd rs1 imm) rd rs1 1 fun a => a + sx16 imm)
/-- ANDI (R373). -/
def execAAndi (p rd rs1 : Nat) (imm : BitVec 16) (s : State) : Out := .next (s.alu1 p (.aAndi p rd rs1 imm) rd rs1 1 fun a => a &&& zx16 imm)
/-- ORI (R373). -/
def execAOri (p rd rs1 : Nat) (imm : BitVec 16) (s : State) : Out := .next (s.alu1 p (.aOri p rd rs1 imm) rd rs1 1 fun a => a ||| zx16 imm)
/-- XORI (R373). -/
def execAXori (p rd rs1 : Nat) (imm : BitVec 16) (s : State) : Out := .next (s.alu1 p (.aXori p rd rs1 imm) rd rs1 1 fun a => a ^^^ zx16 imm)
/-- LSH (R373). -/
def execALsh (p rd rs1 : Nat) (imm : BitVec 16) (s : State) : Out := .next (s.alu1 p (.aLsh p rd rs1 imm) rd rs1 1 fun a => (a <<< 16) ||| zx16 imm)
/-- SHI, kind SLL (R373). -/
def execAShiSll (p rd rs1 : Nat) (amt : BitVec 6) (s : State) : Out := .next (s.alu1 p (.aShiSll p rd rs1 amt) rd rs1 1 fun a => a <<< amt.toNat)
/-- SHI, kind SRL (R373). -/
def execAShiSrl (p rd rs1 : Nat) (amt : BitVec 6) (s : State) : Out := .next (s.alu1 p (.aShiSrl p rd rs1 amt) rd rs1 1 fun a => a >>> amt.toNat)
/-- SHI, kind SRA (R373). -/
def execAShiSra (p rd rs1 : Nat) (amt : BitVec 6) (s : State) : Out := .next (s.alu1 p (.aShiSra p rd rs1 amt) rd rs1 1 fun a => a.sshiftRight amt.toNat)
/-- LUI (R373). -/
def execALui (p rd : Nat) (imm : BitVec 16) (s : State) : Out := .next (s.alu1 p (.aLui p rd imm) rd 0 1 fun _ => sx16 imm <<< 16)

/-- LW (R373). -/
def execALw (p rd rs1 : Nat) (imm : BitVec 16) (s : State) : Out := .next (s.loadS p (.aLw p rd rs1 imm) rd rs1 imm 4)
/-- LD (R373). -/
def execALd (p rd rs1 : Nat) (imm : BitVec 16) (s : State) : Out := .next (s.loadS p (.aLd p rd rs1 imm) rd rs1 imm 8)
/-- SW (R373). -/
def execASw (p rd rs1 : Nat) (imm : BitVec 16) (s : State) : Out := .next (s.storeS p (.aSw p rd rs1 imm) rd rs1 imm 4)
/-- SD (R373). -/
def execASd (p rd rs1 : Nat) (imm : BitVec 16) (s : State) : Out := .next (s.storeS p (.aSd p rd rs1 imm) rd rs1 imm 8)

/-! ### Branches and jumps (R373) -/

/-- BEQ (R373). -/
def execABeq (p rs1 rs2 : Nat) (off : BitVec 16) (s : State) : Out := .next (s.branch p (.aBeq p rs1 rs2 off) rs1 rs2 off (· == ·))
/-- BNE (R373). -/
def execABne (p rs1 rs2 : Nat) (off : BitVec 16) (s : State) : Out := .next (s.branch p (.aBne p rs1 rs2 off) rs1 rs2 off (· != ·))
/-- BLT (R373). -/
def execABlt (p rs1 rs2 : Nat) (off : BitVec 16) (s : State) : Out := .next (s.branch p (.aBlt p rs1 rs2 off) rs1 rs2 off BitVec.slt)
/-- BGE (R373). -/
def execABge (p rs1 rs2 : Nat) (off : BitVec 16) (s : State) : Out := .next (s.branch p (.aBge p rs1 rs2 off) rs1 rs2 off (fun a b => !a.slt b))
/-- BLTU (R373). -/
def execABltu (p rs1 rs2 : Nat) (off : BitVec 16) (s : State) : Out := .next (s.branch p (.aBltu p rs1 rs2 off) rs1 rs2 off BitVec.ult)
/-- BGEU (R373). -/
def execABgeu (p rs1 rs2 : Nat) (off : BitVec 16) (s : State) : Out := .next (s.branch p (.aBgeu p rs1 rs2 off) rs1 rs2 off (fun a b => !a.ult b))
/-- JAL (R373). -/
def execAJal (p : Nat) (off : BitVec 26) (s : State) : Out :=
  .next (s.issue p (.aJal p off) [31] fun a s => (s.putS p 31 (BitVec.ofNat 64 (a.pc + 4))).goTo p 3 (a.pc + 4 * off.toInt))
/-- JALR (R373): rs1 is read before rd is written. -/
def execAJalr (p rd rs1 : Nat) (imm : BitVec 16) (s : State) : Out :=
  .next (s.issue p (.aJalr p rd rs1 imm) [rd, rs1] fun a s =>
    (s.putS p rd (BitVec.ofNat 64 (a.pc + 4))).goTo p 3 ((a.s rs1 + sx16 imm).toNat : Int))

/-! ### State and system (R368, R374) -/

/-- MFS CYCLE (R374): issue cycles so far, and the cycles the Awl has waited, which the model leaves open (log 6). -/
def execMfsCycle (p rd : Nat) (s : State) : Out :=
  .next (s.issue p (.mfsCycle p rd) [rd] fun _ s =>
    let (w, s) := s.takeFree
    let s := s.onAwl p fun a => { a with cycle := a.cycle + zx32 w }
    (s.putS p rd (s.awl p).cycle).goOn p 1)
/-- MFS ELAPSED (R374). -/
def execMfsElapsed (p rd : Nat) (s : State) : Out := .next (s.mfs p (.mfsElapsed p rd) rd fun s => s.mgmt.elapsed)
/-- MFS PHYS (R374). -/
def execMfsPhys (p rd : Nat) (s : State) : Out := .next (s.mfs p (.mfsPhys p rd) rd fun _ => BitVec.ofNat 64 p)
/-- MFS GRAN (R374). -/
def execMfsGran (p rd : Nat) (s : State) : Out := .next (s.mfs p (.mfsGran p rd) rd fun s => BitVec.ofNat 64 s.grans)
/-- MFS OUTST (R374). -/
def execMfsOutst (p rd : Nat) (s : State) : Out :=
  .next (s.mfs p (.mfsOutst p rd) rd fun s => BitVec.ofNat 64 (s.awl p).memq.length)
/-- MFS ISA (R374). -/
def execMfsIsa (p rd : Nat) (s : State) : Out := .next (s.mfs p (.mfsIsa p rd) rd fun _ => 1)

/-- SYS HALT (R368): the part will end OK once its memory operations are done. -/
def execSysHalt (p : Nat) (s : State) : Out := .next (s.issue p (.sysHalt p) [] fun _ s => (s.countAwl p 1).ending p cOK 0)

/-- The code a FAIL ends its part with: OK, HELD, GRAPH_CYCLE, ENGINE_LOST and reserved codes give BAD_REQUEST (R8, R368). -/
def failCode (c : BitVec 4) : BitVec 4 :=
  if c = cPOISON || c = cFENCED || c = cABORTED || c = cEXHAUSTED || c = cBROKEN || c = cINCOMPLETE then c else cBAD
/-- SYS FAIL (R368, R381). -/
def execSysFail (p rs1 : Nat) (s : State) : Out :=
  .next (s.issue p (.sysFail p rs1) [rs1] fun a s => (s.countAwl p 1).trapBare p 0xD (failCode ((a.s rs1).truncate 4)) a.pc)
/-- SYS MWAIT (R373): waits until at most min(rs1, 16) operations are outstanding. -/
def execSysMwait (p rs1 : Nat) (s : State) : Out :=
  .next (s.issue p (.sysMwait p rs1) [rs1] fun a s => if min (a.s rs1).toNat 16 < a.memq.length then s else s.goOn p 1)
/-- SYS NOP (R373). -/
def execSysNop (p : Nat) (s : State) : Out := .next (s.issue p (.sysNop p) [] fun _ s => s.goOn p 1)

end Sys2Proof.Machine
end

