-- ==== Sys2Proof/Machine/Vector.lean ====
section
/-! DEFINITION. The vector instructions of an Awl, one meaning each (R346, R347, R364, R372, R375-R378). -/

namespace Sys2Proof.Machine

/-! ### Elements of a vector register (R372) -/

/-- The elements of z bits, element 0 in the lowest bits. -/
def vList (z : Nat) (v : BitVec 4096) : List Nat := (List.range (4096 / z)).map fun i => bits v.toNat (z * i) z
/-- The register of elements of z bits. -/
def vOf (z : Nat) (l : List Nat) : BitVec 4096 := BitVec.ofNat 4096 (l.foldr (fun e a => e % 2 ^ z + 2 ^ z * a) 0)
/-- The 128 fp32 elements. -/
def vWords (v : BitVec 4096) : List Word := (vList 32 v).map (BitVec.ofNat 32)
/-- The register of 128 fp32 elements. -/
def vOfWords (l : List Word) : BitVec 4096 := vOf 32 (l.map (·.toNat))
/-- Elements from index k on replaced. -/
def vPut (z k : Nat) (l : List Nat) (v : BitVec 4096) : BitVec 4096 :=
  vOf z ((vList z v).zipIdx.map fun (e, i) => if k ≤ i then (l[i - k]?).getD e else e)
/-- Element index in a scalar register: its low 7 bits (R375). -/
def vIdx (d : Dword) : Nat := d.toNat % 128

/-! ### Shared forms -/

/-- vd = f(va, vb), elementwise on fp32. -/
def State.vec2 (s : State) (p : Nat) (i : Instr) (vd va vb : Nat) (f : Word → Word → Word) : State :=
  s.issue p i [] fun a s => (s.putV p vd (vOfWords (List.zipWith f (vWords (a.v va)) (vWords (a.v vb))))).goOn p 1

/-- A fold of the first n elements of va into element 0 of vd; n is s[sr], 1 to 128 (R375). -/
def State.vfold (s : State) (p : Nat) (i : Instr) (vd va sr : Nat) (f : List Word → Word) : State :=
  s.issue p i [sr] fun a s =>
    let n := (a.s sr).toNat
    if n = 0 || 128 < n then s.illegal p
    else (s.putV p vd (vPut 32 0 [(f ((vWords (a.v va)).take n)).toNat] (a.v vd))).goOn p (n + 2)

/-- +0 and then each element in order (R375, VFOLD mode 0). -/
def foldSum (l : List Word) : Word := l.foldl add32 0
/-- The running maximum, replaced only on strictly greater; NaN if any element is (VFOLD mode 1). -/
def foldMax (l : List Word) : Word :=
  match l with
  | [] => 0
  | x :: l => l.foldl max32 (if isNan32 x then nan32 else x)

/-! ### Moves (R375) -/

/-- VLD. -/
def execVld (p vd sr : Nat) (s : State) : Out :=
  .next (s.issue p (.vld p vd sr) [sr] fun a s =>
    s.scrIn p (a.s sr).toNat 512 4 fun bs s => (s.putV p vd (BitVec.ofNat 4096 (leNat bs))).goOn p 1)
/-- VST. -/
def execVst (p va sr : Nat) (s : State) : Out :=
  .next (s.issue p (.vst p va sr) [sr] fun a s => s.scrOut p (a.s sr).toNat 4 (leBytes (a.v va).toNat 512) fun s => s.goOn p 1)
/-- VBCAST: fp32, or bf16 with fmt 1. -/
def execVbcast (p vd sr fmt : Nat) (s : State) : Out :=
  .next (s.issue p (.vbcast p vd sr fmt) [sr] fun a s =>
    let z := fmtBits fmt
    (s.putV p vd (vOf z (List.replicate (4096 / z) ((a.s sr).toNat % 2 ^ z)))).goOn p 1)
/-- VIOTA: fp32(s[sr] + i), to nearest even. -/
def execViota (p vd sr : Nat) (s : State) : Out :=
  .next (s.issue p (.viota p vd sr) [sr] fun a s =>
    (s.putV p vd (vOfWords ((List.range 128).map fun i => itof32 ((a.s sr).toInt + i)))).goOn p 1)
/-- VGET: s[sr] = bits of va[k], k = s[sr]. -/
def execVget (p va sr : Nat) (s : State) : Out :=
  .next (s.issue p (.vget p va sr) [sr] fun a s => (s.putS p sr (zx32 ((vWords (a.v va)).getD (vIdx (a.s sr)) 0))).goOn p 1)
/-- VMOV. -/
def execVmov (p vd va : Nat) (s : State) : Out := .next (s.issue p (.vmov p vd va) [] fun a s => (s.putV p vd (a.v va)).goOn p 1)

/-! ### Conversion (R376, R377) -/

/-- VCVT of the elements of a register, with the scales of its mode. -/
def vcvtElems (fmt sel mode : Nat) (v : BitVec 4096) (mx : List Byte) (sc : Word) : BitVec 4096 :=
  let n := if bitN mode 0 then 256 else 128
  let out := (((vList (fmtBits fmt) v).drop (n * sel)).take n).zipIdx.map fun (c, i) =>
    let e := elemDec fmt c
    enc32 (match bits mode 1 2 with
      | 1 => fMul e (e8m0 (mx.getD (i / 32) 0).toNat)
      | 2 => fMul e (dec32 sc)
      | _ => e)
  if bitN mode 0 then vOf 16 (out.map toB) else vOfWords out
/-- VCVT (R376). -/
def execVcvt (p vd va sr fmt sel mode : Nat) (s : State) : Out :=
  .next (s.issue p (.vcvt p vd va sr fmt sel mode) [sr] fun a s =>
    let run := fun (mx : List Byte) (s : State) => (s.putV p vd (vcvtElems fmt sel mode (a.v va) mx (lo32 (a.s sr)))).goOn p 1
    if bits mode 1 2 = 1 then s.scrIn p (a.s sr).toNat (if bitN mode 0 then 8 else 4) 1 run else run [] s)
/-- VPACK (R377). -/
def execVpack (p vd va fmt sel : Nat) (s : State) : Out :=
  .next (s.issue p (.vpack p vd va fmt sel) [] fun a s =>
    (s.putV p vd (vPut (fmtBits fmt) (128 * sel) ((vWords (a.v va)).map fun w => elemEnc fmt (dec32 w)) (a.v vd))).goOn p 1)

/-! ### Dot products (R378) -/

/-- Products of two registers of a format, each rounded to fp32. -/
def vProducts (fmt : Nat) (x y : BitVec 4096) : List Word :=
  List.zipWith (fun a b => enc32 (fMul (elemDec fmt a) (elemDec fmt b))) (vList (fmtBits fmt) x) (vList (fmtBits fmt) y)
/-- The segment results of a VDOT: chunk sums of 32 products, added in order over L chunks. -/
def vDots (fmt l : Nat) (x y : BitVec 4096) : List Word :=
  let n := vElems fmt / 32
  let sums := (chunks 32 (vProducts fmt x y) n).map treeSum
  (chunks l sums (n / l)).map fun c => c.foldl add32 0
/-- VDOT (R378). -/
def execVdot (p vd va vb sr fmt mode : Nat) (s : State) : Out :=
  .next (s.issue p (.vdot p vd va vb sr fmt mode) [sr] fun a s =>
    let r := vElems fmt / 32 / 2 ^ mode
    let k := vIdx (a.s sr)
    if r < 1 || 128 < k + r then s.illegal p
    else ((s.putV p vd (vPut 32 k ((vDots fmt (2 ^ mode) (a.v va) (a.v vb)).map (·.toNat)) (a.v vd))).countAwl p 2 none (vElems fmt)).goOn p 1)

/-! ### Arithmetic (R375) -/

/-- VADD. -/
def execVadd (p vd va vb : Nat) (s : State) : Out := .next (s.vec2 p (.vadd p vd va vb) vd va vb add32)
/-- VSUB. -/
def execVsub (p vd va vb : Nat) (s : State) : Out := .next (s.vec2 p (.vsub p vd va vb) vd va vb sub32)
/-- VMUL. -/
def execVmul (p vd va vb : Nat) (s : State) : Out := .next (s.vec2 p (.vmul p vd va vb) vd va vb mul32)
/-- VMAX. -/
def execVmax (p vd va vb : Nat) (s : State) : Out := .next (s.vec2 p (.vmax p vd va vb) vd va vb max32)
/-- VMIN. -/
def execVmin (p vd va vb : Nat) (s : State) : Out := .next (s.vec2 p (.vmin p vd va vb) vd va vb min32)
/-- VFMA: 128 multiply-accumulates. -/
def execVfma (p vd va vb : Nat) (s : State) : Out :=
  .next (s.issue p (.vfma p vd va vb) [] fun a s =>
    let m := List.zipWith (fun (x y : Word) => (x, y)) (vWords (a.v va)) (vWords (a.v vb))
    ((s.putV p vd (vOfWords (List.zipWith (fun e d => fma32 e.1 e.2 d) m (vWords (a.v vd))))).countAwl p 2 none 128).goOn p 1)
/-- VEXP (R347). -/
def execVexp (p vd va : Nat) (s : State) : Out :=
  .next (s.issue p (.vexp p vd va) [] fun a s => (s.putV p vd (vOfWords ((vWords (a.v va)).map exp32))).goOn p 2)
/-- VMULS. -/
def execVmuls (p vd va sr : Nat) (s : State) : Out :=
  .next (s.issue p (.vmuls p vd va sr) [sr] fun a s =>
    (s.putV p vd (vOfWords ((vWords (a.v va)).map fun x => mul32 x (lo32 (a.s sr))))).goOn p 1)
/-- SACC: vd[i] = fma(vb[k], va[i], vd[i]), k = s[sr]; 128 multiply-accumulates. -/
def execSacc (p vd va vb sr : Nat) (s : State) : Out :=
  .next (s.issue p (.sacc p vd va vb sr) [sr] fun a s =>
    let m := (vWords (a.v vb)).getD (vIdx (a.s sr)) 0
    ((s.putV p vd (vOfWords (List.zipWith (fun x d => fma32 m x d) (vWords (a.v va)) (vWords (a.v vd))))).countAwl p 2 none 128).goOn p 1)
/-- VFOLD mode 0. -/
def execVfoldSum (p vd va sr : Nat) (s : State) : Out := .next (s.vfold p (.vfoldSum p vd va sr) vd va sr foldSum)
/-- VFOLD mode 1. -/
def execVfoldMax (p vd va sr : Nat) (s : State) : Out := .next (s.vfold p (.vfoldMax p vd va sr) vd va sr foldMax)

end Sys2Proof.Machine
end

