-- ==== Sys2Proof/Machine/AwlMem.lean ====
section
/-! DEFINITION. The memory and page-table instructions of an Awl, and the retiring of a memory operation (R367-R370, R379-R381).
An operation is applied whole when it retires, in issue order (log 13). -/

namespace Sys2Proof.Machine

/-! ### Issue (R379, R380) -/

/-- The first trap of an instruction among (raised, cause, address), in the order of the causes of R381. -/
def firstTrap (l : List (Bool × Nat × Option Nat)) : Option (Nat × Option Nat) := (l.find? (·.1)).map (·.2)

/-- Raise a trap of the instruction at the program counter. -/
def State.raise (s : State) (p : Nat) (t : Nat × Option Nat) : State :=
  match t.2 with
  | some a => s.trap p t.1 cBAD (s.awl p).pc a
  | none => s.trapBare p t.1 cBAD (s.awl p).pc

/-- n blocks at a port address lie in one window and under the installed capacity (R72, R381). -/
def State.rangeOk (s : State) (a origin n : Nat) : Bool :=
  (s.winOf a).isSome && (s.winOf a == s.winOf (a + 64 * n - 64)) &&
  (s.decode a origin).isSome && (s.decode (a + 64 * n - 64) origin).isSome

/-- An operation joins the queue, unless its queue is full or scratch it uses is still to be written: then it waits. -/
def State.enqueue (s : State) (p : Nat) (o : MemOp) : State :=
  if 16 ≤ (s.awl p).memq.length || (s.awl p).scrWritten o.sc o.scLen then s
  else
    let pc := (s.awl p).pc
    let s := if o.scLen = 0 then s else s.check (.awl p) 3 false
    if s.runsCode p && (s.awl p).pc == pc then (s.onAwl p fun a => { a with memq := a.memq ++ [o] }).goOn p 1 else s

/-- The committed pages of the part's context: ceil(s5 / s7) as set at the part's start. -/
def Part.pages (q : Part) : Nat :=
  match recDec q.recb with
  | some r => ceilDiv r.committed r.t
  | none => 0

/-- MLD, MST and MRED: s[rn] blocks between scratch s[ra] and address s[rb]. -/
def State.blockOp (s : State) (p : Nat) (i : Instr) (func ra rb rc rn : Nat) (write : Bool) : State :=
  s.issue p i [ra, rb, rc, rn] fun a s =>
    match a.part with
    | none => s
    | some q =>
      let x := (a.s ra).toNat
      let m := (a.s rb).toNat
      let n := (a.s rn).toNat
      match firstTrap [(n = 0 || 4096 < n, 5, none), (x % 64 != 0, 6, some x), (m % 64 != 0, 6, some m), (0x40000 < x + 64 * n, 7, some x),
          (!s.rangeOk m q.lch n, 8, some m)] with
      | some t => s.raise p t
      | none => s.enqueue p { func := func, pc := a.pc, sc := x, scLen := 64 * n, write := write, addr := m, frame := none, blocks := n,
                              rc := (a.s rc).toNat % 2, dest := 0, pages := [] }

/-- FLD and FST: s[rn] blocks of frame s[rb] from byte s[rc]. -/
def State.frameOp (s : State) (p : Nat) (i : Instr) (func ra rb rc rn : Nat) (write : Bool) : State :=
  s.issue p i [ra, rb, rc, rn] fun a s =>
    let x := (a.s ra).toNat
    let f := (a.s rb).toNat % 2 ^ 24
    let b := (a.s rc).toNat
    let n := (a.s rn).toNat
    match firstTrap [(!write && a.kind = 1, 5, none), (n = 0 || 256 < n || 16384 < b + 64 * n, 5, none), (b % 64 != 0, 6, some b),
        (0x40000 < x + 64 * n, 7, some x), (!s.inPools f, 0xA, some f)] with
    | some t => s.raise p t
    | none => s.enqueue p { func := func, pc := a.pc, sc := x, scLen := 64 * n, write := write, addr := b, frame := some f, blocks := n,
                            rc := 0, dest := 0, pages := [] }

/-- MLD (R379). -/
def execMld (p ra rb rn : Nat) (s : State) : Out := .next (s.blockOp p (.mld p ra rb rn) 0 ra rb 0 rn true)
/-- MST (R379). -/
def execMst (p ra rb rn : Nat) (s : State) : Out := .next (s.blockOp p (.mst p ra rb rn) 1 ra rb 0 rn false)
/-- MRED (R379). -/
def execMred (p ra rb rc rn : Nat) (s : State) : Out := .next (s.blockOp p (.mred p ra rb rc rn) 2 ra rb rc rn false)
/-- FLD (R379). -/
def execFld (p ra rb rc rn : Nat) (s : State) : Out := .next (s.frameOp p (.fld p ra rb rc rn) 3 ra rb rc rn true)
/-- FST (R370, R379): a loaded program raises ILLEGAL. -/
def execFst (p ra rb rc rn : Nat) (s : State) : Out := .next (s.frameOp p (.fst p ra rb rc rn) 8 ra rb rc rn false)

/-- HLD (R379). -/
def execHld (p ra rb : Nat) (s : State) : Out :=
  .next (s.issue p (.hld p ra rb) [ra, rb] fun a s =>
    let x := (a.s ra).toNat
    let f := (a.s rb).toNat % 2 ^ 24
    match firstTrap [(0x40000 < x + 256, 7, some x), (!s.inPools f, 0xA, some f)] with
    | some t => s.raise p t
    | none => s.enqueue p { func := 4, pc := a.pc, sc := x, scLen := 256, write := true, addr := 0, frame := some f, blocks := 4, rc := 0,
                            dest := 0, pages := [] })

/-- HST (R370, R379): scratch s[ra] holds header byte s[rc]; a loaded program raises ILLEGAL. -/
def execHst (p ra rb rc : Nat) (s : State) : Out :=
  .next (s.issue p (.hst p ra rb rc) [ra, rb, rc] fun a s =>
    let x := (a.s ra).toNat
    let f := (a.s rb).toNat % 2 ^ 24
    let b := (a.s rc).toNat
    match firstTrap [(a.kind = 1 || 255 < b, 5, none), (0x40000 < x + (256 - b), 7, some x), (!s.inPools f, 0xA, some f)] with
    | some t => s.raise p t
    | none => s.enqueue p { func := 9, pc := a.pc, sc := x, scLen := 256 - b, write := false, addr := b, frame := some f, blocks := 4, rc := 0,
                            dest := 0, pages := [] })

/-- XLAT and XLATA: the page s[rb] for the scalar register ra, which is pending until the operation retires. -/
def State.xlatOp (s : State) (p : Nat) (i : Instr) (func ra rb : Nat) : State :=
  s.issue p i [ra, rb] fun a s =>
    if (a.part.bind (·.ctx)).isNone then s.raise p (9, none)
    else s.enqueue p { func := func, pc := a.pc, sc := 0, scLen := 0, write := false, addr := 0, frame := none, blocks := 0, rc := 0,
                       dest := ra, pages := [(a.s rb).toNat] }
/-- XLAT (R379). -/
def execXlat (p ra rb : Nat) (s : State) : Out := .next (s.xlatOp p (.xlat p ra rb) 5 ra rb)
/-- XLATA (R379). -/
def execXlata (p ra rb : Nat) (s : State) : Out := .next (s.xlatOp p (.xlata p ra rb) 6 ra rb)

/-- PGATH (R379): the list is read at issue. -/
def execPgath (p ra rb rc rn : Nat) (s : State) : Out :=
  .next (s.issue p (.pgath p ra rb rc rn) [ra, rb, rc, rn] fun a s =>
    let x := (a.s ra).toNat
    let y := (a.s rb).toNat
    let n := (a.s rc).toNat
    let first := (a.s rn).toNat % 256
    let blocks := (a.s rn).toNat / 256 % 256 + 1
    match firstTrap [(n = 0 || 1024 < n || 256 < first + blocks, 5, none), (y % 4 != 0, 6, some y),
        (0x40000 < x + 64 * n * blocks, 7, some x), (0x40000 < y + 4 * n, 7, some y), ((a.part.bind (·.ctx)).isNone, 9, none)] with
    | some t => s.raise p t
    | none =>
      if a.scrWritten y (4 * n) then s
      else
        let pages := (List.range n).map fun i => leNat (scrRead a.scr (y + 4 * i) 4) % 2 ^ 20
        let top := ((a.part.map Part.pages).getD 0)
        if pages.any (top ≤ ·) then s.raise p (0xC, none)
        else s.enqueue p { func := 7, pc := a.pc, sc := x, scLen := 64 * n * blocks, write := true, addr := first, frame := none,
                           blocks := blocks, rc := 0, dest := 0, pages := pages })

/-! ### Retiring (R380, R381) -/

/-- A step of a retiring operation: it may trap with a cause, a code and an address. -/
abbrev RM (α : Type) : Type := ExceptT (Nat × BitVec 4 × Nat) (StateM State) α

/-- What an access that answers `code` raises: a data trap, or ADDR. -/
def rTrap {α : Type} (code : BitVec 4) (a : Nat) : RM α :=
  throw (if isData code then (trapOf true code, code, a) else (8, cBAD, a))

/-- Read a block of logical channel l, or trap. -/
def rRead (l x a : Nat) : RM Block := do
  modify fun s => s.touch false l x
  match (← get).memRead l x with
  | (c, b) => if c = cOK then pure b else rTrap c a

/-- Read a block at a port address, or trap. -/
def rReadPa (a origin : Nat) : RM Block := do
  modify fun s => s.touchRd a origin 1
  match (← get).paRead a origin with
  | (c, b) => if c = cOK then pure b else rTrap c a

/-- A write, or a trap. -/
def rWrite (f : State → BitVec 4 × State) (a : Nat) : RM Unit := do
  match f (← get) with
  | (c, s) => if c = cOK then set s else rTrap c a

/-- One block has been read into scratch at x. -/
def rFill (p x : Nat) (b : Block) : RM Unit :=
  modify fun s => (s.onAwl p fun a => { a with scr := scrWrite a.scr x (blockBytes b) }).countAwl p 3

/-- One block of scratch. -/
def rTake (p x n : Nat) : RM (List Byte) := do pure (scrRead ((← get).awl p).scr x n)

/-- Word i of the table block that entry e names; an entry outside the pools raises BAD_FRAME (R268, R379). -/
def rWord (e i : Nat) : RM Nat := do
  let s ← get
  let f := bits e 0 24
  if !s.inPools f then throw (0xA, cBAD, f)
  let x := s.frameGr f * 16384 + blkOff e + 4 * i
  let b ← rRead (s.frameCh f) (x / 64 * 64) f
  pure (blkGet b (x % 64) 4)

/-- The level-3 entry of a page through the translation cache of 32 entries, oldest out first; 0 without one (R274, R380). -/
def rXlat (p : Nat) (q : Part) (pg : Nat) : RM Nat := do
  let s ← get
  let hit := (s.awl p).xlat.find? fun e => e.1 == pg
  let (bad, s) := if hit.isSome then s.fire (.awl p) 1 false else (false, s)
  set (if bad then (s.report (.awl p) 1).onAwl p fun a => { a with xlat := a.xlat.filter fun e => e.1 != pg } else s)
  match (if bad then none else hit) with
  | some e => pure e.2.toNat
  | none =>
    modify fun s => s.countAwl p 9
    let e1 := ((recDec q.recb).getD default).roots.getD (pg / 262144 % 4) 0
    if !bitN e1 31 then pure 0
    else do
      let e2 ← rWord e1 (pg / 512 % 512)
      if !bitN e2 31 then pure 0
      else do
        let e3 ← rWord e2 (pg % 512)
        if bitN e3 31 then
          modify fun s => s.onAwl p fun a => { a with xlat := (a.xlat ++ [(pg, BitVec.ofNat 32 e3)]).drop (a.xlat.length - 31) }
        pure e3

/-- The frame of an entry; none, or one outside the pools, raises BAD_FRAME. -/
def rFrame (e : Nat) : RM Nat := do
  let f := bits e 0 24
  if !bitN e 31 || !(← get).inPools f then throw (0xA, cBAD, f) else pure f

/-- Do a step and keep going: the trap it raised, if any. -/
def rTry (m : RM Unit) : RM (Option (Nat × BitVec 4 × Nat)) := fun s =>
  match m s with
  | (.ok _, s) => (.ok none, s)
  | (.error t, s) => (.ok (some t), s)

/-- Do every step; the first trap stands, and the other blocks complete all the same. -/
def rAll (l : List (RM Unit)) : RM Unit := do
  let r ← l.foldlM (fun e m => do
    let t ← rTry m
    pure (e.orElse fun _ => t)) none
  match r with
  | none => pure ()
  | some t => throw t

/-- A block of scratch has been written to memory. -/
def rWrote (p : Nat) : RM Unit := modify fun s => s.countAwl p 4

/-- The effect of an operation. -/
def rOp (p : Nat) (q : Part) (o : MemOp) : RM Unit := do
  let s ← get
  let idx := List.range o.blocks
  let f := o.frame.getD 0
  let l := s.frameCh f
  let g := s.frameGr f * 16384 + o.addr
  match o.func with
  | 0 => rAll (idx.map fun i => (do rFill p (o.sc + 64 * i) (← rReadPa (o.addr + 64 * i) q.lch) : RM Unit))
  | 1 => rAll (idx.map fun i => (do
      let bs ← rTake p (o.sc + 64 * i) 64
      rWrite (fun s => s.paWrite (o.addr + 64 * i) q.lch (bytesBlock bs)) (o.addr + 64 * i)
      rWrote p : RM Unit))
  | 2 => rAll (idx.map fun i => (do
      let bs ← rTake p (o.sc + 64 * i) 64
      let old ← rReadPa (o.addr + 64 * i) q.lch
      rWrite (fun s => s.paWrite (o.addr + 64 * i) q.lch (redBlock o.rc old (bytesBlock bs))) (o.addr + 64 * i)
      rWrote p : RM Unit))
  | 3 => rAll (idx.map fun i => (do rFill p (o.sc + 64 * i) (← rRead l (g + 64 * i) f) : RM Unit))
  | 4 => rAll (idx.map fun i => (do rFill p (o.sc + 64 * i) (← rReadPa (s.hdrAt f + 64 * i) 0) : RM Unit))
  | 5 =>
    let pg := o.pages.headD 0
    let e ← (if pg < q.pages then rXlat p q pg else pure 0 : RM Nat)
    modify fun s => s.putS p o.dest (BitVec.ofNat 64 e)
  | 6 =>
    let pg := o.pages.headD 0
    let e ← (if pg < q.pages then rXlat p q pg else pure 0 : RM Nat)
    let aux ← (if bitN e 31 then (do
        let f ← rFrame e
        let b ← rReadPa (s.hdrAt f) 0
        pure (if bitN (blkGet b 20 4) 31 then blkGet b 20 4 else 0)) else pure 0 : RM Nat)
    modify fun s => s.putS p o.dest (BitVec.ofNat 64 aux)
  | 7 => rAll (o.pages.zipIdx.map fun (pg, k) => (do
      let f ← rFrame (← rXlat p q pg)
      rAll (idx.map fun i => (do
        let b ← rRead (s.frameCh f) (s.frameGr f * 16384 + 64 * (o.addr + i)) f
        rFill p (o.sc + 64 * (k * o.blocks + i)) b : RM Unit)) : RM Unit))
  | 8 => rAll (idx.map fun i => (do
      let bs ← rTake p (o.sc + 64 * i) 64
      rWrite (fun s => s.memWrite l (g + 64 * i) (bytesBlock bs)) f
      rWrote p : RM Unit))
  | _ =>
    rAll (idx.map fun i => (do
      let lo := max (64 * i) o.addr
      if lo < 64 * (i + 1) then
        let bs ← rTake p (o.sc + (lo - o.addr)) (64 * (i + 1) - lo)
        rWrite (fun s => s.paPatch (s.hdrAt f + lo) 0 bs) (s.hdrAt f + lo)
        rWrote p : RM Unit))

/-- MEM_OP_RETIRE: the oldest operation of Awl p completes, or fails: a failure traps unless the part is already ending with a code
other than OK (R368, R380, R381). -/
def State.retireOp (s : State) (p : Nat) : State :=
  let a := s.awl p
  match a.memq, a.part with
  | o :: rest, some q =>
    if s.safe.on || s.seq.therm == .emergency || s.isFenced (.awl p) || (s.fr (.awl p)).st == .resetting then s
    else s.agent (ownAwl p) q.cls fun s =>
      match (rOp p q o).run.run s with
      | (r, s) =>
        let s := s.onAwl p fun a => { a with memq := rest }
        match r with
        | .ok _ => s
        | .error (cause, code, addr) =>
          if ((s.awl p).ending.map (·.1)).getD cOK = cOK then s.trap p cause code o.pc addr else s
  | _, _ => s
/-- MEM_OP_RETIRE. -/
def execMemOpRetire (p : Nat) (s : State) : Out := .next (s.retireOp p)

end Sys2Proof.Machine
end

