-- ==== Sys2Proof/Machine/Reset.lean ====
section
/-! DEFINITION. Quiesce, drain, wedge and unit reset with the ledger's work (R12, R27, R33, R34, R395-R403), and self-refresh
entry and exit of a channel. -/

namespace Sys2Proof.Machine

/-! ### Self-refresh (R170, R194, R225, R227) -/

/-- The channel's controller drives its Hides: powered, in service, not frozen. -/
def State.drives (s : State) (p : Nat) : Bool := !s.chFenced p && !(s.ctl p).frozen && !(s.ctl p).unpowered

/-- PDE with sr = 1 and mask 0xFF, after any pending ROT; every bank is closed and the link halts (R193, R194). -/
def State.enterSelf (s : State) (p : Nat) : State :=
  if !s.drives p then s
  else (s.onCtl p fun c => { c with
    selfRef := true, pd := 0, lastRow := pdWord 5 true 0xFF
    banks := c.banks.foldl (fun m e => smSet {} m e.1 { ({} : Bank) with trk := e.2.trk }) [] }).haltLink p

/-- A new refresh round at every bank, the deferral counts kept or at 0; a rate that was to fall at a round's start falls (R206, R209,
R227, R398). -/
def State.newRound (s : State) (p : Nat) (keep : Bool) : State :=
  s.onCur p fun c => { c with
    rate := (List.range 8).map fun h => (c.fall.getD h none).getD (c.rate.getD h 0), fall := List.replicate 8 none, fell := []
    weak := c.weak.map fun w => { w with done := 0 }
    bank := c.bank.foldl (fun m e => smSet {} m e.1 { e.2 with pos := 0, count := if keep then e.2.count else 0 }) [] }

/-- PDX with sr = 1, unless a stop, an emergency or the safe state keeps the Hides in self-refresh (R227, R398, R404). -/
def State.leaveSelf (s : State) (p : Nat) : State :=
  if !s.drives p || s.safe.on || s.seq.therm == .stopped || s.seq.therm == .emergency then s
  else s.onCtl p fun c => { c with selfRef := false, lastRow := pdWord 6 true 0xFF }

/-- The channel is re-initialised: its rounds are new, and after PDX and tXS its link leaves HALTED (R193, R398 step 4). -/
def State.reinit (s : State) (p : Nat) : State :=
  let s := (s.newRound p true).leaveSelf p
  if (s.ctl p).selfRef then s else s.unhaltLink p

/-! ### What a reset clears (R399) -/

/-- A regulator restarted: its period is new, its buckets are full (R123, R399); the capacity the governor set stands. -/
def Reg.restart (r : Reg) (i : Image) : Reg :=
  { phi := r.phi, avail := r.avail, tok := (List.range 16).map fun k => (i.cls k).burst }

/-- A CTL unit. With `slice`, the bank states and trackers stay (R416). The held freeze state goes when the reset completes. -/
def Ctl.cleared (c : Ctl) (i : Image) (slice : Bool) : Ctl :=
  { cyc := c.cyc, misb := c.misb, rd := c.rd.restart i, wr := c.wr.restart i, banks := if slice then c.banks else [], selfRef := c.selfRef,
    frozen := c.frozen, frzSrc := c.frzSrc, frzValid := c.frzValid, frzTime := c.frzTime, frzRow := c.frzRow, frzCol := c.frzCol,
    lastRow := c.lastRow, lastCol := c.lastCol, fresh := c.fresh, remaps := c.remaps, lent := c.lent, ptPos := c.ptPos, ptBlk := c.ptBlk,
    ptPasses := c.ptPasses, patrolOn := c.patrolOn, unpowered := c.unpowered }

/-- A LINK unit: trims, rotation state, parks, dead lanes, erasure set and the Hides' mode registers stay, and the sensor reads that the
Currier has asked for; a retrain that ran has ended. -/
def Link.cleared (l : Link) : Link :=
  { st := l.st, grps := l.grps.map fun g => { g with tries := [], unresolved := 0, sweep := false }
    lanes := l.lanes.foldl (fun m e => smSet {} m e.1 { phase := e.2.phase, ref := e.2.ref, width := e.2.width }) [], strobes := l.strobes,
    caStb := l.caStb, caVref := l.caVref, wrVref := l.wrVref, mr := l.mr, rotQ := l.rotQ, sbQ := l.sbQ, stepT := l.stepT,
    sliceT := l.sliceT, sweepT := l.sweepT, rtT := l.rtT, calEv := if l.rtRun then 16 else 0 }

/-- An AWL unit: patches, and the carrier arrangement, which is the block's. Parts are taken off it apart. -/
def Awl.cleared (a : Awl) : Awl :=
  { patches := a.patches, carries := a.carries, carriedBy := a.carriedBy, waitQ := a.waitQ, carryQ := a.carryQ, part := a.part,
    lastCarry := a.lastCarry }

/-- A CURRIER unit: deferral counts, round positions, weak rows, readings and offsets stay, and the rates and levers they give. -/
def Cur.cleared (c : Cur) : Cur :=
  { rate := c.rate, below := c.below, fall := c.fall, fell := c.fell, sensReq := c.sensReq, bank := c.bank, temp := c.temp, die := c.die, dieValid := c.dieValid, dieOfs := c.dieOfs,
    disagree := c.disagree, useMax := c.useMax, weak := c.weak, lowA := c.lowA, crit := c.crit,
    profStep := (if c.profStep = 0 then 0 else 1) }

/-- Clear the state of a leaf unit. A self-test slice keeps what is in flight at an engine and the halted movers, since no generation
advances and submissions only wait (R410, R414, R416). -/
def State.clearLeaf (s : State) (u : UnitId) (slice : Bool) : State :=
  match u with
  | .ctl p =>
    let s := match s.portAt p with
      | some n => s.onPort n fun q => { q with chkCnt := 0 }
      | none => s
    -- a bank retirement under way ends ABORTED (R252)
    let ended := (s.ctl p).bankCopy.isSome && !slice
    s.onCtl p fun c => { c.cleared s.img slice with retCode := if ended then cABORTED else 0, retDone := ended }
  | .link p => s.onLink p Link.cleared
  | .awl p => s.onAwl p Awl.cleared
  | .currier p =>
    (s.onCur p Cur.cleared).onCtl p fun c => { c with ptPos := 0, ptBlk := 0 }
  | .pool x => s.onPool x fun q => {
      phi := q.phi, lost := q.lost, shared := q.shared.filter fun e => (s.ctl (17 * x + e.1 / 16)).frozen }
  | .network x => s.onNet x fun _ => {}
  | .harness x => if slice then s.onHar x fun h => { slots := h.slots, waitQ := h.waitQ, seq := h.seq, subBusy := h.subBusy, subLo := h.subLo,
                                                      subHi := h.subHi, endQ := h.endQ }
    else s.onHar x fun h => { seq := h.seq }
  | .movers x => s.onMov x fun b => { ch := b.ch.map fun c => if c.st = 2 then c else {} }
  | _ => s

/-! ### The ledger at a reset (R98, R400, R402) -/

/-- Granules that pending writes of controller p cover (R400). -/
def Ctl.pendingGrans (c : Ctl) : List Nat :=
  ((c.wrQ.map fun (e : Entry) => e.off / 16384) ++ (c.comb.map fun (e : Comb) => e.off / 16384) ++ c.fills.map (·.gran)).eraseDups

/-- A CTL unit is reset: lost writes poison their granules, everything it held is answered, its port's tags are answered, its locks
and its share of a range operation end (R245, R295, R400, R402). A frozen controller's shared slots are free again (R129). -/
def State.ledgerCtl (s : State) (p : Nat) : State :=
  let lost := (s.ctl p).pendingGrans
  let s := (s.abortAt p).emptyCtl p
  let s := lost.foldl (fun s g => (s.markGran p g 2).logPoison p g 8 0 1) s
  let s := match s.portAt p with
    | some n =>
      let s := s.endPort n cABORTED
      (s.onPort n fun q => { q with openW := q.openW.map fun (w : OpenW) => { w with dead := true } }).orphan n
    | none => s
  let s := match s.lchOf p with
    | some l => s.abortShare l
    | none => s
  if (s.ctl p).frozen then
    let held := (s.pool (secOf p)).ofPos (posOf p)
    s.onPool (secOf p) fun q => { q with lost := q.lost - held, shared := q.shared.filter fun e => e.1 / 16 != posOf p }
  else s

/-- Requests with a slot in pool x are answered ABORTED, and the slots are gone (R402). -/
def State.ledgerPool (s : State) (x : Nat) : State :=
  let mine := fun (l : List Slot) => l.any fun k => k.sec == x
  let waiting := (s.ctls.flatMap fun c => c.inWr ++ c.ordWait ++ c.ordRun) ++ s.nets.flatMap fun (b : Net) => b.msgs
  let ops := s.ctls.flatMap fun c => (c.comb.flatMap fun e => (e.pend.filter fun o => mine o.slots).map fun o => (o.port, o.uid)) ++
    (c.groups.flatMap fun g => (g.waiting.filter fun w => mine w.slots).map fun w => (w.port, w.uid))
  let hit := ((waiting.filter fun w => mine w.slots).map fun w => (w.port, w.uid)) ++ ops
  let s := s.endWhere (fun n r => mine r.slots || hit.contains (n, r.uid)) cABORTED
  let drop := fun (l : List Slot) => l.filter fun k => k.sec != x
  let work := fun (w : Work) => { w with slots := drop w.slots }
  let entry := fun (e : Entry) => { e with slots := drop e.slots }
  { s with
    ports := s.ports.map fun q => { q with tags := q.tags.map fun r => { r with slots := drop r.slots } }
    ctls := s.ctls.map fun c => { c with
      inRd := c.inRd.map work, inWr := c.inWr.map work, ordWait := c.ordWait.map work, ordRun := c.ordRun.map work
      rdQ := c.rdQ.map entry, wrQ := c.wrQ.map entry, flight := c.flight.map entry
      comb := c.comb.map fun e => { e with slots := drop e.slots, pend := e.pend.map fun o => { o with slots := drop o.slots } }
      groups := c.groups.map fun g => { g with waiting := g.waiting.map fun w => { w with slots := drop w.slots } }
      fills := c.fills.map fun f => { f with slot := f.slot.filter fun k => k.sec != x } }
    nets := s.nets.map fun b => { b with msgs := b.msgs.map work } }

/-- Messages of sector x are answered ABORTED (R402). -/
def State.ledgerNet (s : State) (x : Nat) : State :=
  let l := (s.net x).msgs
  let s := s.onNet x fun b => { b with msgs := [] }
  l.foldl (fun s w => (s.freeSlots w.slots).finishHome w.port w.uid cABORTED) s

/-- The ledger's work for a leaf, then its state goes (R398 steps 1 to 3). -/
def State.resetLeaf (s : State) (u : UnitId) : State :=
  match u with
  | .ctl p => ((s.ledgerCtl p).enterSelf p).clearLeaf u false
  | .link p => (s.enterSelf p).clearLeaf u false
  | .awl p => (s.clearLeaf u false).dropAwl p
  | .currier p =>
    let s := match s.lchOf p with
      | some l => s.abortShare l
      | none => s
    -- a bank retirement under way ends ABORTED (R252)
    let s := if (s.ctl p).bankCopy.isSome then (s.onCtl p fun c => { c with bankCopy := none }).retEnd p cABORTED else s
    s.clearLeaf u false
  | .pool x => (s.ledgerPool x).clearLeaf u false
  | .network x => (s.ledgerNet x).clearLeaf u false
  | .harness x => (s.loseEngine x).clearLeaf u false
  | .movers x => (s.stopMovers x).clearLeaf u false
  -- the telemetry and the RW registers of a sector frame (R436, R437, R398)
  | .sector x => s.onSec x fun e => { e with irqEn := false, ctrlPos := 0, histKind := 0, histSat := 0, bins := [], slots := [], slotSh := [] }
  | _ => s

/-! ### Holds of quiesces and resets (R95) -/

/-- Ports whose stage lies in a controller beneath u (R98). -/
def State.portsUnder (s : State) (u : UnitId) : List Nat :=
  u.subtree.filterMap fun v => match v with
    | .ctl p => s.portAt p
    | _ => none

/-- Ports a reset of u holds: those of CTL, LINK and CHANNEL units in it. -/
def State.portsReset (s : State) (u : UnitId) : List Nat :=
  match u with
  | .link p => (s.portAt p).toList
  | _ => s.portsUnder u

/-- Hold ports for unit u. -/
def State.holdFor (s : State) (u : UnitId) (l : List Nat) : State := l.foldl (fun s n => s.hold n (.unit u.idx)) s

/-- End every hold set for a unit, at whatever port. -/
def State.endHold (s : State) (u : UnitId) : State :=
  { s with ports := s.ports.map fun q => { q with holds := q.holds.filter (· != Hold.unit u.idx) } }

/-! ### Quiesce (R395, R397) -/

/-- The unit takes quiesces of a group above it (R39). -/
def quiescable (u : UnitId) : Bool := u.canQuiesce

/-- The unit has drained (R395). -/
def State.drained (s : State) (u : UnitId) : Bool :=
  let done := fun (v : UnitId) => match (s.fr v).st with
    | .quiesced | .gated | .standby | .fenced => true
    | _ => false
  match u with
  | .ctl p =>
    let c := s.ctl p
    c.rdQ.isEmpty && c.wrQ.isEmpty && c.comb.isEmpty && c.flight.isEmpty && c.fills.isEmpty && c.ordRun.isEmpty &&
    (c.inRd ++ c.inWr).all fun w => w.inp != 0
  | .link p => (s.link p).rotQ.isEmpty && (s.link p).grps.all fun g => g.rot.isNone
  | .awl p => (s.awl p).part.isNone && (s.awl p).memq.isEmpty
  | .currier p =>
    let c := s.ctl p
    (c.inRd ++ c.inWr).all (fun w => w.inp != 4 || 1024 ≤ w.port) && (c.rdQ ++ c.wrQ ++ c.flight).all (fun e => e.inp != 4 || 1024 ≤ e.port) && (s.cur p).wbQ.isEmpty
  | .pool x => (s.pool x).shared.isEmpty && (s.pool x).floor.all fun e => e.1 % 5 != 1
  | .network x => (s.net x).msgs.all fun w => w.ans.isSome
  | .harness x => (s.har x).slots.all fun l => l.nodes.all fun n => n.st != .running
  | .movers x => (s.mov x).ch.all fun c => c.st != 1
  | u => (u.kids.filter quiescable).all done

/-- Intake of one unit stops (R397). -/
def State.quiesce1 (s : State) (u : UnitId) : State :=
  s.onFr u fun f => if f.st = .resetting then f else { f with
    quiesce := true
    st := match f.st with
      | .running => .quiescing
      | .gated => .quiesced
      | t => t }

/-- FRAME_CTRL.quiesce = 1: the unit and everything beneath it (R12, R33, R395). -/
def State.quiesceUnit (s : State) (u : UnitId) : State :=
  let s := (u.subtree.filter quiescable).foldl State.quiesce1 s
  match u with
  | .link _ | .awl _ | .currier _ | .pool _ | .network _ | .harness _ | .movers _ => s
  | _ => s.holdFor u (s.portsUnder u)

/-- FRAME_CTRL.quiesce = 0: intake resumes, and what waited goes on (R334, R397). -/
def State.resumeUnit (s : State) (u : UnitId) : State :=
  u.subtree.foldl (fun s v =>
    if (s.fr v).st = .resetting then s
    else
      let s := (s.onFr v fun f => { f with
        quiesce := false
        st := if f.st = .quiescing || f.st = .quiesced then .running else f.st }).endHold v
      match v with
      | .harness x => s.serveSubs x 64
      | _ => s) s

/-! ### Reset (R396-R398, R403) -/

/-- Channels whose copy or flip a reset of u meets: those with a CTL, LINK or CHANNEL unit in it. -/
def chansOf (u : UnitId) : List Nat :=
  match u with
  | .link p => [p]
  | _ => u.subtree.filterMap fun v => match v with
    | .ctl p => some p
    | _ => none

/-- Channel p is the old channel or the spare of its sector's migration. -/
def State.inMove (s : State) (p : Nat) : Bool :=
  let e := s.sec (secOf p)
  (e.sp == .copy || e.sp == .flip) && (posOf p == 16 || posOf p == e.pos.toNat)

/-- The reset of u waits for the end of a flip (R403). -/
def State.resetWaits (s : State) (u : UnitId) : Bool := (chansOf u).any fun p => s.inMove p && (s.sec (secOf p)).sp == .flip

/-- A unit's frame enters RESETTING: its faults, masks, injections and counters clear; its self bit stays (R30, R398). -/
def Frame.enterReset (f : Frame) : Frame :=
  { st := .resetting, fenced := f.fenced, wedged := f.wedged, wedgeRst := f.wedgeRst, self := f.self, egen := f.egen }

/-- A reset of u begins (R398 steps 1 to 3). -/
def State.startReset (s : State) (u : UnitId) : State :=
  if s.resetWaits u then s.onFr u fun f => { f with deferRst := true }
  else
    let us := u.subtree
    let s := s.sliceBreak fun v => us.contains v
    let s := (chansOf u).foldl (fun s p => if s.inMove p then s.cancelCopy (secOf p) else s) s
    let s := s.holdFor u (s.portsReset u)
    let s := us.foldl (fun s v => (s.onFr v Frame.enterReset).onCnt v.idx fun _ => {}) s
    us.foldl State.resetLeaf s

/-- A leaf leaves its reset: the Hides of a channel, its held freeze state, halted movers (R398 step 4, R399). -/
def State.restart (s : State) (u : UnitId) : State :=
  match u with
  | .ctl p =>
    let s := s.onCtl p fun c => { c with frozen := false, frzSrc := 0, frzValid := false, frzTime := 0, frzRow := 0, frzCol := 0 }
    let s := (s.reinit p).refreshHolds p
    -- nothing is accepted before the ledger's answers have been sent (R98)
    match s.portAt p with
    | some n => s.onPort n fun q => { q with flush := !(q.rsp.isEmpty && q.ackQ.isEmpty) }
    | none => s
  | .link p => s.reinit p
  | .movers x => s.onMov x fun _ => {}
  | .harness x => s.serveSubs x 64
  | _ => s

/-- State of a unit after its reset (R397). -/
def State.afterReset (s : State) (u : UnitId) (f : Frame) : UState :=
  let idle := match chanOfUnit u with
    | some p => posOf p == 16 && !s.substituting (secOf p)
    | none => false
  if f.fenced then .fenced else if idle then .standby else if f.wedgeRst then .quiesced else .running

/-- The reset of u completes: its units leave RESETTING and its change of the table is committed (R398 steps 4 and 5). -/
def State.endReset (s : State) (u : UnitId) : State :=
  let s0 := s
  let us := u.subtree
  let wedge := (s.fr u).wedgeRst
  let s := us.foldl (fun s v => if (s.fr v).st = .resetting then
      s.onFr v fun f => { f with st := s.afterReset v f, quiesce := f.wedgeRst, wedged := false, wedgeRst := false }
    else s) s
  let s := us.foldl State.restart s
  -- after a wedge the quiesce of a CTL or CHANNEL unit goes on holding the port (R398)
  let keep := wedge && match u with
    | .ctl _ | .channel _ => true
    | _ => false
  let s := if keep then s else s.endHold u
  s.commit s0 us

/-- The reset under way is that of u itself, not of a group above it. -/
def State.resetRoot (s : State) (u : UnitId) : Bool :=
  (s.fr u).st == .resetting && !(match u.parent with
    | some g => (s.fr g).st == .resetting
    | none => false)

/-- The bound of a reset has passed: the unit is fenced, and its parent latches it (R397). -/
def State.resetLate (s : State) (u : UnitId) : State :=
  let s := u.subtree.foldl (fun s v => s.onFr v fun f => if f.st = .resetting then { f with st := .running, wedgeRst := false } else f) s
  let s := (s.endHold u).fenceUnit u
  let s := (u.subtree.filter fun v => !s.isFenced v).foldl State.markFenced s
  match u.parent with
  | some g => (s.latch g u.ordinal .cont).collect g
  | none => s

/-- A leaf is wedged: it is marked, its parent records it, and it is reset (R396). -/
def State.wedge1 (s : State) (u : UnitId) : State :=
  let s := s.onFr u fun f => { f with wedged := true, wedgeRst := true }
  let s := match u.parent with
    | some g =>
      let s := s.onFr g fun f => { f with fltWedged := f.fltWedged ||| ((1 : BitVec 16) <<< u.ordinal) }
      (s.latch g u.ordinal .cont).collect g
    | none => s
  s.startReset u

/-- A quiesce of u has drained: its units become QUIESCED from the leaves up (R395, R397). -/
def State.settleDrain (s : State) (u : UnitId) : State :=
  u.subtree.reverse.foldl (fun s v =>
    if (s.fr v).st = .quiescing && s.drained v then s.onFr v fun f => { f with st := .quiesced } else s) s

/-- drain_us has passed since the quiesce of u (R396, R403): what has drained is QUIESCED, and each smallest unit that has not is
wedged. -/
def State.wedgeUnit (s : State) (u : UnitId) : State :=
  if (s.fr u).st != .quiescing then s
  else
    let s := s.settleDrain u
    (u.subtree.filter fun v => !v.isGroup && (s.fr v).st == .quiescing).foldl State.wedge1 s

/-- Resets that waited for a flip go on once it has ended (R403). -/
def State.runDeferred (s : State) : State :=
  if s.frames.all fun f => !f.deferRst then s
  else ((List.range 757).filter fun i => (s.frame i).deferRst && !s.resetWaits (unitAt i)).foldl (fun s i =>
    (s.onFrame i fun f => { f with deferRst := false }).startReset (unitAt i)) s

/-! ### FRAME_CTRL (R27, R33, R34, R397) -/

/-- A write to FRAME_CTRL of unit u. A reset written with a quiesce is a reset: the quiesce is dropped (log 29). -/
def State.wFrameCtrl (s : State) (u : UnitId) (v : Word) : State :=
  let quiesce := v.getLsbD 0
  let reset := v.getLsbD 1
  if (s.fr u).st = .resetting || (reset && !keyed v) || (reset && !u.canReset) || (quiesce && !u.canQuiesce) then s.reject u
  else
    let s := u.subtree.foldl (fun s w =>
      let s := s.onFr w fun f => { f with cntFreeze := v.getLsbD 4 }
      if v.getLsbD 5 then s.onCnt w.idx fun c => { c with
        val := List.replicate 8 0, rsh := List.replicate 8 0, wsh := List.replicate 8 0 }
      else s) s
    if reset then s.startReset u
    else if quiesce then s.quiesceUnit u
    else s.resumeUnit u

/-- A FRAME_CTRL write at the management port. -/
def onCtrl (u : UnitId) (v : Word) (s : State) : Out := .next (s.mgAccess u fun s => s.wFrameCtrl u v)

/-- QUIESCE (R395). -/
def execQuiesce (u : UnitId) (v : Word) (s : State) : Out := onCtrl u v s
/-- RESUME_INTAKE (R397). -/
def execResumeIntake (u : UnitId) (v : Word) (s : State) : Out := onCtrl u v s
/-- UNIT_RESET (R398). -/
def execUnitReset (u : UnitId) (v : Word) (s : State) : Out := onCtrl u v s
/-- CNT_FREEZE (R27). -/
def execCntFreeze (u : UnitId) (v : Word) (s : State) : Out := onCtrl u v s
/-- CNT_CLEAR (R27). -/
def execCntClear (u : UnitId) (v : Word) (s : State) : Out := onCtrl u v s

/-- DRAIN_DONE (R395). -/
def execDrainDone (u : UnitId) (s : State) : Out := onUnit u s fun s => if (s.fr u).st = .quiescing then s.settleDrain u else s
/-- WEDGE (R396). -/
def execWedge (u : UnitId) (s : State) : Out := onUnit u s fun s => s.wedgeUnit u
/-- RESET_COMPLETE (R398). -/
def execResetComplete (u : UnitId) (s : State) : Out := onUnit u s fun s => if s.resetRoot u then s.endReset u else s
/-- RESET_BOUND (R397). -/
def execResetBound (u : UnitId) (s : State) : Out := onUnit u s fun s => if s.resetRoot u then s.resetLate u else s

/-- FLIP_DRAIN_DONE (R113). -/
def execFlipDrainDone (x : Nat) (s : State) : Out :=
  onSect x s fun s =>
    if (s.sec x).sp == .flip && s.flipDrained (17 * x + (s.sec x).pos.toNat) then (s.flip x).runDeferred else s

/-- FLIP_DRAIN_TIMEOUT (R110): the old channel is reset as wedged, its requests are answered ABORTED, and the flip completes. -/
def execFlipDrainTimeout (x : Nat) (s : State) : Out :=
  onSect x s fun s => if (s.sec x).sp == .flip then (s.flipLate x).runDeferred else s

end Sys2Proof.Machine
end

