-- ==== Sys2Proof/Machine/Bist.lean ====
section
/-! DEFINITION. The slices of logic self-test (R410-R419). -/

namespace Sys2Proof.Machine

/-- The start conditions of R412, but for the drain. `window` is the rail monitor, the lock and the clock of the island (R413). -/
def State.sliceMay (s : State) (window : Bool) : Bool :=
  let u := s.sliceUnit
  let may := fun (t : UState) => t == .running || t == .gated || t == .standby
  let th := s.seq.therm
  s.isRunning && (th == .normal || th == .warm || th == .hot) && !s.safe.on && may (s.fr u).st && window &&
  (match chanOfUnit u with
   | some p => may (s.fr (.currier p)).st
   | none => true) &&
  (match heldChan u with
   | some p => !(s.link p).rtRun && !s.inMove p && s.sliceOk p
   | none => true) &&
  (match u with
   | .awl p => decide (s.thrLvl (secOf p) < 3)
   | _ => true)

/-- BIST_SLICE_START: the next slice of the walk is held, or skipped (R411, R412, R414 phase 1). -/
def State.sliceStart (s : State) (window : Bool) : State :=
  if s.seq.bist.phase != 0 then s
  else
    let s := if s.walkOk s.seq.bist.entry then s else s.walkNext
    if !s.walkOk s.seq.bist.entry then s
    else
      let s := s.onBist fun b => { b with slice := (smGet {} b.units b.entry).next, sig := 0, run := 0, reached := 1 }
      if !s.sliceMay window then s.sliceEnd 4 0
      else
        let u := s.sliceUnit
        let s := s.onFr u fun f => { f with st := if f.st = .gated then .running else f.st }
        let s := (s.onBist fun b => { b with phase := 1 }).count .currierSeq 3
        match (heldChan u).bind s.portAt with
        | some n => s.hold n .slice
        | none => s
/-- BIST_SLICE_START. -/
def execBistSliceStart (window : Bool) (s : State) : Out := .next (s.sliceStart window)

/-- The unit in the slice has drained: a CTL unit also has no ordered group open (R414). -/
def State.sliceDry (s : State) : Bool :=
  s.drained s.sliceUnit &&
  (match s.sliceUnit with
   | .ctl p => (s.ctl p).groups.isEmpty && (s.ctl p).ordWait.isEmpty
   | _ => true)

/-- SLICE_DRAIN_TIMEOUT (R414, R417). -/
def execSliceDrainTimeout (s : State) : Out :=
  .next (if s.seq.bist.phase == 1 && !s.sliceDry then s.sliceEnd 3 1 else s)

/-- The seed of a signature: P in bits 15:0 and 31:16, the slice in bits 39:32 (R415). -/
def sigSeed (pats idx : Nat) : Dword := BitVec.ofNat 64 (pats % 65536 * 65537 + idx % 256 * 2 ^ 32)

/-- SLICE_DRAINED: the unit is isolated, its Hides in self-refresh, and its signature seeded (R414 phases 2 and 3, R415). -/
def execSliceDrained (s : State) : Out :=
  .next (
    if s.seq.bist.phase != 1 || !s.sliceDry then s
    else
      let s := match heldChan s.sliceUnit with
        | some p => s.enterSelf p
        | none => s
      s.onBist fun b => { b with phase := 3, reached := 3, sig := sigSeed (slicePats (unitAt b.entry).ty) b.slice })

/-- The scan has stopped after `ran` patterns with a compacted value; the unit goes to its state after reset (R414, R415). -/
def State.sliceClose (s : State) (ran : Nat) (misr : BitVec 48) (result reached : Nat) : State :=
  let p := slicePats s.sliceUnit.ty
  (s.clearLeaf s.sliceUnit true).onBist fun b => { b with
    phase := 5, run := ran, sig := BitVec.ofNat 64 (misr.toNat * 65536 + (p - ran)), result := result, reached := reached }

/-- The signature the netlist expects of slice idx of the unit at index i (R415, log 4). -/
def State.expected (s : State) (i idx : Nat) : Dword := smGet 0 s.expSig (256 * i + idx) &&& ~~~(0xFFFF : Dword)

/-- SLICE_SCAN_DONE: every pattern has run; all 64 bits are compared (R415, R417). -/
def execSliceScanDone (misr : BitVec 48) (s : State) : Out :=
  .next (
    if s.seq.bist.phase != 3 then s
    else
      let sig : Dword := BitVec.ofNat 64 (misr.toNat * 65536)
      s.sliceClose (slicePats s.sliceUnit.ty) misr (if sig = s.expected s.seq.bist.entry s.seq.bist.slice then 0 else 1) 5)

/-- SLICE_WINDOW_SAMPLE: the window has failed (R413). A unit not yet isolated takes work again; a scan stops after `ran`
patterns. -/
def execSliceWindowSample (ran : Nat) (misr : BitVec 48) (s : State) : Out :=
  .next (
    match s.seq.bist.phase.toNat with
    | 1 => s.sliceEnd 2 1
    | 3 => s.sliceClose (min ran (slicePats s.sliceUnit.ty)) misr 2 4
    | 5 => s.onBist fun b => { b with result := 2 }
    | _ => s)

/-- Phase 5 ends: the Hides leave self-refresh with a new round (R414). -/
def State.sliceRestart (s : State) : State :=
  match heldChan s.sliceUnit with
  | some p => s.reinit p
  | none => s

/-- SLICE_RELEASE: the holds end and the result is recorded (R414, R417). -/
def execSliceRelease (s : State) : Out :=
  .next (if s.seq.bist.phase == 5 then s.sliceRestart.sliceEnd s.seq.bist.result s.seq.bist.reached else s)

/-- An orderly stop is entered during a slice: it ends ABORTED, its unit re-initialised (R418). -/
def State.sliceStop (s : State) : State :=
  let b := s.seq.bist
  if b.phase = 0 then s
  else if b.phase = 1 then s.sliceEnd 2 1
  else
    let s := if b.phase = 3 then s.sliceCut.clearLeaf s.sliceUnit true else s
    s.sliceRestart.sliceEnd 2 b.reached

/-- A write to BIST_ACK (R262, R419). -/
def State.wBistAck (s : State) (v : Word) : State :=
  let b := s.seq.bist
  let seqs := b.log.map fun e => e.headD 0
  match (if v = b.next then some seqs.length else seqs.findIdx? (· == v)) with
  | none => s.reject .currierSeq
  | some i => s.onBist fun b => { b with log := b.log.drop i, head := v, ack := v }

/-- BIST_ACK. -/
def execBistAck (v : Word) (s : State) : Out := onMgmt .currierSeq s fun s => s.wBistAck v

end Sys2Proof.Machine
end

