-- ==== Sys2Proof/Machine/Image.lean ====
section
/-! DEFINITION. The configuration image: SHA-256 and ECDSA P-256 (R59), the layout of header and sections (R55-R57), and the ordered
checks of the loader (R58). -/

namespace Sys2Proof.Machine

/-! ### SHA-256 (R59; FIPS 180-4, PRESUMED, log 17) -/

/-- Round constants. -/
def shaK : List Word :=
  [0x428A2F98, 0x71374491, 0xB5C0FBCF, 0xE9B5DBA5, 0x3956C25B, 0x59F111F1, 0x923F82A4, 0xAB1C5ED5,
   0xD807AA98, 0x12835B01, 0x243185BE, 0x550C7DC3, 0x72BE5D74, 0x80DEB1FE, 0x9BDC06A7, 0xC19BF174,
   0xE49B69C1, 0xEFBE4786, 0x0FC19DC6, 0x240CA1CC, 0x2DE92C6F, 0x4A7484AA, 0x5CB0A9DC, 0x76F988DA,
   0x983E5152, 0xA831C66D, 0xB00327C8, 0xBF597FC7, 0xC6E00BF3, 0xD5A79147, 0x06CA6351, 0x14292967] ++
  [0x27B70A85, 0x2E1B2138, 0x4D2C6DFC, 0x53380D13, 0x650A7354, 0x766A0ABB, 0x81C2C92E, 0x92722C85,
   0xA2BFE8A1, 0xA81A664B, 0xC24B8B70, 0xC76C51A3, 0xD192E819, 0xD6990624, 0xF40E3585, 0x106AA070,
   0x19A4C116, 0x1E376C08, 0x2748774C, 0x34B0BCB5, 0x391C0CB3, 0x4ED8AA4A, 0x5B9CCA4F, 0x682E6FF3,
   0x748F82EE, 0x78A5636F, 0x84C87814, 0x8CC70208, 0x90BEFFFA, 0xA4506CEB, 0xBEF9A3F7, 0xC67178F2]

/-- Initial hash value. -/
def shaH : List Word := [0x6A09E667, 0xBB67AE85, 0x3C6EF372, 0xA54FF53A, 0x510E527F, 0x9B05688C, 0x1F83D9AB, 0x5BE0CD19]

/-- A message padded to whole 64-byte blocks. -/
def shaPad (m : List Byte) : List Byte :=
  m ++ [0x80] ++ List.replicate ((119 - m.length % 64) % 64) 0 ++ (leBytes (8 * m.length) 8).reverse

/-- Sixteen big-endian words of a block. -/
def shaWords : Nat → List Byte → List Word
  | 0, _ => []
  | n + 1, l => BitVec.ofNat 32 (leNat (l.take 4).reverse) :: shaWords n (l.drop 4)

/-- Message schedule: n more words after those in w. -/
def shaSched : Nat → List Word → List Word
  | 0, w => w
  | n + 1, w =>
    let g := fun k => w.getD (w.length - k) 0
    let s0 := (g 15).rotateRight 7 ^^^ (g 15).rotateRight 18 ^^^ (g 15 >>> 3)
    let s1 := (g 2).rotateRight 17 ^^^ (g 2).rotateRight 19 ^^^ (g 2 >>> 10)
    shaSched n (w ++ [g 16 + s0 + g 7 + s1])

/-- One round on the eight working variables. -/
def shaRound (v : List Word) (kw : Word × Word) : List Word :=
  let x := fun i => v.getD i 0
  let s1 := (x 4).rotateRight 6 ^^^ (x 4).rotateRight 11 ^^^ (x 4).rotateRight 25
  let ch := (x 4 &&& x 5) ^^^ (~~~x 4 &&& x 6)
  let t1 := x 7 + s1 + ch + kw.1 + kw.2
  let s0 := (x 0).rotateRight 2 ^^^ (x 0).rotateRight 13 ^^^ (x 0).rotateRight 22
  let maj := (x 0 &&& x 1) ^^^ (x 0 &&& x 2) ^^^ (x 1 &&& x 2)
  [t1 + s0 + maj, x 0, x 1, x 2, x 3 + t1, x 4, x 5, x 6]

/-- One block. -/
def shaBlock (h : List Word) (b : List Byte) : List Word :=
  List.zipWith (· + ·) h ((shaK.zip (shaSched 48 (shaWords 16 b))).foldl shaRound h)

/-- Blocks in order. -/
def shaBlocks : Nat → List Word → List Byte → List Word
  | 0, h, _ => h
  | n + 1, h, l => shaBlocks n (shaBlock h (l.take 64)) (l.drop 64)

/-- SHA-256 as a number, its first byte most significant. -/
def sha256 (m : List Byte) : Nat :=
  let p := shaPad m
  (shaBlocks (p.length / 64) shaH p).foldl (fun a w => a * 2 ^ 32 + w.toNat) 0

/-! ### ECDSA P-256 (R59; FIPS 186-4 curve P-256, PRESUMED, log 17) -/

/-- Field prime. -/
def ecP : Nat := 0xFFFFFFFF00000001000000000000000000000000FFFFFFFFFFFFFFFFFFFFFFFF
/-- Order of the base point. -/
def ecN : Nat := 0xFFFFFFFF00000000FFFFFFFFFFFFFFFFBCE6FAADA7179E84F3B9CAC2FC632551
/-- Coefficient b; a is -3. -/
def ecB : Nat := 0x5AC635D8AA3A93E7B3EBBD55769886BC651D06B0CC53B0F63BCE3C3E27D2604B
/-- Base point. -/
def ecG : Nat × Nat :=
  (0x6B17D1F2E12C4247F8BCE6E563A440F277037D812DEB33A0F4A13945D898C296,
   0x4FE342E2FE1A7F9B8EE7EB4A7C0F9E162BCE33576B315ECECBB6406837BF51F5)

/-- b to the power of the low n bits of e, modulo m. -/
def powMod (m b e : Nat) : Nat → Nat
  | 0 => 1 % m
  | n + 1 =>
    let r := powMod m (b * b % m) (e / 2) n
    if e % 2 = 1 then r * b % m else r

/-- Inverse modulo a prime. -/
def invMod (m a : Nat) : Nat := powMod m (a % m) (m - 2) 256

/-- A point; none at infinity. -/
abbrev EcPt := Option (Nat × Nat)

/-- Point addition. -/
def ecAdd (a b : EcPt) : EcPt :=
  match a, b with
  | none, _ => b
  | _, none => a
  | some (x1, y1), some (x2, y2) =>
    let go := fun (l : Nat) =>
      let x := (l * l + 2 * ecP - x1 - x2) % ecP
      some (x, (l * (x1 + ecP - x) + ecP - y1) % ecP)
    if x1 = x2 then
      if (y1 + y2) % ecP = 0 then none
      else go ((3 * x1 * x1 + ecP - 3) * invMod ecP (2 * y1) % ecP)
    else go ((y2 + ecP - y1) * invMod ecP (x2 + ecP - x1) % ecP)

/-- k times a point, k of n bits. -/
def ecMul (k : Nat) (p : EcPt) : Nat → EcPt
  | 0 => none
  | n + 1 =>
    let r := ecMul (k / 2) (ecAdd p p) n
    if k % 2 = 1 then ecAdd r p else r

/-- The point lies on the curve. -/
def ecOn (x y : Nat) : Bool := x < ecP && y < ecP && y * y % ecP == (x * x * x + (ecP - 3) * x + ecB) % ecP

/-- Signature (r, s) of a hash under public key (qx, qy). -/
def ecdsaOk (qx qy r s hash : Nat) : Bool :=
  if !ecOn qx qy || r = 0 || s = 0 || ecN ≤ r || ecN ≤ s then false
  else
    let w := invMod ecN s
    match ecAdd (ecMul (hash * w % ecN) (some ecG) 256) (ecMul (r * w % ecN) (some (qx, qy)) 256) with
    | none => false
    | some (x, _) => x % ecN == r

/-! ### Sections (R56) -/

/-- 32-bit word at an offset of a body. -/
def word32 (b : List Byte) (o : Nat) : Nat := leNat ((b.drop o).take 4)
/-- 16-bit value at an offset. -/
def half16 (b : List Byte) (o : Nat) : Nat := leNat ((b.drop o).take 2)

/-- A section found by the walk. -/
structure ISec where
  ty : Nat
  ver : Nat
  len : Nat
  crc : Nat
  rsv : Nat
  /-- body with its padding -/
  body : List Byte

/-- What the walk of check 2 found: the whole sections, the start of SIGNATURE, and that they end exactly at length. -/
structure IWalk where
  secs : List ISec := []
  sigAt : Option Nat := none
  fits : Bool := false

/-- Walk n sections from offset pos (R58). -/
def walkSecs (d : List Byte) (length : Nat) : Nat → Nat → IWalk
  | 0, pos => { fits := pos == length }
  | n + 1, pos =>
    if length < pos + 16 then {}
    else
      let h := d.drop pos
      let len := word32 h 4
      let pad := (len + 3) / 4 * 4
      let sec : ISec := { ty := half16 h 0, ver := half16 h 2, len := len, crc := word32 h 8, rsv := word32 h 12, body := (h.drop 16).take pad }
      let here := if sec.ty = 0xF then some pos else none
      if length < pos + 16 + pad then { sigAt := here }
      else
        let r := walkSecs d length n (pos + 16 + pad)
        { r with secs := sec :: r.secs, sigAt := here.or r.sigAt }

/-! ### Check 5: bodies (R57) -/

/-- The value lies in a range. -/
def within (v lo hi : Nat) : Bool := lo ≤ v && v ≤ hi

/-- Ranges of the timing identifiers, in order from 0x01 (R185). -/
def timingRange : List (Nat × Nat) :=
  [(500, 3000), (500, 3000), (1500, 8000), (2000, 11000), (63, 1000), (63, 1000), (250, 4000), (63, 500), (63, 500), (63, 1000),
   (63, 1000), (500, 3000), (2000, 30000), (2000, 40000), (100, 2000), (100, 600), (0, 600), (2000, 50000), (63, 2000), (10, 10000)]

/-- HIDE: supplier, part, init_us and the timing entries. -/
def parseHide (b : List Byte) (len hides : Nat) : Option (Nat × Nat × Nat × List (Nat × Nat)) := do
  let tcount := word32 b 0x14
  let es := (List.range tcount).map fun n => word32 b (0x18 + 4 * n)
  let t := es.map fun e => (bits e 16 8, bits e 0 16)
  let v := fun (id : Nat) => ((t.find? fun e => e.1 == id).map (·.2)).getD 0
  let init := word32 b 0x10
  if word32 b 0 == hides && word32 b 8 == 12288 && word32 b 0xC == 1024 && within init 100 50000 && within tcount 1 64 &&
      len == 0x18 + 4 * tcount && es.all (fun e => bits e 24 8 == 0) &&
      t.all (fun e => within e.1 1 20 && within e.2 (timingRange.getD (e.1 - 1) (0, 0)).1 (timingRange.getD (e.1 - 1) (0, 0)).2) &&
      t.length == 20 && (t.map (·.1)).Nodup && v 3 + v 2 ≤ v 4 && v 5 ≤ v 6 && v 0xD ≤ v 0xE then
    some (half16 b 4, half16 b 6, init, t)
  else none

/-- PORTS: a permutation of 0-127. -/
def parsePorts (b : List Byte) (len : Nat) : Option (List Nat) :=
  let l := (b.take 128).map BitVec.toNat
  if len == 128 && l.length == 128 && (List.range 128).all l.contains then some l else none

/-- Units a window occupies in each channel it covers (R102). -/
def Window.width (w : Window) : Nat := if w.mode = 1 then w.size / 16 else if w.mode = 2 then w.size / 128 else w.size

/-- Two windows share a logical channel. -/
def Window.meets (w v : Window) : Bool := w.mode != 1 || v.mode != 1 || w.sector == v.sector

/-- Ranges [a, a + n) and [b, b + m) overlap. -/
def overlap (a n b m : Nat) : Bool := a < b + m && b < a + n

/-- Every earlier element agrees with every later one. -/
def pairsOk {α : Type} (f : α → α → Bool) : List α → Bool
  | [] => true
  | a :: l => l.all (f a) && pairsOk f l

/-- WINDOWS (R57, R72, R102). -/
def parseWindows (b : List Byte) (len hides : Nat) : Option (List Window) :=
  let count := word32 b 0
  let ws := (List.range count).map fun n =>
    let e := b.drop (4 + 16 * n)
    (word32 e 8, ({ base := word32 e 0, size := word32 e 4, mode := bits (word32 e 8) 0 2, sector := bits (word32 e 8) 4 3,
                    chanBase := word32 e 12 } : Window))
  let one := fun (m : Nat) (w : Window) =>
    m == w.mode + 16 * w.sector && w.mode != 3 && 1 ≤ w.size && (w.mode != 1 || w.size % 16 == 0) && (w.mode != 2 || w.size % 128 == 0) &&
    (w.mode == 1 || w.sector == 0) && w.base + w.size ≤ 2 ^ 27 && w.chanBase + w.width ≤ 96 * hides
  let l := ws.map (·.2)
  if within count 1 16 && len == 4 + 16 * count && ws.all (fun e => one e.1 e.2) &&
      pairsOk (fun w v => !overlap w.base w.size v.base v.size &&
        !(w.meets v && overlap w.chanBase w.width v.chanBase v.width)) l then some l else none

/-- CLASSES. -/
def parseClasses (b : List Byte) (len : Nat) : Option (List ClsCfg) :=
  let cs := (List.range 16).map fun n =>
    let e := b.drop (16 * n)
    let s := word32 e 0
    let h := word32 e 4
    (n, bits s 30 2 + bits h 30 2 + bits (word32 e 8) 16 16 + word32 e 12,
     ({ rdShare := bits s 0 10, wrShare := bits s 10 10, poolShare := bits s 20 10, rdCeil := bits h 0 10, wrCeil := bits h 10 10,
        poolCeil := bits h 20 10, burst := half16 e 8 } : ClsCfg))
  let one := fun (n : Nat) (c : ClsCfg) =>
    c.rdShare ≤ c.rdCeil && c.wrShare ≤ c.wrCeil && c.poolShare ≤ c.poolCeil && (n < 15 || c.rdShare + c.wrShare + c.poolShare == 0)
  if len == 256 && cs.all (fun e => e.2.1 == 0 && one e.1 e.2.2) then some (cs.map (·.2.2)) else none

/-- POLICY. -/
def parsePolicy (b : List Byte) (len : Nat) : Option Policy :=
  let w := word32 b
  let p : Policy := {
    refi := w 0, warm := bits (w 4) 0 8, hot := bits (w 4) 8 8, critical := bits (w 4) 16 8, emergency := bits (w 4) 24 8
    scrubH := w 8, profEn := bitN (w 0xC) 0, profAgeD := bits (w 0xC) 16 16, pdIdle := w 0x10, gateUs := w 0x14, drainUs := w 0x18
    rhThresh := bits (w 0x1C) 0 16, rhPenUs := bits (w 0x1C) 16 16, calRecS := w 0x20 }
  if len == 0x24 && within p.refi 100 4000 && within p.warm 70 95 && within p.hot 80 105 && within p.critical 90 110 &&
      within p.emergency 95 115 && p.warm < p.hot && p.hot < p.critical && p.critical < p.emergency && within p.scrubH 1 720 &&
      bits (w 0xC) 1 15 == 0 && within p.profAgeD 1 365 && (p.pdIdle == 0 || within p.pdIdle 16 65535) && p.gateUs ≤ 1000000 &&
      within p.drainUs 10 10000 && within p.rhThresh 512 65535 && within p.rhPenUs 1 60000 && within p.calRecS 60 86400 then some p else none

/-- Byte range that n bytes from port address a occupy in a channel, when they lie in one window (R57 PAGES, R102). -/
def chanSpan (ws : List Window) (a n : Nat) : Option (Nat × Nat) :=
  (ws.find? fun w => w.base * 2097152 ≤ a && a + n ≤ (w.base + w.size) * 2097152).map fun w =>
    let o := a - w.base * 2097152
    let k := if w.mode = 0 then 1 else if w.mode = 1 then 16 else 128
    (w.chanBase * 2097152 + o / k, w.chanBase * 2097152 + (o + n + k - 1) / k)

/-- PAGES: ctx_base, hdr_base, gran_lo, gran_hi and the reserves, sector-major. -/
def parsePages (b : List Byte) (len hides : Nat) (ws : List Window) : Option (Nat × Nat × Nat × Nat × List Nat) :=
  let ctx := word32 b 0
  let hdr := word32 b 4
  let lo := word32 b 8
  let hi := word32 b 0xC
  let g := Config.rows * hides
  let res := (List.range 128).map fun i => half16 b (0x10 + 2 * i)
  let clear := fun (a n : Nat) => match chanSpan ws a n with
    | some (x, y) => !(lo * 16384 < y && x < hi * 16384)
    | none => false
  if len == 0x110 && ctx % 64 == 0 && lo < hi && hi ≤ g && clear (ctx * 2097152) (2 ^ 27) && clear (hdr * 2097152) (256 * 128 * g) &&
      (List.range 8).all (fun s => ((res.drop (16 * s)).take 16).sum ≤ 16 * (hi - lo)) then some (ctx, hdr, lo, hi, res) else none

/-- Routine identifiers (R369). -/
def routines : List Nat := [1, 2, 3, 4, 5, 0x100, 0x101]

/-- n patches from the front of the bytes: the patches, and the bytes they took. -/
def walkPatches (build : Nat) : Nat → List Byte → Option (List Patch × Nat)
  | 0, _ => some ([], 0)
  | n + 1, b => do
    let words := half16 b 2
    let code := (b.drop 8).take (4 * words)
    if routines.contains (half16 b 0) && within words 1 4096 && word32 b 4 == build && code.length == 4 * words then
      let r ← walkPatches build n (b.drop (8 + 4 * words))
      some ({ routine := half16 b 0, code := (List.range words).map fun i => BitVec.ofNat 32 (word32 code (4 * i)) } :: r.1,
        r.2 + 8 + 4 * words)
    else none

/-- AWL_PATCH (R57, R370). -/
def parsePatches (b : List Byte) (len build : Nat) : Option (List Patch) := do
  let count := word32 b 0
  if !within count 0 32 then none
  else
    let r ← walkPatches build count (b.drop 4)
    if len == 4 + r.2 && (r.1.map fun (p : Patch) => p.code.length).sum ≤ 4096 then some r.1 else none

/-- TELEMETRY. -/
def parseTel (b : List Byte) (len : Nat) (ws : List Window) : Option Tel :=
  let w := word32 b
  if len == 16 && within (w 4) 2 1024 && within (w 8) 100 10000000 && bits (w 12) 9 23 == 0 &&
      (chanSpan ws (w 0 * 2097152) (w 4 * 1048576)).isSome then
    some { ringBase := w 0, ringMib := w 4, periodUs := w 8, secMode := bits (w 12) 0 8, enable := bitN (w 12) 8 }
  else none

/-- Big-endian 32-byte value at an offset. -/
def be32 (b : List Byte) (o : Nat) : Nat := leNat ((b.drop o).take 32).reverse

/-- A section that may be absent. -/
def optSec {α : Type} (o : Option ISec) (dflt : α) (f : ISec → Option α) : Option α :=
  match o with
  | none => some dflt
  | some x => f x

/-- Check 5: the section set, reserved fields, every range and consistency rule. -/
def parseImage (d : List Byte) (k : IWalk) (hides build digest : Nat) : Option Image := do
  let tys := k.secs.map ISec.ty
  let get := fun (t : Nat) => k.secs.find? fun x => x.ty == t
  if bits (word32 d 4) 20 12 == 0 && bits (word32 d 0x14) 8 24 == 0 && word32 d 0x18 == 0 && k.fits && tys.Nodup &&
      tys.all (fun t => within t 1 9 || t == 0xF) && (!tys.contains 0xF || tys.getLast? == some 0xF) &&
      k.secs.all (fun x => x.ver == 1 && x.rsv == 0 && (x.body.drop x.len).all (· == 0)) then
    let h ← get 1
    let (supplier, part, init, timing) ← parseHide h.body h.len hides
    let x ← get 2
    let ports ← parsePorts x.body x.len
    let x ← get 3
    let ws ← parseWindows x.body x.len hides
    let x ← get 4
    let classes ← parseClasses x.body x.len
    let x ← get 5
    let policy ← parsePolicy x.body x.len
    let x ← get 6
    let (ctx, hdr, lo, hi, res) ← parsePages x.body x.len hides ws
    let patches ← optSec (get 7) [] fun x => parsePatches x.body x.len build
    let tel ← optSec (get 8) none fun x => (parseTel x.body x.len ws).map some
    let priv ← optSec (get 9) 0x7F fun x => if x.len == 4 && word32 x.body 0 < 128 then some (BitVec.ofNat 7 (word32 x.body 0)) else none
    let sig ← optSec (get 0xF) none fun x =>
      if x.len == 128 then some (some (be32 x.body 0, be32 x.body 0x20, be32 x.body 0x40, be32 x.body 0x60)) else none
    some {
      imgSeq := BitVec.ofNat 32 (word32 d 0x10), supplier := supplier, part := part, initUs := init, timing := timing, ports := ports
      windows := ws, classes := classes, policy := policy, ctxBase := ctx, hdrBase := hdr, granLo := lo, granHi := hi, reserves := res
      patches := patches, tel := tel, priv := priv, sig := sig, digest := digest }
  else none

/-! ### The checks in order (R58) -/

/-- Result codes of start-up (R70). -/
def rsOK : Byte := 0x01
/-- NO_FLASH. -/
def rsNOFLASH : Byte := 0x02
/-- FLASH_UNSUPPORTED. -/
def rsUNSUP : Byte := 0x03
/-- BAD_HEADER. -/
def rsHEADER : Byte := 0x04
/-- SECTION_CRC. -/
def rsCRC : Byte := 0x05
/-- DIGEST. -/
def rsDIGEST : Byte := 0x06
/-- SIG_MISSING. -/
def rsNOSIG : Byte := 0x07
/-- KEY_MISMATCH. -/
def rsKEY : Byte := 0x08
/-- SIG_INVALID. -/
def rsSIG : Byte := 0x09
/-- CONFIG_MISMATCH. -/
def rsCONFIG : Byte := 0x0A
/-- MALFORMED. -/
def rsMALFORMED : Byte := 0x0B
/-- OVER_GUARANTEED. -/
def rsOVER : Byte := 0x0C
/-- HIDE_INIT. -/
def rsHIDE : Byte := 0x0D
/-- TIMEOUT. -/
def rsTIMEOUT : Byte := 0x0E
/-- LIFECYCLE_END. -/
def rsEND : Byte := 0x0F

/-- Admission (R120, R127): the resource and sum of the first check that fails. -/
def Image.admission (i : Image) : Option (Nat × Nat) :=
  let c := i.cls 15
  let rd := i.sumShares (·.rdShare) + ceil15 c.rdCeil
  let wr := i.sumShares (·.wrShare) + ceil15 c.wrCeil
  let pool := i.sumShares (·.poolShare) + ceil15 c.poolCeil
  if i.kcap < 256 then some (3, i.kcap)
  else if 1024 < rd then some (0, rd)
  else if 1024 < wr then some (1, wr)
  else if 1024 < pool then some (2, pool)
  else none

/-- What checks 1 to 7 give: the result of the first that fails, or the image; and an admission failure. -/
inductive Checked where
  | fail (result : Byte)
  | over (res sum : Nat)
  | pass (i : Image)

/-- The length field, when check 1 passes on the header's 64 bytes (R55, R58). A length below the header's 256 bytes, or not of whole
words, fails it too (log 29). -/
def headerLen (h : List Byte) : Option Nat :=
  let len := word32 h 0xC
  if word32 h 0 == 0x4D495745 && half16 h 4 == 1 && (crc32 (h.take 0x1C)).toNat == word32 h 0x1C && within len 256 2097152 &&
      len % 4 == 0 && within (word32 h 0x14 % 256) 6 10 then some len else none

/-- Checks 2 to 7 on an image of `length` bytes (R58, R59). The digest field is read as the octet string of SHA-256, its first byte the
most significant (log 29). -/
def checkImage (d : List Byte) (length hides build : Nat) (keyed : Bool) : Checked :=
  let k := walkSecs d length (word32 d 0x14 % 256) 0x40
  let digest := sha256 (d.take 0x20 ++ (d.drop 0x40).take ((k.sigAt.getD length) - 0x40))
  if k.secs.any fun x => (crc32 x.body).toNat != x.crc then .fail rsCRC
  else if digest != be32 d 0x20 then .fail rsDIGEST
  else if bits (word32 d 4) 16 4 != hides || word32 d 8 != build then .fail rsCONFIG
  else match parseImage d k hides build digest with
    | none => .fail rsMALFORMED
    | some i => match i.admission with
      | some (r, n) => .over r n
      | none => if keyed && i.sig.isNone then .fail rsNOSIG else .pass i

end Sys2Proof.Machine
end

