-- ==== Sys2Proof/Machine/Flash.lean ====
section
/-! DEFINITION. The flash port: the mailbox, the calibration and retirement records and their writing (R54, R61-R65, R69, R202,
R256). -/

namespace Sys2Proof.Machine

/-! ### The flash (R54; log 9) -/

/-- n bytes of the flash from address a; an unlisted byte reads 0xFF, the erased state. -/
def flashRead (m : List Host.Cell) (a : Nat) : Nat → List Byte
  | 0 => []
  | n + 1 => smGet 0xFF m a :: flashRead m (a + 1) n

/-- Put bytes into the flash, whatever stood there. -/
def flashPut (m : List Host.Cell) (a : Nat) : List Byte → List Host.Cell
  | [] => m
  | b :: l => flashPut (smSet 0xFF m a b) (a + 1) l

/-- Program bytes: a one can become a zero and no zero a one (PRESUMED of NOR flash, log 9). -/
def flashProg (m : List Host.Cell) (a : Nat) : List Byte → List Host.Cell
  | [] => m
  | b :: l => flashProg (smSet 0xFF m a (smGet 0xFF m a &&& b)) (a + 1) l

/-- n free bytes (log 6): what an erase or program that was cut off or timed out leaves. -/
def freeBytes (k : Nat) : Nat → List Byte
  | 0 => []
  | n + 1 => (Config.freeWord k).setWidth 8 :: freeBytes (k + 1) n

/-- Change the flash. -/
def State.onFlash (s : State) (f : Flash → Flash) : State := { s with flash := f s.flash }

/-- Leave n bytes from address a open. -/
def State.flashOpen (s : State) (a n : Nat) : State :=
  { s.onFlash fun f => { f with cells := flashPut f.cells a (freeBytes s.free n) } with free := s.free + n }

/-- Base and size of a record slot (R54). -/
def slotAt (cal slotB : Bool) : Nat × Nat :=
  if cal then (if slotB then (0x420000, 0x20000) else (0x400000, 0x20000))
  else if slotB then (0x450000, 0x10000) else (0x440000, 0x10000)

/-! ### Resolving a pair of slots (R61, R62) -/

/-- A slot as found: erased, invalid, or its sequence number and body. -/
inductive SlotRd where
  | erased
  | bad
  | good (seq : Word) (body : List Byte)
deriving DecidableEq, Repr, Inhabited

/-- Read and judge a slot (R62). -/
def State.readSlot (s : State) (cal slotB : Bool) : SlotRd :=
  let (base, size) := slotAt cal slotB
  let h := flashRead s.flash.cells base 32
  let len := word32 h 0x10
  if word32 h 0 = 0xFFFFFFFF then .erased
  else if word32 h 0 != (if cal then 0x4C435745 else 0x54525745) || (crc32 (h.take 0x1C)).toNat != word32 h 0x1C || size - 32 < len ||
      word32 h 0x18 != s.build.toNat then .bad
  else
    let b := flashRead s.flash.cells (base + 32) len
    let n := half16 b 2
    let shape := if cal then within n 1 136 && len == 16 + 896 * n else n ≤ 8186 && len == 16 + 8 * n
    if (crc32 b).toNat != word32 h 0x14 || len < 16 || half16 b 0 != 1 || !shape || ((b.drop 4).take 12).any (· != 0) then .bad
    else .good (BitVec.ofNat 32 (word32 h 4)) b

/-- The winner of a pair: its code of SLOT_STATUS, seq and body; and whether a slot that is not erased is invalid (R62). -/
def resolvePair (a b : SlotRd) : BitVec 2 × Word × List Byte × Bool :=
  match a, b with
  | .good sa ba, .good sb bb => if within (sb - sa).toNat 1 (2 ^ 31 - 1) then (1, sb, bb, false) else (0, sa, ba, false)
  | .good sa ba, o => (0, sa, ba, o == .bad)
  | o, .good sb bb => (1, sb, bb, o == .bad)
  | .erased, .erased => (2, 0, [], false)
  | _, _ => (3, 0, [], true)

/-- Cut a body into entries of k bytes. -/
def cutEntries (k : Nat) : Nat → List Byte → List (List Byte)
  | 0, _ => []
  | n + 1, l => l.take k :: cutEntries k n (l.drop k)

/-! ### Record bodies (R202, R256) -/

/-- A list of bytes filled with zeros to n. -/
def fillTo (n : Nat) (l : List Byte) : List Byte := (l ++ List.replicate n 0).take n

/-- Calibration entry of channel p (R202): one snapshot of committed trims. -/
def State.calEntry (s : State) (p : Nat) : List Byte :=
  let l := s.link p
  let lane := fun (k : Nat) => smGet ({} : Lane) l.lanes k
  let rot := (List.range 20).flatMap fun i =>
    let g := l.grps.getD i {}
    [BitVec.ofNat 8 (g.c + 32 * b2n g.up), 0]
  let rd := (List.range 153).flatMap fun k => leBytes ((lane k).phase.toNat + 128 * (lane k).ref.toNat) 2
  let wr := (List.range 153).map fun k => BitVec.ofNat 8 (lane (153 + k)).phase.toNat
  let ca := (List.range 26).map fun k => BitVec.ofNat 8 (lane (306 + k)).phase.toNat
  let die := BitVec.ofInt 16 (s.cur p).die
  fillTo 16 ([BitVec.ofNat 8 p, 1] ++ leBytes die.toNat 2) ++ fillTo 0x40 rot ++ fillTo 0x140 rd ++ fillTo 0xA0 wr ++ fillTo 0x20 ca ++
  fillTo 0x50 (l.strobes.take 72) ++ fillTo 0x50 (l.strobes.drop 72) ++ fillTo 0x10 [l.caStb] ++
  fillTo 0x10 (l.caVref.flatMap fun v => leBytes v.toNat 2) ++ fillTo 0x70 (l.wrVref.take 72)

/-- The calibration entries of every channel in service. -/
def State.calEntries (s : State) : List (List Byte) := ((List.range 136).filter fun p => !s.chFenced p).map s.calEntry

/-- Header of a record body. -/
def bodyHead (n : Nat) : List Byte := fillTo 16 (leBytes 1 2 ++ leBytes n 2)

/-- The body of a record as it stands now, or, of a calibration record that an orderly stop asked for, as it stood at its entry (R202,
R225, R256). Retirement entries past the 8,186 a slot holds are left out (log 18). -/
def State.recBody (s : State) (cal : Bool) : List Byte :=
  let es := if cal then s.flash.calHeld.getD s.calEntries else s.retEntries.take 8186
  bodyHead es.length ++ es.flatten

/-- Page programs of a body from address a, none crossing a 256-byte boundary (R64). -/
def pagesOf : Nat → Nat → List Byte → List FStep
  | 0, _, _ => []
  | n + 1, a, l =>
    if l.isEmpty then []
    else
      let k := 256 - a % 256
      .prog a (l.take k) :: pagesOf n (a + k) (l.drop k)

/-- The steps of a record write: erases from the start of the slot, the body, then the header (R64). -/
def State.recSteps (s : State) (cal slotB : Bool) (seq : Word) : List FStep :=
  let body := s.recBody cal
  let base := (slotAt cal slotB).1
  let h := leBytes (if cal then 0x4C435745 else 0x54525745) 4 ++ leBytes seq.toNat 4 ++ leBytes s.mgmt.elapsed.toNat 8 ++
    leBytes body.length 4 ++ leBytes (crc32 body).toNat 4 ++ leBytes s.build.toNat 4
  (List.range ((32 + body.length + 4095) / 4096)).map (fun k => FStep.erase (base + 4096 * k)) ++
  pagesOf (body.length + 1) (base + 32) body ++ [.prog base (h ++ leBytes (crc32 h).toNat 4)]

/-! ### Operations (R64, R65, R69) -/

/-- A record write is queued or running: SLOT_STATUS.pending. -/
def Flash.pending (f : Flash) : Bool :=
  f.calQ || f.retQ != 0 || (match f.job with | some (.record _) => true | _ => false)

/-- The waiting mailbox operation starts (R65). -/
def Flash.startMbox (f : Flash) : Flash := if f.mbox.isSome then { f with job := some .mbox } else f

/-- An operation refused or ended. -/
def Flash.endMbox (f : Flash) (code : BitVec 4) : Flash := { f with busy := false, mbox := none, code := code }

/-- A mailbox operation may start on this address (R67, R69). -/
def State.mboxOk (s : State) (op : BitVec 2) : Bool :=
  let a := s.flash.addr.toNat
  let slots := within a 0x400000 0x45FFFF
  (if op = 3 then a % 4096 == 0 else a % 256 == 0) && a < s.boot.flBytes && (op = 1 || s.has (if slots then 6 else 3))

/-- A write to FLASH_CMD (R65, R69): the operation starts at once unless one runs or a record is queued. -/
def State.wFlashCmd (s : State) (op : BitVec 2) : State :=
  if s.flash.busy || op = 0 then s
  else if !s.mboxOk op then s.onFlash fun f => { f with op := op, code := cBAD }
  else s.onFlash fun f =>
    let f := { f with op := op, busy := true, code := cOK, mbox := some op }
    if f.job.isNone && !f.pending then f.startMbox else f

/-- FLASH_READ (R69). -/
def execFlashRead (s : State) : Out := .next (s.mgAccess .array fun s => s.wFlashCmd 1)
/-- FLASH_PROGRAM (R69). -/
def execFlashProgram (s : State) : Out := .next (s.mgAccess .array fun s => s.wFlashCmd 2)
/-- FLASH_ERASE (R69). -/
def execFlashErase (s : State) : Out := .next (s.mgAccess .array fun s => s.wFlashCmd 3)

/-- What the mailbox operation leaves in the flash or the buffer. -/
def Flash.mboxEffect (f : Flash) : Flash :=
  let a := f.addr.toNat
  match f.mbox with
  | some 1 => { f with buf := flashRead f.cells a 256 }
  | some 2 => { f with cells := flashProg f.cells a f.buf }
  | some 3 => { f with cells := smClear f.cells a 4096 }
  | _ => f

/-- What a step of a record write leaves in the flash. -/
def Flash.stepEffect (f : Flash) : FStep → Flash
  | .erase a => { f with cells := smClear f.cells a 4096 }
  | .prog a l => { f with cells := flashProg f.cells a l }

/-- A record is whole: its slot is the current one (R62, R64). -/
def State.recDone (s : State) (j : RecJob) : State :=
  let s := s.onFlash fun f => { f with job := none }.startMbox
  let slot : BitVec 2 := if j.slotB then 1 else 0
  { s with boot := if j.cal then { s.boot with slotCal := slot, calSeq := j.seq } else { s.boot with slotRet := slot, retSeq := j.seq } }

/-- FLASH_OP_DONE (R64): the operation in progress has ended. -/
def execFlashOpDone (s : State) : Out :=
  match s.flash.job with
  | none => .next s
  | some .mbox => .next ((s.onFlash fun f => { f.mboxEffect.endMbox cOK with job := none }).count .loader 1)
  | some (.record j) =>
    match j.steps with
    | [] => .next s
    | x :: rest =>
      let s := (s.onFlash fun f => { f.stepEffect x with job := some (.record { j with steps := rest }) }).count .loader 1
      if rest.isEmpty then .next (s.recDone j) else .next s

/-- What the operation in progress would change stands open (R64). -/
def State.jobOpen (s : State) : State :=
  match s.flash.job with
  | some .mbox =>
    if s.flash.mbox = some 2 then s.flashOpen s.flash.addr.toNat 256
    else if s.flash.mbox = some 3 then s.flashOpen s.flash.addr.toNat 4096
    else s
  | some (.record j) => match j.steps with
    | .erase a :: _ => s.flashOpen a 4096
    | .prog a l :: _ => s.flashOpen a l.length
    | [] => s
  | none => s

/-- FLASH_TIMEOUT (R64): a record write is given up and the old record stays current; a mailbox erase or program ends ABORTED. A read
has no time-out. -/
def execFlashTimeout (s : State) : Out :=
  match s.flash.job with
  | none => .next s
  | some .mbox =>
    if s.flash.mbox = some 1 then .next s
    else .next ((s.jobOpen.onFlash fun f => { f.endMbox cABORTED with job := none }).count .loader 1)
  | some (.record _) =>
    .next (((s.jobOpen.onFlash fun f => { f with job := none }.startMbox).count .loader 1).report .loader 4)

/-- CAL_RECORD_PERIOD (R65). -/
def execCalRecordPeriod (s : State) : Out := if s.isRunning then .next (s.onFlash fun f => { f with calQ := true }) else .next s

/-- The slot and sequence number of the next record: the slot that does not hold the current one (R64). -/
def nextSlot (cur : BitVec 2) (seq : Word) : Bool × Word := if cur = 0 then (true, seq + 1) else if cur = 1 then (false, seq + 1) else (false, 1)

/-- RECORD_WRITE_START (R64, R65): a queued retirement record before a calibration record. No record is written before the
recorded entries have been applied (log 19). -/
def execRecordWriteStart (s : State) : Out :=
  let f := s.flash
  if f.job.isSome || s.boot.rstLow || !(s.isRunning || s.boot.phase == 9) || (f.retQ = 0 && !f.calQ) then .next s
  else
    let cal := f.retQ == 0
    let (slotB, seq) := if cal then nextSlot s.boot.slotCal s.boot.calSeq else nextSlot s.boot.slotRet s.boot.retSeq
    .next (s.onFlash fun f => { f with
      calQ := f.calQ && !cal, calHeld := if cal then none else f.calHeld, retQ := f.retQ - 1, job := some (.record { cal := cal, slotB := slotB, seq := seq, steps := s.recSteps cal slotB seq }) })

end Sys2Proof.Machine
end

