-- ==== Sys2Proof/Machine/Stop.lean ====
section
/-! DEFINITION. The thermal governor, the orderly stop, the resume, the emergency and the safe state (R219-R228, R231, R337, R404,
R442). Readings are in 0.25 °C. -/

namespace Sys2Proof.Machine

/-! ### Readings (R215, R218, R219) -/

/-- The readings of channel p by Hide; once SENS_DISAGREE has struck, H0's is the higher of it and the logic die's (R218). -/
def State.chanTemps (s : State) (p : Nat) : List (Int × Nat) :=
  if !s.sensed p then []
  else
    let c := s.cur p
    (List.range s.hides).filterMap fun h =>
      let t := c.temp.getD h {}
      if !t.valid && !t.subst then none
      else some (if h = 0 && c.useMax && c.dieValid then max t.t c.die else t.t, h)

/-- The highest of readings, the first where several are equal. -/
def hottest {α : Type} (l : List (Int × α)) : Option (Int × α) :=
  l.foldl (fun (b : Option (Int × α)) e => match b with
    | none => some e
    | some f => if f.1 < e.1 then some e else some f) none

/-- The channel reading and its Hide. -/
def State.chanReading (s : State) (p : Nat) : Option (Int × Nat) := hottest (s.chanTemps p)

/-- The logic-die reading of channel p as the governor takes it (R218). -/
def State.dieReading (s : State) (p : Nat) : Option Int :=
  let c := s.cur p
  if !s.sensed p || !c.dieValid then none
  else some (if c.useMax then max c.die (c.temp.getD 0 {}).t else c.die)

/-- Tmax, with its Hide and channel (R224). -/
def State.tmax (s : State) : Option (Int × Nat × Nat) :=
  hottest ((List.range 136).filterMap fun p => (s.chanReading p).map fun r => (r.1, r.2, p))

/-- The sector reading. -/
def State.sectorReading (s : State) (x : Nat) : Option Int :=
  (hottest ((List.range 17).filterMap fun i => s.chanReading (17 * x + i))).map (·.1)

/-! ### Levers (R219-R221) -/

/-- Change the sequencer. -/
def State.onSeq (s : State) (f : Seq → Seq) : State := { s with seq := f s.seq }
/-- A POLICY threshold in 0.25 °C. -/
def quarters (c : Nat) : Int := 4 * (c : Int)

/-- Level of a sector reading below STOPPING: levels whose band starts at or above c do not occur (R221). -/
def levelOf (pol : Policy) (t : Int) : Nat :=
  let h := quarters pol.hot
  ([h - 20, h - 10, h, h + 10, h + 20, h + 30].filter fun b => decide (b ≤ t) && decide (b < quarters pol.critical)).length

/-- The available capacity of a channel reading (R220). -/
def availOf (pol : Policy) (t : Int) : Nat :=
  let h := quarters pol.hot
  if t < h then 1024 else 1024 - min 512 (64 * ((t - h).toNat / 4))

/-- One reading moves the available capacity: down at once, up by at most 64 after two readings 2 °C below the band's edge. -/
def State.stepAvail (s : State) (p : Nat) (t : Int) : State :=
  let a := (s.ctl p).rd.avail
  let goal := availOf s.img.policy t
  let eased := availOf s.img.policy (t + 7)
  let set := fun (v n : Nat) =>
    (s.onCtl p fun c => { c with rd := { c.rd with avail := v }, wr := { c.wr with avail := v } }).onCur p fun c => { c with lowA := n }
  if goal < a then set goal 0
  else if a < eased then
    (if 2 ≤ (s.cur p).lowA + 1 then set (min eased (a + 64)) 0 else set a ((s.cur p).lowA + 1))
  else set a 0

/-- One sector reading moves the level: up at once, down to the higher of the levels two readings 2 °C warmer would give. -/
def State.stepLevel (s : State) (x : Nat) (t : Int) : State :=
  let lv := s.seq.level.getD x 0
  let goal := levelOf s.img.policy t
  let eased := levelOf s.img.policy (t + 7)
  let prev := s.seq.lowLvl.getD x 0
  let set := fun (v n : Nat) => s.onSeq fun q => { q with level := upd q.level x fun _ => v, lowLvl := upd q.lowLvl x fun _ => n }
  if lv < goal || !s.seq.rounded then set goal 0
  else if eased < lv then
    (if prev = 0 then set lv (eased + 1) else set (max eased (prev - 1)) 0)
  else set lv 0

/-- The levels driven now. -/
def State.levelsNow (s : State) : List Nat := (List.range 8).map s.thrLvl

/-- A change of state or of a driven level since s0 sets its THERM_EVENT bit (R224). -/
def State.thermEvents (s0 s : State) : State :=
  s.onSeq fun q => { q with
    thermEv := q.thermEv ||| (if s0.seq.therm = s.seq.therm then 0 else 1) ||| (if s0.levelsNow = s.levelsNow then 0 else 2) }

/-- k of the Awl clock of sector x: 1,600 x (8 - k) / 8 MHz, 7 gated; awl_lowv keeps it at 1,200 MHz or below (R221, R231, R452). -/
def State.awlClk (s : State) (x : Nat) : Nat :=
  let k := [0, 0, 0, 1, 2, 3, 4, 7].getD (s.thrLvl x) 7
  if k != 7 && s.boot.awlLowv then max k 2 else k

/-! ### Settling reductions (R226) -/

/-- A reduction that is open when the block enters STOPPING. -/
inductive Open where
  | req (n uid : Nat)
  | group (p key : Nat)
  | node (x k i y m : Nat)
deriving DecidableEq, Repr, Inhabited

/-- Unanswered ordered contributions bound for channel p, of ports and movers: requester, request. -/
def State.ordReqs (s : State) (p : Nat) : List (Nat × Req) :=
  let mine := fun (r : Req) => r.op == opOrd && !r.answered && s.serving r.lch == some p
  ((s.ports.zipIdx).flatMap fun (q, n) => (q.tags.filter mine).map fun r => (n, r)) ++
  ((s.movs.zipIdx).flatMap fun (b, y) => (b.ch.zipIdx).flatMap fun (c, m) => (c.reqs.filter mine).map fun r => (movReq y m, r))

/-- Those of one key. -/
def State.ordOf (s : State) (p key : Nat) : List (Nat × Req) := (s.ordReqs p).filter fun e => e.2.addr / 64 == key

/-- Blocks of a running REDUCE node still to issue, by serving channel; blocks for holes are answered FENCED as they come. -/
def State.nodeShare (s : State) (x k i y m : Nat) : List (Nat × Nat) :=
  let n := (s.node x k i).par.toNat
  let c := (s.mov y).ch.getD m {}
  let j0 := c.done.toNat + ((c.reqs.map fun r => r.len + 1).sum)
  let stop := nf n 0x30 0 24
  let first := movDst n j0 / 2048
  let last := movDst n (stop - 1) / 2048
  if stop ≤ j0 then []
  else ((List.range (last + 1 - first)).filterMap fun t =>
    let a := max (movDst n j0) ((first + t) * 2048)
    let z := min (movDst n stop) ((first + t + 1) * 2048)
    ((s.decode a (s.slot x k).origin).bind fun d => s.serving d.1).map fun p => (p, (z - a) / 64)).foldl
      (fun l e => smSet 0 l e.1 (smGet 0 l e.1 + e.2)) []

/-- The open reductions with their places in acceptance order. -/
def State.openReds (s : State) : List (Nat × Open) :=
  let reqs := (s.ports.zipIdx).flatMap fun (q, n) =>
    (q.tags.filter fun r => r.op == opRed && !r.answered).map fun r => (r.uid, Open.req n r.uid)
  let groups := (List.range 136).flatMap fun p =>
    let keys := (((s.ctl p).groups.map fun (g : OGroup) => g.key) ++ ((s.ordReqs p).map fun (e : Nat × Req) => e.2.addr / 64)).eraseDups
    keys.map fun k => ((s.ordOf p k).foldl (fun (a : Nat) (e : Nat × Req) => min a e.2.uid) (if (s.ordOf p k).isEmpty then 0 else s.uid + 1), Open.group p k)
  let nodes := (s.movs.zipIdx).flatMap fun (b, y) => (b.ch.zipIdx).filterMap fun (c, m) =>
    let x := c.eng.toNat
    if c.st = 1 && (s.node x c.slot.toNat c.node.toNat).ty = tREDUCE then
      some (c.uid, Open.node x c.slot.toNat c.node.toNat y m) else none
  sorted (reqs ++ groups ++ nodes) fun a b => a.1 ≤ b.1

/-- Every index of a group up to its count has been accepted (R226). -/
def State.groupWhole (s : State) (p key : Nat) : Bool :=
  let rs := s.ordOf p key
  let g := (s.ctl p).groupAt key
  let count := match g with
    | some g => g.count
    | none => ((rs.head?).map fun e => bits e.2.arg 16 8).getD 0
  let next := (g.map (·.next)).getD 0
  (List.range (count + 1)).all fun i => decide (i < next) || rs.any fun e => bits e.2.arg 8 8 == i

/-- Blocks an open reduction still has to apply, by channel. -/
def State.openShare (s : State) : Open → List (Nat × Nat)
  | .req n uid =>
    match s.reqOf n uid with
    | none => []
    | some r => ((s.serving r.lch).map fun p => (p, (if r.closed then r.taken else r.len + 1) - r.doneN)).toList
  | .group p key => [(p, ((s.ordOf p key).map fun e => e.2.len + 1 - e.2.doneN).sum)]
  | .node x k i y m => s.nodeShare x k i y m

/-- Blocks a channel applies in 1.5 ms at 2.5 ns each. -/
def settleCap : Nat := 600000

/-- An open reduction ends REDUCTION_INCOMPLETE: a request with its progress, a group with its waiting contributions, a node at a
block boundary. -/
def State.endOpenRed (s : State) : Open → State
  | .req n uid => s.blockFail n uid ((s.reqOf n uid).map (·.doneN) |>.getD 0) cINCOMPLETE
  | .group p key =>
    let busy := (s.ctl p).ordRun
    let rs := (s.ordOf p key).filter fun e => !(busy.any fun w => w.port == e.1 && w.uid == e.2.uid)
    let s := rs.foldl (fun s e => s.finish e.1 e.2.uid cINCOMPLETE) s
    let s : State := { s with ports := s.ports.map fun (q : Port) => { q with
      openW := q.openW.map fun (w : OpenW) => if rs.any fun e => e.2.uid == w.uid then { w with dead := true } else w } }
    let gone := fun (w : Work) => rs.any fun e => e.1 == w.port && e.2.uid == w.uid
    let held := ((s.ctl p).inWr ++ (s.ctl p).ordWait).filter gone
    let s := s.freeSlots (held.flatMap (·.slots))
    let s := s.onCtl p fun c => { c with ordWait := c.ordWait.filter (!gone ·), inWr := c.inWr.filter (!gone ·) }
    let s := s.freeSlots (s.nets.flatMap fun b => (b.msgs.filter fun w => w.ans.isNone && gone w).flatMap (·.slots))
    let s : State := { s with nets := s.nets.map fun (b : Net) => { b with msgs := b.msgs.filter fun w => !(w.ans.isNone && gone w) } }
    match (s.ctl p).groupAt key with
    | some g => s.timeoutGroup p g
    | none =>
      -- no contribution has reached the controller: the group closes as R165 closes it, nothing of it done
      s.onCtl p fun c => { c with
        ordEvent := true, ordLastNext := 0, ordLastCount := BitVec.ofNat 8 (((rs.head?).map fun e => bits e.2.arg 16 8).getD 0) }
  | .node x k i y m => s.endMover x k i y m cINCOMPLETE 0

/-- Settle the open reductions in acceptance order; the number that ended incomplete. -/
def State.settle (s : State) : Nat × State :=
  let z := s.openReds.foldl (fun (a : SMap Nat × List Nat × List Open) e =>
    let share := s.openShare e.2
    let whole := match e.2 with
      | .group p k => s.groupWhole p k
      | _ => true
    let late := share.filter fun h => a.2.1.contains h.1 || decide (settleCap < smGet 0 a.1 h.1 + h.2)
    if !whole then (a.1, a.2.1, a.2.2 ++ [e.2])
    else if late.isEmpty then (share.foldl (fun t h => smSet 0 t h.1 (smGet 0 t h.1 + h.2)) a.1, a.2.1, a.2.2)
    else (a.1, a.2.1 ++ late.map (·.1), a.2.2 ++ [e.2])) ([], [], [])
  (z.2.2.length, z.2.2.foldl State.endOpenRed s)

/-! ### The orderly stop (R225, R337) -/

/-- MGMT cycles since the block reset was released. -/
def State.cycles (s : State) : Nat := 400 * s.mgmt.elapsed.toNat + s.mgmt.sub

/-- Every Harness in flight stops: no node not yet dispatched runs, running nodes end ABORTED but for REDUCE (R337). -/
def State.stopHarnesses (s : State) : State :=
  (List.range 8).foldl (fun s x =>
    (List.range 64).foldl (fun s k =>
      if !(s.slot x k).st.active then s
      else
        let s := s.onSlot x k fun l => { l with st := if l.st = .running then .failing else l.st }
        let s := s.sweep x k true
        let s := (List.range (s.slot x k).nodes.length).foldl (fun s i =>
          let n := s.node x k i
          if n.st == .running && n.ty != tREDUCE then s.stopNode x k i dSTOPPED else s) s
        s.settleSlot x k) s) s

/-- Entry to STOPPING: steps 1 to 3 of R225. -/
def State.beginStop (s : State) : State :=
  let s0 := s
  let s := s.sliceStop
  let s := s.onSeq fun q => { q with therm := .stopping, stopAt := s.cycles, range := if q.range.busy then q.range.endAll cABORTED else q.range }
  let s := (List.range 128).foldl (fun s n => s.hold n .stop) s
  let s := s.stopHarnesses
  let (n, s) := s.settle
  let s := (List.range 8).foldl (fun s x => (List.range 64).foldl (fun s k => s.settleSlot x k) s) s
  let s := (List.range 136).foldl (fun s p =>
    (s.onCtl p fun c => { c with rd := { c.rd with avail := 1024 }, wr := { c.wr with avail := 1024 } }).onCur p fun c =>
      { c with lowA := 0, crit := 0 }) s
  -- the record queued now holds the trims in force now (R225)
  let s : State := { s with flash := { s.flash with calQ := true, calHeld := some s0.calEntries } }
  let s := s.onSeq fun q => { q with
    stopInc := BitVec.ofNat 16 (min n 0xFFFF), thermEv := q.thermEv ||| (if n = 0 then 0 else 8) }
  State.thermEvents s0 s

/-- Every queue of channel p is empty. -/
def State.chanDry (s : State) (p : Nat) : Bool :=
  let c := s.ctl p
  c.inRd.isEmpty && c.inWr.isEmpty && c.rdQ.isEmpty && c.wrQ.isEmpty && c.comb.isEmpty && c.flight.isEmpty &&
    c.fills.isEmpty && c.ordRun.isEmpty && c.ordWait.isEmpty && c.groups.isEmpty && !(s.link p).rtSlice

/-- The block's own agents have no work left that could reach a channel (R225 step 2, R337, R442). -/
def State.agentsDry (s : State) : Bool :=
  s.jobs.isEmpty && ((List.range 8).all fun x => s.engLost x || (s.har x).slots.all fun l => l.st == .free) &&
  s.movs.all (fun b => b.ch.all fun c => c.st != 1) && !s.seq.range.busy && !s.seq.tel.busy && s.seq.bist.phase == 0

/-- No accepted request has work left for channel p (R225 steps 3 and 4). -/
def State.boundDry (s : State) (p : Nat) : Bool :=
  let here := fun (l : Nat) => s.serving l == some p
  s.ports.all (fun q =>
    q.openW.all (fun w => q.tags.all fun r => r.uid != w.uid || !here r.lch) &&
    q.tags.all fun r => r.answered || !(r.op == opPage || r.op == opBell || here r.lch)) &&
  s.nets.all fun (b : Net) => b.msgs.all fun w => w.ans.isSome || !here w.lch

/-- A cycle of a channel in STOPPING: with its queues empty and nothing bound for it, PDE with sr = 1 takes the row slot (R225 step
5). -/
def State.stopCycle (s : State) (p : Nat) : State :=
  if s.seq.therm == .stopping && s.chanDry p && s.agentsDry && s.boundDry p && s.rowFree p then
    (s.enterSelf p).onCtl p fun c => { c with rowUsed := true }
  else s

/-- SCHEDULER_CYCLE (R148, R225); the checks of LINK_CA, SRAM and SCHED_STALL run in every cycle (R405). -/
def execSchedulerCycle (p : Nat) (s : State) : Out :=
  onChan p s fun s =>
    let s := if s.canIssue p then [2, 5, 6].foldl (fun s b => s.check (.ctl p) b false) s else s
    (s.ctlCycle p).stopCycle p

/-- Every channel with Hides to drive is in self-refresh, and every request has its answer (R225). -/
def State.stopDry (s : State) : Bool :=
  s.agentsDry && s.ports.all (fun q => q.openW.isNone && q.tags.all (·.answered)) && s.nets.all (fun (b : Net) => b.msgs.isEmpty) &&
  (List.range 136).all fun p => !s.drives p || (s.chanDry p && (s.ctl p).selfRef)

/-- Microseconds since STOPPING began, as STOP_STATUS holds them. -/
def State.stopSpan (s : State) : BitVec 12 := BitVec.ofNat 12 (min ((s.cycles - s.seq.stopAt) / 400) 0xFFF)

/-- STOP_COMPLETE: every channel is in self-refresh; THERM_STOP, STOPPED (R225 step 6, R224, R232). -/
def State.endStop (s : State) : State :=
  if s.seq.therm != .stopping || !s.stopDry then s
  else
    let s0 := s
    let s := s.onSeq fun q => { q with
      therm := .stopped, thermStop := true, stopTime := s.mgmt.elapsed, stopUs := s.stopSpan
      thermEv := q.thermEv ||| 4 }
    State.thermEvents s0 (s.report .currierSeq 0)
/-- STOP_COMPLETE. -/
def execStopComplete (s : State) : Out := .next s.endStop

/-! ### The emergency and the safe state (R228, R404, R442) -/

/-- A dump record in progress ends as a failed write (R442). -/
def State.telBreak (s : State) : State :=
  if !s.seq.tel.busy then s
  else s.onSeq fun q => { q with tel := { q.tel with busy := false, todo := [], fail := satAdd q.tel.fail 1, ev := q.tel.ev ||| 4 } }

/-- Every accepted request that has not completed is answered, waiting submissions of ports with it. -/
def State.endAll (s : State) (code : BitVec 4) : State :=
  let s := s.endWhere (fun _ _ => true) code
  let s : State := { s with ports := s.ports.map fun (q : Port) => { q with openW := q.openW.map fun (w : OpenW) => { w with dead := true } } }
  { s with hars := s.hars.map fun (h : Har) => { h with waitQ := h.waitQ.filter fun w => w.port.isNone } }

/-- Entry to EMERGENCY (R228). -/
def State.emergency (s : State) : State :=
  if s.seq.therm = .emergency then s
  else
    let s0 := s
    let s := (s.sliceBreak fun _ => true).telBreak
    let s := s.endAll cABORTED
    let s := (List.range 128).foldl (fun s n => s.hold n .emergency) s
    let s := (List.range 136).foldl State.enterSelf s
    let s := s.onSeq fun q => { q with
      therm := .emergency, thermStop := true, stopUs := if q.therm = .stopping then s.stopSpan else q.stopUs, stopTime := if q.thermStop then q.stopTime else s.mgmt.elapsed
      range := if q.range.busy then q.range.endAll cABORTED else q.range }
    State.thermEvents s0 (s.report .currierSeq 1)

/-- STOP_OVERRUN: 2 ms since entry (R224, R232). -/
def execStopOverrun (s : State) : Out :=
  .next (if s.seq.therm == .stopping then (s.report .currierSeq 2).emergency else s)

/-- The reading of a Hide as the governor takes it; H0's is the higher of it and the die's once SENS_DISAGREE has struck (R218). -/
def State.hideReading (s : State) (p hide : Nat) : Option Int :=
  ((s.chanTemps p).find? fun e => e.2 == hide).map (·.1)

/-- EMERGENCY_REREAD: the sensor whose reading met e is read again, and the re-read acts (R218, R219). -/
def execEmergencyReread (p hide : Nat) (raw : BitVec 16) (s : State) : Out :=
  onChan p s fun s =>
    let e := quarters s.img.policy.emergency
    let met := fun (s : State) => ((s.cur p).temp.getD hide {}).valid && (s.hideReading p hide).any fun t => decide (e ≤ t)
    if !s.isRunning || s.safe.on || !met s then s
    else
      let s := s.reading p hide raw
      if met s then s.emergency else s

/-- SAFE_STATE_ENTRY: FAULT_WORD.self sets in the frame of a unit (R404, R409, R418). -/
def State.enterSafe (s : State) (u : UnitId) : State :=
  let s0 := s
  let s := s.onFr u fun f => { f with self := true }
  if s.safe.on then s
  else
    let s := (s.sliceBreak fun _ => true).telBreak
    let s := s.endAll cFENCED
    let s := (List.range 136).foldl State.enterSelf s
    let s := s.onSeq fun q => { q with range := if q.range.busy then q.range.endAll cABORTED else q.range }
    State.thermEvents s0 { s with safe := { on := true, entry := BitVec.ofNat 16 u.idx, time := s.mgmt.elapsed } }
/-- SAFE_STATE_ENTRY. -/
def execSafeStateEntry (u : UnitId) (s : State) : Out := onUnit u s fun s => s.enterSafe u

/-! ### Governor rounds and the resume (R219-R227) -/

/-- The thermal state after a reading of Tmax, with the counts of readings 2 °C below w and h (R224). -/
def State.stepTherm (s : State) (t : Int) : State :=
  let w := quarters s.img.policy.warm
  let h := quarters s.img.policy.hot
  let q := s.seq
  let lw := if t ≤ w - 8 then q.lowW + 1 else 0
  let lh := if t ≤ h - 8 then q.lowH + 1 else 0
  let next : Therm := match q.therm with
    | .normal => if h < t then .hot else if w < t then .warm else .normal
    | .warm => if h < t then .hot else if 2 ≤ lw then .normal else .warm
    | .hot => if 2 ≤ lw then .normal else if 2 ≤ lh then .warm else .hot
    | st => st
  s.onSeq fun q => { q with therm := next, lowW := min lw 2, lowH := min lh 2 }

/-- A channel's count of consecutive critical readings: its own at c or above, or its logic die's at 105 °C or above (R218, R219). -/
def State.critical (s : State) (p : Nat) : Bool :=
  (match s.chanReading p with
   | some r => decide (quarters s.img.policy.critical ≤ r.1)
   | none => false) ||
  (match s.dieReading p with
   | some d => decide (420 ≤ d)
   | none => false)

/-- GOVERNOR_ROUND. An armed source of CURRIER_SEQ meets its check here; R232 gives it no reaction of its own (R405). -/
def State.governor (s : State) : State :=
  if !s.isRunning || s.safe.on then s
  else
    let s := [0, 1, 2].foldl (fun s b => s.check .currierSeq b false) s
    match s.tmax with
    | none => s
    | some (t, h, p) =>
      let s0 := s
      let s := s.onSeq fun q => { q with hotHide := BitVec.ofNat 3 h, hotChan := BitVec.ofNat 8 p, hotT := BitVec.ofInt 16 t }
      if s.seq.therm = .stopping || s.seq.therm = .stopped || s.seq.therm = .emergency then s
      else
        let s := (List.range 136).foldl (fun s p => s.onCur p fun c => { c with crit := if s.critical p then min 2 (c.crit + 1) else 0 }) s
        let s := (List.range 8).foldl (fun s x => match s.sectorReading x with
          | some r => s.stepLevel x r
          | none => s) s
        let s := s.onSeq fun q => { q with rounded := true }
        let s := (List.range 136).foldl (fun s p => match s.chanReading p with
          | some r => s.stepAvail p r.1
          | none => s) s
        if s.curs.any fun c => 2 ≤ c.crit then s.beginStop
        else State.thermEvents s0 (s.stepTherm t)
/-- GOVERNOR_ROUND (R224). -/
def execGovernorRound (s : State) : Out := .next s.governor

/-- Every reading is at most h - 2 °C (R224). -/
def State.coolEnough (s : State) : Bool :=
  (List.range 136).all fun p => (s.chanTemps p).all fun r => decide (r.1 ≤ quarters s.img.policy.hot - 8)

/-- A resume (R227): PDX everywhere, new rounds with counts at 0, levels from the readings, THERM_STOP and the holds released; the
state follows Tmax, and what waited goes on. -/
def State.resume (s : State) : State :=
  let s0 := s
  let s := s.onSeq fun q => { q with therm := .normal, thermStop := false, lowW := 0, lowH := 0, lowLvl := List.replicate 8 0 }
  let s := (List.range 136).foldl (fun s p => if s.drives p then (s.newRound p false).leaveSelf p else s) s
  let s := (List.range 8).foldl (fun s x => match s.sectorReading x with
    | some r => s.onSeq fun q => { q with level := upd q.level x fun _ => levelOf s.img.policy r }
    | none => s) s
  let s := match s.tmax with
    | some (t, _, _) => s.stepTherm t
    | none => s
  let s := (List.range 128).foldl (fun s n => s.unhold n .stop) s
  State.thermEvents s0 ((List.range 8).foldl (fun s x => s.serveSubs x 64) s)

/-- A write to THERM_CTRL (R224, R231). -/
def State.wThermCtrl (s : State) (v : Word) : State :=
  if !v.getLsbD 0 then s
  else if !keyed v || s.seq.therm != .stopped || !s.coolEnough then s.reject .currierSeq
  else s.resume
/-- THERM_RESUME. -/
def execThermResume (v : Word) (s : State) : Out := onMgmt .currierSeq s fun s => s.wThermCtrl v

end Sys2Proof.Machine
end

