-- ==== Sys2Proof/Machine/Counters.lean ====
section
/-! DEFINITION. Counter registers, the derived measures of a sector and the dump ring as commands (R25, R424-R443), and the taking of
a management response (R447). -/

namespace Sys2Proof.Machine

/-! ### Counter registers (R25, R424, R427, R428) -/

/-- CNT_SELn: stored as written, good or bad; bits 31:30 are reserved (R424, R425). -/
def State.wCntSel (s : State) (u : UnitId) (i : Nat) (v : Word) : State :=
  s.onCnt u.idx fun c => { c with sel := upd c.sel i fun _ => v &&& 0x3FFFFFFF }
/-- CNT_SEL. -/
def execCntSel (u : UnitId) (i : Nat) (v : Word) (s : State) : Out := if i < 8 then onMgmt u s fun s => s.wCntSel u i v else .next s

/-- CNTn: the high word to the write shadow, the low word with the shadow to the counter (R427). -/
def State.wCnt (s : State) (u : UnitId) (i : Nat) (high : Bool) (v : Word) : State :=
  s.onCnt u.idx fun c =>
    if high then { c with wsh := upd c.wsh i fun _ => v } else { c with val := upd c.val i fun _ => c.wsh.getD i 0 ++ v }
/-- CNT_WRITE. -/
def execCntWrite (u : UnitId) (i : Nat) (high : Bool) (v : Word) (s : State) : Out :=
  if i < 8 then onMgmt u s fun s => s.wCnt u i high v else .next s

/-- A read of CNTn: the low word copies the high one to the read shadow, the high word returns the shadow (R25). -/
def State.rCnt (s : State) (u : UnitId) (i : Nat) (high : Bool) : Word × State :=
  let c := s.cnt u.idx
  if high then (c.rsh.getD i 0, s)
  else
    let v := c.val.getD i 0
    (v.truncate 32, s.onCnt u.idx fun c => { c with rsh := upd c.rsh i fun _ => (v >>> 32).truncate 32 })
/-- CNT_READ. -/
def execCntRead (u : UnitId) (i : Nat) (high : Bool) (s : State) : Out :=
  if i < 8 && u.ok then .next (s.mgRead u fun s => s.rCnt u i high) else .next s

/-- Counter i of frame u counts an event of unit src now (R424-R427). -/
def State.cntTakes (s : State) (u : UnitId) (i : Nat) (src : UnitId) : Bool :=
  let w := (s.cnt u.idx).sel.getD i 0
  u.ok && src.ok && i < 8 && selHits u src w (bits w.toNat 0 8) && src.path.contains u && s.counts src &&
  !(s.fr u).cntFreeze && (s.fr u).st != .resetting

/-- COUNTER_OVERFLOW: an event of src that counter i of frame u selects carries it past all ones (R428, R429). -/
def execCounterOverflow (u : UnitId) (i : Nat) (src : UnitId) (ctx0 ctx1 : Word) (s : State) : Out :=
  .next (
    if s.cntTakes u i src && (s.cnt u.idx).val.getD i 0 == BitVec.allOnes 64 then
      s.onCnt u.idx fun c => cntAdd c i 1 s.mgmt.elapsed src.idx ctx0 ctx1
    else s)

/-! ### Histograms (R433, R434, R437) -/

/-- Every bin of sector x clears. -/
def State.clearBins (s : State) (x : Nat) : State := s.onSec x fun e => { e with bins := [] }

/-- HIST_CTRL: a new kind or clear clears the bins; ignored in slot-accounting mode (R437). -/
def State.wHistCtrl (s : State) (x : Nat) (v : Word) : State :=
  if !s.histMode x then s
  else
    let k := BitVec.ofNat 2 (fld v 0 2)
    let s := if k != (s.sec x).histKind || v.getLsbD 4 then s.clearBins x else s
    s.onSec x fun e => { e with histKind := k }
/-- HIST_CLEAR. -/
def execHistClear (x : Nat) (v : Word) (s : State) : Out := onMgmt (.sector x) s fun s => s.wHistCtrl x v
/-- HIST_KIND. -/
def execHistKind (x : Nat) (v : Word) (s : State) : Out := onMgmt (.sector x) s fun s => s.wHistCtrl x v

/-! ### The dump ring (R438-R443) -/

/-- Change the dump sequencer. -/
def State.onTel (s : State) (f : TelSt → TelSt) : State := { s with seq := { s.seq with tel := f s.seq.tel } }

/-- The TELEMETRY section is loaded with enable 1. -/
def State.telOn (s : State) : Option Tel := s.img.tel.bind fun t => if t.enable then some t else none

/-- Bytes of a record of this build (R440). -/
def telStride : Nat := 65536
/-- Records of the ring. -/
def Tel.recs (t : Tel) : Nat := t.ringMib * 1048576 / telStride
/-- Address of the record with sequence n. -/
def Tel.at (t : Tel) (n : Word) : Nat := t.ringBase * 2097152 + telStride * ((n.toNat - 1) % t.recs)

/-- The 64 bytes of words. -/
def wordsBlock (l : List Word) : Block := bytesBlock ((l.flatMap fun w => leBytes w.toNat 4) ++ List.replicate 64 0)
/-- The 64 bytes of eight 64-bit values. -/
def dwordsBlock (l : List Dword) : Block := bytesBlock (l.flatMap fun w => leBytes w.toNat 8)

/-- The header of a record (R440). -/
def State.telHeader (s : State) (t : Tel) (cause : Nat) : Block :=
  let e := s.mgmt.elapsed
  wordsBlock [0x4C545745, s.seq.tel.next, e.truncate 32, (e >>> 32).truncate 32, fields [(757, 0), (8, 16), (cause, 24)], s.tackGen,
    s.seq.tel.skipped, BitVec.ofNat 32 t.periodUs,
    fields ((bits t.secMode 0 8, 0) :: (List.range 8).map fun x => ((s.sec x).histKind.toNat, 2 * x + 16))]

/-- Block k of the record of sector x: 16 bins, or 8 slot counters; zeros while the sector is RESETTING (R434, R436, R439). -/
def State.telSector (s : State) (x k : Nat) : Block :=
  let e := s.sec x
  if (s.fr (.sector x)).st == .resetting then 0
  else if s.histMode x then wordsBlock ((List.range 16).map fun i => BitVec.ofNat 32 (smGet 0 e.bins (16 * k + i)))
  else dwordsBlock ((List.range 8).map fun i => smGet 0 e.slots (8 * k + i))

/-- The counters of the frame at index i as a dump copies them (R439). -/
def State.telFrame (s : State) (i : Nat) : Block :=
  if (s.frame i).st == .resetting then 0 else dwordsBlock ((List.range 8).map fun n => (s.cnt i).val.getD n 0)

/-- The blocks of a record in the order they are written: header, body, trailer (R440, R441). -/
def State.telBlocks (s : State) (t : Tel) (cause a : Nat) : List (Nat × Block) :=
  let e := s.mgmt.elapsed
  [(a, s.telHeader t cause)] ++
  ((List.range 757).map fun i => (a + 64 + 64 * i, s.telFrame i)) ++
  ((List.range 8).flatMap fun x => (List.range 32).map fun k => (a + 64 + 64 * 757 + 2048 * x + 64 * k, s.telSector x k)) ++
  [(a + telStride - 64, wordsBlock [s.seq.tel.next, 0, e.truncate 32, (e >>> 32).truncate 32])]

/-- A dump falls due: it is captured, or skipped (R438, R439). -/
def State.dumpDue (s : State) (t : Tel) (cause : Nat) : State :=
  let th := s.seq.therm
  if s.seq.tel.busy || th == .stopping || th == .stopped || th == .emergency || s.safe.on then
    (s.onTel fun q => { q with skip := satAdd q.skip 1, skipped := satAdd q.skipped 1, ev := q.ev ||| 2 }).count .currierSeq 2
  else
    let a := t.at s.seq.tel.next
    let todo := s.telBlocks t cause a
    let s := s.onTel fun q => { q with busy := true, seq := q.next, next := seqNext q.next, addr := a, skipped := 0, todo := todo }
    (List.range 8).foldl (fun s x => if s.histMode x then s.clearBins x else s) s

/-- DUMP (R438). -/
def execDump (s : State) : Out :=
  .next (
    match s.telOn with
    | some t => if s.isRunning then s.dumpDue t 0 else s
    | none => s)

/-- TEL_CTRL (R438, R443). -/
def State.wTelCtrl (s : State) (v : Word) : State :=
  if fld v 0 1 = 0 then s
  else match s.telOn with
    | none => s.reject .currierSeq
    | some t => if keyed v then s.dumpDue t 1 else s
/-- TEL_NOW. -/
def execTelNow (v : Word) (s : State) : Out := onMgmt .currierSeq s fun s => s.wTelCtrl v

/-- Write blocks of a record, to the first that is not answered OK (R442). -/
def State.telPut (s : State) : List (Nat × Block) → BitVec 4 × State
  | [] => (cOK, s)
  | (a, b) :: l =>
    match s.paWrite a 0 b with
    | (c, s) => if c = cOK then s.telPut l else (c, s)

/-- DUMP_WRITE_ACK: the stage of the record in progress, header, body or trailer, is answered: OK, or a code that ends the record
(R441, R442). The stage's blocks reach memory at its answer (log 13). -/
def execDumpWriteAck (code : BitVec 4) (s : State) : Out :=
  .next (
    let q := s.seq.tel
    if !q.busy then s
    else
      let n := if q.todo.length = 757 + 256 + 2 then 1 else if 1 < q.todo.length then q.todo.length - 1 else 1
      if code != cOK then s.telBreak
      else s.agent ownDump 0 fun s => match s.telPut (q.todo.take n) with
      | (c, s) =>
        if c != cOK then s.telBreak
        else if n < q.todo.length then s.onTel fun q => { q with todo := q.todo.drop n }
        else (s.onTel fun q => { q with todo := [], busy := false, last := q.seq, ev := q.ev ||| 1 }).count .currierSeq 1)

/-! ### The management port (R447) -/

/-- MGMT_RSP_TAKEN: the oldest response is taken. -/
def execMgmtRspTaken (s : State) : Out := .next { s with mgmt := { s.mgmt with rsp := s.mgmt.rsp.tail } }

end Sys2Proof.Machine
end

