-- ==== Sys2Proof/Machine/Faults.lean ====
section
/-! DEFINITION. Fault words cleared and injected, fences by the driver, gated islands, lost reference clocks (R17, R31, R386, R392,
R405-R408, R450). -/

namespace Sys2Proof.Machine

/-! ### Fault words (R30-R32, R386) -/

/-- A write to FAULT_WORD: src bits and fault_ambig are W1C; self is not. -/
def State.wFaultWord (s : State) (u : UnitId) (v : Word) : State :=
  let s := s.clearSrc u (BitVec.ofNat 16 (fld v 0 16))
  s.onFr u fun f => { f with ambig := f.ambig && !v.getLsbD 31 }
/-- FAULT_WORD_CLEAR. -/
def execFaultWordClear (u : UnitId) (v : Word) (s : State) : Out := onMgmt u s fun s => s.wFaultWord u v

/-! ### Injection (R405-R407) -/

/-- An armed bit of a group frame fires at once, with the class of FLT_INJ_CLS; no unit reacts (R407). -/
def State.injectGroup (s : State) (u : UnitId) (m : BitVec 16) : State :=
  let k := match (s.fr u).injCls.toNat with
    | 0 => Cls3.corr
    | 1 => Cls3.cont
    | _ => Cls3.fatal
  let hit := u.kids.filter fun v => m.getLsbD v.ordinal
  let s := hit.foldl (fun s v =>
    (s.latch u v.ordinal k).onFr u fun f => { f with fired := f.fired ||| ((1 : BitVec 16) <<< v.ordinal) }) s
  s.collect u

/-- A write to FAULT_INJ: only with the inject privilege. A lost reference has no check at a command of its own: it fires here. -/
def State.wFaultInj (s : State) (u : UnitId) (v : Word) : State :=
  let m : BitVec 16 := BitVec.ofNat 16 (fld v 0 16)
  if !s.has 1 then s
  else if u.isGroup then s.injectGroup u m
  else
    let known := (List.range 16).foldl (fun (a : BitVec 16) i => if (srcClass u.ty i).isSome then a ||| ((1 : BitVec 16) <<< i) else a) 0
    let s := s.onFr u fun f => { f with inj := m &&& known }
    match u with
    | .network _ => s.check u 1 false
    | _ => s
/-- FAULT_INJ. -/
def execFaultInj (u : UnitId) (v : Word) (s : State) : Out := onMgmt u s fun s => s.wFaultInj u v

/-! ### FLT_FENCE (R392, R408) -/

/-- The driver may fence the child from the parent's frame. -/
def fenceable : UnitId → UnitId → Bool
  | .channel _, .awl _ => true
  | .sector _, .harness _ => true
  | .sector _, .movers _ => true
  | _, _ => false

/-- A write to FLT_FENCE of group frame u. -/
def State.wFltFence (s : State) (u : UnitId) (v : Word) : State :=
  if !u.isGroup then s
  else if !v.getLsbD 8 then s.onFr u fun f => { f with fenceOrd := BitVec.ofNat 4 (fld v 0 4) }
  else match u.kids[fld v 0 4]? with
  | none => s.reject u
  | some k =>
    if !keyed v || !fenceable u k || s.isFenced k then s.reject u
    else
      let s := s.onFr u fun f => { f with fenceOrd := BitVec.ofNat 4 (fld v 0 4) }
      ((s.fenceUnit k).latch u k.ordinal .cont).collect u
/-- FLT_FENCE. -/
def execFltFence (u : UnitId) (v : Word) (s : State) : Out := onMgmt u s fun s => s.wFltFence u v

/-! ### Gated islands (R17, R397) -/

/-- A page call waits for the engine of sector x: offered at a port, or a READY node of another engine (R17). -/
def State.callsWait (s : State) (x : Nat) : Bool :=
  (s.ports.any fun q => q.callTo == some x) ||
  (List.range 8).any fun y => (List.range 64).any fun k => (s.slot y k).st.active && ((s.slot y k).nodes.zipIdx).any fun (nd, i) =>
    nd.ty == tPAGE && nd.st == .ready && (match resGet (s.params y k i) with
      | .ok n => s.executor ((callDec (BitVec.ofNat 512 (nf n 0x20 0 512))).ctx / 262144) == some x
      | .error _ => false)

/-- The island has no work (R17). -/
def State.islandIdle (s : State) : UnitId → Bool
  | .awl p => (s.awl p).part.isNone && (s.awl p).waitQ.isEmpty && (s.awl p).carryQ.isEmpty && (s.awl p).memq.isEmpty
  | .harness x => (s.har x).waitQ.isEmpty && ((s.har x).slots.all fun l => l.st == .free) && !s.working (ownHar x) && !s.callsWait x
  | _ => false

/-- ISLAND_GATE: idle for gate_us. -/
def execIslandGate (u : UnitId) (s : State) : Out :=
  onUnit u s fun s =>
    if s.isRunning && s.img.policy.gateUs != 0 && (s.fr u).st == .running && s.islandIdle u then s.onFr u fun f => { f with st := .gated }
    else s

/-- ISLAND_WAKE: work has been dispatched to a gated island, and it runs again. -/
def execIslandWake (u : UnitId) (s : State) : Out :=
  onUnit u s fun s => if (s.fr u).st == .gated && !s.islandIdle u then s.onFr u fun f => { f with st := .running } else s

/-! ### Reference clocks (R394, R450) -/

/-- The management PLL moves when the reference in use is lost. -/
def State.moveRef (s : State) : State :=
  let m := s.mgmt
  if m.clkInternal || !m.clkLost.getLsbD m.clkRef.toNat then s
  else match (List.range 8).find? fun i => !m.clkLost.getLsbD i with
    | some i => { s with mgmt := { m with clkRef := BitVec.ofNat 3 i, clkMoved := true } }
    | none => { s with mgmt := { m with clkInternal := true, clkMoved := true } }

/-- REF_CLK_LOST: REF_LOST latches, the sector is fenced, its PLLs hold over. -/
def State.refLost (s : State) (x : Nat) : State :=
  if s.mgmt.clkLost.getLsbD x then s
  else
    let s : State := { s with mgmt := { s.mgmt with clkLost := s.mgmt.clkLost ||| ((1 : BitVec 8) <<< x) } }
    let s := s.onSec x fun e => { e with holdover := true }
    (s.fault (.network x) 1).moveRef
/-- REF_CLK_LOST. -/
def execRefClkLost (x : Nat) (s : State) : Out := onSect x s fun s => s.refLost x

/-- Every tag of the port has had its answer, or the port no longer takes part after a RESPONSE_STALL. -/
def Port.answered (p : Port) : Bool :=
  p.stalled || (p.tags.isEmpty && p.rsp.isEmpty && p.ackQ.isEmpty && p.ackPin.isNone)

/-- HOLDOVER_END: every tag has been answered, the sector's ports are down and its clocks stop (R100); while an answer is
still to be presented it does not come. -/
def State.endHoldover (s : State) (x : Nat) : State :=
  let ports := (List.range 128).filter fun n => secOf (s.portPhys n) == x
  if !((s.sec x).holdover && ports.all fun n => (s.port n).answered) then s
  else
    let s := ports.foldl (fun s n => s.onPort n fun q => { q with
      up := false, clkOn := false, tags := [], rsp := [], ackQ := [], ackPin := none, openW := none, stalled := false }) s
    s.onSec x fun e => { e with holdover := false, clkStop := true }
/-- HOLDOVER_END. -/
def execHoldoverEnd (x : Nat) (s : State) : Out := onSect x s fun s => s.endHoldover x

end Sys2Proof.Machine
end

