-- ==== Sys2Proof/Machine/Jtag.lean ====
section
/-! DEFINITION. The IEEE 1149.1 port (R421-R423, R458). One command is one scan of the register an instruction selects, from the
instruction register to Update-DR and Run-Test/Idle; data registers are lists of bits, the bit next to jt_tdo first. -/

namespace Sys2Proof.Machine

/-- Change the TAP. -/
def State.onTap (s : State) (f : Tap → Tap) : State := { s with tap := f s.tap }

/-- Test-Logic-Reset: bypass is selected and no boundary cell drives (R421). -/
def Tap.reset (t : Tap) : Tap := { t with ir := 0xFF, drive := [] }

/-- A scan: it works only while the scan privilege is in effect; without it the TAP is held in Test-Logic-Reset (R67, R421, R458). -/
def State.tapScan (s : State) (ir : Byte) (f : State → State) : State :=
  if s.has 0 then f (s.onTap fun t => { t with ir := ir, drive := if ir = 0 then t.drive else [] }) else s.onTap Tap.reset

/-- TAP_RESET (R458). -/
def execTapReset (s : State) : Out := .next (s.onTap Tap.reset)

/-- The condition of EXTEST (R421). -/
def State.extestOk (s : State) : Bool :=
  s.boot.phase == 0xB ||
  (List.range 136).all fun p => let t := (s.fr (.ctl p)).st; t == .quiesced || t == .fenced || t == .standby

/-- n zero bits. -/
def zeros (n : Nat) : List Bool := List.replicate n false

/-- EXTEST: the cells capture the pins and then drive what was shifted in; without its condition it has no effect and captures
zero. -/
def execExtest (drive capture : List Bool) (s : State) : Out :=
  .next (s.tapScan 0x00 fun s =>
    if s.extestOk then s.onTap fun t => { t with dr := capture, boundary := drive, drive := drive }
    else s.onTap fun t => { t with dr := zeros capture.length, drive := [] })

/-- SAMPLE/PRELOAD: the pins are captured and the cells preloaded; nothing is driven. -/
def execSamplePreload (drive capture : List Bool) (s : State) : Out :=
  .next (s.tapScan 0x01 fun s => s.onTap fun t => { t with dr := capture, boundary := drive })

/-- The n low bits of a number, lowest first. -/
def bitList (v n : Nat) : List Bool := (List.range n).map (bitN v)

/-- UNIT_SEL: the 16-bit register of the Tack Table index. -/
def execUnitSel (entry : BitVec 16) (s : State) : Out :=
  .next (s.tapScan 0x10 fun s => s.onTap fun t => { t with dr := bitList t.unit.toNat 16, unit := entry })

/-- The selected unit is QUIESCED. -/
def State.tapQuiesced (s : State) : Bool := s.tap.unit.toNat < 757 && (s.frame s.tap.unit.toNat).st == .quiesced

/-- n free bits (log 6). -/
def State.takeBits (s : State) (n : Nat) : List Bool × State :=
  ((List.range n).map fun i => (Config.freeWord (s.free + i / 32)).getLsbD (i % 32), { s with free := s.free + (n + 31) / 32 })

/-- INTSCAN: the selected unit's chains are captured and replaced. What flop stands where is the netlist's (log 4). -/
def execIntscan (chain : List Bool) (s : State) : Out :=
  .next (s.tapScan 0x11 fun s =>
    if s.tapQuiesced then
      let (bs, s) := s.takeBits chain.length
      s.onTap fun t => { t with dr := bs, chain := chain }
    else s.onTap fun t => { t with dr := zeros chain.length })

/-- SIGREAD: the 16-bit status is shifted out first, then the signature (R422). -/
def execSigread (s : State) : Out :=
  .next (s.tapScan 0x12 fun s => s.onTap fun t => { t with dr := bitList t.status.toNat 16 ++ bitList t.sig.toNat 64 })

/-- SLICE: phases 2 to 4 of R414 on the selected unit, which stays QUIESCED. `ran` patterns ran, their compaction left `misr`; fewer
than P where the window failed. PASS is reported only for the netlist's P (R422). -/
def execSlice (idx : BitVec 8) (pats : BitVec 16) (ran : Nat) (misr : BitVec 48) (s : State) : Out :=
  .next (s.tapScan 0x13 fun s =>
    if s.tapQuiesced then
      let i := s.tap.unit.toNat
      let u := unitAt i
      let s := match heldChan u with
        | some p => s.enterSelf p
        | none => s
      let s := s.clearLeaf u true
      let p := pats.toNat
      let ran := min ran p
      let sig : Dword := BitVec.ofNat 64 (misr.toNat * 65536 + (p - ran))
      let pass := ran == p && p == slicePats u.ty && decide (0 < sliceCount u.ty) && sig == s.expected i idx.toNat
      let (cap, s) := s.takeBits 24
      s.onTap fun t => { t with
        dr := cap, sig := sig, status := fields [(1, 0), (b2n pass, 1), (b2n (ran != p), 2)] |>.truncate 16 }
    else s.onTap fun t => { t with dr := zeros 24 })

/-- BYPASS: the one-bit register captures 0, as IEEE 1149.1 has it, and takes the bit shifted in. -/
def execBypass (tdi : Bool) (s : State) : Out :=
  .next (s.tapScan 0xFF fun s => s.onTap fun t => { t with dr := [false], bypass := tdi })

end Sys2Proof.Machine
end

