-- ==== Sys2Proof/Machine/Loader.lean ====
section
/-! DEFINITION. Reset and start-up: the loader's phases from CLOCK to RUNNING, FAILED or END, and the records applied on the way
(R45-R51, R53, R58-R60, R63, R66, R109, R188, R189, R198, R202, R256, R257, R445, R453, R454). -/

namespace Sys2Proof.Machine

/-- Change the start-up registers. -/
def State.onBoot (s : State) (f : Boot → Boot) : State := { s with boot := f s.boot }

/-- The block is out of reset and in a phase of start-up. -/
def State.inPhase (s : State) (ph : BitVec 4) : Bool := !s.boot.rstLow && s.boot.phase == ph

/-- A command that ends a phase: nothing happens in any other phase (log 2). -/
def onPhase (ph : BitVec 4) (s : State) (f : State → State) : Out := if s.inPhase ph then .next (f s) else .next s

/-- The phase changes; the time spent in the one that ends is added to its duration (R71). -/
def State.toPhase (s : State) (ph : BitVec 4) : State :=
  s.onBoot fun b => { b with
    phase := ph, phaseAt := s.mgmt.elapsed
    phaseUs := upd b.phaseUs b.phase.toNat fun w => w + (s.mgmt.elapsed - b.phaseAt).setWidth 32 }

/-- Start-up ends in FAILED; record writes still queued are dropped (R51, log 19). -/
def State.bootFail (s : State) (result : Byte) : State :=
  ((s.toPhase 0xB).onBoot fun b => { b with result := result }).onFlash fun f => { f with calQ := false, retQ := 0 }

/-! ### Block reset (R45, R51, R453, R454) -/

/-- BLOCK_RESET_ASSERT: every unit resets; the flash, the netlist, the commands waiting and the model's own counters stay. -/
def execBlockResetAssert (s : State) : Out :=
  let s := s.jobOpen
  .next { State.reset with
    pending := s.pending, free := s.free, uid := s.uid, hides := s.hides, build := s.build, dieSlope := s.dieSlope, dieIcpt := s.dieIcpt
    expSig := s.expSig, flash := { cells := s.flash.cells }, tap := s.tap.reset, boot := { rstLow := true } }

/-- BLOCK_RESET_RELEASE: start-up enters CLOCK with the elapsed counter at zero; out of the sequence of R453 the behaviour is
undefined (R1). -/
def execBlockResetRelease (sequenced : Bool) (s : State) : Out :=
  if !s.boot.rstLow then .next s
  else if sequenced then .next (s.onBoot fun b => { b with rstLow := false })
  else .fault .undefinedR1

/-- CLOCK_END (R51, R66, R445). -/
def execClockEnd (lcState : BitVec 3) (key : BitVec 256) (flSlow awlLowv : Bool) (s : State) : Out :=
  onPhase 0 s fun s =>
    let ok := within lcState.toNat 1 5
    let s := s.onBoot fun b => { b with lcState := lcState, lcKey := key, lcInvalid := !ok, flSlow := flSlow, awlLowv := awlLowv }
    if ok && lcState != 5 then s.toPhase 1
    else (s.toPhase 0xC).onBoot fun b => { b with result := rsEND }

/-- LC_INPUT_CHANGE (R66). -/
def execLcInputChange (s : State) : Out :=
  if s.boot.rstLow || s.boot.phase = 0 then .next s else .next (s.onBoot fun b => { b with lcChanged := true })

/-- STRAP_CHANGE (R445). -/
def execStrapChange (s : State) : Out :=
  if s.boot.rstLow || s.boot.phase = 0 then .next s else .next (s.onBoot fun b => { b with strapChanged := true })

/-! ### DISCOVER, LOAD, VERIFY (R52, R53, R58-R60) -/

/-- Density in bits of DWORD 2 (JESD216, PRESUMED, log 17). -/
def sfdpBits (d : Word) : Nat := if d.getLsbD 31 then 2 ^ (d.toNat % 2 ^ 31 % 64) else d.toNat + 1

/-- DISCOVER_END. -/
def execDiscoverEnd (sfdp : Option Sfdp) (s : State) : Out :=
  onPhase 1 s fun s =>
    match sfdp with
    | none => s.bootFail rsNOFLASH
    | some x =>
      let dw := fun (n : Nat) => x.dwords.getD (n - 1) 0
      let d1 := (dw 1).toNat
      if x.major = 1 && bits d1 0 2 == 1 && bits d1 17 2 != 3 && bitN d1 21 && 2 ^ 26 ≤ sfdpBits (dw 2) then
        (s.toPhase 2).onBoot fun b => { b with
          onFallback := false, flAddr4 := bits d1 17 2 == 2, flErase := BitVec.ofNat 8 (d1 / 256), flBytes := sfdpBits (dw 2) / 8
          flQuad := (dw 3).setWidth 16, flQe := BitVec.ofNat 3 (bits (dw 15).toNat 20 3), flPage := 2 ^ bits (dw 11).toNat 4 4 }
      else s.bootFail rsUNSUP

/-- A check has failed: the fallback is tried once, unless it is erased (R51, R60). -/
def State.imageFail (s : State) (result : Byte) : State :=
  if s.boot.onFallback || word32 (flashRead s.flash.cells 0x200000 4) 0 = 0xFFFFFFFF then s.bootFail result
  else (s.toPhase 2).onBoot fun b => { b with prim := result, onFallback := true }

/-- The image is accepted (R51, R60): the loader goes on to SLOTS. -/
def State.imageOk (s : State) (i : Image) : State :=
  let fb := s.boot.onFallback
  let s := { (s.toPhase 4).onBoot fun b => { b with fallback := fb, imgSeq := i.imgSeq, cand := none } with image := some i }
  if fb then s.report .loader 0 else s

/-- LOAD_END: checks 1 to 7 on the image in the selected region (R58). -/
def execLoadEnd (s : State) : Out :=
  onPhase 2 s fun s =>
    let base := if s.boot.onFallback then 0x200000 else 0
    match headerLen (flashRead s.flash.cells base 64) with
    | none => s.imageFail rsHEADER
    | some len =>
      match checkImage (flashRead s.flash.cells base len) len s.hides s.build.toNat (s.boot.lcKey != 0) with
      | .fail r => s.imageFail r
      | .over res sum =>
        (s.onBoot fun b => { b with admitRes := BitVec.ofNat 2 res, admitSum := BitVec.ofNat 14 sum, admitFail := true }).imageFail rsOVER
      | .pass i =>
        if s.boot.lcKey = 0 then s.imageOk i else (s.toPhase 3).onBoot fun b => { b with cand := some i }

/-- VERIFY_END: checks 8 and 9 (R58, R59). -/
def execVerifyEnd (s : State) : Out :=
  onPhase 3 s fun s =>
    match s.boot.cand with
    | none => s
    | some i =>
      match i.sig with
      | none => s
      | some (qx, qy, r, t) =>
        if sha256 ((leBytes qx 32).reverse ++ (leBytes qy 32).reverse) != s.boot.lcKey.toNat then s.imageFail rsKEY
        else if !ecdsaOk qx qy r t i.digest then s.imageFail rsSIG
        else (s.imageOk i).onBoot fun b => { b with signed := true }

/-! ### The retirement record's entries (R109, R198, R256, R257) -/

/-- A spare entry (R109): sector, position served, spare lost, fenced and hole. -/
structure SpareRec where
  sector : Nat
  serves : Option Nat
  lost : Bool
  fenced : Nat
  hole : Nat
deriving DecidableEq, Repr, Inhabited

/-- Byte k of an entry. -/
def entB (e : List Byte) (k : Nat) : Nat := (e.getD k 0).toNat

/-- A spare entry, when it is consistent. -/
def spareRec (e : List Byte) : Option SpareRec :=
  let b := entB e
  let r : SpareRec := {
    sector := b 1 % 8, serves := if bitN (b 2) 4 then some (b 2 % 16) else none, lost := bitN (b 2) 5
    fenced := b 4 + 256 * b 5, hole := b 6 + 256 * b 7 }
  let served := match r.serves with
    | some k => bitN r.fenced k && !bitN r.hole k && !r.lost
    | none => true
  if b 1 < 8 && b 2 < 64 && b 3 == 0 && served &&
      (List.range 16).all (fun k => (!bitN r.hole k || bitN r.fenced k) && (!bitN r.fenced k || bitN r.hole k || r.serves == some k)) then some r
  else none

/-- The spare entries of sector x among the entries of a record. -/
def spareEnts (es : List (List Byte)) (x : Nat) : List (List Byte) := es.filter fun e => entB e 0 == 0x10 && entB e 1 % 8 == x

/-- The map the record gives sector x: none at home; and whether an entry of it is not applied (R109). -/
def spareFor (es : List (List Byte)) (x : Nat) : Option SpareRec × Bool :=
  match spareEnts es x with
  | [] => (none, false)
  | [e] => (spareRec e, (spareRec e).isNone)
  | _ => (none, true)

/-- The record fences physical channel p: it is not trained and stays unpowered (R109). -/
def recFenced (es : List (List Byte)) (p : Nat) : Bool :=
  match (spareFor es (secOf p)).1 with
  | none => false
  | some r => if posOf p = 16 then r.lost else bitN r.fenced (posOf p)

/-! ### SLOTS, ISLANDS (R48, R62, R63) -/

/-- SLOTS_END. -/
def execSlotsEnd (s : State) : Out :=
  onPhase 4 s fun s =>
    let (cc, cs, cb, cbad) := resolvePair (s.readSlot true false) (s.readSlot true true)
    let (rc, rs, rb, rbad) := resolvePair (s.readSlot false false) (s.readSlot false true)
    let rets := cutEntries 8 (half16 rb 2) (rb.drop 16)
    let s : State := { s.onBoot fun b => { b with slotCal := cc, slotRet := rc, calSeq := cs, retSeq := rs } with
      calRec := cutEntries 896 (half16 cb 2) (cb.drop 16), retRec := rets }
    let s := if cbad || rbad then s.report .loader 1 else s
    let s := if cc = 3 then s.report .loader 2 else s
    let s := if rc = 3 then s.report .loader 3 else s
    ((List.range 136).foldl (fun s p => if recFenced rets p then s.onCtl p fun c => { c with unpowered := true } else s) s).toPhase 5

/-- The islands run: the port clocks of the sectors in service start (R75, R454). -/
def State.islandsUp (s : State) : State :=
  { s with ports := s.ports.map fun (q : Port) => if q.fencedAll then q else { q with clkOn := true } }.toPhase 6

/-- ISLANDS_END. -/
def execIslandsEnd (s : State) : Out := onPhase 5 s fun s => s.islandsUp

/-- ISLANDS_LOCK_TIMEOUT: the sectors that have not locked are fenced (R48). -/
def execIslandsLockTimeout (unlocked : List Nat) (s : State) : Out :=
  onPhase 5 s fun s => ((List.range 8).foldl (fun s x => if unlocked.contains x then s.fenceSector x else s) s).islandsUp

/-! ### HIDE_UP (R48, R51, R215, R217, R218) -/

/-- Channel p takes part in start-up: powered and not fenced. -/
def State.tried (s : State) (p : Nat) : Bool := !(s.ctl p).unpowered && !s.chFenced p && !(s.sec (secOf p)).off

/-- The map the record gives sector x is set, its channels fenced (R109). -/
def State.applySpare (s : State) (x : Nat) : State :=
  if (s.sec x).off then s
  else match spareFor s.retRec x with
  | (none, false) => s
  | (none, true) => s.report .loader 3
  | (some r, _) =>
    let s := (List.range 17).foldl (fun s i =>
      if recFenced s.retRec (17 * x + i) then
        ([UnitId.channel (17 * x + i), .ctl (17 * x + i), .link (17 * x + i), .currier (17 * x + i), .awl (17 * x + i)].foldl
          State.markFenced s).onLink (17 * x + i) fun l => { l with st := .fenced }
      else s) s
    let s := match r.serves with
      | some k => s.flipTo x k
      | none => s
    s.onSec x fun e => { e with
      sp := if r.lost then .lost else if r.serves.isSome then .substituting else .standby, pos := 0
      fenced := BitVec.ofNat 16 r.fenced, hole := BitVec.ofNat 16 r.hole, serve := r.serves }

/-- A channel fenced in start-up leaves its sector's map, as a run-time loss does, with nothing to copy (R48, R109, R110). -/
def State.applyLoss (s : State) (p : Nat) : State :=
  if (s.sec (secOf p)).off then s
  else (if posOf p = 16 then s.loseSpare (secOf p) else s.loseHome (secOf p) (posOf p)).queueRet

/-- Every live channel is trained or fenced. -/
def State.allTrained (s : State) : Bool := (List.range 136).all fun p => !s.tried p || s.boot.trained.contains p

/-- Every live channel is trained or fenced: spares are substituted and holes set, and APPLY begins (R48, R51, R109). -/
def State.trainOver (s : State) : State :=
  if !s.allTrained then s else (s.boot.lost.foldl State.applyLoss ((List.range 8).foldl State.applySpare s)).toPhase 8

/-- A channel fenced in start-up: its units, and its sparing is left to the end of TRAIN (R48, R109). -/
def State.dropChan (s : State) (p : Nat) : State :=
  let s := [UnitId.channel p, .ctl p, .link p, .currier p, .awl p].foldl State.markFenced s
  (s.onLink p fun l => { l with st := .fenced }).onBoot fun b => { b with lost := b.lost ++ [p] }

/-- The sensor constants of a Hide at a channel, and the rate of a sensor they show bad (R215, R217). -/
def State.sensConst (s : State) (e : Nat × Nat × BitVec 16 × BitVec 16) : State :=
  let (p, h, lo, hi) := e
  let bad := (hi.toNat : Int) - lo.toNat < 64
  let s := s.onCur p fun c => { c with
    temp := upd c.temp h fun t => { t with kLo := lo.toNat, kHi := hi.toNat, bad := bad }
    rate := if bad then upd c.rate h fun _ => 2 else c.rate }
  let s := s.onLink p fun l => { l with mr := smSet 0 (smSet 0 l.mr (256 * h + 0x13) lo) (256 * h + 0x14) hi }
  if bad then s.report (.currier p) 0 else s

/-- The offset of a channel's die sensor (R218): the converted count less the channel's H0 reading. -/
def State.dieFit (s : State) (e : Nat × Nat × BitVec 16) : State :=
  let (p, count, code) := e
  let t := (s.cur p).temp.getD 0 {}
  s.onCur p fun c => { c with dieOfs := s.dieSlope * count + s.dieIcpt - tempOf t.kLo t.kHi (code.toNat % 4096) }

/-- HIDE_UP_END. Of the channels that one command finds silent, a spare goes first (R110). No rule gives a value that HIDE_UP writes
to a mode register: they stay as they stand (log 29). -/
def execHideUpEnd (h : HideUp) (s : State) : Out :=
  onPhase 6 s fun s =>
    let ps := (List.range 136).filter s.tried
    let hs := List.range s.hides
    if hs.any fun k => ps.all fun p => h.silent.contains (p, k) then s.bootFail rsHIDE
    else
      let dead := ps.filter fun p => hs.any fun k => h.silent.contains (p, k)
      let s := (dead.filter (posOf · == 16) ++ dead.filter (posOf · != 16)).foldl State.dropChan s
      let live := ps.filter fun p => !dead.contains p
      let s := (h.sensK.filter fun e => live.contains e.1 && e.2.1 < s.hides).foldl State.sensConst s
      let s := (h.die.filter fun e => live.contains e.1).foldl State.dieFit s
      -- with no channel live, every live channel is trained or fenced already (R51)
      ((live.foldl (fun s p => s.onLink p fun l => { l with st := .training }) s).toPhase 7).trainOver

/-! ### TRAIN (R48, R49, R188, R189, R202) -/

/-- The calibration entry of channel p from which training starts (R202): valid, no reserved bit set, rotations in range. -/
def State.calFor (s : State) (p : Nat) : Option (List Byte) :=
  s.calRec.find? fun e =>
    let rot := (List.range 20).map fun i => half16 e (0x10 + 2 * i)
    entB e 0 == p && entB e 1 == 1 && ((e.drop 4).take 12).all (· == 0) && (e.drop 0x358).all (· == 0) &&
    (rot.zip (List.range 20)).all fun x => x.1 < 64 && x.1 % 32 ≤ (if x.2 < 18 then 16 else 12)

/-- Rotation state and trims of a calibration entry (R202). -/
def Link.fromRec (l : Link) (e : List Byte) : Link :=
  let lane := fun (k : Nat) =>
    if k < 153 then ({ phase := BitVec.ofNat 7 (half16 e (0x50 + 2 * k)), ref := BitVec.ofNat 6 (half16 e (0x50 + 2 * k) / 128) } : Lane)
    else if k < 306 then { phase := BitVec.ofNat 7 (entB e (0x190 + (k - 153))) }
    else { phase := BitVec.ofNat 7 (entB e (0x230 + (k - 306))) }
  { l with
    grps := l.grps.zipIdx.map fun (g, i) =>
      if g.parked then g else { g with c := half16 e (0x10 + 2 * i) % 32, up := bitN (half16 e (0x10 + 2 * i)) 5 }
    lanes := (List.range 332).foldl (fun m k => smSet {} m k (lane k)) l.lanes
    strobes := (e.drop 0x250).take 72 ++ (e.drop 0x2A0).take 72, caStb := e.getD 0x2F0 0
    caVref := (List.range 8).map fun h => BitVec.ofNat 16 (half16 e (0x300 + 2 * h)), wrVref := (e.drop 0x310).take 72 }

/-- Training leaves the calibration position of a group at its last place, stepping downward; a park that stands holds (R173). -/
def Link.rewound (l : Link) : Link :=
  { l with rotQ := [], grps := l.grps.zipIdx.map fun (g, i) =>
      if g.parked then g else { g with c := if i < 18 then 16 else 12, up := false } }

/-- What failing positions make of a link (R189): the link with its parks, whose ROT goes out in a row slot (R196), and its dead lanes;
the number parked and dead; none when the channel fails. -/
def Link.trainFails (l : Link) : List LanePos → Option (Link × Nat × Nat)
  | [] => some (l, 0, 0)
  | x :: rest =>
    let i := grpIx x.set x.group
    let g := l.grp i
    let j := laneIdx (l.parkPos i) x.pos
    let put := fun (f : Grp → Grp) => { l with grps := upd l.grps i f }
    if !g.parked then
      { put fun g => { g with parked := true, st := .parked } with
        rotQ := if x.pos = g.c then l.rotQ else l.rotQ ++ [(x.set, x.group, x.pos)] }.trainFails rest
        |>.map fun (l, p, d) => (l, p + 1, d)
    else if x.pos = l.parkPos i || g.dead.contains j then l.trainFails rest
    else if x.set = 2 then none
    else
      let l : Link := put fun g => { g with dead := g.dead ++ [j] }
      if 2 < l.erased.length then none else l.trainFails rest |>.map fun (l, p, d) => (l, p, d + 1)

/-- The mode registers that training writes (R183, R188): MODE normal with the write and CA calibration positions compared, the PRBS
seed, which the spec leaves open, and the references found. -/
def State.trainRegs (s : State) (p : Nat) : State :=
  let (w, s) := s.takeFree
  let seed := w.setWidth 15 ||| 1
  s.onLink p fun l =>
    ({ l with mr := (List.range s.hides).foldl (fun m h => smSet 0 (smSet 0 m (256 * h + 4) 0x20) (256 * h + 5) (seed.setWidth 16)) l.mr }).vrefs s.hides

/-- The trims that training found lie within the search from a record: 24 phase steps and 8 reference steps around the recorded ones
(R188). -/
def State.inSearch (s : State) (p : Nat) (r : TrainRes) : Bool :=
  match s.calFor p with
  | none => true
  | some e =>
    let l := (s.link p).fromRec e
    r.trims.all fun t =>
      let k := l.lane (lposKey t.1)
      !lposOk t.1 ||
      (phaseDist k.phase.toNat t.2.1.toNat ≤ 24 && (t.1.set != 0 || ((k.ref.toNat : Int) - t.2.2.toNat).natAbs ≤ 8))

/-- A trained link runs: what is not parked starts to calibrate (R193). -/
def Link.started (l : Link) : Link :=
  { l with st := .running, grps := l.grps.map fun g => if g.parked then { g with st := .parked } else { g with st := .cal } }

/-- Training of channel p ends (R188, R189). -/
def State.trainEnd (s : State) (p : Nat) (r : TrainRes) : State :=
  let s := s.onBoot fun b => { b with trained := b.trained ++ [p] }
  let l := match s.calFor p with
    | some e => (s.link p).fromRec e
    | none => s.link p
  match l.rewound.trainFails (r.fails.filter lposOk) with
  | none => s.dropChan p
  | some (l, parks, deads) =>
    if r.noEye || r.badVerify then s.dropChan p
    else
      let s := (((s.onLink p fun _ => l).applyTrims p r).trainRegs p).onLink p fun l => { l.started with
        calEv := l.calEv ||| (if parks = 0 then 0 else 1) ||| (if deads = 0 then 0 else 2) }
      let s := if parks = 0 then s else s.report (.link p) 0
      let s := if deads = 0 then s else s.report (.link p) 2
      let s := s.onFlash fun f => { f with retQ := f.retQ + parks + deads }
      if parks + deads = 0 then s else s.onBoot fun b => { b with parked := true }

/-- CHANNEL_TRAINED (R188, R189); with the last one, APPLY begins (R51). -/
def execChannelTrained (p : Nat) (r : TrainRes) (s : State) : Out :=
  onPhase 7 s fun s =>
    if 136 ≤ p || !s.tried p || s.boot.trained.contains p || !s.inSearch p r then s else (s.trainEnd p r).trainOver

/-! ### APPLY (R256, R257, R198, R370) -/

/-- A bank or row entry's own fields are in order (R257). -/
def bankEntOk (h : Nat) (e : List Byte) : Bool :=
  let b := entB e
  let row := b 3 + 256 * b 4
  b 1 < 136 && b 2 < 128 && b 2 % 8 < h && b 6 == 0 && b 7 == 0 &&
  (if b 0 = 0x40 then row == 0 && b 5 == 0 && posOf (b 1) < 16
   else !bitN row 14 && b 5 < 64 && (bitN row 15 || row % 16384 < Config.rows))

/-- Bank key, 16 x hide + bank, of a row or bank entry. -/
def entBank (e : List Byte) : Nat := 16 * (entB e 2 % 8) + entB e 2 / 8

/-- The bank entries of sector x, and whether they are applied: the spare stands by, one borrower, at most 8 banks (R257). -/
def State.applyBanks (s : State) (x : Nat) : State :=
  let all := s.retRec.filter fun e => entB e 0 == 0x40 && secOf (entB e 1) == x
  let good := all.filter (bankEntOk s.hides)
  let ks := (good.map fun e => (entB e 1, entBank e)).eraseDups
  if all.isEmpty then s
  else
    let fits := !(s.sec x).off && (s.sec x).sp == .standby && (ks.map (·.1)).eraseDups.length == 1 && ks.length ≤ 8
    let s := if good.length = all.length && fits then s else s.report .loader 3
    if fits then ks.foldl (fun s k => s.onCtl k.1 fun c => { c with lent := c.lent ++ [k.2] }) s else s

/-- A row entry (R257); those of a fenced channel are passed over (R256). -/
def State.applyRow (s : State) (e : List Byte) : State :=
  let p := entB e 1
  let k := entBank e
  let c := s.ctl p
  let row := entB e 3 + 256 * entB e 4
  if !bankEntOk s.hides e || c.lent.contains k || c.remaps.any (fun m => m.hide == k / 16 && m.bank == k % 16 && m.spare == entB e 5) then
    s.report .loader 3
  else if s.chFenced p then s
  else s.onCtl p fun c => { c with remaps := c.remaps ++
    [{ hide := k / 16, bank := k % 16, row := row % 16384, abandoned := bitN row 15, spare := entB e 5 }] }

/-- Set and group of a lane entry as an index of the link's groups; none where a field is out of range or reserved (R198). -/
def laneEnt (e : List Byte) : Option Nat :=
  let b := entB e
  let set := b 2 % 4
  let park := bitN (b 3) 7
  let dead := bitN (b 4) 7
  if b 1 < 136 && bits (b 2) 2 2 == 0 && grpOk set (b 2 / 16) && bits (b 3) 5 2 == 0 && b 3 % 32 ≤ lastPos set && bits (b 4) 4 3 == 0 &&
      b 5 == 0 && b 6 == 0 && b 7 == 0 && (park || !dead) && !(dead && set == 2) then some (grpIx set (b 2 / 16)) else none

/-- Codeword symbol a lane entry names (R174). -/
def laneSym (e : List Byte) : Option Nat := if bitN (entB e 4) 7 then some ((16 * (entB e 2 / 16) + entB e 4 % 16) / 2) else none

/-- A lane entry, after the channels, groups and symbols already entered (R198): a recorded park holds, and another position that
training has found bad in the group is its second, dead. -/
def State.applyLane (s : State) (done : List (List Byte)) (e : List Byte) : State × List (List Byte) :=
  let p := entB e 1
  let mine := done.filter fun d => entB d 1 == p
  match laneEnt e with
  | none => (s.report .loader 3, done)
  | some i =>
    if mine.any (fun d => laneEnt d == some i) || 2 < ((e :: mine).filterMap laneSym).eraseDups.length then (s.report .loader 3, done)
    else if s.chFenced p || !bitN (entB e 3) 7 then (s, done ++ [e])
    else
      let c := entB e 3 % 32
      let g := (s.link p).grp i
      let old := (s.link p).parkPos i
      -- the positions that training found bad: its park, and those of its dead lanes
      let found := if g.parked then ((old :: g.dead.map fun j => if j < old then j else j + 1).filter (· != c)).map (laneIdx c) else []
      let named := if bitN (entB e 4) 7 then [entB e 4 % 16] else []
      let set := if i < 18 then i / 9 else 2
      let grp := if i < 18 then i % 9 else i - 18
      let s := s.onGrp p i fun g => { g with parked := true, st := .parked, dead := (named ++ found).eraseDups }
      let s := s.onLink p fun l => { l with
        rotQ := (l.rotQ.filter fun q => grpIx q.1 q.2.1 != i) ++ (if g.c = c then [] else [(set, grp, c)]) }
      let past := 2 < (s.link p).erased.length || (i ≥ 18 && !found.isEmpty)
      (if past then s.fault (.link p) 5 else s, done ++ [e])

/-- APPLY_END: bank, row and lane entries, entries of no type, and the Awl patches. -/
def execApplyEnd (s : State) : Out :=
  onPhase 8 s fun s =>
    let ty := fun (t : Nat) => s.retRec.filter fun e => entB e 0 == t
    let s' := (List.range 8).foldl State.applyBanks s
    let s' := if (ty 0x40).any fun e => 136 ≤ entB e 1 then s'.report .loader 3 else s'
    let s' := (ty 0x30).foldl State.applyRow s'
    let s' := ((ty 0x20).foldl (fun (x : State × List (List Byte)) e => x.1.applyLane x.2 e) (s', [])).1
    let s' := if s.retRec.any fun e => !(([0x10, 0x20, 0x30, 0x40] : List Nat).contains (entB e 0)) then s'.report .loader 3 else s'
    { s' with awls := s'.awls.map fun (a : Awl) => { a with patches := s.img.patches } }.toPhase 9

/-! ### BUILD and RUNNING (R46, R123) -/

/-- Parks and dead lanes found in training are on their way to the flash, or there (R189). -/
def State.persisting (s : State) : Bool :=
  s.boot.parked && (s.flash.retQ != 0 || (match s.flash.job with | some (.record j) => !j.cal | _ => false))

/-- Generation 1 is committed and the ports open (R46). -/
def State.openPorts (s : State) : State :=
  let s := (s.toPhase 0xA).onBoot fun b => { b with result := rsOK, openUs := s.mgmt.elapsed.setWidth 32 }
  let i := s.img
  { s with
    tack := { s.tack with busy := false, gen := 1 }
    frames := s.frames.map fun (f : Frame) => { f with egen := 1 }
    ports := s.ports.map fun (q : Port) => if q.fencedAll then q else { q with up := true, clkOn := true }
    ctls := (s.ctls.zipIdx).map fun ((c, p) : Ctl × Nat) => { c with rd := c.rd.restart i, wr := c.wr.restart i, patrolOn := !s.chFenced p }
    curs := (s.curs.zipIdx).map fun ((c, p) : Cur × Nat) =>
      let k := ((List.range (16 * s.hides)).find? fun k => !(s.ctl p).lent.contains k).getD 0
      { c with profStep := b2n i.policy.profEn, profHide := k / 16, profBank := k % 16 } }

/-- BUILD_END. -/
def execBuildEnd (s : State) : Out := onPhase 9 s fun s => if s.persisting then s else s.openPorts

/-- STARTUP_TIMEOUT (R47): the Hides go to self-refresh if HIDE_UP had begun. -/
def execStartupTimeout (s : State) : Out :=
  if s.boot.rstLow || 9 < s.boot.phase.toNat then .next s
  else
    let s' := if 6 ≤ s.boot.phase.toNat then (List.range 136).foldl State.enterSelf s else s
    .next (s'.bootFail rsTIMEOUT)

/-- Start-up runs again from DISCOVER (R51): what it had set up is undone, but fences stand until block reset (R110). -/
def State.reload (s : State) : State :=
  let b := s.boot
  let lost := (List.range 136).filter fun p => s.chFenced p && !(s.sec (secOf p)).off
  { s with
    boot := { lcState := b.lcState, lcKey := b.lcKey, lcInvalid := b.lcInvalid, lcChanged := b.lcChanged, flSlow := b.flSlow, awlLowv := b.awlLowv
              strapChanged := b.strapChanged, admitRes := b.admitRes, admitSum := b.admitSum, admitFail := b.admitFail
              phase := 1, phaseAt := s.mgmt.elapsed, phaseUs := b.phaseUs.take 1 ++ List.replicate 9 0
              lost := lost.filter (posOf · == 16) ++ lost.filter (posOf · != 16) }
    image := none, calRec := [], retRec := []
    frames := (s.frames.zip resetFrames).map fun ((f, r) : Frame × Frame) => { f with st := if f.fenced then .fenced else r.st }
    ctls := List.replicate 136 {}, curs := List.replicate 136 {}, awls := List.replicate 136 {}
    -- parks and dead lanes hold until block reset (R196, R197)
    links := (List.range 136).map fun p => if s.chFenced p then { st := .fenced } else
      { grps := (List.range 20).map fun i =>
          let g := (s.link p).grp i
          if g.parked then { c := (s.link p).parkPos i, parked := true, st := .parked, dead := g.dead } else { c := if i < 18 then 16 else 12 } }
    sectors := s.sectors.map fun (e : Sector) => if e.off then e else {} }

/-- A write to BOOT_CTRL (R69). -/
def State.wBootCtrl (s : State) (v : Word) : State :=
  if !bitN v.toNat 0 then s else if keyed v && s.boot.phase == 0xB then s.reload else s.reject .array

/-- BOOT_RELOAD (R51). -/
def execBootReload (v : Word) (s : State) : Out := onMgmt .array s fun s => s.wBootCtrl v

/-! ### Time (R18, log 1) -/

/-- A step with no command waiting: one MGMT cycle, with the resets that waited for a flip (R403); none while reset is held. -/
def State.idle (s : State) : State := if s.boot.rstLow then s else (mgmtCycle s).runDeferred

end Sys2Proof.Machine
end

