-- ==== Sys2Proof/Machine/Regs.lean ====
section
/-! DEFINITION. The management register map: what a register reads as, and a write to a register by its address (R24-R36, R50, R69,
R71, R101, R118, R119, R140-R143, R171, R172, R203, R229, R231, R259-R262, R300, R339, R340, R361, R383, R404, R408, R409, R414,
R420, R430, R437, R443, R447, R463). -/

namespace Sys2Proof.Machine

/-! ### Fields -/

/-- A register field taken from a written word. -/
def rw (n : Nat) (v : Word) (lo : Nat) : BitVec n := BitVec.ofNat n (v.toNat / 2 ^ lo)
/-- A W1C field after a write. -/
def w1c {n : Nat} (a : BitVec n) (v : Word) (lo : Nat) : BitVec n := a &&& ~~~rw n v lo
/-- Low word of a 64-bit value. -/
def loWord (d : Dword) : Word := d.truncate 32
/-- High word. -/
def hiWord (d : Dword) : Word := (d >>> 32).truncate 32
/-- The value in 16 bits, two's complement. -/
def s16 (i : Int) : Nat := (BitVec.ofInt 16 i).toNat
/-- A 32-bit word of a number. -/
def w32 (n : Nat) : Word := BitVec.ofNat 32 n
/-- Replace the bytes of a 32-bit word at word k of a buffer. -/
def putBufWord (l : List Byte) (k : Nat) (v : Word) : List Byte := l.take (4 * k) ++ leBytes v.toNat 4 ++ l.drop (4 * k + 4)
/-- An address register's low half, bits 31:6. -/
def setLo (a : BitVec 48) (v : Word) : BitVec 48 := BitVec.ofNat 48 (a.toNat / 2 ^ 32 * 2 ^ 32 + v.toNat / 64 * 64)
/-- Its high half, bits 47:32. -/
def setHi (a : BitVec 48) (v : Word) : BitVec 48 := BitVec.ofNat 48 (a.toNat % 2 ^ 32 + v.toNat % 65536 * 2 ^ 32)

/-! ### The common frame (R24-R33, R408, R430) -/

/-- FRAME_STATUS.state codes (R28). -/
def UState.code : UState → Nat
  | .running => 0 | .quiescing => 1 | .quiesced => 2 | .resetting => 3 | .fenced => 4 | .gated => 5 | .standby => 6

/-- State of a unit as FRAME_STATUS shows it: in a self-test slice QUIESCING in phase 1, QUIESCED after (R414). -/
def State.shown (s : State) (u : UnitId) : UState :=
  let b := s.seq.bist
  if b.phase != 0 && b.entry == u.idx then (if b.phase = 1 then .quiescing else .quiesced) else (s.fr u).st

/-- Children whose state is not RUNNING, GATED or STANDBY. -/
def State.kidsOut (s : State) (u : UnitId) : Nat :=
  (u.kids.filter fun k => let t := s.shown k; !(t == .running || t == .gated || t == .standby)).length

/-- Registers that read in every state of the unit (R34). -/
def State.rdAlways (s : State) (u : UnitId) (o : Nat) : Option Word :=
  let f := s.fr u
  if o = 0 then some (unitIdWord u)
  -- a reset that waits for a flip reads 1 from its write on (R27, R403)
  else if o = 4 then some (if f.st = .resetting then 2 else fields [(b2n f.quiesce, 0), (b2n f.deferRst, 1), (b2n f.cntFreeze, 4)])
  else if o = 8 then some (fields [((s.shown u).code, 0), (b2n f.ctrlRej, 4), (b2n f.wedged, 5), (b2n (f.inj != 0), 6), (s.kidsOut u, 8)])
  else if o = 0xC then some (w32 u.idx)
  else none

/-- The common registers (R24, R30, R32, R430) and those of a group frame (R408). -/
def State.rdCommon (s : State) (u : UnitId) (o : Nat) : Option Word :=
  let f := s.fr u
  let c := s.cnt u.idx
  if 0x20 ≤ o && o < 0x40 then some (c.sel.getD ((o - 0x20) / 4) 0)
  else if 0x40 ≤ o && o < 0x80 then
    some (if o % 8 = 0 then loWord (c.val.getD ((o - 0x40) / 8) 0) else c.rsh.getD ((o - 0x40) / 8) 0)
  else if 0x600 ≤ o && o < 0x61C && !u.isGroup then some 0
  else match o with
  | 0x10 => some (s.faultWord u)
  | 0x14 => some (w32 f.mask.toNat)
  | 0x18 => some (if s.has 1 then w32 f.inj.toNat else 0)
  | 0x1C => some (w32 f.fired.toNat)
  | 0x500 => some (fields [(c.ovf.toNat, 0), ((List.range 8).foldl (fun a n => a + b2n (selBad u (c.sel.getD n 0)) * 2 ^ n) 0, 8)])
  | 0x504 => some (fields [(c.smpCnt.toNat, 0), (b2n c.smpValid, 3), (b2n c.smpLost, 4)])
  | 0x508 => some (loWord c.smpTime)
  | 0x50C => some (hiWord c.smpTime)
  | 0x510 => some (w32 c.smpSrc.toNat)
  | 0x514 => some c.smpCtx0
  | 0x518 => some c.smpCtx1
  | 0x600 => some (w32 f.clsCorr.toNat)
  | 0x604 => some (w32 f.clsCont.toNat)
  | 0x608 => some (w32 f.clsFatal.toNat)
  | 0x60C => some (w32 f.injCls.toNat)
  | 0x610 => some (w32 f.fenceOrd.toNat)
  | 0x614 => some (w32 f.fltWedged.toNat)
  | 0x618 => some (w32 f.fltIrqEn.toNat)
  | _ => none

/-- FLT_IRQ_EN exists in the array and sector frames (R388, R408). -/
def hasFltIrq : UnitId → Bool
  | .array | .sector _ => true
  | _ => false

/-- A write to a common register; none where the offset is not one. INJ_FIRED takes no write: only a reset clears it (log 29). -/
def State.wCommon (s : State) (u : UnitId) (o : Nat) (v : Word) : Option State :=
  if 0x20 ≤ o && o < 0x40 then some (s.wCntSel u ((o - 0x20) / 4) v)
  else if 0x40 ≤ o && o < 0x80 then some (s.wCnt u ((o - 0x40) / 8) (o % 8 != 0) v)
  else if 0x600 ≤ o && o < 0x61C && !u.isGroup then some s
  else match o with
  | 0x10 => some (s.wFaultWord u v)
  | 0x14 =>
    let s := s.onFr u fun f => { f with mask := rw 16 v 0 }
    some ((u.kids.foldl State.latchUp s).collect u)
  | 0x18 => some (s.wFaultInj u v)
  | 0x500 => some (s.onCnt u.idx fun c => { c with ovf := w1c c.ovf v 0 })
  | 0x504 => some (s.onCnt u.idx fun c => { c with smpValid := c.smpValid && !bitN v.toNat 3, smpLost := c.smpLost && !bitN v.toNat 4 })
  | 0x60C => some (if fld v 0 2 = 3 then s else s.onFr u fun f => { f with injCls := rw 2 v 0 })
  | 0x610 => some (s.wFltFence u v)
  | 0x614 => some (s.onFr u fun f => { f with fltWedged := w1c f.fltWedged v 0 })
  | 0x618 => some (if hasFltIrq u then s.onFr u fun f => { f with fltIrqEn := rw 3 v 0 } else s)
  | _ => none

/-! ### Array (R35, R69, R119, R409) -/

/-- BOOT_STATUS (R69). -/
def Boot.status (b : Boot) : Word :=
  fields [(b.phase.toNat, 0), (b.result.toNat, 8), (b.prim.toNat, 16), (b2n b.fallback, 24), (b2n b.signed, 25)]
/-- LC_STATUS (R67, R69). -/
def State.lcStatus (s : State) : Word :=
  let b := s.boot
  fields [(b.lcState.toNat, 0), (b2n b.lcInvalid, 3), ((privState b.lcState).toNat, 4), (s.priv.toNat, 11), (b2n (b.lcKey != 0), 18),
    (b2n b.lcChanged, 19)]
/-- SLOT_STATUS (R69). -/
def State.slotStatus (s : State) : Word := fields [(s.boot.slotCal.toNat, 0), (s.boot.slotRet.toNat, 2), (b2n s.flash.pending, 4)]

/-- Window registers: word k of window n (R119). -/
def State.winWord (s : State) (n k : Nat) : Word :=
  match s.img.windows[n]? with
  | none => 0
  | some w => match k with
    | 0 => w32 w.base
    | 1 => w32 w.size
    | 2 => fields [(w.mode, 0), (w.sector, 4), (1, 31)]
    | _ => w32 w.chanBase

/-- Array frame. -/
def State.rdArray (s : State) (o : Nat) : Word :=
  if 0x200 ≤ o && o < 0x300 then s.winWord ((o - 0x200) / 16) (o / 4 % 4)
  else if 0x400 ≤ o && o < 0x500 then w32 (word32 s.flash.buf (o - 0x400))
  else if 0x800 ≤ o && o < 0x1000 then
    let i := s.tack.winSel.toNat + (o - 0x800) / 64
    if i < 757 then (s.tackEntry (unitAt i)).getD (o / 4 % 16) 0 else 0
  else match o with
  | 0x100 => s.tackGen
  | 0x104 => fields [(757, 0), (0x10, 16)]
  | 0x108 => w32 (b2n s.tack.changed)
  | 0x10C => w32 (b2n s.tack.irqEn)
  | 0x110 => w32 s.tack.winSel.toNat
  | 0x120 => s.boot.status
  | 0x128 => s.boot.openUs
  | 0x12C => s.lcStatus
  | 0x130 => s.slotStatus
  | 0x134 => s.boot.calSeq
  | 0x138 => s.boot.retSeq
  | 0x13C => s.boot.imgSeq
  | 0x140 => w32 s.flash.op.toNat
  | 0x144 => w32 s.flash.addr.toNat
  | 0x148 => fields [(b2n s.flash.busy, 0), (s.flash.code.toNat, 4)]
  | 0x620 => fields [(b2n s.safe.on, 0), (s.safe.entry.toNat, 16)]
  | 0x624 => loWord s.safe.time
  | 0x628 => hiWord s.safe.time
  | _ => 0

/-- Writes in the array frame. -/
def State.wArray (s : State) (o : Nat) (v : Word) : State :=
  if 0x400 ≤ o && o < 0x500 then
    if s.flash.busy then s else s.onFlash fun f => { f with buf := putBufWord f.buf ((o - 0x400) / 4) v }
  else match o with
  | 0x108 => { s with tack := { s.tack with changed := s.tack.changed && !bitN v.toNat 0 } }
  | 0x10C => { s with tack := { s.tack with irqEn := bitN v.toNat 0 } }
  | 0x110 => { s with tack := { s.tack with winSel := rw 16 v 0 } }
  | 0x124 => s.wBootCtrl v
  | 0x12C => s.onBoot fun b => { b with lcChanged := b.lcChanged && !bitN v.toNat 19 }
  | 0x140 => s.wFlashCmd (rw 2 v 0)
  | 0x144 => if s.flash.busy then s else s.onFlash fun f => { f with addr := rw 24 v 0 }
  | _ => s

/-! ### MGMT, LOADER, PAGE_DIR (R71, R143, R262, R300, R463) -/

/-- The sequence number k after s, 0 left out (R248). -/
def seqAfter (s : Word) (k : Nat) : Word := w32 ((s.toNat + 2 ^ 32 - 2 + k) % (2 ^ 32 - 1) + 1)

/-- MGMT frame. -/
def State.rdMgmt (s : State) (o : Nat) : Word :=
  let m := s.mgmt
  if 0x800 ≤ o && o < 0x1000 then
    match m.elog.find? fun e => e.headD 0 == seqAfter m.elogWin ((o - 0x800) / 32) with
    | some e => e.getD (o / 4 % 8) 0
    | none => 0
  else match o with
  | 0x100 => m.elogHead
  | 0x104 => m.elogNext
  | 0x108 => m.elogAck
  | 0x10C => fields [(m.lostCe.toNat, 0), (m.lostOther.toNat, 16)]
  | 0x110 => w32 m.elogEv.toNat
  | 0x114 => w32 m.elogEn.toNat
  | 0x118 => m.elogWin
  | 0x200 => fields [(m.clkRef.toNat, 0), (b2n m.clkInternal, 3), (m.clkLost.toNat, 16)]
  | 0x204 => w32 (b2n m.clkMoved)
  | 0x208 => w32 (b2n m.clkMovedEn)
  | 0x20C => fields [(b2n s.boot.flSlow, 0), (b2n s.boot.awlLowv, 1), (b2n s.boot.strapChanged, 2)]
  | _ => 0

/-- Writes in the MGMT frame. -/
def State.wMgmt (s : State) (o : Nat) (v : Word) : State :=
  let on := fun (f : Mgmt → Mgmt) => { s with mgmt := f s.mgmt }
  match o with
  | 0x108 => s.wElogAck v
  | 0x10C => on fun m => { m with lostCe := rw 16 v 0, lostOther := rw 16 v 16 }
  | 0x110 => on fun m => { m with elogEv := w1c m.elogEv v 0 }
  | 0x114 => on fun m => { m with elogEn := rw 3 v 0 }
  | 0x118 => on fun m => { m with elogWin := v }
  | 0x204 => on fun m => { m with clkMoved := m.clkMoved && !bitN v.toNat 0 }
  | 0x208 => on fun m => { m with clkMovedEn := bitN v.toNat 0 }
  | 0x20C => s.onBoot fun b => { b with strapChanged := b.strapChanged && !bitN v.toNat 2 }
  | _ => s

/-- LOADER frame. -/
def State.rdLoader (s : State) (o : Nat) : Word :=
  if 0x100 ≤ o && o < 0x128 then s.boot.phaseUs.getD ((o - 0x100) / 4) 0
  else if o = 0x140 then fields [(s.boot.admitRes.toNat, 0), (s.boot.admitSum.toNat, 4), (b2n s.boot.admitFail, 31)]
  else 0

/-- PAGE_DIR frame. -/
def State.rdPd (s : State) (o : Nat) : Word :=
  let d := s.pd
  let x := bits d.sel.toNat 0 3
  let c := bits d.sel.toNat 4 4
  match o with
  | 0x100 => w32 d.live.toNat
  | 0x104 => fields [(x, 0), (c, 4)]
  | 0x108 => w32 (s.freeOf x)
  | 0x10C => w32 (s.heldBy x c)
  | 0x110 => w32 (s.img.reserves.getD (16 * x + c) 0)
  | 0x114 => fields [(d.locks.length, 0), ((d.locks.filter (·.orphaned)).length, 16)]
  | 0x11C => w32 d.quar.length
  | 0x120 => w32 d.ev.toNat
  | 0x124 => w32 d.evEn.toNat
  | 0x128 => fields [(d.exhCtx.toNat, 0), (d.exhCls.toNat, 24)]
  | 0x12C => d.exhCnt
  | _ => 0

/-- Writes in the PAGE_DIR frame. -/
def State.wPd (s : State) (o : Nat) (v : Word) : State :=
  let on := fun (f : Pd → Pd) => { s with pd := f s.pd }
  match o with
  | 0x104 => on fun d => { d with sel := rw 8 v 0 &&& 0xF7 }
  | 0x118 => s.wOrphan v
  | 0x120 => on fun d => { d with ev := w1c d.ev v 0 }
  | 0x124 => on fun d => { d with evEn := rw 3 v 0 }
  | 0x12C => on fun d => { d with exhCnt := v }
  | _ => s

/-! ### CURRIER_SEQ (R231, R261, R420, R443) -/

/-- THERM_STATUS.state codes. -/
def Therm.code : Therm → Nat
  | .normal => 0 | .warm => 1 | .hot => 2 | .stopping => 3 | .stopped => 4 | .emergency => 5

/-- CURRIER_SEQ frame. -/
def State.rdSeq (s : State) (o : Nat) : Word :=
  let q := s.seq
  let r := q.range
  let b := q.bist
  let t := q.tel
  let unit := smGet ({} : BUnit) b.units b.unitSel.toNat
  let tested := b.unitSel.toNat < 757 && sliceCount (unitAt b.unitSel.toNat).ty != 0
  if 0x800 ≤ o && o < 0x1000 then
    match b.log.find? fun e => (e.headD 0).toNat != 0 && ((e.headD 0).toNat - 1) % 64 == (o - 0x800) / 32 with
    | some e => e.getD (o / 4 % 8) 0
    | none => 0
  else match o with
  | 0x100 => fields [(q.therm.code, 0), (q.hotHide.toNat, 4), (q.hotChan.toNat, 8), (q.hotT.toNat, 16)]
  | 0x108 => w32 q.thermEv.toNat
  | 0x10C => w32 q.thermEn.toNat
  -- the reset value stands until the first governor round, whatever the pins drive (R231, R454)
  | 0x110 => if q.rounded then fields ((List.range 8).map fun x => (s.thrLvl x, 3 * x)) else 0
  | 0x114 => if q.rounded then fields ((List.range 8).map fun x => (s.awlClk x, 3 * x)) else 0
  | 0x118 => let p := s.img.policy; fields [(p.warm, 0), (p.hot, 8), (p.critical, 16), (p.emergency, 24)]
  | 0x11C => fields [(q.stopUs.toNat, 0), (q.stopInc.toNat, 16)]
  | 0x120 => loWord q.stopTime
  | 0x124 => hiWord q.stopTime
  | 0x200 => fields [(b2n r.irqEn, 5), (r.cls.toNat, 8), (r.origin.toNat, 16)]
  | 0x204 => w32 r.base.toNat
  | 0x208 => w32 (r.base.toNat / 2 ^ 32)
  | 0x20C => r.len
  | 0x210 => w32 r.recAddr.toNat
  | 0x214 => w32 (r.recAddr.toNat / 2 ^ 32)
  | 0x218 => fields [(b2n r.busy, 0), (r.code.toNat, 4), (b2n r.done, 8)]
  | 0x21C => r.doneCnt
  | 0x300 => fields [(b.phase.toNat, 0), (b.entry, 4), (b.slice, 20)]
  | 0x304 => b.cycles
  | 0x308 => b.pass
  | 0x30C => fields [(b.deferred.toNat, 0), (b.skipped.toNat, 16)]
  | 0x310 => w32 b.ev.toNat
  | 0x314 => w32 b.en.toNat
  | 0x318 => b.head
  | 0x31C => b.next
  | 0x320 => b.ack
  | 0x324 => w32 b.unitSel.toNat
  | 0x328 => if tested then fields [(unit.next, 0), (b2n unit.failed, 8), (b2n unit.stuck, 9), (unit.notrun, 16)] else 0
  | 0x32C => if tested then unit.time else 0
  | 0x400 => fields [(b2n s.telOn.isSome, 0), (b2n t.busy, 1)]
  | 0x404 => t.last
  | 0x408 => t.next
  | 0x40C => w32 telStride
  | 0x410 => w32 ((s.img.tel.map Tel.recs).getD 0)
  | 0x418 => w32 t.ev.toNat
  | 0x41C => w32 t.en.toNat
  | 0x420 => t.skip
  | 0x424 => t.fail
  | _ => 0

/-- Writes in the CURRIER_SEQ frame. -/
def State.wSeq (s : State) (o : Nat) (v : Word) : State :=
  match o with
  | 0x104 => s.wThermCtrl v
  | 0x108 => s.onSeq fun q => { q with thermEv := w1c q.thermEv v 0 }
  | 0x10C => s.onSeq fun q => { q with thermEn := rw 4 v 0 }
  | 0x200 => s.wRangeCtrl v
  | 0x204 => s.onRange fun r => { r with base := setLo r.base v }
  | 0x208 => s.onRange fun r => { r with base := setHi r.base v }
  | 0x20C => s.onRange fun r => { r with len := v }
  | 0x210 => s.onRange fun r => { r with recAddr := setLo r.recAddr v }
  | 0x214 => s.onRange fun r => { r with recAddr := setHi r.recAddr v }
  | 0x218 => s.onRange fun r => { r with done := r.done && !bitN v.toNat 8 }
  | 0x308 => s.onBist fun b => { b with pass := v }
  | 0x30C => s.onBist fun b => { b with deferred := rw 16 v 0, skipped := rw 16 v 16 }
  | 0x310 => s.onBist fun b => { b with ev := w1c b.ev v 0 }
  | 0x314 => s.onBist fun b => { b with en := rw 4 v 0 }
  | 0x320 => s.wBistAck v
  | 0x324 => s.onBist fun b => { b with unitSel := rw 16 v 0 }
  | 0x414 => s.wTelCtrl v
  | 0x418 => s.onTel fun q => { q with ev := w1c q.ev v 0 }
  | 0x41C => s.onTel fun q => { q with en := rw 3 v 0 }
  | 0x420 => s.onTel fun q => { q with skip := v }
  | 0x424 => s.onTel fun q => { q with fail := v }
  | _ => s

/-! ### Sector, POOL, NETWORK, HARNESS, MOVERS (R118, R141, R142, R260, R339, R340, R434, R436, R437) -/

/-- SPARE_STATUS.state codes (R118). -/
def SpareSt.code : SpareSt → Nat
  | .standby => 0 | .copy => 1 | .flip => 2 | .substituting => 3 | .lost => 4

/-- Sector frame. -/
def State.rdSector (s : State) (x o : Nat) : Word :=
  let e := s.sec x
  if 0x800 ≤ o && o < 0x1000 then
    if s.histMode x then w32 (smGet 0 e.bins ((o - 0x800) / 4))
    else if o < 0xC40 then (if o % 8 = 0 then loWord (smGet 0 e.slots ((o - 0x800) / 8)) else smGet 0 e.slotSh ((o - 0x800) / 8))
    else 0
  else match o with
  | 0x100 => fields [(e.ctrlPos.toNat, 0), (b2n e.irqEn, 6)]
  | 0x104 => fields [(e.sp.code, 0), (e.pos.toNat, 4), (e.code.toNat, 8), (b2n e.done, 12), (b2n e.auto, 13)]
  | 0x108 => fields [(e.fenced.toNat, 0), (e.hole.toNat, 16)]
  | 0x10C => fields [(e.serve.getD 0, 0), (b2n e.serve.isSome, 4)]
  | 0x110 => w32 e.copyAt
  | 0x114 => match s.borrower x with
    | some p => fields [(posOf p, 0), (1, 4), ((s.ctl p).lent.length, 8)]
    | none => 0
  | 0x120 => w32 (b2n (!s.histMode x))
  | 0x124 => w32 e.histKind.toNat
  | 0x128 => if s.histMode x then w32 e.histSat.toNat else 0
  | _ => 0

/-- A read of the low word of a slot counter copies its high word into its shadow (R25, R436). -/
def State.slotShadow (s : State) (x o : Nat) : State :=
  if s.histMode x || o < 0x800 || 0xC40 ≤ o || o % 8 != 0 then s
  else s.onSec x fun e => { e with slotSh := smSet 0 e.slotSh ((o - 0x800) / 8) (hiWord (smGet 0 e.slots ((o - 0x800) / 8))) }

/-- Writes in a sector frame. -/
def State.wSector (s : State) (x o : Nat) (v : Word) : State :=
  match o with
  | 0x100 => s.wSpareCtrl x v
  | 0x104 => s.onSec x fun e => { e with done := e.done && !bitN v.toNat 12 }
  | 0x124 => s.wHistCtrl x v
  | 0x128 => if s.histMode x then s.onSec x fun e => { e with histSat := w1c e.histSat v 0 } else s
  | _ => s

/-- POOL frame (R141). -/
def State.rdPool (s : State) (x o : Nat) : Word :=
  let q := s.pool x
  let c := q.clsSel.toNat
  match o with
  | 0x100 => fields [(q.used, 0), (q.floors, 16)]
  | 0x104 => fields [(q.phi, 0), (b2n (decide (q.phi < 256)), 31)]
  | 0x108 => w32 (b2n q.event)
  | 0x10C => w32 (b2n q.eventEn)
  | 0x110 => w32 q.lost
  | 0x114 => w32 ((List.range 16).foldl (fun a c => if s.sharedFree x c then a else a + 2 ^ c) 0)
  | 0x118 => w32 c
  | 0x11C => fields [(q.cls c, 0), (s.poolGuar x c, 16)]
  | _ => 0

/-- Writes in a POOL frame. -/
def State.wPool (s : State) (x o : Nat) (v : Word) : State :=
  match o with
  | 0x108 => s.onPool x fun q => { q with event := q.event && !bitN v.toNat 0 }
  | 0x10C => s.onPool x fun q => { q with eventEn := bitN v.toNat 0 }
  | 0x118 => s.onPool x fun q => { q with clsSel := rw 4 v 0 }
  | _ => s

/-- HAR_SLOT.state codes (R339). -/
def SlotSt.code : SlotSt → Nat
  | .free => 0 | .validating => 1 | .running => 2 | .failing => 3 | .cancelling => 4 | .ended => 5

/-- HARNESS frame (R339). -/
def State.rdHar (s : State) (x o : Nat) : Word :=
  let h := s.har x
  let l := h.slots.getD h.slotSel.toNat {}
  let st := (s.fr (.harness x)).st
  let readers := fun (e : Bool) => (h.slots.map fun k => (k.nodes.filter fun n => n.epoch == some e).length).sum
  match o with
  | 0x100 => fields [((h.slots.filter fun k => k.st != .free).length, 0), (b2n (st == .quiescing || st == .quiesced), 7),
      (min (h.waitQ.filter (·.port.isSome)).length 255, 8)]
  | 0x104 => h.subLo
  | 0x108 => h.subHi
  | 0x110 => fields [(b2n h.subBusy, 0), (h.subCode.toNat, 4), (h.subSlot.toNat, 8)]
  | 0x114 => w32 h.ev.toNat
  | 0x118 => w32 h.evEn.toNat
  | 0x11C => h.endQ.headD 0
  | 0x120 => w32 h.cancelSlot.toNat
  | 0x124 => w32 h.slotSel.toNat
  | 0x128 => fields [(l.st.code, 0), ((l.nodes.filter fun n => n.st == .running).length, 3),
      ((l.nodes.filter fun n => !(n.st == .waiting || n.st == .ready || n.st == .running)).length, 16)]
  | 0x12C => w32 l.addr
  | 0x130 => w32 (l.addr / 2 ^ 32)
  | 0x140 => fields [(readers false, 0), (readers true, 10)]
  | 0x144 => fields [(h.rejCode.toNat, 0), (h.rejDetail.toNat, 4), (h.rejNode.toNat, 12), (b2n h.rejValid, 31)]
  | _ => 0

/-- Writes in a HARNESS frame. -/
def State.wHar (s : State) (x o : Nat) (v : Word) : State :=
  match o with
  | 0x104 => s.onHar x fun h => { h with subLo := v &&& 0xFFFFFFC0 }
  | 0x108 => s.onHar x fun h => { h with subHi := v &&& 0x0F7FFFFF }
  | 0x10C => s.wHarSubmit x v
  | 0x114 => s.onHar x fun h => { h with ev := w1c h.ev v 0 }
  | 0x118 => s.onHar x fun h => { h with evEn := rw 6 v 0 }
  | 0x120 => s.wHarCancel x v
  | 0x124 => s.onHar x fun h => { h with slotSel := rw 6 v 0 }
  | _ => s

/-- MOVERS frame (R340). -/
def State.rdMov (s : State) (x o : Nat) : Word :=
  let c := (s.mov x).ch.getD ((o - 0x100) / 16) {}
  if 0x100 ≤ o && o < 0x140 then
    match o / 4 % 4 with
    | 0 => fields [(c.st.toNat, 0), (c.op.toNat, 2), (c.eng.toNat, 4), (c.slot.toNat, 8), (c.node.toNat, 16)]
    | 1 => w32 c.done.toNat
    | 2 => w32 c.failAddr.toNat
    | _ => fields [(c.failAddr.toNat / 2 ^ 32, 0), (b2n c.failDst, 31)]
  else 0

/-! ### CTL with its port stage (R101, R140, R171, R172, R259) -/

/-- PORT_STATUS of the port stage of channel p. -/
def State.portStatus (s : State) (p : Nat) : Word :=
  match s.portAt p with
  | none => 0
  | some n => fields [(n, 0), (1, 7), (b2n (s.port n).up, 8), ((s.port n).tags.length, 9)]

/-- A standby spare's port registers read zero (R101). -/
def State.idlePort (s : State) (p : Nat) : Bool := posOf p == 16 && (s.lchOf p).isNone

/-- A REG_CLS word of a direction (R140). -/
def State.clsWord (s : State) (p : Nat) (write : Bool) : Word :=
  let c := (s.ctl p).clsSel.toNat
  fields [(((s.ctl p).dir write).used.getD c 0, 0), (s.clsState p write c, 11), (s.guar p write c, 16)]

/-- The four words of an entry of the held state (R172). -/
def diagWords (h : Nat) (tag cls req idx off age ord op : Nat) : List Word :=
  let l := locate h off
  [fields [(tag, 0), (cls, 8), (req, 12), (idx, 21), (1, 26), (b2n (cls == 15), 27)], w32 (off / 64),
   fields [(l.hide, 0), (l.bank, 3), (l.row, 7)], fields [(min age 0xFFFF, 0), (ord % 256, 16), (op, 24)]]

/-- DIAG_DATA (R172). -/
def State.diagData (s : State) (p : Nat) : Word :=
  let c := s.ctl p
  let n := c.diagSel.toNat
  let i := bits n 2 8
  let ent := fun (e : Entry) => diagWords s.hides e.tag e.cls e.req e.idx e.off (c.cyc - e.enq) e.ord e.op
  let l : Option (List Word) := match bits n 0 2 with
    | 0 => c.rdQ[i]?.map ent
    | 1 => c.wrQ[i]?.map ent
    | 2 => c.comb[i]?.map fun e => (fields [(1, 26)]) :: (diagWords s.hides 0 0 0 0 e.off (c.cyc - e.last) e.ord 0).tail
    | _ => (c.groups.flatMap (·.waiting) ++ c.ordWait.map (contribOf c))[i]?.map fun e => diagWords s.hides e.tag e.cls e.req e.idx e.off (c.cyc - e.enq) e.ord opOrd
  if s.has 5 then (l.getD []).getD (bits n 10 2) 0 else 0

/-- Bit map of the banks of a Hide that meet a test. -/
def Ctl.bankMap (c : Ctl) (hide : Nat) (f : BankSt → Bool) : Nat :=
  (List.range 16).foldl (fun a b => if f (smGet ({} : Bank) c.banks (16 * hide + b)).st then a + 2 ^ b else a) 0

/-- CTL frame. -/
def State.rdCtl (s : State) (p o : Nat) : Word :=
  let c := s.ctl p
  let g := c.groups[c.ordSel.toNat]?
  let map := fun (f : BankSt → Bool) => if c.bankSel.toNat < s.hides then c.bankMap c.bankSel.toNat f else 0
  let hold := fun (write : Bool) => (List.range 16).foldl (fun a k => if s.clsReason p write k != 0 then a + 2 ^ k else a) 0
  match o with
  | 0x200 => fields [(c.rd.phi, 0), (c.wr.phi, 16), (b2n (decide (c.rd.phi < 256) || decide (c.wr.phi < 256)), 31)]
  | 0x204 => w32 (b2n c.regShort)
  | 0x208 => w32 (b2n c.regShortEn)
  | 0x20C => fields [(c.rd.avail, 0), (c.wr.avail, 16)]
  | 0x210 => fields [(hold false, 0), (hold true, 16)]
  | 0x214 => w32 c.clsSel.toNat
  | 0x218 => s.clsWord p false
  | 0x21C => s.clsWord p true
  | 0x220 => fields [(c.rd.tok.getD c.clsSel.toNat 0, 0), (c.wr.tok.getD c.clsSel.toNat 0, 16)]
  | 0x224 => w32 s.img.kcap
  | 0x230 => w32 c.arbMisb.toNat
  | 0x300 => fields [(c.rdQ.length, 0), (c.wrQ.length, 8), (c.comb.length, 16), (c.running.length, 21), (c.groups.length, 24), (b2n c.frozen, 28)]
  | 0x304 => w32 c.bankSel.toNat
  | 0x308 => fields [(map fun b => b == .opn || b == .opening, 0), (map fun b => b == .refreshing, 16)]
  | 0x30C => w32 c.pd.toNat
  | 0x310 => w32 (b2n c.rhEvent)
  | 0x314 => w32 (b2n c.rhEn)
  | 0x318 => fields [(c.rhReq.toNat, 0), (c.rhHide.toNat, 16), (c.rhBank.toNat, 20)]
  | 0x31C => w32 c.rhRow.toNat
  | 0x320 => c.rhCount
  | 0x330 => w32 c.ordSel.toNat
  | 0x334 => match g with
    | some g => fields [(1, 0), (g.fmt, 1), (g.next, 2), (g.count, 10), (g.waiting.length, 18)]
    | none => 0
  | 0x338 => match g with | some g => w32 g.key | none => 0
  | 0x33C => match g with | some g => fields [(bits g.key 32 10, 0), (g.len, 10)] | none => 0
  | 0x340 => w32 (b2n c.ordEvent)
  | 0x344 => w32 (b2n c.ordEn)
  | 0x348 => fields [(c.ordLastNext.toNat, 0), (c.ordLastCount.toNat, 8)]
  | 0x380 => fields [(c.frzSrc.toNat, 0), (b2n c.frzValid, 31)]
  | 0x384 => loWord c.frzTime
  | 0x388 => hiWord c.frzTime
  | 0x38C => if s.has 5 then w32 c.frzRow.toNat else 0
  | 0x390 => if s.has 5 then w32 c.frzCol.toNat else 0
  | 0x394 => w32 c.diagSel.toNat
  | 0x398 => s.diagData p
  | 0x400 => c.eccCe
  | 0x404 => c.eccSym
  | 0x408 => c.eccUe
  | 0x40C => c.eccWb
  | 0x410 => w32 c.eccEv.toNat
  | 0x414 => w32 c.eccEn.toNat
  | 0x420 => w32 (c.fresh.filter fun e => e.2 == 1).length
  | 0x424 => w32 (c.fresh.filter fun e => e.2 == 2).length
  | 0x428 => w32 c.freshSel.toNat
  | 0x42C => if c.freshSel.toNat < s.grans then w32 (smGet 0 c.fresh c.freshSel.toNat) else 0
  | 0x430 => fields [(c.ptPos, 0), (c.ptPasses.toNat, 17)]
  | 0x440 => fields [(c.retHide.toNat, 2), (c.retBank.toNat, 5), (b2n c.retIrqEn, 9)]
  | 0x444 => w32 c.retRow.toNat
  | 0x448 => fields [(b2n c.retBusy, 0), (c.retCode.toNat, 4), (c.retSpare.toNat, 8), (b2n c.retDone, 16)]
  | 0x44C => w32 c.retSel.toNat
  | 0x450 =>
    let h := bits c.retSel.toNat 0 3
    let b := bits c.retSel.toNat 3 4
    fields [(spareLeft c h b, 0), (b2n (c.lent.contains (16 * h + b)), 7)]
  | 0x800 => s.portStatus p
  | 0x804 => match s.portAt p with
    | some n => fields [((s.holdBits n).toNat, 0), (s.holdRsn n, 16)]
    | none => 0
  | 0x808 => if s.idlePort p then 0 else w32 c.misb.toNat
  | 0x80C => if s.idlePort p then 0 else w32 c.misbEn.toNat
  | 0x810 => match s.portAt p with
    | some n => (s.port n).chkCnt
    | none => 0
  | _ => 0

/-- Writes in a CTL frame. A ROW retirement started here meets no read error; ROW_RETIREMENT carries those. -/
def State.wCtl (s : State) (p o : Nat) (v : Word) : State :=
  let on := fun (f : Ctl → Ctl) => s.onCtl p f
  match o with
  | 0x204 => on fun c => { c with regShort := c.regShort && !bitN v.toNat 0 }
  | 0x208 => on fun c => { c with regShortEn := bitN v.toNat 0 }
  | 0x214 => on fun c => { c with clsSel := rw 4 v 0 }
  | 0x230 => on fun c => { c with arbMisb := w1c c.arbMisb v 0 }
  | 0x304 => on fun c => { c with bankSel := rw 3 v 0 }
  | 0x310 => on fun c => { c with rhEvent := c.rhEvent && !bitN v.toNat 0 }
  | 0x314 => on fun c => { c with rhEn := bitN v.toNat 0 }
  | 0x330 => on fun c => { c with ordSel := rw 3 v 0 }
  | 0x340 => on fun c => { c with ordEvent := c.ordEvent && !bitN v.toNat 0 }
  | 0x344 => on fun c => { c with ordEn := bitN v.toNat 0 }
  | 0x394 => on fun c => { c with diagSel := rw 12 v 0 }
  | 0x400 => on fun c => { c with eccCe := v }
  | 0x404 => on fun c => { c with eccSym := v }
  | 0x408 => on fun c => { c with eccUe := v }
  | 0x40C => on fun c => { c with eccWb := v }
  | 0x410 => on fun c => { c with eccEv := w1c c.eccEv v 0 }
  | 0x414 => on fun c => { c with eccEn := rw 3 v 0 }
  | 0x428 => on fun c => { c with freshSel := rw 17 v 0 }
  | 0x440 => s.wRetireCtrl p v []
  | 0x444 => on fun c => { c with retRow := rw 14 v 0 }
  | 0x448 => on fun c => { c with retDone := c.retDone && !bitN v.toNat 16 }
  | 0x44C => on fun c => { c with retSel := rw 7 v 0 }
  | 0x808 => on fun c => { c with misb := w1c c.misb v 0 }
  | 0x80C => on fun c => { c with misbEn := rw 7 v 0 }
  | 0x810 => match s.portAt p with
    | some n => s.onPort n fun q => { q with chkCnt := v }
    | none => s
  | _ => s

/-! ### LINK (R203) -/

/-- LINK_STATUS.state codes. -/
def LinkSt.code : LinkSt → Nat
  | .off => 0 | .training => 1 | .running => 2 | .retrain => 3 | .halted => 4 | .fenced => 5

/-- The position named in LANE_SEL, when it exists. -/
def Link.sel (l : Link) : Option LanePos :=
  let n := l.laneSel.toNat
  let q : LanePos := { set := bits n 0 2, group := bits n 4 4, pos := bits n 8 5 }
  if lposOk q then some q else none

/-- LANE_INFO of a position: its state, and the lane it carries (R173, R203). R203 has no code for a position under calibration whose
link is HALTED: it reads 1 (log 29). -/
def Link.laneInfo (l : Link) (q : LanePos) : Word :=
  let g := l.grp (grpIx q.set q.group)
  let k := l.lane (lposKey q)
  let at_c := q.pos == g.c
  let idx := laneIdx g.c q.pos
  let dead := !at_c && g.dead.contains idx
  let st := if at_c then (if g.parked then 2 else if g.st = .wait then 4 else 1) else if dead then 3 else 0
  fields [(k.count.toNat, 0), (st, 16), (b2n k.stale, 19), (k.last.toNat, 20), (k.repeats.toNat, 22), (if at_c then 0 else idx, 24),
    (b2n (!at_c), 28)]

/-- LINK frame. GROUP_ROT names the first of two dead lanes of a group (log 29). -/
def State.rdLink (s : State) (p o : Nat) : Word :=
  let l := s.link p
  let er := l.erased
  let at_ := fun (f : LanePos → Word) => match l.sel with | some q => f q | none => 0
  match o with
  | 0x100 => fields [(l.st.code, 0), (er.length, 3)]
  | 0x108 => w32 l.calEv.toNat
  | 0x10C => w32 l.calEn.toNat
  | 0x110 => w32 l.laneSel.toNat
  | 0x114 => at_ fun q => fields [((l.lane (lposKey q)).phase.toNat, 0), (if q.set = 0 then (l.lane (lposKey q)).ref.toNat else 0, 8)]
  | 0x118 => at_ l.laneInfo
  | 0x11C => at_ fun q => loWord (l.lane (lposKey q)).time
  | 0x120 => at_ fun q => hiWord (l.lane (lposKey q)).time
  | 0x124 => at_ fun q =>
    let g := l.grp (grpIx q.set q.group)
    fields [(g.c, 0), (b2n g.up, 5), (b2n g.parked, 6), (b2n (!g.dead.isEmpty), 7), (g.dead.headD 0, 8), (g.unresolved, 12)]
  | 0x128 => fields [(er.getD 0 0, 0), (b2n (decide (0 < er.length)), 7), (er.getD 1 0, 8), (b2n (decide (1 < er.length)), 15)]
  | 0x12C => l.steps
  | 0x130 => l.repeats
  | 0x134 => fields [(l.rtDone.toNat, 0), (b2n l.rtRun, 8)]
  | 0x140 => fields [(l.sbOp.toNat, 0), (l.sbHide.toNat, 4), (l.sbAddr.toNat, 8), (l.sbData.toNat, 16)]
  | 0x144 => fields [(b2n l.sbBusy, 0), ((if s.has 4 then l.sbCode else cBAD).toNat, 4), (l.sbRdata.toNat, 16)]
  | 0x148 => w32 l.alert.toNat
  | _ => 0

/-- Writes in a LINK frame. -/
def State.wLink (s : State) (p o : Nat) (v : Word) : State :=
  match o with
  | 0x104 => s.wLinkCtrl p v
  | 0x108 => s.onLink p fun l => { l with calEv := w1c l.calEv v 0 }
  | 0x10C => s.onLink p fun l => { l with calEn := rw 5 v 0 }
  | 0x110 => s.onLink p fun l => { l with laneSel := rw 13 v 0 &&& 0x1FF3 }
  | 0x140 => s.wSbCmd p v
  | 0x148 => s.onLink p fun l => { l with alert := w1c l.alert v 0 }
  | _ => s

/-! ### AWL (R361, R383) -/

/-- AWL_STATUS.state codes. -/
def AwlSt.code : AwlSt → Nat
  | .idle => 0 | .loading => 1 | .running => 2 | .ending => 3

/-- AWL frame. -/
def State.rdAwl (s : State) (p o : Nat) : Word :=
  let a := s.awl p
  if 0x200 ≤ o && o < 0x400 then
    if s.has 5 then w32 (leNat ((List.range 4).map fun k => smGet 0 a.scr (512 * a.scrSel.toNat + (o - 0x200) + k))) else 0
  else match o with
  | 0x100 => fields [(a.st.code, 0), (a.kind, 2), (b2n a.resident, 3), (a.routine.toNat, 16)]
  | 0x104 => w32 (a.pc % 32768)
  | 0x108 => w32 a.imgAddr.toNat
  | 0x10C => w32 (a.imgAddr.toNat / 2 ^ 32)
  | 0x110 => w32 a.imgLen.toNat
  | 0x114 => a.imgCrc
  | 0x118 => fields [(a.patches.length, 0), ((a.patches.map fun (q : Patch) => q.code.length).sum, 16)]
  | 0x120 => fields [(a.trapCause.toNat, 0), (a.trapCode.toNat, 4), (b2n a.trapValid, 31)]
  | 0x124 => w32 a.trapPc.toNat
  | 0x128 => w32 a.trapAddr.toNat
  | 0x12C => w32 (a.trapAddr.toNat / 2 ^ 32)
  | 0x130 => loWord a.trapTime
  | 0x134 => hiWord a.trapTime
  | 0x138 => a.trapNode
  | 0x140 => a.parts
  | 0x144 => a.traps
  | 0x148 => a.loads
  | 0x150 => w32 (b2n a.trapEv)
  | 0x154 => w32 (b2n a.trapEn)
  | 0x180 => w32 a.scrSel.toNat
  | 0x700 =>
    let fixed := a.part.filter fun _ => !a.byCode
    fields [((fixed.map fun (q : Part) => q.ty).getD 0, 0), ((fixed.map fun (q : Part) => q.part).getD 0, 8), (a.waitQ.length, 12)]
  | 0x704 => a.attPages
  | 0x708 => a.attNan
  | 0x70C => a.attEmpty
  | 0x710 => w32 a.attEv.toNat
  | 0x714 => w32 a.attEn.toNat
  | _ => 0

/-- Writes in an AWL frame. -/
def State.wAwl (s : State) (p o : Nat) (v : Word) : State :=
  let on := fun (f : Awl → Awl) => s.onAwl p f
  match o with
  | 0x140 => on fun a => { a with parts := v }
  | 0x144 => on fun a => { a with traps := v }
  | 0x148 => on fun a => { a with loads := v }
  | 0x150 => on fun a => { a with trapEv := a.trapEv && !bitN v.toNat 0 }
  | 0x154 => on fun a => { a with trapEn := bitN v.toNat 0 }
  | 0x180 => on fun a => { a with scrSel := rw 9 v 0 }
  | 0x704 => on fun a => { a with attPages := v }
  | 0x708 => on fun a => { a with attNan := v }
  | 0x70C => on fun a => { a with attEmpty := v }
  | 0x710 => on fun a => { a with attEv := w1c a.attEv v 0 }
  | 0x714 => on fun a => { a with attEn := rw 2 v 0 }
  | _ => s

/-! ### CURRIER (R229) -/

/-- CURRIER frame. -/
def State.rdCur (s : State) (p o : Nat) : Word :=
  let c := s.cur p
  let b := smGet ({} : RefBank) c.bank (16 * bits c.refSel.toNat 0 3 + bits c.refSel.toNat 3 4)
  if 0x120 ≤ o && o < 0x140 then
    let t := c.temp.getD ((o - 0x120) / 4) {}
    fields [(s16 t.t, 0), (b2n t.valid, 16), (b2n t.subst, 17)]
  else match o with
  | 0x100 => fields ((List.range 8).map fun h => (c.rate.getD h 0, 2 * h))
  | 0x104 => w32 c.refSel.toNat
  -- with the last REF of a round the round is complete, and the position is 0 again (R206, R229)
  | 0x108 => let full := decide (6176 ≤ b.pos); fields [(b.count, 0), (if full then 0 else b.pos, 4), ((b.rounds.toNat + b2n full) % 32768, 17)]
  | 0x10C => c.limitCnt
  | 0x110 => w32 (c.bank.foldl (fun m e => max m e.2.count) 0)
  | 0x140 => fields [(s16 c.die, 0), (b2n c.dieValid, 16)]
  | 0x144 => w32 (s16 c.dieOfs)
  | 0x150 => fields [(c.weak.length, 0), (b2n (decide (512 ≤ c.weak.length)), 10)]
  | 0x154 => w32 c.weakSel.toNat
  | 0x158 => match c.weak[c.weakSel.toNat]? with
    | some e => fields [(e.hide, 0), (e.bank, 3), (e.row, 7), (e.bin, 21), (b2n e.found, 23)]
    | none => 0
  | 0x160 => fields [(c.profStep, 0), (c.profHide, 2), (c.profBank, 5), (c.profPasses.toNat, 16)]
  | 0x164 => c.profFound
  | _ => 0

/-- Writes in a CURRIER frame. -/
def State.wCur (s : State) (p o : Nat) (v : Word) : State :=
  match o with
  | 0x104 => s.onCur p fun c => { c with refSel := rw 7 v 0 }
  | 0x154 => s.onCur p fun c => { c with weakSel := rw 9 v 0 }
  | _ => s

/-! ### The whole map (R11, R24, R50, R447) -/

/-- Unit-specific registers of a frame. -/
def State.rdUnit (s : State) (u : UnitId) (o : Nat) : Word :=
  match u with
  | .array => s.rdArray o
  | .mgmt => s.rdMgmt o
  | .loader => s.rdLoader o
  | .pageDir => s.rdPd o
  | .currierSeq => s.rdSeq o
  | .sector x => s.rdSector x o
  | .quad _ _ | .channel _ => 0
  | .pool x => s.rdPool x o
  | .network x => if o = 0x100 then w32 (s.net x).arbMisb.toNat else 0
  | .harness x => s.rdHar x o
  | .movers x => s.rdMov x o
  | .ctl p => s.rdCtl p o
  | .link p => s.rdLink p o
  | .awl p => s.rdAwl p o
  | .currier p => s.rdCur p o

/-- What the register at an offset of a unit's frame reads as (R24, R34, R414). -/
def State.regRead (s : State) (u : UnitId) (o : Nat) : Word :=
  match s.rdAlways u o with
  | some w => w
  | none => if s.shut u then 0 else (s.rdCommon u o).getD (s.rdUnit u o)

/-- A write to a unit-specific register. -/
def State.wUnit (s : State) (u : UnitId) (o : Nat) (v : Word) : State :=
  match u with
  | .array => s.wArray o v
  | .mgmt => s.wMgmt o v
  | .loader | .quad _ _ | .channel _ => s
  | .pageDir => s.wPd o v
  | .currierSeq => s.wSeq o v
  | .sector x => s.wSector x o v
  | .pool x => s.wPool x o v
  | .network x => if o = 0x100 then s.onNet x fun b => { b with arbMisb := w1c b.arbMisb v 0 } else s
  | .harness x => s.wHar x o v
  | .movers x => if o = 0x140 then s.wMovCtrl x v else s
  | .ctl p => s.wCtl p o v
  | .link p => s.wLink p o v
  | .awl p => s.wAwl p o v
  | .currier p => s.wCur p o v

/-- A write to the register at an offset of a unit's frame; a read-only or reserved place takes none (R24, R27, R34, R414). -/
def State.regWrite (s : State) (u : UnitId) (o : Nat) (v : Word) : State :=
  if o = 4 then s.wFrameCtrl u v
  else if o = 8 then s.onFr u fun f => { f with ctrlRej := f.ctrlRej && !bitN v.toNat 4 }
  else if s.shut u then s
  else (s.wCommon u o v).getD (s.wUnit u o v)

/-- REGISTER_WRITE (R447): a word written at a management address. A misaligned address, or one in no unit frame, answers
BAD_REQUEST. -/
def execRegisterWrite (addr v : Word) (s : State) : Out :=
  let a := addr.toNat
  if a % 4 != 0 || 757 ≤ a / 4096 then
    .next (if s.mgOpen then ((s.count .mgmt 1).mgmtChecks).answer 0 cBAD else s)
  else .next (s.mgAccess (unitAt (a / 4096)) fun s => s.regWrite (unitAt (a / 4096)) (a % 4096) v)

/-- What a management read at an address answers, and with which code (R447); the reads that change state have commands of their own. -/
def State.mgmtRead (s : State) (addr : Word) : Word × BitVec 4 :=
  let a := addr.toNat
  let u := unitAt (a / 4096)
  if a % 4 != 0 || 757 ≤ a / 4096 || (!s.isRunning && u != .array) then (0, cBAD) else (s.regRead u (a % 4096), cOK)

end Sys2Proof.Machine
end

