-- ==== Sys2Proof/Machine/Dispatch.lean ====
section
/-! DEFINITION. The meaning of every command: one arm per constructor, each one direct call. -/

namespace Sys2Proof.Machine

/-- The effect of a command on everything but the queue. -/
def exec (i : Instr) (s : State) : Host.Outcome State Fault Refusal :=
  match i with
  | .blockResetAssert => Sys2Proof.Machine.execBlockResetAssert s
  | .blockResetRelease sequenced => Sys2Proof.Machine.execBlockResetRelease sequenced s
  | .clockEnd lcState key flSlow awlLowv => Sys2Proof.Machine.execClockEnd lcState key flSlow awlLowv s
  | .discoverEnd sfdp => Sys2Proof.Machine.execDiscoverEnd sfdp s
  | .loadEnd => Sys2Proof.Machine.execLoadEnd s
  | .verifyEnd => Sys2Proof.Machine.execVerifyEnd s
  | .slotsEnd => Sys2Proof.Machine.execSlotsEnd s
  | .islandsEnd => Sys2Proof.Machine.execIslandsEnd s
  | .islandsLockTimeout unlocked => Sys2Proof.Machine.execIslandsLockTimeout unlocked s
  | .hideUpEnd h => Sys2Proof.Machine.execHideUpEnd h s
  | .channelTrained p r => Sys2Proof.Machine.execChannelTrained p r s
  | .applyEnd => Sys2Proof.Machine.execApplyEnd s
  | .buildEnd => Sys2Proof.Machine.execBuildEnd s
  | .startupTimeout => Sys2Proof.Machine.execStartupTimeout s
  | .bootReload v => Sys2Proof.Machine.execBootReload v s
  | .lcInputChange => Sys2Proof.Machine.execLcInputChange s
  | .strapChange => Sys2Proof.Machine.execStrapChange s
  | .flashRead => Sys2Proof.Machine.execFlashRead s
  | .flashProgram => Sys2Proof.Machine.execFlashProgram s
  | .flashErase => Sys2Proof.Machine.execFlashErase s
  | .flashOpDone => Sys2Proof.Machine.execFlashOpDone s
  | .flashTimeout => Sys2Proof.Machine.execFlashTimeout s
  | .calRecordPeriod => Sys2Proof.Machine.execCalRecordPeriod s
  | .recordWriteStart => Sys2Proof.Machine.execRecordWriteStart s
  | .registerWrite addr v => Sys2Proof.Machine.execRegisterWrite addr v s
  | .read n tag cls addr len => Sys2Proof.Machine.execRead n tag cls addr len s
  | .write n h b => Sys2Proof.Machine.execWrite n h b s
  | .writeMasked n h b => Sys2Proof.Machine.execWriteMasked n h b s
  | .atomAdd n h b => Sys2Proof.Machine.execAtomAdd n h b s
  | .atomMax n h b => Sys2Proof.Machine.execAtomMax n h b s
  | .atomMin n h b => Sys2Proof.Machine.execAtomMin n h b s
  | .atomSwap n h b => Sys2Proof.Machine.execAtomSwap n h b s
  | .atomCas n h b => Sys2Proof.Machine.execAtomCas n h b s
  | .reduceAdd n h b => Sys2Proof.Machine.execReduceAdd n h b s
  | .reduceAddOrd n h b => Sys2Proof.Machine.execReduceAddOrd n h b s
  | .doorbell n h b => Sys2Proof.Machine.execDoorbell n h b s
  | .writeBeat n b => Sys2Proof.Machine.execWriteBeat n b s
  | .gapCut n => Sys2Proof.Machine.execGapCut n s
  | .rspBeatTaken n => Sys2Proof.Machine.execRspBeatTaken n s
  | .rspStall n => Sys2Proof.Machine.execRspStall n s
  | .networkMessage x ix => Sys2Proof.Machine.execNetworkMessage x ix s
  | .ringReserve x => Sys2Proof.Machine.execRingReserve x s
  | .schedulerCycle p => Sys2Proof.Machine.execSchedulerCycle p s
  | .entryAged p write ix => Sys2Proof.Machine.execEntryAged p write ix s
  | .hitLimit p bank => Sys2Proof.Machine.execHitLimit p bank s
  | .idleRowClose p bank => Sys2Proof.Machine.execIdleRowClose p bank s
  | .schedStall p => Sys2Proof.Machine.execSchedStall p s
  | .bankOpeningDone p bank => Sys2Proof.Machine.execBankOpeningDone p bank s
  | .bankClosingDone p bank => Sys2Proof.Machine.execBankClosingDone p bank s
  | .bankRefreshDone p bank => Sys2Proof.Machine.execBankRefreshDone p bank s
  | .zeroFillDone p gran => Sys2Proof.Machine.execZeroFillDone p gran s
  | .combineWriteback p ix => Sys2Proof.Machine.execCombineWriteback p ix s
  | .ordTimeout p g => Sys2Proof.Machine.execOrdTimeout p g s
  | .powerDownEntry p hide => Sys2Proof.Machine.execPowerDownEntry p hide s
  | .trrLimit p ix => Sys2Proof.Machine.execTrrLimit p ix s
  | .rhPenaltyEnd req => Sys2Proof.Machine.execRhPenaltyEnd req s
  | .readBurstReturn p framed errs => Sys2Proof.Machine.execReadBurstReturn p framed errs s
  | .hideAlert p hide => Sys2Proof.Machine.execHideAlert p hide s
  | .regulationPeriodStart p => Sys2Proof.Machine.execRegulationPeriodStart p s
  | .poolScaleUpdate x => Sys2Proof.Machine.execPoolScaleUpdate x s
  | .tier4WaitLimit p write ix => Sys2Proof.Machine.execTier4WaitLimit p write ix s
  | .arbiterCutoff ix => Sys2Proof.Machine.execArbiterCutoff ix s
  | .migrationStart x v => Sys2Proof.Machine.execMigrationStart x v s
  | .migrationCancel x v => Sys2Proof.Machine.execMigrationCancel x v s
  | .migrationCopyDone x pos => Sys2Proof.Machine.execMigrationCopyDone x pos s
  | .flipDrainDone x => Sys2Proof.Machine.execFlipDrainDone x s
  | .flipDrainTimeout x => Sys2Proof.Machine.execFlipDrainTimeout x s
  | .calAttemptDone p set grp passing centre ref => Sys2Proof.Machine.execCalAttemptDone p set grp passing centre ref s
  | .calWaitEnd p set grp => Sys2Proof.Machine.execCalWaitEnd p set grp s
  | .rotStep p set grp => Sys2Proof.Machine.execRotStep p set grp s
  | .rotEffect p set grp => Sys2Proof.Machine.execRotEffect p set grp s
  | .readSweepStart p => Sys2Proof.Machine.execReadSweepStart p s
  | .trackingSlice p set res => Sys2Proof.Machine.execTrackingSlice p set res s
  | .laneStale p l => Sys2Proof.Machine.execLaneStale p l s
  | .fullRetrain p v => Sys2Proof.Machine.execFullRetrain p v s
  | .retrainSlice p => Sys2Proof.Machine.execRetrainSlice p s
  | .linkHaltEnd p => Sys2Proof.Machine.execLinkHaltEnd p s
  | .modeRegisterRead p v => Sys2Proof.Machine.execModeRegisterRead p v s
  | .modeRegisterWrite p v => Sys2Proof.Machine.execModeRegisterWrite p v s
  | .statusReadClear p v => Sys2Proof.Machine.execStatusReadClear p v s
  | .layerReset p v => Sys2Proof.Machine.execLayerReset p v s
  | .sbResponse p reqErr respErr held => Sys2Proof.Machine.execSbResponse p reqErr respErr held s
  | .sbTimeout p => Sys2Proof.Machine.execSbTimeout p s
  | .refreshDueTick p bank => Sys2Proof.Machine.execRefreshDueTick p bank s
  | .refreshRoundEnd p bank => Sys2Proof.Machine.execRefreshRoundEnd p bank s
  | .weakRowRefreshDue p ix => Sys2Proof.Machine.execWeakRowRefreshDue p ix s
  | .sensorRead p => Sys2Proof.Machine.execSensorRead p s
  | .sensorResult p hide raw => Sys2Proof.Machine.execSensorResult p hide raw s
  | .dieSensorRead p count => Sys2Proof.Machine.execDieSensorRead p count s
  | .governorRound => Sys2Proof.Machine.execGovernorRound s
  | .emergencyReread p hide raw => Sys2Proof.Machine.execEmergencyReread p hide raw s
  | .stopComplete => Sys2Proof.Machine.execStopComplete s
  | .stopOverrun => Sys2Proof.Machine.execStopOverrun s
  | .thermResume v => Sys2Proof.Machine.execThermResume v s
  | .profilingStepDone p step => Sys2Proof.Machine.execProfilingStepDone p step s
  | .weakAgeing p => Sys2Proof.Machine.execWeakAgeing p s
  | .patrolRead p => Sys2Proof.Machine.execPatrolRead p s
  | .patrolLate p => Sys2Proof.Machine.execPatrolLate p s
  | .rangeScrub v => Sys2Proof.Machine.execRangeScrub v s
  | .rangeClear v => Sys2Proof.Machine.execRangeClear v s
  | .rangePoison v => Sys2Proof.Machine.execRangePoison v s
  | .rangeCancel v => Sys2Proof.Machine.execRangeCancel v s
  | .rangeDone op => Sys2Proof.Machine.execRangeDone op s
  | .ceCommit p ix => Sys2Proof.Machine.execCeCommit p ix s
  | .elogAck v => Sys2Proof.Machine.execElogAck v s
  | .rowRetirement p v errs => Sys2Proof.Machine.execRowRetirement p v errs s
  | .bankRetirement p v => Sys2Proof.Machine.execBankRetirement p v s
  | .bankCopyDone p errs => Sys2Proof.Machine.execBankCopyDone p errs s
  | .create src => Sys2Proof.Machine.execCreate src s
  | .append src pick => Sys2Proof.Machine.execAppend src pick s
  | .commit src => Sys2Proof.Machine.execCommit src s
  | .fork src pick => Sys2Proof.Machine.execFork src pick s
  | .trim src pick => Sys2Proof.Machine.execTrim src pick s
  | .release src => Sys2Proof.Machine.execRelease src s
  | .lock src => Sys2Proof.Machine.execLock src s
  | .unlock src => Sys2Proof.Machine.execUnlock src s
  | .query src => Sys2Proof.Machine.execQuery src s
  | .patch src pick => Sys2Proof.Machine.execPatch src pick s
  | .cold src => Sys2Proof.Machine.execCold src s
  | .pdOrphan v => Sys2Proof.Machine.execPdOrphan v s
  | .epochCheck => Sys2Proof.Machine.execEpochCheck s
  | .harSubmit x v => Sys2Proof.Machine.execHarSubmit x v s
  | .harnessCheckDone x slot => Sys2Proof.Machine.execHarnessCheckDone x slot s
  | .nop x slot node => Sys2Proof.Machine.execNop x slot node s
  | .score x slot node => Sys2Proof.Machine.execScore x slot node s
  | .select x slot node => Sys2Proof.Machine.execSelect x slot node s
  | .partialAtt x slot node => Sys2Proof.Machine.execPartialAtt x slot node s
  | .merge x slot node => Sys2Proof.Machine.execMerge x slot node s
  | .reduce x slot node blocks => Sys2Proof.Machine.execReduce x slot node blocks s
  | .copy x slot node blocks => Sys2Proof.Machine.execCopy x slot node blocks s
  | .fill x slot node blocks => Sys2Proof.Machine.execFill x slot node blocks s
  | .bucket x slot node => Sys2Proof.Machine.execBucket x slot node s
  | .awlProg x slot node => Sys2Proof.Machine.execAwlProg x slot node s
  | .signal x slot node => Sys2Proof.Machine.execSignal x slot node s
  | .partEnd x slot node part => Sys2Proof.Machine.execPartEnd x slot node part s
  | .nodeLimit x slot node => Sys2Proof.Machine.execNodeLimit x slot node s
  | .completionRecordWritten x slot => Sys2Proof.Machine.execCompletionRecordWritten x slot s
  | .harCancel x v => Sys2Proof.Machine.execHarCancel x v s
  | .harEndRead x => Sys2Proof.Machine.execHarEndRead x s
  | .moverRelease x v => Sys2Proof.Machine.execMoverRelease x v s
  | .engStall x slot node => Sys2Proof.Machine.execEngStall x slot node s
  | .partEntry p => Sys2Proof.Machine.execPartEntry p s
  | .ident p => Sys2Proof.Machine.execIdent p s
  | .convert p => Sys2Proof.Machine.execConvert p s
  | .aAdd p rd rs1 rs2 => Sys2Proof.Machine.execAAdd p rd rs1 rs2 s
  | .aSub p rd rs1 rs2 => Sys2Proof.Machine.execASub p rd rs1 rs2 s
  | .aAnd p rd rs1 rs2 => Sys2Proof.Machine.execAAnd p rd rs1 rs2 s
  | .aOr p rd rs1 rs2 => Sys2Proof.Machine.execAOr p rd rs1 rs2 s
  | .aXor p rd rs1 rs2 => Sys2Proof.Machine.execAXor p rd rs1 rs2 s
  | .aSll p rd rs1 rs2 => Sys2Proof.Machine.execASll p rd rs1 rs2 s
  | .aSrl p rd rs1 rs2 => Sys2Proof.Machine.execASrl p rd rs1 rs2 s
  | .aSra p rd rs1 rs2 => Sys2Proof.Machine.execASra p rd rs1 rs2 s
  | .aSlt p rd rs1 rs2 => Sys2Proof.Machine.execASlt p rd rs1 rs2 s
  | .aSltu p rd rs1 rs2 => Sys2Proof.Machine.execASltu p rd rs1 rs2 s
  | .aMul p rd rs1 rs2 => Sys2Proof.Machine.execAMul p rd rs1 rs2 s
  | .aDivu p rd rs1 rs2 => Sys2Proof.Machine.execADivu p rd rs1 rs2 s
  | .aRemu p rd rs1 rs2 => Sys2Proof.Machine.execARemu p rd rs1 rs2 s
  | .aFadd p rd rs1 rs2 => Sys2Proof.Machine.execAFadd p rd rs1 rs2 s
  | .aFsub p rd rs1 rs2 => Sys2Proof.Machine.execAFsub p rd rs1 rs2 s
  | .aFmul p rd rs1 rs2 => Sys2Proof.Machine.execAFmul p rd rs1 rs2 s
  | .aFdiv p rd rs1 rs2 => Sys2Proof.Machine.execAFdiv p rd rs1 rs2 s
  | .aFmin p rd rs1 rs2 => Sys2Proof.Machine.execAFmin p rd rs1 rs2 s
  | .aFmax p rd rs1 rs2 => Sys2Proof.Machine.execAFmax p rd rs1 rs2 s
  | .aFlt p rd rs1 rs2 => Sys2Proof.Machine.execAFlt p rd rs1 rs2 s
  | .aFeq p rd rs1 rs2 => Sys2Proof.Machine.execAFeq p rd rs1 rs2 s
  | .aFtoi p rd rs1 => Sys2Proof.Machine.execAFtoi p rd rs1 s
  | .aItof p rd rs1 => Sys2Proof.Machine.execAItof p rd rs1 s
  | .aAddi p rd rs1 imm => Sys2Proof.Machine.execAAddi p rd rs1 imm s
  | .aAndi p rd rs1 imm => Sys2Proof.Machine.execAAndi p rd rs1 imm s
  | .aOri p rd rs1 imm => Sys2Proof.Machine.execAOri p rd rs1 imm s
  | .aXori p rd rs1 imm => Sys2Proof.Machine.execAXori p rd rs1 imm s
  | .aShiSll p rd rs1 amt => Sys2Proof.Machine.execAShiSll p rd rs1 amt s
  | .aShiSrl p rd rs1 amt => Sys2Proof.Machine.execAShiSrl p rd rs1 amt s
  | .aShiSra p rd rs1 amt => Sys2Proof.Machine.execAShiSra p rd rs1 amt s
  | .aLui p rd imm => Sys2Proof.Machine.execALui p rd imm s
  | .aLsh p rd rs1 imm => Sys2Proof.Machine.execALsh p rd rs1 imm s
  | .aLw p rd rs1 imm => Sys2Proof.Machine.execALw p rd rs1 imm s
  | .aLd p rd rs1 imm => Sys2Proof.Machine.execALd p rd rs1 imm s
  | .aSw p rd rs1 imm => Sys2Proof.Machine.execASw p rd rs1 imm s
  | .aSd p rd rs1 imm => Sys2Proof.Machine.execASd p rd rs1 imm s
  | .aBeq p rs1 rs2 off => Sys2Proof.Machine.execABeq p rs1 rs2 off s
  | .aBne p rs1 rs2 off => Sys2Proof.Machine.execABne p rs1 rs2 off s
  | .aBlt p rs1 rs2 off => Sys2Proof.Machine.execABlt p rs1 rs2 off s
  | .aBge p rs1 rs2 off => Sys2Proof.Machine.execABge p rs1 rs2 off s
  | .aBltu p rs1 rs2 off => Sys2Proof.Machine.execABltu p rs1 rs2 off s
  | .aBgeu p rs1 rs2 off => Sys2Proof.Machine.execABgeu p rs1 rs2 off s
  | .aJal p off => Sys2Proof.Machine.execAJal p off s
  | .aJalr p rd rs1 imm => Sys2Proof.Machine.execAJalr p rd rs1 imm s
  | .mfsCycle p rd => Sys2Proof.Machine.execMfsCycle p rd s
  | .mfsElapsed p rd => Sys2Proof.Machine.execMfsElapsed p rd s
  | .mfsPhys p rd => Sys2Proof.Machine.execMfsPhys p rd s
  | .mfsGran p rd => Sys2Proof.Machine.execMfsGran p rd s
  | .mfsOutst p rd => Sys2Proof.Machine.execMfsOutst p rd s
  | .mfsIsa p rd => Sys2Proof.Machine.execMfsIsa p rd s
  | .sysHalt p => Sys2Proof.Machine.execSysHalt p s
  | .sysFail p rs1 => Sys2Proof.Machine.execSysFail p rs1 s
  | .sysMwait p rs1 => Sys2Proof.Machine.execSysMwait p rs1 s
  | .sysNop p => Sys2Proof.Machine.execSysNop p s
  | .vld p vd sr => Sys2Proof.Machine.execVld p vd sr s
  | .vst p va sr => Sys2Proof.Machine.execVst p va sr s
  | .vbcast p vd sr fmt => Sys2Proof.Machine.execVbcast p vd sr fmt s
  | .viota p vd sr => Sys2Proof.Machine.execViota p vd sr s
  | .vcvt p vd va sr fmt sel mode => Sys2Proof.Machine.execVcvt p vd va sr fmt sel mode s
  | .vpack p vd va fmt sel => Sys2Proof.Machine.execVpack p vd va fmt sel s
  | .vdot p vd va vb sr fmt mode => Sys2Proof.Machine.execVdot p vd va vb sr fmt mode s
  | .vadd p vd va vb => Sys2Proof.Machine.execVadd p vd va vb s
  | .vsub p vd va vb => Sys2Proof.Machine.execVsub p vd va vb s
  | .vmul p vd va vb => Sys2Proof.Machine.execVmul p vd va vb s
  | .vfma p vd va vb => Sys2Proof.Machine.execVfma p vd va vb s
  | .vmax p vd va vb => Sys2Proof.Machine.execVmax p vd va vb s
  | .vmin p vd va vb => Sys2Proof.Machine.execVmin p vd va vb s
  | .vexp p vd va => Sys2Proof.Machine.execVexp p vd va s
  | .vmuls p vd va sr => Sys2Proof.Machine.execVmuls p vd va sr s
  | .sacc p vd va vb sr => Sys2Proof.Machine.execSacc p vd va vb sr s
  | .vfoldSum p vd va sr => Sys2Proof.Machine.execVfoldSum p vd va sr s
  | .vfoldMax p vd va sr => Sys2Proof.Machine.execVfoldMax p vd va sr s
  | .vget p va sr => Sys2Proof.Machine.execVget p va sr s
  | .vmov p vd va => Sys2Proof.Machine.execVmov p vd va s
  | .mld p ra rb rn => Sys2Proof.Machine.execMld p ra rb rn s
  | .mst p ra rb rn => Sys2Proof.Machine.execMst p ra rb rn s
  | .mred p ra rb rc rn => Sys2Proof.Machine.execMred p ra rb rc rn s
  | .fld p ra rb rc rn => Sys2Proof.Machine.execFld p ra rb rc rn s
  | .hld p ra rb => Sys2Proof.Machine.execHld p ra rb s
  | .xlat p ra rb => Sys2Proof.Machine.execXlat p ra rb s
  | .xlata p ra rb => Sys2Proof.Machine.execXlata p ra rb s
  | .pgath p ra rb rc rn => Sys2Proof.Machine.execPgath p ra rb rc rn s
  | .fst p ra rb rc rn => Sys2Proof.Machine.execFst p ra rb rc rn s
  | .hst p ra rb rc => Sys2Proof.Machine.execHst p ra rb rc s
  | .memOpRetire p => Sys2Proof.Machine.execMemOpRetire p s
  | .islandGate u => Sys2Proof.Machine.execIslandGate u s
  | .islandWake u => Sys2Proof.Machine.execIslandWake u s
  | .faultWordClear u v => Sys2Proof.Machine.execFaultWordClear u v s
  | .faultInj u v => Sys2Proof.Machine.execFaultInj u v s
  | .fltFence u v => Sys2Proof.Machine.execFltFence u v s
  | .quiesce u v => Sys2Proof.Machine.execQuiesce u v s
  | .resumeIntake u v => Sys2Proof.Machine.execResumeIntake u v s
  | .unitReset u v => Sys2Proof.Machine.execUnitReset u v s
  | .cntFreeze u v => Sys2Proof.Machine.execCntFreeze u v s
  | .cntClear u v => Sys2Proof.Machine.execCntClear u v s
  | .drainDone u => Sys2Proof.Machine.execDrainDone u s
  | .wedge u => Sys2Proof.Machine.execWedge u s
  | .resetComplete u => Sys2Proof.Machine.execResetComplete u s
  | .resetBound u => Sys2Proof.Machine.execResetBound u s
  | .safeStateEntry u => Sys2Proof.Machine.execSafeStateEntry u s
  | .refClkLost x => Sys2Proof.Machine.execRefClkLost x s
  | .holdoverEnd x => Sys2Proof.Machine.execHoldoverEnd x s
  | .bistSliceStart window => Sys2Proof.Machine.execBistSliceStart window s
  | .sliceDrainTimeout => Sys2Proof.Machine.execSliceDrainTimeout s
  | .sliceDrained => Sys2Proof.Machine.execSliceDrained s
  | .sliceScanDone misr => Sys2Proof.Machine.execSliceScanDone misr s
  | .sliceWindowSample ran misr => Sys2Proof.Machine.execSliceWindowSample ran misr s
  | .sliceRelease => Sys2Proof.Machine.execSliceRelease s
  | .bistAck v => Sys2Proof.Machine.execBistAck v s
  | .tapReset => Sys2Proof.Machine.execTapReset s
  | .extest drive capture => Sys2Proof.Machine.execExtest drive capture s
  | .samplePreload drive capture => Sys2Proof.Machine.execSamplePreload drive capture s
  | .unitSel entry => Sys2Proof.Machine.execUnitSel entry s
  | .intscan chain => Sys2Proof.Machine.execIntscan chain s
  | .sigread => Sys2Proof.Machine.execSigread s
  | .slice idx pats ran misr => Sys2Proof.Machine.execSlice idx pats ran misr s
  | .bypass tdi => Sys2Proof.Machine.execBypass tdi s
  | .cntSel u ix v => Sys2Proof.Machine.execCntSel u ix v s
  | .cntWrite u ix high v => Sys2Proof.Machine.execCntWrite u ix high v s
  | .cntRead u ix high => Sys2Proof.Machine.execCntRead u ix high s
  | .counterOverflow u ix src ctx0 ctx1 => Sys2Proof.Machine.execCounterOverflow u ix src ctx0 ctx1 s
  | .histClear x v => Sys2Proof.Machine.execHistClear x v s
  | .histKind x v => Sys2Proof.Machine.execHistKind x v s
  | .dump => Sys2Proof.Machine.execDump s
  | .telNow v => Sys2Proof.Machine.execTelNow v s
  | .dumpWriteAck code => Sys2Proof.Machine.execDumpWriteAck code s
  | .illegalInstruction p => Sys2Proof.Machine.execIllegalInstruction p s
  | .retrainSliceEnd p final r => Sys2Proof.Machine.execRetrainSliceEnd p final r s
  | .mgmtRspTaken => Sys2Proof.Machine.execMgmtRspTaken s

end Sys2Proof.Machine
end

