-- ==== Sys2Proof/Safety.lean ====
section
/-! DEFINITION. The terms of the claims: a command that answers a next state, the states that hold every unit and keep memory in its
canonical form, and the states in which a management access has its own effect. -/

namespace Sys2Proof.Machine

/-- The command answers a next state, of which P holds. -/
def Answers (c : Instr) (s : State) (P : State → Prop) : Prop := ∃ t, exec c s = .next t ∧ P t

/-- The memory's canonical form: addresses strictly rising, no byte listed that equals what an unlisted address reads as (log 7). -/
def Memory.wf (m : List Host.Cell) : Bool := smWf 0 m

/-- The flash's canonical form: an unlisted byte reads 0xFF (log 9). -/
def Memory.flashWf (m : List Host.Cell) : Bool := smWf 0xFF m

/-- The state holds every unit of the build, every unit its registers, and both memories are in canonical form (R7, R24, R39, R248, R304,
R340, R361; logs 5, 7, 9). -/
structure State.Wf (s : State) : Prop where
  cells : Memory.wf s.cells = true
  flash : Memory.flashWf s.flash.cells = true
  frames : s.frames.length = 757
  cnts : s.cnts.length = 757
  ports : s.ports.length = 128
  ctls : s.ctls.length = 136
  links : s.links.length = 136
  awls : s.awls.length = 136
  curs : s.curs.length = 136
  sectors : s.sectors.length = 8
  pools : s.pools.length = 8
  nets : s.nets.length = 8
  hars : s.hars.length = 8
  movs : s.movs.length = 8
  elog : s.mgmt.elog.length ≤ 1024
  /-- request numbers are given in rising order -/
  uids : ∀ q ∈ s.ports, ∀ r ∈ q.tags, r.uid ≤ s.uid
  regs : ∀ a ∈ s.awls, a.sreg.length = 32 ∧ a.vreg.length = 16
  slots : ∀ h ∈ s.hars, h.slots.length = 64
  movers : ∀ m ∈ s.movs, m.ch.length = 4
  bankMaps : ∀ c ∈ s.ctls, smWf {} c.banks = true
  freshMaps : ∀ c ∈ s.ctls, smWf 0 c.fresh = true
  groups : ∀ l ∈ s.links, l.grps.length = 20 ∧ smWf {} l.lanes = true
  slices : ∀ c ∈ s.curs, c.rate.length = 8 ∧ c.below.length = 8 ∧ c.fall.length = 8 ∧ c.temp.length = 8 ∧ smWf {} c.bank = true
  banks : ∀ c ∈ s.cnts, c.sel.length = 8 ∧ c.val.length = 8 ∧ c.rsh.length = 8 ∧ c.wsh.length = 8

/-- Every byte of the array reads in t as it does in s. -/
def sameMemory (s t : State) : Prop := ∀ a, smGet 0 t.cells a = smGet 0 s.cells a

/-- A management access to a register of u reaches the register's own rule: the port takes requests, the block is RUNNING (or u is
the array's frame) and not in the safe state, u is neither RESETTING nor in a self-test slice, and no self-check of the management
island is armed (R34, R50, R404, R405, R414, R447). -/
def State.mgReady (s : State) (u : UnitId) : Prop :=
  s.mgOpen = true ∧ u.ok = true ∧ (s.isRunning = true ∨ u = .array) ∧ s.safe.on = false ∧ s.shut u = false ∧ (s.fr .mgmt).inj = 0

/-- No source of the unit is armed: its checks find only real faults (R405). -/
def State.unarmed (s : State) (u : UnitId) : Prop := (s.fr u).inj = 0

/-- What a management access leaves besides its register's own effect: one access counted, one response OK queued (R431, R447). -/
def State.granted (s t : State) : Prop := t.mgmt.rsp = s.mgmt.rsp ++ [(0, cOK)]

/-! ### Where a port takes a request -/

/-- Port n takes a request of a class in this cycle (R75-R78, R92, R95, R98): it is up and open, the direction is ready, no hold and no
older request stands against this one, and the port does not answer everything FENCED. `addr` is the address of the request's first
block; a page call or a DOORBELL targets no channel, and it is 2^42 for them. -/
structure State.Offers (s : State) (n cls : Nat) (write : Bool) (addr : Nat) : Prop where
  isPort : n < 128
  takes : s.portTakes n = true
  ready : (if write then s.wqReady n else s.rqReady n) = true
  unheld : s.freeToOffer n cls write addr = true
  served : s.allFenced n = false

/-- The pool of port n's slice has a request slot and a response slot free in the position's floors, and no source armed (R131, R405). -/
structure State.PoolFree (s : State) (n : Nat) : Prop where
  sector : secOf (s.portPhys n) < 8
  unarmed : (s.fr (.pool (secOf (s.portPhys n)))).inj = 0
  intake : s.poolQuiet (secOf (s.portPhys n)) = false
  request : smGet 0 (s.pool (secOf (s.portPhys n))).floor (5 * posOf (s.portPhys n) + 1) < 224
  response : smGet 0 (s.pool (secOf (s.portPhys n))).floor (5 * posOf (s.portPhys n)) < 128

/-- The port address lies in the own slice of port n at channel offset off, and channel p serves it (R102, R103, R108). -/
def State.ownBlock (s : State) (n addr p off : Nat) : Prop :=
  s.decode addr (s.portLch n) = some (s.portLch n, off) ∧ s.serving (s.portLch n) = some p ∧ p < 136

/-! ### Where an agent's command has its effect -/

/-- An agent's command has its effect now: the agent's last channel work is done, and no channel is shut (R16, R125; log 13). -/
structure State.AgentFree (s : State) (own : Nat) : Prop where
  done : s.working own = false
  opened : ∀ l, s.shutAt l = false

/-- Engine x dispatches: its last channel work is done, no channel is shut and no source of the engine is armed (R405). -/
structure State.EngineFree (s : State) (x : Nat) : Prop extends s.AgentFree (ownHar x) where
  unarmed : s.unarmed (.harness x)

/-! ### Where an Awl issues an instruction -/

/-- Instruction i issues on Awl p: it is next, none of the registers it names is pending, no source of the unit is armed, and its word
and the one after it lie in the code (R363, R371, R373, R405). -/
structure State.AwlReady (s : State) (p : Nat) (i : Instr) (regs : List Nat) : Prop where
  unit : p < 136 ∧ s.awls.length = 136
  next : s.nextIs p i = true
  free : regs.any (s.awl p).pendingS = false
  unarmed : (s.fr (.awl p)).inj = 0
  aligned : (s.awl p).pc % 4 = 0
  inCode : (s.awl p).pc + 4 < 4 * (s.awl p).words.length ∧ (s.awl p).pc + 4 < 32768

/-- The Awl after an instruction of `cost` issue cycles, when the instruction at pc issues next (R373, R382). -/
def Awl.ran (a : Awl) (cost pc : Nat) : Awl := { a with cycle := a.cycle + BitVec.ofNat 64 cost, pc := pc }

/-- The Awl with scalar register d written; s0 keeps its value (R362). -/
def Awl.withS (a : Awl) (d : Nat) (v : Dword) : Awl := { a with sreg := setS a.sreg d v }

/-- The Awl with vector register d written. -/
def Awl.withV (a : Awl) (d : Nat) (v : BitVec 4096) : Awl := { a with vreg := upd a.vreg d fun _ => v }

/-- The frame of an instruction: of s, only Awl p has changed, to a; and counters. -/
def State.onlyAwl (s : State) (p : Nat) (t : State) (a : Awl) : Prop :=
  t = { s with awls := t.awls, cnts := t.cnts, free := t.free } ∧ t.awl p = a ∧ ∀ q, q ≠ p → t.awl q = s.awl q

/-- A memory operation joins the queue of Awl p without waiting: the queue has room and no operation outstanding writes the scratch it
uses (R380). -/
def State.queueRoom (s : State) (p x n : Nat) : Prop := (s.awl p).memq.length < 16 ∧ (s.awl p).scrWritten x n = false

end Sys2Proof.Machine
end

