-- ==== Sys2Proof/Certificates/Slice0/Obligations.lean ====
section
/-! DEFINITION. The statements, in the order of the spec: the step and the state, start-up and flash, ports, channels, links and refresh,
heat and data, the Awls, pages and Harnesses, faults, resets, self-test, counters. -/

open Sys2Proof Sys2Proof.Machine

/-- A step takes the command at the front of the queue and runs it with the queue's rest. (R45, R447.) -/
def Obligations.StepRunsFrontCommand : Prop :=
  ∀ (c : Instr) (rest : List Instr) (s : State), step { s with pending := c :: rest } = exec c { s with pending := rest }

/-- Every command answers a next state in every state, but one: the release of block reset out of the sequence of R453, while reset is
held, where R1 leaves the behaviour undefined. That release while reset is not held changes nothing (the model's choice for an event without
its cause, log 2). (R1, R453.) -/
def Obligations.EveryCommandCompletes : Prop :=
  (∀ (c : Instr) (s : State), c ≠ .blockResetRelease false → ∃ t : State, exec c s = .next t) ∧
  (∀ s : State, exec (.blockResetRelease false) s = if s.boot.rstLow then .fault .undefinedR1 else .next s)

/-- With no command waiting one MGMT cycle passes (the model's tick: log 1): the elapsed counter advances at every 400th, and a change of
the Tack Table that waits is committed, TACK_GEN taking the next generation, busy only while another change waits. While blk_rst_n is low
nothing happens. (R18, R36.) -/
def Obligations.IdleStepTicks : Prop :=
  ∀ s : State, s.pending = [] →
    (s.boot.rstLow = true → step s = .next s) ∧
    (s.boot.rstLow = false → (∀ f ∈ s.frames, f.deferRst = false) →
      (s.tack.pend = [] → s.mgmt.sub + 1 < 400 → step s = .next { s with mgmt := { s.mgmt with sub := s.mgmt.sub + 1 } }) ∧
      (s.tack.pend = [] → 399 ≤ s.mgmt.sub → step s = .next { s with mgmt := { s.mgmt with sub := 0, elapsed := s.mgmt.elapsed + 1 } }) ∧
      (∀ us rest, s.tack.pend = us :: rest → ∃ t, step s = .next t ∧ t.tack.gen = s.tack.gen + 1 ∧ t.tack.changed = true ∧
        t.tack.pend = rest ∧ t.tack.busy = !rest.isEmpty ∧ t = { s with tack := t.tack, frames := t.frames, mgmt := t.mgmt } ∧
        (∀ u ∈ us, u.idx < s.frames.length → (t.fr u).egen = s.tack.gen + 1)))

/-- Right after reset: CLOCK, the elapsed counter at zero, TACK_GEN busy, spare channels and their units STANDBY and every other unit
RUNNING, every port down, nothing waiting, no byte of the array written. The state holds every unit, and both memories are in canonical
form. (R7, R28, R39, R45, R46, R75.) -/
def Obligations.ResetState : Prop :=
  State.reset.boot.phase = 0 ∧ State.reset.mgmt.elapsed = 0 ∧ State.reset.tackGen = 1 ∧ State.reset.pending = [] ∧ State.reset.cells = [] ∧
  (∀ p < 136, (State.reset.fr (.ctl p)).st = (if posOf p = 16 then .standby else .running) ∧
    (State.reset.fr (.channel p)).st = (if posOf p = 16 then .standby else .running)) ∧
  (∀ x < 8, (State.reset.fr (.sector x)).st = .running) ∧ (∀ n < 128, (State.reset.port n).up = false) ∧ State.reset.Wf

/-- Every step keeps it so: no unit appears or vanishes, both memories stay canonical, the error log holds at most 1,024 entries. (R7,
R39, R248, R304, R340, R361.) -/
def Obligations.StepKeepsWf : Prop :=
 ∀ s t : State, s.Wf → step s = .next t → t.Wf

/-- BLOCK_RESET_ASSERT and BLOCK_RESET_RELEASE. While blk_rst_n is low the block stands in its reset state, the array's contents gone; the
flash's bytes stay where no operation was under way, and the netlist's values, the commands waiting and the TAP's registers besides the
instruction are as before. Released in the sequence of R453, start-up begins with CLOCK; out of it the behaviour is undefined (R1), and the
model stops. (R1, R45, R453, R454.) -/
def Obligations.BlockReset : Prop :=
  (∀ s : State, ∃ t, exec .blockResetAssert s = .next t ∧ (s.flash.job = none → t.flash.cells = s.flash.cells) ∧
    t = { State.reset with
      pending := s.pending, free := t.free, uid := s.uid, hides := s.hides, build := s.build, dieSlope := s.dieSlope, dieIcpt := s.dieIcpt
      expSig := s.expSig, flash := { cells := t.flash.cells }, tap := { s.tap with ir := 0xFF, drive := [] }, boot := { rstLow := true } }) ∧
  (∀ s : State, s.boot.rstLow = true →
    exec (.blockResetRelease true) s = .next { s with boot := { s.boot with rstLow := false } }) ∧
  (∀ s : State, s.boot.rstLow = true → exec (.blockResetRelease false) s = .fault .undefinedR1)

/-- CLOCK_END latches the lifecycle inputs and goes to DISCOVER, or to END for the END state and for an invalid value, which LC_STATUS
flags. LC_INPUT_CHANGE and STRAP_CHANGE after CLOCK only latch their flags. (R66.) -/
def Obligations.ClockEnd : Prop :=
  (∀ (s : State) (lc : BitVec 3) (key : BitVec 256) (fs lv : Bool), s.inPhase 0 = true →
    Answers (.clockEnd lc key fs lv) s fun t =>
      t = { s with boot := t.boot } ∧ t.boot.lcState = lc ∧ t.boot.lcKey = key ∧ t.boot.flSlow = fs ∧ t.boot.awlLowv = lv ∧
      t.boot.lcInvalid = !(within lc.toNat 1 5) ∧
      t.boot.phase = (if within lc.toNat 1 5 = true ∧ lc ≠ 5 then 1 else 0xC)) ∧
  (∀ s : State, s.boot.rstLow = false → s.boot.phase ≠ 0 →
    exec .lcInputChange s = .next { s with boot := { s.boot with lcChanged := true } } ∧
    exec .strapChange s = .next { s with boot := { s.boot with strapChanged := true } })

/-- DISCOVER_END: without an answer the block is FAILED with NO_FLASH; a flash whose parameters R53 accepts is used, and LOAD begins with
the primary image. STARTUP_TIMEOUT in any phase before RUNNING ends in FAILED with TIMEOUT. LOAD_END and VERIFY_END on an image that
passes: without a root key hash it goes to SLOTS as the running image, with one it waits in VERIFY, where the key's hash and the signature
let it go on. (R45, R47, R51, R53, R58, R60.) -/
def Obligations.ImageLoading : Prop :=
  ((∀ s : State, s.inPhase 1 = true → Answers (.discoverEnd none) s fun t => t.boot.phase = 0xB ∧ t.boot.result = rsNOFLASH) ∧
  (∀ (s : State) (x : Sfdp), s.inPhase 1 = true → x.major = 1 → bits (x.dwords.getD 0 0).toNat 0 2 = 1 →
    bits (x.dwords.getD 0 0).toNat 17 2 ≠ 3 → bitN (x.dwords.getD 0 0).toNat 21 = true → 2 ^ 26 ≤ sfdpBits (x.dwords.getD 1 0) →
    Answers (.discoverEnd (some x)) s fun t =>
      t = { s with boot := t.boot } ∧ t.boot.phase = 2 ∧ t.boot.onFallback = false ∧
      t.boot.flAddr4 = (bits (x.dwords.getD 0 0).toNat 17 2 == 2) ∧ t.boot.flBytes = sfdpBits (x.dwords.getD 1 0) / 8 ∧
      t.boot.flPage = 2 ^ bits (x.dwords.getD 10 0).toNat 4 4) ∧
  (∀ s : State, s.boot.rstLow = false → s.boot.phase.toNat ≤ 9 →
    Answers .startupTimeout s fun t => t.boot.phase = 0xB ∧ t.boot.result = rsTIMEOUT)) ∧
  ((∀ (s : State) (len : Nat) (i : Image), s.inPhase 2 = true →
    headerLen (flashRead s.flash.cells (if s.boot.onFallback then 0x200000 else 0) 64) = some len →
    checkImage (flashRead s.flash.cells (if s.boot.onFallback then 0x200000 else 0) len) len s.hides s.build.toNat (s.boot.lcKey != 0) = .pass i →
    Answers .loadEnd s fun t =>
      (s.boot.lcKey = 0 → t.boot.phase = 4 ∧ t.image = some i ∧ t.boot.fallback = s.boot.onFallback ∧ t.boot.imgSeq = i.imgSeq) ∧
      (s.boot.lcKey ≠ 0 → t.boot.phase = 3 ∧ t.boot.cand = some i ∧ t.image = s.image)) ∧
  (∀ (s : State) (i : Image) (qx qy r u : Nat), s.inPhase 3 = true → s.boot.cand = some i → i.sig = some (qx, qy, r, u) →
    sha256 ((leBytes qx 32).reverse ++ (leBytes qy 32).reverse) = s.boot.lcKey.toNat → ecdsaOk qx qy r u i.digest = true →
    Answers .verifyEnd s fun t =>
      t.boot.phase = 4 ∧ t.boot.signed = true ∧ t.image = some i ∧ t.boot.fallback = s.boot.onFallback))

/-- SLOTS_END resolves both pairs of record slots, holds the winners' entries, and leaves the channels unpowered that the retirement
record fences. ISLANDS_END starts the port clocks; ISLANDS_LOCK_TIMEOUT fences the sectors that have not locked and starts the port clocks
of the others. APPLY_END gives every Awl the image's patches. BUILD_END commits generation 1 and opens the ports, which then read
TACK_GEN 2; while parks or dead lanes found in training still wait for the flash it does nothing. (R45, R46, R48, R62, R63, R75, R109, R189,
R370.) -/
def Obligations.StartupPhases : Prop :=
  (∀ s : State, s.Wf → s.inPhase 4 = true → Answers .slotsEnd s fun t =>
    let cal := resolvePair (s.readSlot true false) (s.readSlot true true)
    let ret := resolvePair (s.readSlot false false) (s.readSlot false true)
    t.boot.phase = 5 ∧ t.boot.slotCal = cal.1 ∧ t.boot.slotRet = ret.1 ∧ t.boot.calSeq = cal.2.1 ∧ t.boot.retSeq = ret.2.1 ∧
    t.calRec = cutEntries 896 (half16 cal.2.2.1 2) (cal.2.2.1.drop 16) ∧ t.retRec = cutEntries 8 (half16 ret.2.2.1 2) (ret.2.2.1.drop 16) ∧
    (∀ p < 136, (t.ctl p).unpowered = ((s.ctl p).unpowered || recFenced t.retRec p)) ∧ t.flash = s.flash ∧ t.cells = s.cells) ∧
  (∀ s : State, s.inPhase 5 = true → Answers .islandsEnd s fun t =>
    t.boot.phase = 6 ∧ t = { s with boot := t.boot, ports := s.ports.map fun q => if q.fencedAll then q else { q with clkOn := true } }) ∧
  (∀ (s : State) (l : List Nat), s.Wf → s.inPhase 5 = true → Answers (.islandsLockTimeout l) s fun t =>
    t.boot.phase = 6 ∧ (∀ x ∈ l, x < 8 → t.isFenced (.sector x) = true) ∧ ∀ q ∈ t.ports, q.fencedAll = false → q.clkOn = true) ∧
  (∀ s : State, s.inPhase 8 = true → Answers .applyEnd s fun t => t.boot.phase = 9 ∧ ∀ a ∈ t.awls, a.patches = s.img.patches) ∧
  (∀ s : State, s.inPhase 9 = true → s.persisting = false → Answers .buildEnd s fun t =>
    t.boot.phase = 0xA ∧ t.boot.result = rsOK ∧ t.tack.busy = false ∧ t.tack.gen = 1 ∧ t.tackGen = 2 ∧ t.image = s.image ∧ t.cells = s.cells ∧
    (∀ f ∈ t.frames, f.egen = 1) ∧ ∀ q ∈ t.ports, q.fencedAll = false → q.up = true ∧ q.clkOn = true) ∧
  (∀ s : State, s.inPhase 9 = true → s.persisting = true → exec .buildEnd s = .next s)

/-- HIDE_UP_END: a Hide that answers at no channel fails start-up with HIDE_INIT; with every Hide answering, each channel tried is in
training. CHANNEL_TRAINED with no failing position, within the search around the record, sets the channel's link RUNNING; while another
channel is still to be trained nothing else happens, and with the last one start-up goes on to APPLY. (R45, R48, R51, R188.) -/
def Obligations.HideUpAndTrain : Prop :=
  (∀ (s : State) (h : HideUp) (k : Nat), s.inPhase 6 = true → k < s.hides → (∀ p < 136, s.tried p = true → (p, k) ∈ h.silent) →
    Answers (.hideUpEnd h) s fun t => t.boot.phase = 0xB ∧ t.boot.result = rsHIDE) ∧
  (∀ (s : State) (h : HideUp), s.Wf → s.inPhase 6 = true → s.boot.trained = [] → h.silent = [] → (∃ p < 136, s.tried p = true) →
    Answers (.hideUpEnd h) s fun t => t.boot.phase = 7 ∧ ∀ p < 136, s.tried p = true → (t.link p).st = .training) ∧
  (∀ (s : State) (p q : Nat) (r : TrainRes), s.Wf → s.inPhase 7 = true → p < 136 → q < 136 → q ≠ p → s.tried p = true →
    s.tried q = true → s.boot.trained.contains p = false → s.boot.trained.contains q = false → s.inSearch p r = true →
    r.fails = [] → r.noEye = false → r.badVerify = false →
    Answers (.channelTrained p r) s fun t =>
      t.boot.phase = 7 ∧ t.boot.trained = s.boot.trained ++ [p] ∧ (t.link p).st = .running ∧ (∀ j, j ≠ p → t.link j = s.link j) ∧
      t = { s with boot := t.boot, links := t.links, free := t.free }) ∧
  (∀ (s : State) (p : Nat) (r : TrainRes), s.Wf → s.inPhase 7 = true → p < 136 → s.tried p = true → s.boot.trained.contains p = false →
    (∀ q < 136, s.tried q = true → q = p ∨ s.boot.trained.contains q = true) → s.inSearch p r = true →
    r.fails = [] → r.noEye = false → r.badVerify = false → Answers (.channelTrained p r) s fun t => t.boot.phase = 8)

/-- BOOT_RELOAD. With key 0x5A and bit 0 set in FAILED, start-up begins again at DISCOVER with the lifecycle inputs as latched; what was
fenced stays fenced, no image is left, and flash and array keep their bytes. Out of FAILED, or with another key, the write is ignored and
sets FRAME_STATUS.ctrl_rej of the array. (R51, R69.) -/
def Obligations.BootReload : Prop :=
  ∀ (s : State) (v : Word), s.Wf → s.mgReady .array → bitN v.toNat 0 = true →
    (keyed v = true → s.boot.phase = 0xB → Answers (.bootReload v) s fun t =>
      t.boot.phase = 1 ∧ t.boot.lcState = s.boot.lcState ∧ t.boot.lcKey = s.boot.lcKey ∧ t.image = none ∧ t.cells = s.cells ∧
      t.flash = s.flash ∧ (∀ i, (t.frame i).fenced = (s.frame i).fenced) ∧ s.granted t) ∧
    ((keyed v && s.boot.phase == 0xB) = false → Answers (.bootReload v) s fun t =>
      t.boot = s.boot ∧ (t.fr .array).ctrlRej = true ∧ t.image = s.image ∧ s.granted t)

/-- FLASH_READ, FLASH_PROGRAM and FLASH_ERASE start the mailbox operation when the mailbox is idle and the operation is permitted: busy,
code OK; it is the flash's job at once unless a record is queued or an operation is in progress. Nothing else but the response and the
access count changes. A refused operation leaves BAD_REQUEST in the code and does not start. FLASH_OP_DONE and FLASH_TIMEOUT of a mailbox
operation: a read fills the buffer, a program ANDs the buffer into its page (the model's choice, log 9), an erase leaves 4,096 bytes at
0xFF; at the time-out of a program or erase the code is ABORTED. The mailbox is idle after it, and the array's memory is untouched. (R65,
R69, R71.) -/
def Obligations.FlashMailbox : Prop :=
  (∀ (s : State) (c : Instr) (op : BitVec 2), s.mgReady .array → s.flash.busy = false →
    (c = .flashRead ∧ op = 1 ∨ c = .flashProgram ∧ op = 2 ∨ c = .flashErase ∧ op = 3) →
    Answers c s fun t =>
      t = { s with flash := t.flash, mgmt := t.mgmt, cnts := t.cnts, free := t.free } ∧ s.granted t ∧ t.flash.cells = s.flash.cells ∧
      (s.mboxOk op = true → t.flash = { s.flash with
        op := op, busy := true, code := cOK, mbox := some op
        job := if s.flash.job.isNone && !s.flash.calQ && s.flash.retQ == 0 then some .mbox else s.flash.job }) ∧
      (s.mboxOk op = false → t.flash = { s.flash with op := op, code := cBAD })) ∧
  ((∀ s : State, s.Wf → s.flash.job = some .mbox → Answers .flashOpDone s fun t =>
    t = { s with flash := t.flash, cnts := t.cnts, free := t.free } ∧ t.flash.busy = false ∧ t.flash.code = cOK ∧ t.flash.job = none ∧
    t.flash.mbox = none ∧
    (s.flash.mbox = some 1 → t.flash.cells = s.flash.cells ∧ t.flash.buf = flashRead s.flash.cells s.flash.addr.toNat 256) ∧
    (s.flash.mbox = some 2 → ∀ a, smGet 0xFF t.flash.cells a =
      if s.flash.addr.toNat ≤ a ∧ a < s.flash.addr.toNat + s.flash.buf.length then
        smGet 0xFF s.flash.cells a &&& s.flash.buf.getD (a - s.flash.addr.toNat) 0xFF
      else smGet 0xFF s.flash.cells a) ∧
    (s.flash.mbox = some 3 → ∀ a, smGet 0xFF t.flash.cells a =
      if s.flash.addr.toNat ≤ a ∧ a < s.flash.addr.toNat + 4096 then 0xFF else smGet 0xFF s.flash.cells a)) ∧
  (∀ s : State, s.flash.job = some .mbox → s.flash.mbox = some 2 ∨ s.flash.mbox = some 3 → Answers .flashTimeout s fun t =>
    t = { s with flash := t.flash, cnts := t.cnts, free := t.free } ∧ t.flash.busy = false ∧ t.flash.code = cABORTED ∧ t.flash.job = none))

/-- Records. CAL_RECORD_PERIOD queues a calibration record; RECORD_WRITE_START takes a queued retirement record before a calibration
record and writes the slot that does not hold the current one; each FLASH_OP_DONE does one step, and after the last the slot written is
the current one; FLASH_TIMEOUT gives the record up, the old one stays current, and the LOADER source REC_WRITE latches when it is not
masked. (R64, R65, R71.) -/
def Obligations.RecordWrites : Prop :=
  (∀ s : State, s.isRunning = true → exec .calRecordPeriod s = .next { s with flash := { s.flash with calQ := true } }) ∧
  (∀ s : State, s.isRunning = true → s.boot.rstLow = false → s.flash.job = none → 0 < s.flash.retQ →
    Answers .recordWriteStart s fun t =>
      t = { s with flash := t.flash } ∧ t.flash.calQ = s.flash.calQ ∧ t.flash.retQ = s.flash.retQ - 1 ∧
      ∃ j, t.flash.job = some (.record j) ∧ j.cal = false ∧ j.slotB = (s.boot.slotRet == 0) ∧
        j.seq = (if s.boot.slotRet = 0 ∨ s.boot.slotRet = 1 then s.boot.retSeq + 1 else 1) ∧ j.steps = s.recSteps false j.slotB j.seq) ∧
  (∀ s : State, s.isRunning = true → s.boot.rstLow = false → s.flash.job = none → s.flash.retQ = 0 → s.flash.calQ = true →
    Answers .recordWriteStart s fun t =>
      t = { s with flash := t.flash } ∧ t.flash.calQ = false ∧
      ∃ j, t.flash.job = some (.record j) ∧ j.cal = true ∧ j.slotB = (s.boot.slotCal == 0) ∧
        j.seq = (if s.boot.slotCal = 0 ∨ s.boot.slotCal = 1 then s.boot.calSeq + 1 else 1) ∧ j.steps = s.recSteps true j.slotB j.seq) ∧
  (∀ (s : State) (j : RecJob) (x y : FStep) (r : List FStep), s.flash.job = some (.record j) → j.steps = x :: y :: r →
    Answers .flashOpDone s fun t =>
      t = { s with flash := t.flash, cnts := t.cnts, free := t.free } ∧
      t.flash = { s.flash.stepEffect x with job := some (.record { j with steps := y :: r }) }) ∧
  (∀ (s : State) (j : RecJob) (x : FStep), s.flash.job = some (.record j) → j.steps = [x] →
    Answers .flashOpDone s fun t =>
      t = { s with flash := t.flash, boot := t.boot, cnts := t.cnts, free := t.free } ∧ t.flash.cells = (s.flash.stepEffect x).cells ∧
      t.flash.job = (if s.flash.mbox.isSome then some .mbox else none) ∧
      t.boot = if j.cal then { s.boot with slotCal := if j.slotB then 1 else 0, calSeq := j.seq }
        else { s.boot with slotRet := if j.slotB then 1 else 0, retSeq := j.seq }) ∧
  (∀ (s : State) (j : RecJob), s.Wf → s.flash.job = some (.record j) → (s.fr .loader).mask = 0 → (s.fr .loader).st ≠ .resetting →
    Answers .flashTimeout s fun t =>
      t.boot = s.boot ∧ (t.fr .loader).src.getLsbD 4 = true ∧ t.cells = s.cells ∧
      t.flash.job = (if s.flash.mbox.isSome then some .mbox else none))

/-- REGISTER_WRITE. A misaligned address, or one above every frame, answers BAD_REQUEST and writes nothing; an access to another unit
before RUNNING answers BAD_REQUEST; a register of a unit takes the word (the trap enable of an Awl, the window of the Tack Table, the
enables of the page directory's events), and nothing else changes. MGMT_RSP_TAKEN removes the oldest response. (R24, R35, R50, R383,
R447.) -/
def Obligations.RegisterWrites : Prop :=
  (∀ (s : State) (a v : Word), s.mgOpen = true → (s.fr .mgmt).inj = 0 →
    a.toNat % 4 ≠ 0 ∨ 757 ≤ a.toNat / 4096 ∨ (s.isRunning = false ∧ 0 < a.toNat / 4096 ∧ a.toNat / 4096 < 757) →
    Answers (.registerWrite a v) s fun t =>
      t = { s with mgmt := { s.mgmt with rsp := s.mgmt.rsp ++ [(0, cBAD)] }, cnts := t.cnts, free := t.free }) ∧
  (∀ (s : State) (p : Nat) (a v : Word), s.Wf → p < 136 → s.mgReady (.awl p) → a.toNat = (UnitId.awl p).idx * 4096 + 0x154 →
    Answers (.registerWrite a v) s fun t =>
      t = { s with awls := t.awls, mgmt := { s.mgmt with rsp := s.mgmt.rsp ++ [(0, cOK)] }, cnts := t.cnts, free := t.free } ∧
      t.awl p = { s.awl p with trapEn := v.getLsbD 0 } ∧ ∀ q, q ≠ p → t.awl q = s.awl q) ∧
  (∀ (s : State) (v : Word), s.mgReady .array →
    Answers (.registerWrite 0x110 v) s fun t =>
      t = { s with tack := { s.tack with winSel := v.truncate 16 }, mgmt := { s.mgmt with rsp := s.mgmt.rsp ++ [(0, cOK)] }
                   cnts := t.cnts, free := t.free }) ∧
  (∀ s : State, exec .mgmtRspTaken s = .next { s with mgmt := { s.mgmt with rsp := s.mgmt.rsp.tail } })

/-- READ. A request taken with its tag free becomes a request of the port, and its blocks wait at the channel that serves its slice, or at
the sector network where another slice's channel has them; no other unit changes. One that lies in no window, passes the capacity or
crosses a 2 KiB boundary gets one beat BAD_REQUEST and nothing of it is executed; one whose tag is in use gets an acknowledge BAD_REQUEST
and sets PORT_MISB.dup_tag (the port stage's bit 2). One offered while the port is not ready or holds the class is announced and not
accepted; a port that is not open takes none. (R73, R76, R78, R88, R92, R101, R102, R103.) -/
def Obligations.ReadRequest : Prop :=
  ∀ (s : State) (n : Nat) (tag : BitVec 8) (cls : BitVec 4) (addr : BitVec 42) (len : BitVec 5), s.Wf → n < 128 →
    (s.Offers n cls.toNat false addr.toNat →
      (∀ p off, s.tagUsed n tag.toNat = false → crosses addr.toNat len.toNat = false → s.ownBlock n (addr.toNat * 64) p off →
        Answers (.read n tag cls addr len) s fun t =>
          t = { s with ports := t.ports, ctls := t.ctls, uid := s.uid + 1 } ∧
          (∀ m, m ≠ n → t.port m = s.port m) ∧ (∀ q, q ≠ p → t.ctl q = s.ctl q) ∧
          (∃ r, t.port n =
              { s.port n with askRd := none, rdFree := (s.port n).cyc + len.toNat + 1, tags := (s.port n).tags ++ [r] } ∧
            r.tag = tag.toNat ∧ r.op = 0 ∧ r.cls = cls.toNat ∧ r.len = len.toNat ∧ r.addr = addr.toNat * 64 ∧ r.answered = false) ∧
          (∃ w, t.ctl p = { s.ctl p with inRd := (s.ctl p).inRd ++ [w] } ∧
            w.port = n ∧ w.op = 0 ∧ w.off = off ∧ w.n = len.toNat + 1 ∧ w.cls = cls.toNat ∧ w.inp = 0 ∧ w.lch = s.portLch n)) ∧
      (∀ l off, s.tagUsed n tag.toNat = false → crosses addr.toNat len.toNat = false →
        s.decode (addr.toNat * 64) (s.portLch n) = some (l, off) → l ≠ s.portLch n → secOf (s.portPhys n) < 8 →
        Answers (.read n tag cls addr len) s fun t =>
          t = { s with ports := t.ports, nets := t.nets, uid := s.uid + 1 } ∧
          ∃ w, t.net (secOf (s.portPhys n)) = { s.net (secOf (s.portPhys n)) with msgs := (s.net (secOf (s.portPhys n))).msgs ++ [w] } ∧
            w.port = n ∧ w.op = 0 ∧ w.lch = l ∧ w.off = off ∧ w.n = len.toNat + 1 ∧ w.inp = 1) ∧
      (s.tagUsed n tag.toNat = false →
        crosses addr.toNat len.toNat = true ∨ s.decode (addr.toNat * 64) (s.portLch n) = none →
        Answers (.read n tag cls addr len) s fun t =>
          (t.port n).rsp = (s.port n).rsp ++ [⟨tag.toNat, 0, true, true, cBAD, 0⟩] ∧ t.cells = s.cells ∧ t.nets = s.nets ∧
          (∀ q, (t.ctl q).inRd = (s.ctl q).inRd) ∧ (s.portPhys n < 136 → (t.ctl (s.portPhys n)).misb.getLsbD 5 = true)) ∧
      (s.tagUsed n tag.toNat = true → Answers (.read n tag cls addr len) s fun t =>
        (t.port n).tags = (s.port n).tags ∧ (t.port n).ackQ = (s.port n).ackQ ++ [⟨tag.toNat, cBAD, 0, true⟩] ∧
        (∀ q, (t.ctl q).inRd = (s.ctl q).inRd) ∧ t.cells = s.cells ∧ t.nets = s.nets ∧
        (s.portPhys n < 136 → (t.ctl (s.portPhys n)).misb.getLsbD 2 = true))) ∧
    (s.portTakes n = true → s.rqReady n = false ∨ s.freeToOffer n cls.toNat false addr.toNat = false →
      Answers (.read n tag cls addr len) s fun t =>
        t = { s with ports := t.ports } ∧ (t.port n).askRd = some (cls.toNat, addr.toNat) ∧ (t.port n).tags = (s.port n).tags ∧
        (t.port n).rsp = (s.port n).rsp ∧ (t.port n).ackQ = (s.port n).ackQ) ∧
    (s.portTakes n = false → exec (.read n tag cls addr len) s = .next s)

/-- A burst of 1 to 32 blocks that does not cross a 2 KiB boundary lies in one channel, its blocks one after another; one that crosses is
answered BAD_REQUEST, at the read and at the write channel, and none of its blocks is executed. (R73.) -/
def Obligations.BurstsStayInAStripe : Prop :=
  (∀ (s : State) (g l off i : Nat) (addr : BitVec 42) (len : BitVec 5), crosses addr.toNat len.toNat = false →
    s.decode (addr.toNat * 64) g = some (l, off) → i ≤ len.toNat → s.decode (addr.toNat * 64 + 64 * i) g = some (l, off + 64 * i)) ∧
  (∀ (addr : BitVec 42) (len : BitVec 5), crosses addr.toNat len.toNat = true ↔
    addr.toNat * 64 / 2048 ≠ (addr.toNat * 64 + 64 * (len.toNat + 1) - 1) / 2048) ∧
  (∀ (s : State) (n : Nat) (tag : BitVec 8) (cls : BitVec 4) (addr : BitVec 42) (len : BitVec 5), s.Wf →
    s.Offers n cls.toNat false addr.toNat → s.tagUsed n tag.toNat = false → crosses addr.toNat len.toNat = true →
    Answers (.read n tag cls addr len) s fun t => (t.port n).rsp = (s.port n).rsp ++ [⟨tag.toNat, 0, true, true, cBAD, 0⟩] ∧ t.cells = s.cells ∧
      t.nets = s.nets ∧ ∀ q, (t.ctl q).inRd = (s.ctl q).inRd) ∧
  (∀ (s : State) (c : Instr) (op n : Nat) (h : WHdr) (b : Beat), s.Wf →
    (c, op) ∈ [(.write n h b, opWrite), (.writeMasked n h b, opMasked), (.reduceAdd n h b, opRed), (.reduceAddOrd n h b, opOrd)] →
    s.Offers n h.cls.toNat true h.addr.toNat → (s.port n).openW = none → s.PoolFree n →
    s.tagUsed n h.tag.toNat = false → crosses h.addr.toNat h.len.toNat = true → b.last = true → Answers c s fun t =>
      t.cells = s.cells ∧ t.nets = s.nets ∧ (∀ q, (t.ctl q).inWr = (s.ctl q).inWr) ∧ (t.port n).openW = none ∧
      (t.port n).ackQ = (s.port n).ackQ ++ [⟨h.tag.toNat, cBAD, 0, false⟩])

/-- WRITE, WRITE_MASKED, the atomics, REDUCE_ADD and REDUCE_ADD_ORD, as requests of one block to the own slice. Taken with its tag free,
its header and its beat in order, the request is the port's, booked a slot, and its block waits at the channel that serves the slice;
memory and every other channel and port are as before. With a bad header, a reserved opcode among them, it is answered BAD_REQUEST (on the
channel R81 names) and nothing of it reaches a channel. Offered while the port is not ready or holds the class, it is announced and not
accepted. (R76, R81, R82, R83, R84, R92, R131, R465.) -/
def Obligations.FirstBeat : Prop :=
  ∀ (s : State) (c : Instr) (op n : Nat) (h : WHdr) (b : Beat), s.Wf →
    (c, op) ∈ [(.write n h b, opWrite), (.writeMasked n h b, opMasked), (.atomAdd n h b, opAdd), (.atomMax n h b, opMax), (.atomMin n h b, opMin),
      (.atomSwap n h b, opSwap), (.atomCas n h b, opCas), (.reduceAdd n h b, opRed), (.reduceAddOrd n h b, opOrd)] →
    (s.port n).openW = none →
    (s.Offers n h.cls.toNat true h.addr.toNat → s.PoolFree n → s.tagUsed n h.tag.toNat = false →
      (∀ p off, s.hdrBad (s.portLch n) op h = false → h.len = 0 → b.last = true → chkOk h.chkEn b = true →
        (isAtomic op = true → atomDataBad op h.arg.toNat b.data = false) → s.ownBlock n (h.addr.toNat * 64) p off →
        Answers c s fun t =>
          t = { s with ports := t.ports, ctls := t.ctls, pools := t.pools, cnts := t.cnts, free := t.free, uid := s.uid + 1 } ∧
          (∀ m, m ≠ n → t.port m = s.port m) ∧ (∀ q, q ≠ p → t.ctl q = s.ctl q) ∧
          (t.port n).openW = none ∧ (t.port n).rsp = (s.port n).rsp ∧ (t.port n).ackQ = (s.port n).ackQ ∧
          (∃ r, (t.port n).tags = (s.port n).tags ++ [r] ∧ r.tag = h.tag.toNat ∧ r.op = op ∧ r.cls = h.cls.toNat ∧ r.arg = h.arg.toNat ∧
            r.taken = 1 ∧ r.closed = true ∧ r.answered = false) ∧
          (∃ w, t.ctl p = { s.ctl p with inWr := (s.ctl p).inWr ++ [w] } ∧ w.port = n ∧ w.op = op ∧ w.off = off ∧ w.arg = h.arg.toNat ∧
            w.data = [b.data] ∧ w.slots.length = 1 ∧ (op = opMasked → w.be = b.be))) ∧
      (s.hdrBad (s.portLch n) op h = true → b.last = true → Answers c s fun t =>
        t.cells = s.cells ∧ t.nets = s.nets ∧ (∀ q, (t.ctl q).inWr = (s.ctl q).inWr) ∧ (t.port n).openW = none ∧
        (if onData op h.arg.toNat then (t.port n).rsp = (s.port n).rsp ++ [⟨h.tag.toNat, 0, true, true, cBAD, 0⟩]
         else (t.port n).ackQ = (s.port n).ackQ ++ [⟨h.tag.toNat, cBAD, 0, false⟩]))) ∧
    (n < 128 → s.portTakes n = true → s.wqReady n = false ∨ s.freeToOffer n h.cls.toNat true h.addr.toNat = false →
      Answers c s fun t =>
        t = { s with ports := t.ports } ∧ (t.port n).askWr = some (h.cls.toNat, h.addr.toNat) ∧ (t.port n).tags = (s.port n).tags ∧
        (t.port n).rsp = (s.port n).rsp ∧ (t.port n).ackQ = (s.port n).ackQ)

/-- DOORBELL. With its tag free, its one beat and its header and data in order, and a slot free at an engine in service that has no submission waiting, the
lowest free slot is VALIDATING the Harness at the address given, with the port's logical channel as origin, and the request is answered
OK; with bad data it is answered BAD_REQUEST and no engine changes. (R85, R303, R304, R305.) -/
def Obligations.DoorbellSubmits : Prop :=
  ∀ (s : State) (n : Nat) (h : WHdr) (b : Beat), s.Wf → s.Offers n h.cls.toNat true (2 ^ 42) → (s.port n).openW = none → b.last = true →
    s.tagUsed n h.tag.toNat = false →
    s.hdrBad (s.portLch n) opBell h = false → chkOk h.chkEn b = true →
    (∀ k, s.bellBad (s.portLch n) b.data = false → s.safe.on = false → s.takesSlots (blkGet b.data 8 1 % 8) = true →
      (s.har (blkGet b.data 8 1 % 8)).waitQ = [] → s.freeSlotOf (blkGet b.data 8 1 % 8) = some k →
      Answers (.doorbell n h b) s fun t =>
        (t.slot (blkGet b.data 8 1 % 8) k).st = .validating ∧ (t.slot (blkGet b.data 8 1 % 8) k).addr = blkGet b.data 0 8 ∧
        (t.slot (blkGet b.data 8 1 % 8) k).origin = s.portLch n ∧ (t.slot (blkGet b.data 8 1 % 8) k).subCls = h.cls.toNat ∧
        (t.slot (blkGet b.data 8 1 % 8) k).seq = (s.har (blkGet b.data 8 1 % 8)).seq + 1 ∧
        (∀ j, j ≠ k → t.slot (blkGet b.data 8 1 % 8) j = s.slot (blkGet b.data 8 1 % 8) j) ∧
        (∀ x, x ≠ blkGet b.data 8 1 % 8 → t.har x = s.har x) ∧ t.cells = s.cells ∧
        (t.port n).ackQ = (s.port n).ackQ ++ [⟨h.tag.toNat, cOK, 1, false⟩]) ∧
    (s.bellBad (s.portLch n) b.data = true → Answers (.doorbell n h b) s fun t =>
      t.hars = s.hars ∧ t.cells = s.cells ∧ (t.port n).ackQ = (s.port n).ackQ ++ [⟨h.tag.toNat, cBAD, 0, false⟩])

/-- WRITE_BEAT and GAP_CUT. A beat that follows a request's beats and passes its check hands its block to the own channel; one offered
while the direction is not ready, as after its burst lost the grant, is not taken; a beat with no request open is discarded and sets
PORT_MISB.orphan_beat, once for the run of them. A gap of 17 cycles while the port has the grant ends the open request with BAD_REQUEST and
sets PORT_MISB.gap_cut. (R79, R80, R94, R101, R464, R465.) -/
def Obligations.LaterBeats : Prop :=
  (∀ (s : State) (n p off : Nat) (b : Beat) (w : OpenW) (r : Req), s.Wf → n < 128 → s.wqReady n = true → (s.port n).openW = some w →
    s.reqOf n w.uid = some r → w.dead = false → chkOk w.chkEn b = true → collects w.op w.chkEn = false → b.last = false → w.beats < w.len →
    (s.fr (.pool (secOf (s.portPhys n)))).inj = 0 → s.ownBlock n (r.addr + 64 * r.taken) p off → r.op ≠ 0 →
    Answers (.writeBeat n b) s fun t =>
      t = { s with ports := t.ports, ctls := t.ctls } ∧ (∀ m, m ≠ n → t.port m = s.port m) ∧ (∀ q, q ≠ p → t.ctl q = s.ctl q) ∧
      (t.port n).openW = some { w with beats := w.beats + 1 } ∧
      ∃ v, t.ctl p = { s.ctl p with inWr := (s.ctl p).inWr ++ [v] } ∧ v.uid = w.uid ∧ v.op = r.op ∧ v.off = off ∧ v.idx = r.taken ∧
        v.data = [b.data] ∧ v.be = b.be) ∧
  (∀ (s : State) (n : Nat) (b : Beat), s.Wf → n < 128 → s.portTakes n = true → s.wqReady n = false → Answers (.writeBeat n b) s fun t =>
    t = { s with ports := t.ports } ∧ (t.port n).openW = (s.port n).openW ∧ (t.port n).tags = (s.port n).tags) ∧
  (∀ (s : State) (n : Nat) (b : Beat), s.Wf → n < 128 → s.wqReady n = true → (s.port n).openW = none → Answers (.writeBeat n b) s fun t =>
      t = { s with ports := t.ports, ctls := t.ctls } ∧
      t.port n = { s.port n with askWr := none, wrFree := (s.port n).cyc + 1, orphan := true } ∧ (∀ m, m ≠ n → t.port m = s.port m) ∧
      ((s.port n).orphan = true → t.ctls = s.ctls) ∧
      ((s.port n).orphan = false → s.portPhys n < 136 → (t.ctl (s.portPhys n)).misb = (s.ctl (s.portPhys n)).misb ||| 8)) ∧
  (∀ (s : State) (n : Nat) (w : OpenW) (r : Req), s.Wf → n < 128 → s.hasGrant n true = true → (s.port n).openW = some w →
    w.dead = false → w.blocks = [] → s.reqOf n w.uid = some r → r.failed = false → r.answered = false → r.remote = false →
    r.doneN = r.taken → onData r.op r.arg = false → s.portPhys n < 136 → Answers (.gapCut n) s fun t =>
      (t.port n).openW = none ∧ (t.port n).ackQ = (s.port n).ackQ ++ [⟨r.tag, cBAD, r.doneN, false⟩] ∧
      (t.ctl (s.portPhys n)).misb.getLsbD 0 = true ∧ t.cells = s.cells)

/-- RSP_BEAT_TAKEN takes the beat at the front of the response queue and ends a stall; with the last beat of a request its tag is free.
RSP_STALL, while a beat is offered, sets PORT_MISB.rsp_stall and holds every class of the port. NETWORK_MESSAGE moves the message that its
output's arbiter grants: at its own sector a request to the channel that serves its logical channel and a response to its port, elsewhere
one that travels, or a response, to the next sector on its way. RING_RESERVE reserves a slot for a sector with a message for another. ARBITER_CUTOFF sets
the input's sticky bit, takes the request that waits first at the input away and ends a read so taken BAD_REQUEST; at a port's write input
it ends the open request. With nothing waiting at a port's input it does nothing. (R78, R90, R97, R101, R106, R107, R136, R139, R140,
R142.) -/
def Obligations.ResponsesAndNetwork : Prop :=
  ((∀ (s : State) (n : Nat) (b : RspBeat) (l : List RspBeat), s.Wf → n < 128 → s.portReset n = false → (s.port n).rsp = b :: l →
    Answers (.rspBeatTaken n) s fun t =>
      (t.port n).rsp = l ∧ (t.port n).stalled = false ∧ Hold.stall ∉ (t.port n).holds ∧ t.cells = s.cells ∧
      (∀ m, m ≠ n → t.port m = s.port m) ∧
      (∀ r, (s.port n).tags.find? (fun r => r.tag == b.tag) = some r → b.last = true →
        (t.port n).tags = (s.port n).tags.filter fun q => q.uid != r.uid)) ∧
  (∀ (s : State) (n : Nat), s.Wf → n < 128 → (s.port n).rsp ≠ [] → Answers (.rspStall n) s fun t =>
    t = { s with ports := t.ports, ctls := t.ctls } ∧ (t.port n).stalled = true ∧ Hold.stall ∈ (t.port n).holds ∧
    (t.port n).rsp = (s.port n).rsp ∧ (s.allFenced n = false → t.holdBits n = 0xFFFF) ∧
    (s.portPhys n < 136 → (t.ctl (s.portPhys n)).misb.getLsbD 1 = true))) ∧
  ((∀ (s : State) (x p : Nat) (w : Work) (l : List Work), s.Wf → x < 8 → (s.net x).msgs = w :: l →
    s.msgPick x (s.msgOut x w) = some 0 → (s.fr (.network x)).inj = 0 → s.msgDst w = x → w.ans = none → s.serving w.lch = some p →
    Answers (.networkMessage x 0) s fun t =>
      t = { s with nets := t.nets, ctls := t.ctls, cnts := t.cnts, free := t.free } ∧ (t.net x).msgs = l ∧
      (∀ y, y ≠ x → t.net y = s.net y) ∧ (∀ q, q ≠ p → t.ctl q = s.ctl q) ∧
      (p < 136 → t.ctl p = if w.op = 0 then { s.ctl p with inRd := (s.ctl p).inRd ++ [w] } else { s.ctl p with inWr := (s.ctl p).inWr ++ [w] })) ∧
  (∀ (s : State) (x : Nat) (w : Work) (l : List Work), s.Wf → x < 8 → (s.net x).msgs = w :: l →
    s.msgPick x (s.msgOut x w) = some 0 → (s.fr (.network x)).inj = 0 → s.msgDst w = x → w.ans ≠ none → w.port < 128 →
    (s.reqOf w.port w.uid).isSome = true → Answers (.networkMessage x 0) s fun t =>
      t = { s with nets := t.nets, ctls := t.ctls, ports := t.ports, cnts := t.cnts, free := t.free } ∧ (t.net x).msgs = l ∧
      (∀ b, w.ans = some (.beat b) → t.port w.port = { s.port w.port with rsp := (s.port w.port).rsp ++ [b] }) ∧
      (∀ a, w.ans = some (.ack a) → t.port w.port = { s.port w.port with ackQ := (s.port w.port).ackQ ++ [a] }) ∧
      ∀ m, m ≠ w.port → t.port m = s.port m) ∧
  (∀ (s : State) (x : Nat) (w : Work) (l : List Work), s.Wf → x < 8 → (s.net x).msgs = w :: l →
    s.msgPick x (s.msgOut x w) = some 0 → (s.fr (.network x)).inj = 0 → s.msgDst w ≠ x → s.msgDst w < 8 →
    s.msgSrc w ≠ x ∨ w.ans ≠ none → Answers (.networkMessage x 0) s fun t =>
      t = { s with nets := t.nets, cnts := t.cnts, free := t.free } ∧ (t.net x).msgs = l ∧
      (t.net (ringNext x (s.msgDst w))).msgs = (s.net (ringNext x (s.msgDst w))).msgs ++ [w])) ∧
  (∀ (s : State) (x : Nat), s.Wf → x < 8 → (∃ w ∈ (s.net x).msgs, s.msgSrc w = x ∧ s.msgDst w ≠ x) → Answers (.ringReserve x) s fun t =>
    t = { s with nets := t.nets, cnts := t.cnts, free := t.free } ∧ t.net x = { s.net x with reserved := true } ∧
    ∀ y, y ≠ x → t.net y = s.net y) ∧
  ((∀ (s : State) (x bit : Nat), s.Wf → x < 8 → bit < 18 → Answers (.arbiterCutoff (.net x bit)) s fun t =>
    t.cells = s.cells ∧ (t.net x).arbMisb = (s.net x).arbMisb ||| ((1 : BitVec 18) <<< bit) ∧ ((s.net x).msgs = [] → t = { s with nets := t.nets }) ∧
    ∀ w r, (s.net x).msgs.find? (fun w => w.ans.isNone && (if s.msgSrc w = x then s.msgFrom w == bit else bit == 17)) = some w →
      w ∉ (t.net x).msgs ∧ (w.port < 128 → w.op = 0 → s.reqOf w.port w.uid = some r → r.answered = false →
        ∃ r', t.reqOf w.port w.uid = some r' ∧ r'.answered = true ∧ r'.code = cBAD)) ∧
  (∀ (s : State) (p bit : Nat), s.Wf → p < 136 → bit < 5 → Answers (.arbiterCutoff (.ctl p bit)) s fun t =>
    t.cells = s.cells ∧ (t.ctl p).arbMisb = (s.ctl p).arbMisb ||| ((1 : BitVec 5) <<< bit) ∧
    ((s.ctl p).inRd = [] → (s.ctl p).inWr = [] → t = { s with ctls := t.ctls }) ∧
    ∀ w, (if bit = 1 ∨ bit = 3 then (s.ctl p).inWr else (s.ctl p).inRd).find?
        (fun w => w.inp == if bit < 2 then 2 else if bit < 4 then 1 else 5) = some w →
      w ∉ (if bit = 1 ∨ bit = 3 then (t.ctl p).inWr else (t.ctl p).inRd) ∧
      ∀ r, w.inp < 4 → w.port < 128 → w.op = 0 → s.reqOf w.port w.uid = some r → r.answered = false →
        ∃ r', t.reqOf w.port w.uid = some r' ∧ r'.answered = true ∧ r'.code = cBAD) ∧
  (∀ (s : State) (n : Nat), n < 128 → s.portPhys n < 136 → s.Wf → (s.port n).openW ≠ none → Answers (.arbiterCutoff (.port n true)) s fun t =>
    (t.port n).openW = none ∧ (t.ctl (s.portPhys n)).misb.getLsbD 0 = true) ∧
  (∀ (s : State) (n : Nat) (w : Work) (r : Req), n < 128 → s.portPhys n < 136 → s.Wf →
    (s.ctl (s.portPhys n)).inRd.find? (fun w => w.inp == 0 && w.port == n) = some w → w.op = 0 → s.reqOf n w.uid = some r →
    r.answered = false → r.remote = false → r.op = 0 → Answers (.arbiterCutoff (.port n false)) s fun t =>
      w ∉ (t.ctl (s.portPhys n)).inRd ∧ (t.port n).rsp = (s.port n).rsp ++ [⟨r.tag, r.sent, true, true, cBAD, 0⟩] ∧
      (t.ctl (s.portPhys n)).misb.getLsbD 0 = true) ∧
  (∀ (s : State) (n : Nat), n < 128 →
    ((s.port n).openW = none → exec (.arbiterCutoff (.port n true)) s = .next s) ∧
    ((∀ w ∈ (s.ctl (s.portPhys n)).inRd, w.inp = 0 → w.port ≠ n) → exec (.arbiterCutoff (.port n false)) s = .next s)))

/-- SCHEDULER_CYCLE. A controller that may not issue (frozen, in self-refresh, in reset) issues nothing: its queues, banks and memory
stand, its cycle counter and its port's advance, and the port's next acknowledge is presented. One that may issue, with one read waiting
alone and ready, sends the read's column command: the entry leaves the queue and its block is in flight with the stored data. (R90, R146,
R148, R154, R170.) -/
def Obligations.SchedulerCycle : Prop :=
  (∀ (s : State) (p : Nat), s.Wf → p < 136 → s.canIssue p = false → Answers (.schedulerCycle p) s fun t =>
    (t.ctl p).cyc = (s.ctl p).cyc + 1 ∧ (t.ctl p).rdQ = (s.ctl p).rdQ ∧ (t.ctl p).wrQ = (s.ctl p).wrQ ∧ (t.ctl p).inRd = (s.ctl p).inRd ∧
    (t.ctl p).inWr = (s.ctl p).inWr ∧ (t.ctl p).flight = (s.ctl p).flight ∧ (t.ctl p).banks = (s.ctl p).banks ∧ t.cells = s.cells ∧
    (∀ q, q ≠ p → t.ctl q = s.ctl q) ∧
    (∀ n, s.portAt p = some n → n < 128 → (t.port n).cyc = (s.port n).cyc + 1 ∧
      ∀ a l, s.portReset n = false → (s.port n).ackQ = a :: l → (t.port n).ackPin = some a ∧ (t.port n).ackQ = l)) ∧
  (∀ (s : State) (p : Nat) (e : Entry), s.Wf → p < 136 → s.canIssue p = true → s.unarmed (.ctl p) → (s.sec (secOf p)).sp ≠ .copy → s.seq.range.busy = false →
    (s.ctl p).rdQ = [e] → (s.ctl p).wrQ = [] → (s.ctl p).comb = [] → (s.ctl p).fills = [] → (s.ctl p).inRd = [] → (s.ctl p).inWr = [] →
    (s.ctl p).ordRun = [] → s.rdReady p e = true → s.blackout p 2 = false → s.fresh p e.off = 1 → Answers (.schedulerCycle p) s fun t =>
    (t.ctl p).cyc = (s.ctl p).cyc + 1 ∧ (t.ctl p).rdQ = [] ∧
    (t.ctl p).flight = (s.ctl p).flight ++ [{ e with data := s.stored p e.off, ue := s.isBad p e.off }] ∧ t.cells = s.cells)

/-- The bank states' timers: when its time has passed since the command, OPENING becomes OPEN, CLOSING becomes CLOSED, REFRESHING becomes
CLOSED, and no other bank changes; before it nothing does. HIT_LIMIT closes an open row to further hits once 16 column commands in a row
have gone to it while an older entry waits for another row of the bank. IDLE_ROW_CLOSE precharges, in a free row slot, an open row that no
entry wants and no column command has used for 32 cycles. (R147, R148, R150, R151, R153.) -/
def Obligations.BankTimers : Prop :=
  (∀ (s : State) (p k : Nat) (c : Instr) (a b : BankSt), s.Wf → p < 136 → k < 16 * s.hides → (s.ctl p).frozen = false →
    (c, a, b) ∈ [(.bankOpeningDone p k, .opening, .opn), (.bankClosingDone p k, .closing, .closed), (.bankRefreshDone p k, .refreshing, .closed)] →
    ((s.ctl p).bk k).st = a →
    (s.bankPast p k = true → Answers c s fun t =>
      t = { s with ctls := t.ctls } ∧ t.ctl p = { s.ctl p with banks := (t.ctl p).banks } ∧
      (t.ctl p).bk k = { (s.ctl p).bk k with st := b } ∧ (∀ j, j ≠ k → (t.ctl p).bk j = (s.ctl p).bk j) ∧ ∀ q, q ≠ p → t.ctl q = s.ctl q) ∧
    (s.bankPast p k = false → exec c s = .next s)) ∧
  (∀ (s : State) (p k : Nat) (e : Entry), s.Wf → p < 136 → k < 16 * s.hides → (s.ctl p).frozen = false → ((s.ctl p).bk k).st = .opn →
    16 ≤ ((s.ctl p).bk k).hits → e ∈ (s.ctl p).rdQ ++ (s.ctl p).wrQ → e.ord < ((s.ctl p).bk k).ordLast → (s.place p e.off).key = k →
    (s.place p e.off).row ≠ ((s.ctl p).bk k).row → Answers (.hitLimit p k) s fun t =>
      t = { s with ctls := t.ctls } ∧ (t.ctl p).bk k = { (s.ctl p).bk k with noHit := true } ∧ (∀ j, j ≠ k → (t.ctl p).bk j = (s.ctl p).bk j) ∧
      t.ctl p = { s.ctl p with banks := (t.ctl p).banks } ∧ ∀ q, q ≠ p → t.ctl q = s.ctl q) ∧
  (∀ (s : State) (p k : Nat), s.Wf → p < 136 → k < 16 * s.hides → s.rowFree p = true → s.preOk p k = true → s.rowWanted p k = false →
    (∀ n ∈ [((s.ctl p).bk k).tRd, ((s.ctl p).bk k).tWr, ((s.ctl p).bk k).tAct], since (s.ctl p).cyc n 32 = true) →
    Answers (.idleRowClose p k) s fun t =>
      t = { s with ctls := t.ctls, cnts := t.cnts, free := t.free } ∧
      (t.ctl p).bk k = { (s.ctl p).bk k with st := .closing, tPre := (s.ctl p).cyc + 1 } ∧
      (∀ j, j ≠ k → (t.ctl p).bk j = (s.ctl p).bk j) ∧ (∀ q, q ≠ p → t.ctl q = s.ctl q) ∧
      t.ctl p = { s.ctl p with banks := (t.ctl p).banks, hideIdle := (t.ctl p).hideIdle, rowUsed := true,
                               lastRow := rowWord 2 (k / 16) (k % 16) 0 false })

/-- The controller's other timers, each with the one thing it changes: ENTRY_AGED marks the entry, TIER4_WAIT_LIMIT has the tier-4 input
of its direction count as waiting 64 cycles, TRR_LIMIT puts a targeted refresh at its limit; a frozen controller's entries and refreshes
stand. POWER_DOWN_ENTRY powers a closed and idle layer-bank down in a free row slot; ZERO_FILL_DONE ends a fill of which all 256 blocks are
written, and only such; COMBINE_WRITEBACK moves a buffered block to the write queue, with a slot of its own. (R136, R148, R156, R157, R159,
R167, R170.) -/
def Obligations.ChannelTimers : Prop :=
  (∀ (s : State) (p i : Nat) (e : Entry), s.Wf → p < 136 → (s.ctl p).frozen = false →
    ((s.ctl p).wrQ[i]? = some e → Answers (.entryAged p true i) s fun t =>
      t = { s with ctls := t.ctls } ∧ (t.ctl p).wrQ[i]? = some { e with aged := true } ∧
      t.ctl p = { s.ctl p with wrQ := (t.ctl p).wrQ } ∧
      (∀ j, j ≠ i → (t.ctl p).wrQ[j]? = (s.ctl p).wrQ[j]?) ∧ ∀ q, q ≠ p → t.ctl q = s.ctl q) ∧
    ((s.ctl p).rdQ[i]? = some e → Answers (.entryAged p false i) s fun t =>
      t = { s with ctls := t.ctls } ∧ (t.ctl p).rdQ[i]? = some { e with aged := true } ∧
      t.ctl p = { s.ctl p with rdQ := (t.ctl p).rdQ } ∧
      (∀ j, j ≠ i → (t.ctl p).rdQ[j]? = (s.ctl p).rdQ[j]?) ∧ ∀ q, q ≠ p → t.ctl q = s.ctl q)) ∧
  (∀ (s : State) (p i : Nat) (w : Work), s.Wf → p < 136 → 4 ≤ w.inp →
    ((s.ctl p).inRd[i]? = some w → Answers (.tier4WaitLimit p false i) s fun t =>
      t = { s with ctls := t.ctls } ∧ t.ctl p = { s.ctl p with rd := { (s.ctl p).rd with wait4 := 64 } } ∧ ∀ q, q ≠ p → t.ctl q = s.ctl q) ∧
    ((s.ctl p).inWr[i]? = some w → Answers (.tier4WaitLimit p true i) s fun t =>
      t = { s with ctls := t.ctls } ∧ t.ctl p = { s.ctl p with wr := { (s.ctl p).wr with wait4 := 64 } } ∧ ∀ q, q ≠ p → t.ctl q = s.ctl q)) ∧
  (∀ (s : State) (p i : Nat) (k : Trr), s.Wf → p < 136 → (s.cur p).trr[i]? = some k → k.selfRow = false → (s.ctl p).frozen = false →
    Answers (.trrLimit p i) s fun t =>
      t = { s with curs := t.curs } ∧ (t.cur p).trr[i]? = some { k with limit := true } ∧
      (∀ j, j ≠ i → (t.cur p).trr[j]? = (s.cur p).trr[j]?) ∧ ∀ q, q ≠ p → t.cur q = s.cur q) ∧
  (∀ (s : State) (p i : Nat) (w : Bool), s.Wf → p < 136 → (s.ctl p).frozen = true →
    (Answers (.entryAged p w i) s fun t => ∀ q, t.ctl q = s.ctl q) ∧ exec (.trrLimit p i) s = .next s) ∧
  (∀ (s : State) (p h : Nat), s.Wf → p < 136 → s.img.policy.pdIdle ≠ 0 → h < s.hides → h < 8 → s.rowFree p = true →
    (s.ctl p).pd.getLsbD h = false → (∀ b < 16, ((s.ctl p).bk (16 * h + b)).st = .closed) →
    since (s.ctl p).cyc (smGet 0 (s.ctl p).hideIdle h) s.img.policy.pdIdle = true →
    (∀ e ∈ (s.ctl p).rdQ ++ (s.ctl p).wrQ ++ (s.ctl p).running.map Fill.entry, s.isLent p e.off = true ∨ (s.place p e.off).hide ≠ h) →
    Answers (.powerDownEntry p h) s fun t =>
      t = { s with ctls := t.ctls } ∧ (t.ctl p).pd.getLsbD h = true ∧ (∀ j, j ≠ h → (t.ctl p).pd.getLsbD j = (s.ctl p).pd.getLsbD j) ∧
      t.ctl p = { s.ctl p with pd := (t.ctl p).pd, rowUsed := true, lastRow := pdWord 5 false (2 ^ h) } ∧ ∀ q, q ≠ p → t.ctl q = s.ctl q) ∧
  (∀ (s : State) (p g : Nat) (f : Fill), s.Wf → p < 136 → s.canIssue p = true → ((s.ctl p).fills.take 4).find? (fun f => f.gran == g) = some f →
    (256 ≤ f.k → Answers (.zeroFillDone p g) s fun t =>
      t = { s with ctls := t.ctls, pools := t.pools } ∧ t.ctl p = { s.ctl p with fills := (s.ctl p).fills.filter fun f => f.gran != g } ∧
      (f.slot = none → t.pools = s.pools) ∧ ∀ q, q ≠ p → t.ctl q = s.ctl q) ∧
    (f.k < 256 → exec (.zeroFillDone p g) s = .next s)) ∧
  (∀ (s : State) (p i : Nat) (e : Comb) (v : Block), s.Wf → p < 136 → s.canIssue p = true → s.backOk p = true →
    (s.ctl p).comb[i]? = some e → (s.ctl p).comb.find? (fun f => f.off == e.off) = some e → e.val = some v → e.pend = [] →
    Answers (.combineWriteback p i) s fun t =>
      t = { s with ctls := t.ctls, pools := t.pools } ∧ (t.ctl p).comb = (s.ctl p).comb.filter (fun f => f.off != e.off) ∧
      (∃ w, (t.ctl p).wrQ = (s.ctl p).wrQ ++ [w] ∧ w.off = e.off ∧ w.data = v ∧ w.ord = (s.ctl p).nextOrd ∧ w.root = some e.ord ∧
        w.slots.length = e.slots.length + 1) ∧ ∀ q, q ≠ p → t.ctl q = s.ctl q)

/-- An entry of the scheduler queues that has stayed for 100 µs latches SCHED_STALL and the controller freezes; a Hide's alert latches
LINK_CA and freezes it, with the alert and the Hide's ca_err bit recorded; a row penalty ends at its port, or at the Awl or mover channel
it held. ORD_TIMEOUT ends an open ordered group with every waiting contribution REDUCTION_INCOMPLETE and records where it stood. (R152,
R165, R168, R169, R170, R179.) -/
def Obligations.ChannelFaults : Prop :=
  (∀ (s : State) (p : Nat), s.Wf → p < 136 → s.canIssue p = true → s.unarmed (.ctl p) → ¬ ((s.ctl p).rdQ = [] ∧ (s.ctl p).wrQ = []) →
    exec (.schedStall p) s = .next (s.ctlFault p 6) ∧ ((s.ctlFault p 6).ctl p).frozen = true ∧ ((s.ctlFault p 6).ctl p).frzSrc = 6) ∧
  (∀ (s : State) (p h : Nat), p < 136 → h < s.hides → s.chFenced p = false → (s.ctl p).unpowered = false → s.unarmed (.ctl p) →
    exec (.hideAlert p h) s = .next ((s.onLink p fun l => { l with
      alert := l.alert ||| ((1 : BitVec 8) <<< h), mr := smSet 0 l.mr (256 * h + 3) (smGet 0 l.mr (256 * h + 3) ||| 1) }).ctlFault p 2)) ∧
  (∀ (s : State) (r : BitVec 9), s.Wf →
    (r.toNat < 128 → Answers (.rhPenaltyEnd r) s fun t =>
      t = { s with ports := t.ports } ∧ (t.port r.toNat).holds = (s.port r.toNat).holds.filter (· != .rowPenalty) ∧
      ∀ n, n ≠ r.toNat → t.port n = s.port n) ∧
    (128 ≤ r.toNat → exec (.rhPenaltyEnd r) s = .next { s with rhHeld := s.rhHeld.filter (· != r.toNat) })) ∧
  (∀ (s : State) (p g : Nat) (k : OGroup) (c : Contrib), s.Wf → p < 136 → (s.ctl p).groups[g]? = some k → k.waiting = [c] → (s.ctl p).frozen = false →
    (s.ctl p).ordRun = [] → (s.ctl p).ordWait = [] → Answers (.ordTimeout p g) s fun t =>
      t.cells = s.cells ∧ (t.ctl p).groups = (s.ctl p).groups.filter (fun h => h.key != k.key) ∧ (t.ctl p).ordEvent = true ∧
      (t.ctl p).ordLastNext = BitVec.ofNat 8 k.next ∧ (t.ctl p).ordLastCount = BitVec.ofNat 8 k.count ∧
      (∀ r, c.port < 128 → s.reqOf c.port c.uid = some r → r.answered = false → r.remote = false → onData r.op r.arg = false →
        (t.port c.port).ackQ = (s.port c.port).ackQ ++ [⟨r.tag, cINCOMPLETE, r.doneN, false⟩]))

/-- READ_BURST_RETURN. A clean block goes to the request that reads it. A codeword with one to three symbols in error, no erasure, is
corrected: the data goes out, the corrected blocks and symbols are counted, and from two symbols on a write-back is queued. One with more
symbols in error than the code corrects, and no more than it detects, answers the block poisoned with no data, counts an uncorrectable error
and leaves the block marked so. A framing failure freezes the controller with LINK_RD, with a burst due or without one. CE_COMMIT logs a
coalescing entry and removes it. (R175, R177, R234, R235, R236, R240, R247, R248, R249.) -/
def Obligations.BurstReturns : Prop :=
  (∀ (s : State) (p : Nat) (e : Entry) (l : List Entry) (r : Req) (edge : List Int), s.Wf → p < 136 → (s.ctl p).frozen = false →
    s.unarmed (.ctl p) → (s.ctl p).flight = e :: l → s.isLent p e.off = false → e.op = 0 → e.inp < 4 → e.ue = false → e.port < 128 →
    e.slots = [] → s.reqOf e.port e.uid = some r → r.got = [] → r.sent = e.idx → r.answered = false → r.remote = false → r.poison = false →
    Answers (.readBurstReturn p true ⟨[], edge⟩) s fun t =>
      t = { s with ctls := t.ctls, ports := t.ports, links := t.links } ∧ t.ctl p = { s.ctl p with flight := l, ueRun := [] } ∧
      (t.port e.port).rsp = (s.port e.port).rsp ++ [⟨r.tag, e.idx, e.idx == r.len, false, cOK, e.data⟩] ∧
      (∀ n, n ≠ e.port → t.port n = s.port n) ∧ ∀ q, q ≠ p → t.link q = s.link q) ∧
  (∀ (s : State) (p : Nat) (e : Entry) (l : List Entry) (r : Req) (errs : SymErrs) (edge : List Int), s.Wf → p < 136 →
    (s.ctl p).frozen = false → s.unarmed (.ctl p) → (s.ctl p).flight = e :: l → s.isLent p e.off = false → e.op = 0 → e.inp < 4 →
    e.port < 128 → s.reqOf e.port e.uid = some r → r.got = [] → r.sent = e.idx → r.answered = false → r.remote = false → r.poison = false →
    (s.link p).erased = [] → (errs.map (·.1)).Nodup → (∀ x ∈ errs, x.1 < 72 ∧ x.2 ≠ 0) → s.superseded p e = false →
    (errs ≠ [] → errs.length ≤ 3 → e.ue = false → Answers (.readBurstReturn p true ⟨errs, edge⟩) s fun t =>
      (t.ctl p).eccCe = satAdd (s.ctl p).eccCe 1 ∧ (t.ctl p).eccSym = satAdd (s.ctl p).eccSym errs.length ∧ t.bad = s.bad ∧
      t.cells = s.cells ∧ (t.ctl p).flight = l ∧
      (t.cur p).wbQ = (if 2 ≤ errs.length then (s.cur p).wbQ.filter (fun f => f.1 != e.off) ++ [(e.off, e.data)] else (s.cur p).wbQ) ∧
      (t.port e.port).rsp = (s.port e.port).rsp ++ [⟨r.tag, e.idx, e.idx == r.len, false, cOK, e.data⟩]) ∧
    (4 ≤ errs.length → errs.length ≤ 5 → (s.ctl p).ueRun = [] → Answers (.readBurstReturn p true ⟨errs, edge⟩) s fun t =>
      (t.ctl p).eccUe = satAdd (s.ctl p).eccUe 1 ∧ t.isBad p e.off = true ∧ t.cells = s.cells ∧ (t.ctl p).flight = l ∧
      (t.ctl p).wrQ = (s.ctl p).wrQ ∧ (t.cur p).wbQ = (s.cur p).wbQ ∧
      (t.port e.port).rsp = (s.port e.port).rsp ++ [⟨r.tag, e.idx, e.idx == r.len, true, if e.idx == r.len then cPOISON else cOK, 0⟩])) ∧
  (∀ (s : State) (p : Nat) (e : Entry) (l : List Entry) (errs : SymErrs) (edge : List Int), p < 136 → (s.ctl p).frozen = false →
    s.unarmed (.ctl p) → (s.ctl p).flight = e :: l → s.isLent p e.off = false →
    exec (.readBurstReturn p false ⟨errs, edge⟩) s = .next (s.ctlFault p 3)) ∧
  (∀ (s : State) (p : Nat) (errs : SymErrs) (edge : List Int), p < 136 → (s.ctl p).frozen = false → s.unarmed (.ctl p) →
    (s.ctl p).flight = [] → (s.link p).st ≠ .off → s.chFenced p = false →
    exec (.readBurstReturn p false ⟨errs, edge⟩) s = .next (s.ctlFault p 3) ∧ exec (.readBurstReturn p true ⟨errs, edge⟩) s = .next s) ∧
  (∀ (s : State) (p i : Nat) (c : Coal), s.Wf → p < 136 → (s.ctl p).coal[i]? = some c → s.mgmt.elog.length < 960 → Answers (.ceCommit p i) s fun t =>
    t = { s with ctls := t.ctls, mgmt := t.mgmt, cnts := t.cnts, free := t.free } ∧ (t.ctl p).coal = (s.ctl p).coal.eraseIdx i ∧
    ∃ w, t.mgmt.elog = s.mgmt.elog ++ [w] ∧ w.length = 8 ∧ w.headD 0 = s.mgmt.elogNext ∧ t.mgmt.elogNext = seqNext s.mgmt.elogNext)

/-- REGULATION_PERIOD_START begins a period at the channel: no class has used anything in either direction, and the scales are those of
the capacity available. POOL_SCALE_UPDATE sets the pool's scale, and GUARANTEE_SHORT when it changes. (R120, R121, R122, R128, R130.) -/
def Obligations.Regulation : Prop :=
  (∀ (s : State) (p : Nat), s.Wf → s.isRunning = true → p < 136 → Answers (.regulationPeriodStart p) s fun t =>
    t = { s with ctls := t.ctls, ports := t.ports } ∧ (t.ctl p).rd.used = List.replicate 16 0 ∧ (t.ctl p).wr.used = List.replicate 16 0 ∧
    (t.ctl p).rd.phi = scaleOf (s.ctl p).rd.avail (s.img.sumShares (·.rdShare)) (ceil15 (s.img.cls 15).rdCeil) ∧
    (t.ctl p).wr.phi = scaleOf (s.ctl p).wr.avail (s.img.sumShares (·.wrShare)) (ceil15 (s.img.cls 15).wrCeil) ∧
    (t.ctl p).rd.tok = (s.ctl p).rd.tok ∧ (t.ctl p).rdQ = (s.ctl p).rdQ ∧ (t.ctl p).inRd = (s.ctl p).inRd ∧
    (∀ q, q ≠ p → t.ctl q = s.ctl q) ∧ ∀ n, (t.port n).tags = (s.port n).tags ∧ (t.port n).rsp = (s.port n).rsp) ∧
  (∀ (s : State) (x : Nat), s.Wf → s.isRunning = true → x < 8 → Answers (.poolScaleUpdate x) s fun t =>
    t = { s with pools := t.pools } ∧ (∀ y, y ≠ x → t.pool y = s.pool y) ∧
    (t.pool x).phi = scaleOf (1024 * (24064 - (s.pool x).lost) / 24064) (s.img.sumShares (·.poolShare)) (ceil15 (s.img.cls 15).poolCeil) ∧
    t.pool x = { s.pool x with phi := (t.pool x).phi, event := (s.pool x).event || decide ((t.pool x).phi ≠ (s.pool x).phi) })

/-- MIGRATION_START and MIGRATION_CANCEL. With the key, start begins COPY of the position named from granule 0 at a sector in STANDBY, the
spare's fresh map all unwritten, and ends BAD_REQUEST at once for a position fenced or a hole; cancel ends COPY ABORTED with the spare back
in STANDBY. With another key, with both bits, or a start while a copy or a flip is under way, the write is ignored and sets ctrl_rej. (R110,
R112, R118.) -/
def Obligations.MigrationCommands : Prop :=
  (∀ (s : State) (x : Nat) (v : Word), s.Wf → x < 8 → s.mgReady (.sector x) → bitN v.toNat 4 = true → bitN v.toNat 5 = false → keyed v = true →
    (s.sec x).sp = .standby →
    ((s.sec x).fenced.getLsbD (fld v 0 4) = false → (s.sec x).hole.getLsbD (fld v 0 4) = false → s.borrower x = none →
      Answers (.migrationStart x v) s fun t =>
        t.sec x = { s.sec x with sp := .copy, pos := BitVec.ofNat 4 (fld v 0 4), copyAt := 0, copySub := 0, copyGot := 0, copyT := 0
                                 ctrlPos := BitVec.ofNat 4 (fld v 0 4), irqEn := bitN v.toNat 6 } ∧
        (∀ y, y ≠ x → t.sec y = s.sec y) ∧ t.ctl (spareOf x) = { s.ctl (spareOf x) with fresh := [] } ∧
        (∀ q, q ≠ spareOf x → t.ctl q = s.ctl q) ∧ t.cells = s.cells ∧ s.granted t) ∧
    ((s.sec x).fenced.getLsbD (fld v 0 4) = true ∨ (s.sec x).hole.getLsbD (fld v 0 4) = true → Answers (.migrationStart x v) s fun t =>
        t.sec x = { s.sec x with pos := BitVec.ofNat 4 (fld v 0 4), code := cBAD, done := true
                                 ctrlPos := BitVec.ofNat 4 (fld v 0 4), irqEn := bitN v.toNat 6 } ∧
        (∀ y, y ≠ x → t.sec y = s.sec y) ∧ t.ctls = s.ctls ∧ s.granted t)) ∧
  (∀ (s : State) (x : Nat) (v : Word), s.Wf → x < 8 → s.mgReady (.sector x) → bitN v.toNat 4 = false → bitN v.toNat 5 = true → keyed v = true →
    (s.sec x).sp = .copy → (∀ e ∈ (s.ctl (17 * x + (s.sec x).pos.toNat)).wrQ, e.held = false) → Answers (.migrationCancel x v) s fun t =>
      t.sec x = { s.sec x with sp := .standby, code := cABORTED, done := true, copySub := 0, copyGot := 0
                               ctrlPos := BitVec.ofNat 4 (fld v 0 4), irqEn := bitN v.toNat 6 } ∧
      (∀ y, y ≠ x → t.sec y = s.sec y) ∧ t.ctl (spareOf x) = { s.ctl (spareOf x) with fresh := [] } ∧ t.cells = s.cells ∧ s.granted t) ∧
  (∀ (s : State) (x : Nat) (v : Word) (c : Instr), s.Wf → x < 8 → s.mgReady (.sector x) → c = .migrationStart x v ∨ c = .migrationCancel x v →
    (bitN v.toNat 4 && bitN v.toNat 5) = true ∨ (bitN v.toNat 4 || bitN v.toNat 5) = true ∧ keyed v = false ∨
      bitN v.toNat 4 = true ∧ ((s.sec x).sp = .copy ∨ (s.sec x).sp = .flip) → Answers c s fun t =>
      t.sectors = s.sectors ∧ t.ctls = s.ctls ∧ (t.fr (.sector x)).ctrlRej = true ∧ s.granted t)

/-- MIGRATION_COPY_DONE, once the copy point has passed the last granule, puts the sector in FLIP and holds the port with its switch hold;
before it nothing changes. FLIP_DRAIN_DONE, once nothing is left at the old channel, runs the flip and the resets it deferred;
FLIP_DRAIN_TIMEOUT first answers what the old channel holds ABORTED, empties it and records the wedge. In a flip the loss of the old channel
makes its sector's spare SUBSTITUTING for the position, with the code OK. (R110, R112, R113, R403.) -/
def Obligations.MigrationEnds : Prop :=
  (∀ (s : State) (x : Nat), s.Wf → x < 8 → (s.sec x).sp = .copy →
    (s.grans ≤ (s.sec x).copyAt → s.ctlQuiet (17 * x + (s.sec x).pos.toNat) = false → s.ctlQuiet (spareOf x) = false →
      (∀ e ∈ (s.ctl (17 * x + (s.sec x).pos.toNat)).wrQ, e.held = false) → Answers (.migrationCopyDone x (s.sec x).pos.toNat) s fun t =>
        t = { s with sectors := t.sectors, ports := t.ports } ∧
        t.sec x = { s.sec x with sp := .flip, copySub := 0, copyGot := 0 } ∧ (∀ y, y ≠ x → t.sec y = s.sec y) ∧
        (∀ n < 128, s.portOf (16 * x + (s.sec x).pos.toNat) = some n → Hold.switch ∈ (t.port n).holds)) ∧
    ((s.sec x).copyAt < s.grans → ∀ pos, exec (.migrationCopyDone x pos) s = .next s)) ∧
  (∀ (s : State) (x : Nat), x < 8 → (s.sec x).sp = .flip → s.flipDrained (17 * x + (s.sec x).pos.toNat) = true →
    exec (.flipDrainDone x) s = .next (s.flip x).runDeferred) ∧
  (∀ (s : State) (x : Nat), x < 8 → (s.sec x).sp = .flip →
    exec (.flipDrainTimeout x) s = .next (((((s.abortAt (17 * x + (s.sec x).pos.toNat)).emptyCtl (17 * x + (s.sec x).pos.toNat)).onFr
      (.quad x ((s.sec x).pos.toNat / 4)) fun f => { f with fltWedged := f.fltWedged ||| ((1 : BitVec 16) <<< ((s.sec x).pos.toNat % 4)) }).flip x).runDeferred)) ∧
  (∀ (s : State) (x : Nat), s.Wf → x < 8 → (s.sec x).sp = .flip → (s.sec x).fenced.getLsbD (s.sec x).pos.toNat = false →
    (s.awl (17 * x + (s.sec x).pos.toNat)).carriedBy = none →
    (s.loseHome x (s.sec x).pos.toNat).sec x = { s.sec x with
      sp := .substituting, serve := some (s.sec x).pos.toNat, code := cOK, done := true, auto := false
      fenced := (s.sec x).fenced ||| ((1 : BitVec 16) <<< (s.sec x).pos.toNat) })

/-- Calibration by rotation. CAL_ATTEMPT_DONE with at least 39 passing steps and a centre within 8/128 UI of the phase in use writes the
position's trims and lets the group step (a read group turns at its ends and waits for the next sweep); one that is narrower or farther
off moves no trim and the attempt is repeated. CAL_WAIT_END resumes a waiting group. ROT_STEP, in a free row slot and once in 2 regulation
periods for a data set and in 8 for a CA half, broadcasts ROT with the next position to every Hide; ROT_EFFECT, 8 cycles after it, makes it
the calibration position; before their time neither does anything. READ_SWEEP_START, once in 1 ms, starts the sweep of every read group that
is not parked. (R183, R190, R191, R192, R193, R194, R195.) -/
def Obligations.Calibration : Prop :=
  (∀ (s : State) (p set grp passing : Nat) (centre : Int) (ref : BitVec 6), s.Wf → p < 136 → grpOk set grp = true → s.calOn p = true →
    s.unarmed (.link p) → ((s.link p).grp (grpIx set grp)).st = .cal → ((s.link p).grp (grpIx set grp)).rot = none →
    (set = 0 → ((s.link p).grp (grpIx set grp)).sweep = true) → ((s.link p).grp (grpIx set grp)).tries = [] →
    (39 ≤ passing → phaseDist centre ((s.link p).lane (laneKey set grp ((s.link p).grp (grpIx set grp)).c)).phase.toNat ≤ 8 →
      Answers (.calAttemptDone p set grp passing centre ref) s fun t =>
        t = { s with links := t.links, cnts := t.cnts, free := t.free } ∧ (∀ q, q ≠ p → t.link q = s.link q) ∧
        (let k := laneKey set grp ((s.link p).grp (grpIx set grp)).c
         (t.link p).lane k = { (s.link p).lane k with
           phase := BitVec.ofInt 7 centre, ref := if set = 0 then ref else ((s.link p).lane k).ref
           count := if ((s.link p).lane k).count = 0xFFFF then 0xFFFF else ((s.link p).lane k).count + 1
           time := s.mgmt.elapsed, stale := false, width := passing, last := 1, repeats := 0 } ∧
         ∀ j, j ≠ k → (t.link p).lane j = (s.link p).lane j) ∧
        (t.link p).grp (grpIx set grp) = ((s.link p).grp (grpIx set grp)).passed set ∧
        ∀ j, j ≠ grpIx set grp → (t.link p).grp j = (s.link p).grp j) ∧
    (passing < 39 ∨ 8 < phaseDist centre ((s.link p).lane (laneKey set grp ((s.link p).grp (grpIx set grp)).c)).phase.toNat →
      Answers (.calAttemptDone p set grp passing centre ref) s fun t =>
        t = { s with links := t.links } ∧ (∀ q, q ≠ p → t.link q = s.link q) ∧
        (let k := laneKey set grp ((s.link p).grp (grpIx set grp)).c
         (t.link p).lane k = { (s.link p).lane k with last := if passing < 39 then 3 else 2, repeats := 0 }) ∧
        (t.link p).grp (grpIx set grp) =
          { (s.link p).grp (grpIx set grp) with tries := [(if passing < 39 then 3 else 2, centre, ref)] })) ∧
  (∀ (s : State) (p set grp : Nat), s.Wf → p < 136 → grpOk set grp = true → s.calOn p = true → ((s.link p).grp (grpIx set grp)).st = .wait →
    Answers (.calWaitEnd p set grp) s fun t =>
      t = { s with links := t.links } ∧ (t.link p).grp (grpIx set grp) = { (s.link p).grp (grpIx set grp) with st := .cal } ∧
      (∀ j, j ≠ grpIx set grp → (t.link p).grp j = (s.link p).grp j) ∧ ∀ q, q ≠ p → t.link q = s.link q) ∧
  (∀ (s : State) (p set grp : Nat), s.Wf → p < 136 → grpOk set grp = true →
    (s.calOn p = true → s.linkQuiet p = false → s.rowFree p = true → ((s.link p).grp (grpIx set grp)).st = .step →
      ((s.link p).grp (grpIx set grp)).rot = none → since (s.ctl p).cyc ((s.link p).stepT.getD (stepKey set grp) 0) (stepGap set) = true →
      Answers (.rotStep p set grp) s fun t =>
        t = { s with links := t.links, ctls := t.ctls, cnts := t.cnts, free := t.free } ∧
        (let g := (s.link p).grp (grpIx set grp)
         let c := if g.up then g.c + 1 else g.c - 1
         (t.link p).grp (grpIx set grp) = { g with rot := some (c, (s.ctl p).cyc - 1), st := .cal, unresolved := 0 } ∧
         t.ctl p = { s.ctl p with rowUsed := true, lastRow := mrwWord true 0 0x12 (rotData set grp c false) } ∧
         (∀ h < s.hides, smGet 0 (t.link p).mr (256 * h + 0x12) = BitVec.ofNat 16 (rotData set grp c false)) ∧
         (t.link p).steps = (s.link p).steps + 1)) ∧
    (since (s.ctl p).cyc ((s.link p).stepT.getD (stepKey set grp) 0) (stepGap set) = false → exec (.rotStep p set grp) s = .next s)) ∧
  (∀ (s : State) (p set grp c k : Nat), s.Wf → p < 136 → grpOk set grp = true → ((s.link p).grp (grpIx set grp)).rot = some (c, k) →
    (k + 8 ≤ (s.ctl p).cyc → Answers (.rotEffect p set grp) s fun t =>
      t = { s with links := t.links } ∧ (t.link p).grp (grpIx set grp) = { (s.link p).grp (grpIx set grp) with c := c, rot := none } ∧
      (∀ j, j ≠ grpIx set grp → (t.link p).grp j = (s.link p).grp j) ∧ ∀ q, q ≠ p → t.link q = s.link q) ∧
    ((s.ctl p).cyc < k + 8 → exec (.rotEffect p set grp) s = .next s)) ∧
  (∀ (s : State) (p : Nat), s.Wf → p < 136 →
    (s.calOn p = true → since (s.ctl p).cyc (s.link p).sweepT cycMs = true → Answers (.readSweepStart p) s fun t =>
      t = { s with links := t.links } ∧ (∀ i < 9, ((s.link p).grp i).parked = false → (t.link p).grp i = { (s.link p).grp i with sweep := true }) ∧
      (∀ i, i < 9 → ((s.link p).grp i).parked = true → (t.link p).grp i = (s.link p).grp i) ∧ ∀ i, 9 ≤ i → (t.link p).grp i = (s.link p).grp i) ∧
    (since (s.ctl p).cyc (s.link p).sweepT cycMs = false → exec (.readSweepStart p) s = .next s))

/-- Tracking, staleness, retraining. A tracking slice, once in 1 ms (2 ms for the CA halves), tests every position of the set's parked
groups but the parked one: a test that fails on one side moves the position's phase by 2/128 UI away from it, and the slice ends within
1.5 µs. A position found stale keeps carrying traffic, is flagged, latches LANE_STALE, and a full retrain of the channel starts.
FULL_RETRAIN with the key starts one, or is rejected while one runs; a slice, 20 µs after the one before, holds the port and ends with its
hold; the last one ends the retrain. LINK_HALT_END puts a halted link back to work. (R193, R196, R197, R199, R200, R203.) -/
def Obligations.TrackingAndRetrain : Prop :=
  (∀ (s : State) (p set : Nat) (res : List TrackRes), s.Wf → p < 136 → set ≤ 2 → s.calOn p = true → s.linkQuiet p = false →
    s.canIssue p = true → s.sliceOk p = true → (s.link p).covers set res = true → s.unarmed (.link p) →
    (∀ r ∈ res, (r.lowFail && r.highFail) = false) →
    since (s.ctl p).cyc ((s.link p).sliceT.getD set 0) (if set < 2 then cycMs else 2 * cycMs) = true →
    Answers (.trackingSlice p set res) s fun t =>
      t = { s with links := t.links, cnts := t.cnts, free := t.free } ∧ (∀ q, q ≠ p → t.link q = s.link q) ∧
      (t.link p).grps = (s.link p).grps ∧
      (∃ stop, (t.link p).slice = some (set, stop) ∧ (s.ctl p).cyc < stop ∧ stop ≤ (s.ctl p).cyc + 2400) ∧
      ∀ r, (s.link p).tracked set r.group = true → r.pos ≤ lastPos set → r.pos ≠ ((s.link p).grp (grpIx set r.group)).c →
        res.filter (fun q => q.group == r.group && q.pos == r.pos) = [r] →
        ((t.link p).lane (laneKey set r.group r.pos)).stale = false ∧
        ((t.link p).lane (laneKey set r.group r.pos)).phase = BitVec.ofInt 7
          (((s.link p).lane (laneKey set r.group r.pos)).phase.toNat + (if r.lowFail then 2 else if r.highFail then -2 else 0))) ∧
  (∀ (s : State) (p : Nat) (l : LanePos), s.Wf → p < 136 → lposOk l = true → s.calOn p = true → (s.link p).st = .running → (s.link p).rtRun = false →
    l.pos ≠ ((s.link p).grp (grpIx l.set l.group)).c → s.unarmed (.link p) → (s.fr (.link p)).mask = 0 → (s.fr (.link p)).st ≠ .resetting →
    Answers (.laneStale p l) s fun t =>
      t = { s with links := t.links, frames := t.frames, cnts := t.cnts, free := t.free } ∧
      ((t.link p).lane (lposKey l)) = { (s.link p).lane (lposKey l) with stale := true } ∧ (t.link p).grps = (s.link p).grps ∧
      (t.fr (.link p)).src.getLsbD 1 = true ∧ (t.link p).rtRun = true ∧ (t.link p).st = .retrain ∧ (t.link p).rtDone = 0) ∧
  (∀ (s : State) (p : Nat) (v : Word), s.Wf → p < 136 → s.mgReady (.link p) → bitN v.toNat 0 = true → keyed v = true →
    (s.calOn p = true → (s.link p).st = .running → (s.link p).rtRun = false → Answers (.fullRetrain p v) s fun t =>
      t.link p = { s.link p with rtRun := true, rtDone := 0, st := .retrain } ∧ (∀ q, q ≠ p → t.link q = s.link q) ∧ s.granted t) ∧
    ((s.link p).rtRun = true → Answers (.fullRetrain p v) s fun t =>
      t.links = s.links ∧ (t.fr (.link p)).ctrlRej = true ∧ s.granted t)) ∧
  (∀ (s : State) (p n : Nat), s.Wf → p < 136 → n < 128 → (s.link p).rtRun = true → (s.link p).rtSlice = false → (s.link p).st = .retrain →
    s.canIssue p = true → s.sliceOk p = true → s.portAt p = some n →
    (since (s.ctl p).cyc (s.link p).rtT 32000 = true → Answers (.retrainSlice p) s fun t =>
      t = { s with links := t.links, ports := t.ports } ∧ t.link p = { s.link p with rtSlice := true, rtT := (s.ctl p).cyc + 1 } ∧
      Hold.slice ∈ (t.port n).holds ∧ (∀ m, m ≠ n → t.port m = s.port m) ∧ t.canIssue p = false) ∧
    (since (s.ctl p).cyc (s.link p).rtT 32000 = false → exec (.retrainSlice p) s = .next s)) ∧
  (∀ (s : State) (p n : Nat) (r : TrainRes), s.Wf → p < 136 → n < 128 → (s.link p).rtSlice = true → s.portAt p = some n →
    ((s.link p).rtDone + 1 ≠ 0 → Answers (.retrainSliceEnd p false r) s fun t =>
      t = { s with links := t.links, ports := t.ports } ∧ t.link p = { s.link p with rtSlice := false, rtDone := (s.link p).rtDone + 1 } ∧
      Hold.slice ∉ (t.port n).holds) ∧
    (r.noEye = false → r.fails = [] → r.trims = [] → s.unarmed (.link p) → (s.link p).st = .retrain → (s.link p).staleAt = [] →
      Answers (.retrainSliceEnd p true r) s fun t =>
        t = { s with links := t.links, ports := t.ports } ∧ (t.link p).rtRun = false ∧ (t.link p).rtSlice = false ∧ (t.link p).st = .running ∧
        (t.link p).calEv.getLsbD 4 = true ∧ (t.link p).strobes = r.strobes ∧ Hold.slice ∉ (t.port n).holds)) ∧
  (∀ (s : State) (p : Nat), s.Wf → p < 136 → (s.link p).st = .halted → (s.ctl p).frozen = false → s.chFenced p = false → (s.ctl p).selfRef = false →
    s.linkQuiet p = false → s.seq.bist.phase = 0 → Answers (.linkHaltEnd p) s fun t =>
      t = { s with links := t.links } ∧ (t.link p).st = (if (s.link p).rtRun then .retrain else .running) ∧
      ∀ i < 20, ((s.link p).grp i).parked = false → ((t.link p).grp i).st = .cal ∧ ((t.link p).grp i).c = ((s.link p).grp i).c)

/-- The sideband. A frame carries its payload and a CRC-8 that its receiver checks. With the raw_hide privilege and no transaction in
progress, MODE_REGISTER_READ, MODE_REGISTER_WRITE, STATUS_READ_CLEAR and LAYER_RESET latch the command's fields and start it; while one is in
progress the write is ignored; without the privilege the code is BAD_REQUEST and nothing starts. On an undamaged line the Hide answers a read
with its register (the bits that only the Hide sets as they are then), a write with the data it took, a status read with the old STATUS, which it clears, and a layer reset with 0, its mode
registers at every channel back at reset; what it cannot do it answers BAD_REQUEST. An attempt whose request or response fails its check, or
has no response in time, is repeated, and after the third repeat the code is ABORTED and SB_LOST is met; a request that no Hide takes gets
no response. (R67, R180, R181, R182, R183, R203.) -/
def Obligations.Sideband : Prop :=
  (∀ (start payload : Nat), start < 16 → payload < 2 ^ 32 →
    sbPayload (sbFrame start payload) = payload ∧ sbGood start (sbFrame start payload) = true) ∧
  (∀ (s : State) (p : Nat) (v : Word) (c : Instr), s.Wf → p < 136 → s.mgReady (.link p) →
    c ∈ [.modeRegisterRead p v, .modeRegisterWrite p v, .statusReadClear p v, .layerReset p v] →
    (s.has 4 = true → (s.link p).sbBusy = false → fld v 0 4 ≠ 0 → Answers c s fun t =>
      t.link p = { s.link p with sbOp := BitVec.ofNat 4 (fld v 0 4), sbHide := BitVec.ofNat 3 (fld v 4 3), sbAddr := BitVec.ofNat 8 (fld v 8 8)
                                 sbData := BitVec.ofNat 16 (fld v 16 16), sbBusy := true, sbTries := 0 } ∧
      (∀ q, q ≠ p → t.link q = s.link q) ∧ t.ctls = s.ctls ∧ s.granted t) ∧
    (s.has 4 = true → (s.link p).sbBusy = true → Answers c s fun t => t.links = s.links ∧ s.granted t) ∧
    (s.has 4 = false → Answers c s fun t => t.link p = { s.link p with sbCode := cBAD } ∧ s.granted t)) ∧
  (∀ (s : State) (p h a : Nat) (held : BitVec 16), s.Wf → p < 136 → (s.link p).sbBusy = true → (s.link p).sbTries = 0 → s.unarmed (.link p) →
    (s.link p).sbHide.toNat = h → (s.link p).sbAddr.toNat = a → h < s.hides → Answers (.sbResponse p 0 0 held) s fun t =>
      t = { s with links := t.links } ∧ (t.link p).sbBusy = false ∧
      ((s.link p).sbOp = 1 → mrReads a = true → (t.link p).sbCode = cOK ∧ (t.link p).sbRdata = s.mrFound p h a held ∧
        (t.link p).mr = if mrClears a then smSet 0 (s.link p).mr (256 * h + a) 0 else (s.link p).mr) ∧
      ((s.link p).sbOp = 2 → mrWrites a = true → (t.link p).sbCode = cOK ∧ (t.link p).sbRdata = (s.link p).sbData ∧
        (t.link p).mr = smSet 0 (s.link p).mr (256 * h + a) (s.link p).sbData) ∧
      ((s.link p).sbOp = 3 → (t.link p).sbCode = cOK ∧ (t.link p).sbRdata = s.mrFound p h 3 held ∧
        (t.link p).mr = smSet 0 (s.link p).mr (256 * h + 3) 0) ∧
      ((s.link p).sbOp = 4 → (t.link p).sbCode = cOK ∧ (t.link p).sbRdata = 0 ∧
        ∀ q, (t.link q).mr = (s.link q).mr.filter fun e => e.1 / 256 != h || mrFixed (e.1 % 256)) ∧
      ((s.link p).sbOp = 0 ∨ 5 ≤ (s.link p).sbOp.toNat ∨ (s.link p).sbOp = 1 ∧ mrReads a = false ∨ (s.link p).sbOp = 2 ∧ mrWrites a = false →
        (t.link p).sbCode = cBAD ∧ (t.link p).mr = (s.link p).mr)) ∧
  (∀ (s u : State) (p : Nat) (f r reqErr respErr : BitVec 44) (held : BitVec 16), p < 136 → (s.link p).sbWire = some f →
    (s.hideAnswers p (f ^^^ reqErr) held = (some r, u) → sbGood 0x5 (r ^^^ respErr) = false ∨ bits (sbPayload (r ^^^ respErr)) 28 4 = 1 →
      exec (.sbResponse p reqErr respErr held) s = .next (u.sbFail p)) ∧
    (bits (f ^^^ reqErr).toNat 40 4 ≠ 0xA ∨ s.hides ≤ bits (sbPayload (f ^^^ reqErr)) 25 3 → exec (.sbResponse p reqErr respErr held) s = .next s) ∧
    exec (.sbTimeout p) s = .next (s.sbFail p)) ∧
  (∀ (s : State) (p : Nat), s.Wf → p < 136 → (s.link p).sbBusy = true →
    ((s.link p).sbTries < 3 → (s.sbFail p).link p = { s.link p with sbTries := (s.link p).sbTries + 1 } ∧
      s.sbFail p = { s with links := (s.sbFail p).links, cnts := (s.sbFail p).cnts, free := (s.sbFail p).free }) ∧
    (3 ≤ (s.link p).sbTries → s.unarmed (.link p) →
      s.sbFail p = (s.onLink p fun l => { l with sbBusy := false, sbCode := cABORTED }).fault (.link p) 4))

/-- Refresh. A due tick adds one deferred refresh to a bank that is driven, not lent and below its limit of 8, and to no other; a round that
has issued its refreshes starts again at position 0 with the trackers of the bank empty, and a decided fall of rate reaches the bank then. A
weak row's refresh falls due at its place in the bank's round, queues a TRR with self = 1 and shares the bank's count; before its place it
does nothing. (R205, R206, R207, R209, R211.) -/
def Obligations.Refresh : Prop :=
  (∀ (s : State) (p k : Nat), s.Wf → p < 136 → k < 16 * s.hides → s.curOn p = true → (s.ctl p).lent.contains k = false →
    (smGet {} (s.cur p).bank k).count < 8 → Answers (.refreshDueTick p k) s fun t =>
      t = { s with curs := t.curs } ∧ (∀ q, q ≠ p → t.cur q = s.cur q) ∧ t.cur p = { s.cur p with bank := (t.cur p).bank } ∧
      smGet {} (t.cur p).bank k = { smGet {} (s.cur p).bank k with count := (smGet {} (s.cur p).bank k).count + 1 } ∧
      ∀ j, j ≠ k → smGet {} (t.cur p).bank j = smGet {} (s.cur p).bank j) ∧
  (∀ (s : State) (p k : Nat), p < 136 → (k < 16 * s.hides → s.curOn p = true → (s.ctl p).lent.contains k = true ∨ 8 ≤ (smGet {} (s.cur p).bank k).count) →
    exec (.refreshDueTick p k) s = .next s) ∧
  (∀ (s : State) (p k : Nat), s.Wf → p < 136 → k < 128 →
    (Config.roundRefs ≤ (smGet {} (s.cur p).bank k).pos → Answers (.refreshRoundEnd p k) s fun t =>
      t = { s with curs := t.curs, ctls := t.ctls } ∧ (smGet {} (t.cur p).bank k).pos = 0 ∧
      (smGet {} (t.cur p).bank k).rounds = (smGet {} (s.cur p).bank k).rounds + 1 ∧
      (smGet {} (t.cur p).bank k).count = (smGet {} (s.cur p).bank k).count ∧ ((t.ctl p).bk k).trk = [] ∧ ((t.ctl p).bk k).st = ((s.ctl p).bk k).st ∧
      ∀ r, (s.cur p).fall.getD (k / 16) none = some r → (t.cur p).rateOf k = r) ∧
    ((smGet {} (s.cur p).bank k).pos < Config.roundRefs → exec (.refreshRoundEnd p k) s = .next s)) ∧
  (∀ (s : State) (p i d : Nat) (w : Weak), s.Wf → p < 136 → (s.cur p).weak[i]? = some w → w.dueAt = some d →
    (16 * w.hide + w.bank < 16 * s.hides → s.curOn p = true → (s.ctl p).lent.contains (16 * w.hide + w.bank) = false →
      (smGet {} (s.cur p).bank (16 * w.hide + w.bank)).count < 8 → d ≤ (smGet {} (s.cur p).bank (16 * w.hide + w.bank)).pos →
      Answers (.weakRowRefreshDue p i) s fun t =>
        t = { s with curs := t.curs } ∧ (t.cur p).trr = (s.cur p).trr ++ [⟨w.hide, w.bank, w.row, true, 0, false⟩] ∧
        (t.cur p).weak[i]? = some { w with done := w.done + 1 } ∧
        (smGet {} (t.cur p).bank (16 * w.hide + w.bank)).count = (smGet {} (s.cur p).bank (16 * w.hide + w.bank)).count + 1) ∧
    ((smGet {} (s.cur p).bank (16 * w.hide + w.bank)).pos < d → exec (.weakRowRefreshDue p i) s = .next s))

/-- Sensors. SENSOR_READ asks every installed Hide: one that drives sends SENS, one in power-down or self-refresh has its register read.
SENSOR_RESULT within the sensor's range ends the read that waits for it and becomes the Hide's valid reading, with the one before kept; the
refresh rate is at least that of the reading's band. DIE_SENSOR_READ converts the oscillator's count by the netlist's line and the channel's
offset. (R205, R209, R215, R217, R218.) -/
def Obligations.Sensors : Prop :=
  (∀ (s : State) (p : Nat), s.Wf → p < 136 → s.sensed p = true → (s.link p).st ≠ .training → Answers (.sensorRead p) s fun t =>
    t = { s with curs := t.curs, links := t.links } ∧
    (∀ h < s.hides, h ∈ (t.cur p).sensReq ∨ h ∈ (t.link p).sbQ) ∧
    (∀ h < s.hides, (s.ctl p).selfRef = false → (s.ctl p).pd.getLsbD h = false → h ∉ (s.link p).sbQ → h ∈ (t.cur p).sensReq) ∧
    ∀ h < s.hides, (s.ctl p).selfRef = true ∨ (s.ctl p).pd.getLsbD h = true → h ∉ (s.cur p).sensReq → h ∈ (t.link p).sbQ) ∧
  (∀ (s : State) (p h : Nat) (raw : BitVec 16), s.Wf → p < 136 → h < 8 → h < s.hides → s.sensed p = true → s.unarmed (.link p) →
    s.unarmed (.currier p) → h ∈ (s.link p).sbQ → (s.link p).sensTries = 0 →
    (let k := (s.cur p).temp.getD h {}
     let v := tempOf k.kLo k.kHi (raw.toNat % 4096)
     k.bad = false → -80 ≤ v → v ≤ 600 → Answers (.sensorResult p h raw) s fun t =>
       t = { s with curs := t.curs, links := t.links } ∧ (∀ q, q ≠ p → t.cur q = s.cur q) ∧
       (t.link p).sbQ = (s.link p).sbQ.filter (· != h) ∧ smGet 0 (t.link p).mr (256 * h + 0x15) = raw &&& 0xFFF ∧
       (t.cur p).temp.getD h {} = { k with t := v, valid := true, subst := false, prev := k.t } ∧
       s.bandOf v ≤ (t.cur p).rate.getD h 0 ∧
       ∀ j, j ≠ h → (t.cur p).temp.getD j {} = (s.cur p).temp.getD j {})) ∧
  (∀ (s : State) (p n : Nat), s.Wf → p < 136 → s.sensed p = true → s.isRunning = true → s.unarmed (.currier p) →
    ((s.cur p).temp.getD 0 {}).t - 20 ≤ s.dieSlope * n + s.dieIcpt - (s.cur p).dieOfs → Answers (.dieSensorRead p n) s fun t =>
      t = { s with curs := t.curs } ∧ t.cur p = { s.cur p with die := s.dieSlope * n + s.dieIcpt - (s.cur p).dieOfs, dieValid := true, disagree := 0 })

/-- Profiling and ageing of weak rows, and the patrol. The steps of a pass follow one another: the pre-read and the post-read end when every
block of the bank has been read; the last step counts the pass and puts every row it found weak into the table, in bin 2 or bin 1; a pass of
a bank that has been lent is discarded. Ageing drops an entry no pass has found weak one bin, and removes it from bin 1. A patrol read asks,
at the Currier's arbiter input, for the next block of the first written granule at or after its place. PATROL_LATE sets its event. (R213,
R214, R241, R254.) -/
def Obligations.ProfilingAndPatrol : Prop :=
  (∀ (s : State) (p : Nat), s.Wf → p < 136 → s.curOn p = true → s.curQuiet p = false →
    ((s.ctl p).lent.contains (16 * (s.cur p).profHide + (s.cur p).profBank) = false →
      ((s.cur p).profStep = 1 → bankBlocks ≤ (s.cur p).profAt → (s.ctl p).asks profPort = false →
        ((s.cur p).temp.getD (s.cur p).profHide {}).t ≤ 4 * (s.img.policy.warm : Int) - 40 →
        (s.cur p).rateOf (16 * (s.cur p).profHide + (s.cur p).profBank) = 0 → Answers (.profilingStepDone p (s.cur p).profStep) s fun t =>
          t = { s with curs := t.curs } ∧ t.cur p = { s.cur p with profStep := 2 } ∧ ∀ q, q ≠ p → t.cur q = s.cur q) ∧
      ((s.cur p).profStep = 2 → Answers (.profilingStepDone p (s.cur p).profStep) s fun t =>
          t = { s with curs := t.curs } ∧ t.cur p = { s.cur p with profStep := 3, profAt := 0, profHits := [] } ∧ ∀ q, q ≠ p → t.cur q = s.cur q) ∧
      ((s.cur p).profStep = 1 ∨ (s.cur p).profStep = 3 → (s.cur p).profAt < bankBlocks → exec (.profilingStepDone p (s.cur p).profStep) s = .next s) ∧
      ((s.cur p).profStep = 3 → bankBlocks ≤ (s.cur p).profAt → (s.ctl p).asks profPort = false → s.unarmed (.currier p) →
        (s.cur p).weak.length + (s.cur p).weakRows.length ≤ 512 → Answers (.profilingStepDone p (s.cur p).profStep) s fun t =>
          t = { s with curs := t.curs } ∧ (t.cur p).profPasses = (s.cur p).profPasses + 1 ∧ (t.cur p).profStep = 1 ∧
          ((s.cur p).profHits = [] → (t.cur p).weak = (s.cur p).weak) ∧
          ∀ f ∈ (s.cur p).weakRows, ∃ e ∈ (t.cur p).weak, e.hide = (s.cur p).profHide ∧ e.bank = (s.cur p).profBank ∧ e.row = f.1 ∧
            e.found = true ∧ (e.bin = 2 ∨ e.bin = 1 ∧ f.2 = false))) ∧
    ((s.ctl p).lent.contains (16 * (s.cur p).profHide + (s.cur p).profBank) = true → (s.cur p).profStep ≠ 0 →
      Answers (.profilingStepDone p (s.cur p).profStep) s fun t => t = { s with curs := t.curs } ∧ (t.cur p).profPasses = (s.cur p).profPasses ∧
        (t.cur p).profStep = 1 ∧ (t.cur p).profAt = 0 ∧ (t.cur p).weak = (s.cur p).weak)) ∧
  (∀ (s : State) (p : Nat), s.Wf → p < 136 → Answers (.weakAgeing p) s fun t =>
    t = { s with curs := t.curs } ∧ t.cur p = { s.cur p with weak := (t.cur p).weak } ∧
    (∀ e ∈ (s.cur p).weak, (e.found = true → { e with found := false } ∈ (t.cur p).weak) ∧
      (e.found = false → 2 ≤ e.bin → { e with bin := e.bin - 1 } ∈ (t.cur p).weak)) ∧
    ∀ f ∈ (t.cur p).weak, ∃ e ∈ (s.cur p).weak, f = { e with found := false } ∧ e.found = true ∨
      f = { e with bin := e.bin - 1 } ∧ e.found = false ∧ 2 ≤ e.bin) ∧
  (∀ (s : State) (p g : Nat) (l : SMap Nat), s.Wf → p < 136 → (s.ctl p).patrolOn = true → s.canIssue p = true → s.lchOf p ≠ none → s.curQuiet p = false →
    (s.ctl p).fresh = (g, 1) :: l → (s.ctl p).ptPos ≤ g → Answers (.patrolRead p) s fun t =>
      t = { s with ctls := t.ctls, cnts := t.cnts, free := t.free } ∧
      (∃ w, (t.ctl p).inRd = (s.ctl p).inRd ++ [w] ∧ w.op = 0 ∧ w.n = 1 ∧ w.inp = 4 ∧
        w.off = g * 16384 + 64 * (if g = (s.ctl p).ptPos then (s.ctl p).ptBlk else 0)) ∧ (t.ctl p).rdQ = (s.ctl p).rdQ ∧
      ∀ q, q ≠ p → t.ctl q = s.ctl q) ∧
  (∀ (s : State) (p : Nat), s.Wf → p < 136 → (s.ctl p).patrolOn = true → Answers (.patrolLate p) s fun t =>
    t = { s with ctls := t.ctls } ∧ t.ctl p = { s.ctl p with eccEv := (s.ctl p).eccEv ||| 2 })

/-- GOVERNOR_ROUND with no channel critical: the highest reading is recorded with its Hide and channel; above hot the state is HOT; from
NORMAL it is WARM between warm and hot, and NORMAL up to warm; no stop begins. With a channel at its second consecutive critical reading
the orderly stop begins. In the safe state, or before RUNNING, nothing happens. STOP_COMPLETE with everything drained and
every driven channel in self-refresh: the state is STOPPED, THERM_STOP is held; before it nothing happens. STOP_OVERRUN ends in EMERGENCY, as does a re-read that confirms a
reading at the emergency threshold, the logic die's counted once it has disagreed; then FLT_FATAL is high. A re-read below it does not. (R219, R220, R224, R225, R228, R231, R387.) -/
def Obligations.ThermalGovernor : Prop :=
  ((∀ (s : State) (T : Int) (h p : Nat), s.Wf → s.isRunning = true → s.safe.on = false → s.unarmed .currierSeq → s.tmax = some (T, h, p) →
    s.seq.therm = .normal ∨ s.seq.therm = .warm ∨ s.seq.therm = .hot → s.img.policy.warm ≤ s.img.policy.hot → (∀ q < 136, s.critical q = false) →
    Answers .governorRound s fun t =>
      t = { s with seq := t.seq, ctls := t.ctls, curs := t.curs } ∧ t.seq.rounded = true ∧ t.seq.hotT = BitVec.ofInt 16 T ∧
      t.seq.hotHide = BitVec.ofNat 3 h ∧ t.seq.hotChan = BitVec.ofNat 8 p ∧ (∀ q < 136, (t.cur q).crit = 0) ∧
      (quarters s.img.policy.hot < T → t.seq.therm = .hot) ∧
      (s.seq.therm = .normal → T ≤ quarters s.img.policy.hot → quarters s.img.policy.warm < T → t.seq.therm = .warm) ∧
      (s.seq.therm = .normal → T ≤ quarters s.img.policy.warm → t.seq.therm = .normal)) ∧
  (∀ (s : State) (T : Int) (h p q : Nat), s.Wf → s.isRunning = true → s.safe.on = false → s.unarmed .currierSeq → s.tmax = some (T, h, p) →
    s.seq.therm = .normal ∨ s.seq.therm = .warm ∨ s.seq.therm = .hot → q < 136 → s.critical q = true → 1 ≤ (s.cur q).crit →
    ∃ s' : State, exec .governorRound s = .next s'.beginStop ∧ s' = { s with seq := s'.seq, ctls := s'.ctls, curs := s'.curs } ∧ s'.seq.therm = s.seq.therm) ∧
  (∀ s : State, s.isRunning = false ∨ s.safe.on = true → exec .governorRound s = .next s)) ∧
  ((∀ s : State, s.Wf → s.seq.therm = .stopping →
    (s.stopDry = true → Answers .stopComplete s fun t =>
      t = { s with seq := t.seq, frames := t.frames, cnts := t.cnts, free := t.free } ∧
      t.seq.therm = .stopped ∧ t.seq.thermStop = true ∧ t.seq.stopTime = s.mgmt.elapsed ∧ t.seq.thermEv.getLsbD 2 = true ∧
      ∀ p < 136, s.drives p = true → (t.ctl p).selfRef = true) ∧
    (s.stopDry = false → exec .stopComplete s = .next s)) ∧
  (∀ s : State, s.seq.therm = .stopping → Answers .stopOverrun s fun t =>
    t.seq.therm = .emergency ∧ t.seq.thermStop = true ∧ t.fltFatal = true) ∧
  (∀ (s : State) (p h : Nat) (raw : BitVec 16), s.Wf → p < 136 → h < 8 → h < s.hides → s.isRunning = true → s.safe.on = false → s.sensed p = true →
    s.seq.therm ≠ .emergency → s.unarmed (.currier p) →
    (let k := (s.cur p).temp.getD h {}
     let v := tempOf k.kLo k.kHi (raw.toNat % 4096)
     let r := if h = 0 ∧ (s.cur p).useMax = true ∧ (s.cur p).dieValid = true then max v (s.cur p).die else v
     k.valid = true → (∃ u, s.hideReading p h = some u ∧ quarters s.img.policy.emergency ≤ u) → k.bad = false → -80 ≤ v → v ≤ 600 →
     (quarters s.img.policy.emergency ≤ r → Answers (.emergencyReread p h raw) s fun t => t.seq.therm = .emergency ∧ t.fltFatal = true) ∧
     (r < quarters s.img.policy.emergency → Answers (.emergencyReread p h raw) s fun t =>
       t = { s with curs := t.curs } ∧ ((t.cur p).temp.getD h {}).t = v))))

/-- SAFE_STATE_ENTRY records the unit and the time, sets FAULT_WORD.self of the unit's frame, raises FLT_FATAL, and no port shows a hold.
A later one keeps the first record. THERM_RESUME with the key, in STOPPED, with every reading at least 2 °C below hot and no submission
waiting, releases THERM_STOP and every stop hold; otherwise the write is ignored and sets ctrl_rej. (R227, R231, R404, R409.) -/
def Obligations.SafeStateAndResume : Prop :=
  (∀ (s : State) (u : UnitId), s.Wf → u.ok = true → s.safe.on = false → Answers (.safeStateEntry u) s fun t =>
    t.safe = { on := true, entry := BitVec.ofNat 16 u.idx, time := s.mgmt.elapsed } ∧ t.fltFatal = true ∧ (∀ n, t.holdBits n = 0 ∧ t.holdRsn n = 7)) ∧
  (∀ (s : State) (u : UnitId), s.Wf → u.ok = true → s.safe.on = true → Answers (.safeStateEntry u) s fun t =>
    t = { s with frames := t.frames } ∧ t.fr u = { s.fr u with self := true } ∧ ∀ v, v.idx ≠ u.idx → t.fr v = s.fr v) ∧
  (∀ (s : State) (v : Word), s.Wf → s.mgReady .currierSeq → v.getLsbD 0 = true → keyed v = true → s.seq.therm = .stopped → s.coolEnough = true →
    (∀ h ∈ s.hars, h.waitQ = []) → Answers (.thermResume v) s fun t =>
      t.seq.thermStop = false ∧ t.seq.therm ≠ .stopped ∧ t.cells = s.cells ∧ (∀ n < 128, Hold.stop ∉ (t.port n).holds) ∧ s.granted t) ∧
  (∀ (s : State) (v : Word), s.Wf → s.mgReady .currierSeq → v.getLsbD 0 = true → (keyed v && s.seq.therm == .stopped && s.coolEnough) = false →
    Answers (.thermResume v) s fun t => t.seq = s.seq ∧ t.ports = s.ports ∧ (t.fr .currierSeq).ctrlRej = true ∧ s.granted t)

/-- RANGE_SCRUB, RANGE_CLEAR and RANGE_POISON with the key start the operation the word names when none runs and the range is in order; a
range that breaks R244 ends BAD_REQUEST at once; RANGE_CANCEL ends every share that has not ended ABORTED. RANGE_DONE, every share having
ended, writes the summary record, gives the worst code met and sets done; before that it only skips the shares in holes. ELOG_ACK drops the entries before the one it names, or all of them for the number that
comes next; a number that names none is refused. (R244, R245, R246, R248, R261, R262.) -/
def Obligations.RangeAndErrorLog : Prop :=
  ((∀ (s : State) (v : Word) (c : Instr), s.mgReady .currierSeq → c ∈ [.rangeScrub v, .rangeClear v, .rangePoison v] → fld v 0 2 ≠ 0 → keyed v = true →
    s.seq.range.busy = false →
    (∀ l, s.rangeShares (fld v 0 2) s.seq.range.base.toNat s.seq.range.len.toNat s.seq.range.recAddr.toNat (fld v 16 7) = some l → Answers c s fun t =>
      t.seq.range = { s.seq.range with
        op := fld v 0 2, irqEn := bitN v.toNat 5, cls := BitVec.ofNat 4 (fld v 8 4), origin := BitVec.ofNat 7 (fld v 16 7)
        seq := s.seq.range.seq + 1, tStart := s.mgmt.elapsed, doneCnt := 0, changed := 0, skipped := 0
        corr := 0, syms := 0, ue := 0, back := 0, busy := true, shares := l } ∧
      t = { s with seq := { s.seq with range := t.seq.range }, mgmt := t.mgmt, cnts := t.cnts, free := t.free } ∧ s.granted t) ∧
    (s.rangeShares (fld v 0 2) s.seq.range.base.toNat s.seq.range.len.toNat s.seq.range.recAddr.toNat (fld v 16 7) = none → Answers c s fun t =>
      t.seq.range.busy = false ∧ t.seq.range.code = cBAD ∧ t.seq.range.done = true ∧ t.cells = s.cells ∧ s.granted t)) ∧
  (∀ (s : State) (v : Word), s.mgReady .currierSeq → fld v 0 2 = 0 → bitN v.toNat 4 = true → keyed v = true → s.seq.range.busy = true →
    Answers (.rangeCancel v) s fun t =>
      t = { s with seq := { s.seq with range := t.seq.range }, mgmt := t.mgmt, cnts := t.cnts, free := t.free } ∧
      t.seq.range.busy = true ∧ (∀ a ∈ t.seq.range.shares, a.ended = true ∨ a.stop ≤ a.pos) ∧ t.seq.range.shares.length = s.seq.range.shares.length) ∧
  (∀ (s : State) (l off p : Nat), s.Wf → s.seq.range.busy = true → s.sharesOver = true → s.safe.on = false → s.working ownSeq = false →
    s.decode s.seq.range.recAddr.toNat s.seq.range.origin.toNat = some (l, off) → s.serving l = some p → p < 136 → s.shutAt l = false →
    s.fresh p off ≠ 2 → s.mirror p = none → Answers (.rangeDone s.seq.range.op) s fun t =>
      t.seq.range = { s.seq.range with busy := false, code := worstCode s.seq.range.shares, done := true } ∧
      t.paRead s.seq.range.recAddr.toNat s.seq.range.origin.toNat =
        (cOK, rangeRecord s.seq.range (worstCode s.seq.range.shares) s.mgmt.elapsed)) ∧
  (∀ s : State, (s.seq.range.busy = false → ∀ op, exec (.rangeDone op) s = .next s) ∧
    (s.seq.range.busy = true → s.skipShares.sharesOver = false → exec (.rangeDone s.seq.range.op) s = .next s.skipShares))) ∧
  ((∀ (s : State) (v : Word) (i : Nat) (e : List Word), s.mgReady .mgmt → s.mgmt.elog[i]? = some e → e.headD 0 = v → v ≠ s.mgmt.elogNext →
    (∀ j < i, ∀ f, s.mgmt.elog[j]? = some f → f.headD 0 ≠ v) → Answers (.elogAck v) s fun t =>
      t.mgmt = { s.mgmt with elog := s.mgmt.elog.drop i, elogHead := v, elogAck := v, rsp := s.mgmt.rsp ++ [(0, cOK)] } ∧
      t = { s with mgmt := t.mgmt, cnts := t.cnts, free := t.free }) ∧
  (∀ s : State, s.mgReady .mgmt → Answers (.elogAck s.mgmt.elogNext) s fun t => t.mgmt.elog = [] ∧ t.mgmt.elogHead = s.mgmt.elogNext) ∧
  (∀ (s : State) (v : Word), s.Wf → s.mgReady .mgmt → v ≠ s.mgmt.elogNext → (∀ e ∈ s.mgmt.elog, e.headD 0 ≠ v) → Answers (.elogAck v) s fun t =>
    t.mgmt.elog = s.mgmt.elog ∧ (t.fr .mgmt).ctrlRej = true))

/-- ROW_RETIREMENT remaps the row to the lowest unused spare of its bank, any older remap of it abandoned, logs it and queues a record; it
ends OK. With no spare left it ends BAD_REQUEST, on a fenced channel FENCED. BANK_RETIREMENT of a bank that the sector's spare may lend
starts the copy; BANK_COPY_DONE lends the bank. (R250, R251, R252, R253, R254, R259.) -/
def Obligations.Retirement : Prop :=
  (∀ (s : State) (p : Nat) (v : Word) (i : Nat), s.Wf → p < 136 → s.mgReady (.ctl p) → fld v 0 2 = 1 → keyed v = true → (s.ctl p).retBusy = false →
    s.chFenced p = false → nextSpare (s.ctl p) (fld v 2 3) (fld v 5 4) = some i → (s.ctl p).retRow.toNat < 12288 → fld v 2 3 < s.hides →
    (s.ctl p).lent.contains (16 * fld v 2 3 + fld v 5 4) = false → s.retEntries.length < 8186 → s.bad = [] → Answers (.rowRetirement p v []) s fun t =>
      (t.ctl p).remaps = ((s.ctl p).remaps.map fun m =>
        if m.hide = fld v 2 3 && m.bank = fld v 5 4 && m.row = (s.ctl p).retRow.toNat then { m with abandoned := true } else m) ++
        [⟨fld v 2 3, fld v 5 4, (s.ctl p).retRow.toNat, false, i⟩] ∧
      (t.ctl p).retCode = cOK ∧ (t.ctl p).retDone = true ∧ (t.ctl p).retBusy = false ∧ (t.ctl p).retSpare = BitVec.ofNat 6 i ∧
      t.flash.retQ = s.flash.retQ + 1 ∧ (∀ q, q ≠ p → t.ctl q = s.ctl q) ∧ s.granted t) ∧
  (∀ (s : State) (p : Nat) (v : Word) (errs : List BlkErr), s.Wf → p < 136 → s.mgReady (.ctl p) → fld v 0 2 = 1 → keyed v = true →
    (s.ctl p).retBusy = false → s.chFenced p = true ∨ nextSpare (s.ctl p) (fld v 2 3) (fld v 5 4) = none → Answers (.rowRetirement p v errs) s fun t =>
      t.cells = s.cells ∧ (t.ctl p).remaps = (s.ctl p).remaps ∧ (t.ctl p).retDone = true ∧
      (t.ctl p).retCode = (if s.chFenced p then cFENCED else cBAD) ∧ s.granted t) ∧
  (∀ (s : State) (p : Nat) (v : Word), s.Wf → p < 136 → s.mgReady (.ctl p) → fld v 0 2 = 2 → keyed v = true → (s.ctl p).retBusy = false →
    s.chFenced p = false → posOf p ≠ 16 → fld v 2 3 < s.hides → (s.sec (secOf p)).sp = .standby →
    (s.ctl p).lent.contains (16 * fld v 2 3 + fld v 5 4) = false → (s.ctl p).lent.length < 8 →
    s.borrower (secOf p) = none ∨ s.borrower (secOf p) = some p → Answers (.bankRetirement p v) s fun t =>
      t = { s with ctls := t.ctls, mgmt := t.mgmt, cnts := t.cnts, free := t.free } ∧ (t.ctl p).retBusy = true ∧
      (t.ctl p).bankCopy = some (16 * fld v 2 3 + fld v 5 4) ∧ (t.ctl p).lent = (s.ctl p).lent ∧ s.granted t) ∧
  (∀ (s : State) (p k : Nat) , s.Wf → p < 136 → (s.ctl p).bankCopy = some k → s.canIssue p = true → s.bad = [] → Answers (.bankCopyDone p []) s fun t =>
      (t.ctl p).lent = (s.ctl p).lent ++ [k] ∧ (t.ctl p).bankCopy = none ∧ (t.ctl p).retBusy = false ∧ (t.ctl p).retCode = cOK ∧
      (t.ctl p).retDone = true ∧ t.flash.retQ = s.flash.retQ + 1 ∧ ((t.ctl p).bk k).st = .closed)

/-- A row retirement keeps the row's data: each of its 16 blocks, of a written granule, reads from the spare row what it read before.
(R250, R251.) -/
def Obligations.RetirementKeepsData : Prop :=
  ∀ (s : State) (p : Nat) (v : Word) (i k : Nat), s.Wf → p < 136 → s.mgReady (.ctl p) → fld v 0 2 = 1 → keyed v = true → (s.ctl p).retBusy = false →
    s.chFenced p = false → nextSpare (s.ctl p) (fld v 2 3) (fld v 5 4) = some i → (s.ctl p).retRow.toNat < 12288 → fld v 2 3 < s.hides →
    (s.ctl p).lent.contains (16 * fld v 2 3 + fld v 5 4) = false → s.retEntries.length < 8186 → s.bad = [] → k < 16 →
    s.fresh p (rowOffset s.hides (fld v 2 3) (fld v 5 4) (s.ctl p).retRow.toNat) = 1 → Answers (.rowRetirement p v []) s fun t =>
      t.stored p (rowOffset s.hides (fld v 2 3) (fld v 5 4) (s.ctl p).retRow.toNat + 64 * k) =
        s.stored p (rowOffset s.hides (fld v 2 3) (fld v 5 4) (s.ctl p).retRow.toNat + 64 * k)

/-- The R-type and I-type instructions of an Awl: rd takes the result, s0 excepted, and nothing else changes but the cycle count and the
program counter. Divide by zero gives all ones, and the dividend as remainder; a shift amount is taken modulo 64. (R362, R363, R364, R373,
R382.) -/
def Obligations.ScalarResults : Prop :=
  (∀ (s : State) (p d a b k : Nat) (i : Instr) (v : Dword), let x := (s.awl p).s a; let y := (s.awl p).s b
    (i, k, v) ∈ [(Instr.aAdd p d a b, 1, x + y), (.aSub p d a b, 1, x - y), (.aAnd p d a b, 1, x &&& y), (.aOr p d a b, 1, x ||| y),
      (.aXor p d a b, 1, x ^^^ y), (.aSll p d a b, 1, x <<< (y.toNat % 64)), (.aSrl p d a b, 1, x >>> (y.toNat % 64)),
      (.aSra p d a b, 1, x.sshiftRight (y.toNat % 64)), (.aSlt p d a b, 1, if x.toInt < y.toInt then 1 else 0),
      (.aSltu p d a b, 1, if x.toNat < y.toNat then 1 else 0), (.aMul p d a b, 1, BitVec.ofNat 64 (x.toNat * y.toNat)),
      (.aDivu p d a b, 20, if y = 0 then BitVec.allOnes 64 else BitVec.ofNat 64 (x.toNat / y.toNat)),
      (.aRemu p d a b, 20, if y = 0 then x else BitVec.ofNat 64 (x.toNat % y.toNat))] →
    s.AwlReady p i [d, a, b] → Answers i s fun t =>
      s.onlyAwl p t (((s.awl p).ran k ((s.awl p).pc + 4)).withS d v)) ∧
  (∀ (s : State) (p d a b k : Nat) (i : Instr) (w : Word), let x := lo32 ((s.awl p).s a); let y := lo32 ((s.awl p).s b)
    (i, k, w) ∈ [(Instr.aFadd p d a b, 1, add32 x y), (.aFsub p d a b, 1, sub32 x y), (.aFmul p d a b, 1, mul32 x y),
      (.aFdiv p d a b, 12, div32 x y), (.aFmin p d a b, 1, min32 x y), (.aFmax p d a b, 1, max32 x y),
      (.aFlt p d a b, 1, if fLt (dec32 x) (dec32 y) then 1 else 0), (.aFeq p d a b, 1, if fEq (dec32 x) (dec32 y) then 1 else 0)] →
    s.AwlReady p i [d, a, b] → Answers i s fun t =>
      s.onlyAwl p t (((s.awl p).ran k ((s.awl p).pc + 4)).withS d (w.zeroExtend 64))) ∧
  (∀ (s : State) (p d a : Nat) (imm : BitVec 16) (n : BitVec 6) (i : Instr) (v : Dword), let x := (s.awl p).s a
    (i, v) ∈ [(Instr.aFtoi p d a, BitVec.ofInt 64 (ftoi32 (lo32 x))), (.aItof p d a, (itof32 x.toInt).zeroExtend 64),
      (.aAddi p d a imm, x + imm.signExtend 64), (.aAndi p d a imm, x &&& imm.zeroExtend 64), (.aOri p d a imm, x ||| imm.zeroExtend 64),
      (.aXori p d a imm, x ^^^ imm.zeroExtend 64), (.aLsh p d a imm, (x <<< 16) ||| imm.zeroExtend 64), (.aShiSll p d a n, x <<< n.toNat),
      (.aShiSrl p d a n, x >>> n.toNat), (.aShiSra p d a n, x.sshiftRight n.toNat)] →
    s.AwlReady p i [d, a] → Answers i s fun t =>
      s.onlyAwl p t (((s.awl p).ran 1 ((s.awl p).pc + 4)).withS d v)) ∧
  (∀ (s : State) (p d : Nat) (imm : BitVec 16), s.AwlReady p (.aLui p d imm) [d, 0] → Answers (.aLui p d imm) s fun t =>
      s.onlyAwl p t (((s.awl p).ran 1 ((s.awl p).pc + 4)).withS d (imm.signExtend 64 <<< 16))) ∧
  (∀ (l : List Dword) (d r : Nat) (v : Dword), d < l.length → (setS l d v).getD r 0 = if r = d ∧ d ≠ 0 then v else l.getD r 0)

/-- Scratch loads and stores of an Awl: LW, LD and VLD take 4, 8 and 512 bytes, little-endian; SW, SD and VST store them. A misaligned
address or one past the end of scratch traps, and stores nothing. (R363, R373, R375, R381, R382.) -/
def Obligations.ScratchAccess : Prop :=
  (∀ (s : State) (p d a n : Nat) (imm : BitVec 16) (i : Instr), let x := ((s.awl p).s a + imm.signExtend 64).toNat
    (i, n) ∈ [(Instr.aLw p d a imm, 4), (.aLd p d a imm, 8)] → s.AwlReady p i [d, a] → x % n = 0 → x + n ≤ 0x40000 →
    (s.awl p).scrWritten x n = false → Answers i s fun t =>
      s.onlyAwl p t (((s.awl p).ran 1 ((s.awl p).pc + 4)).withS d (BitVec.ofNat 64 (leNat (scrRead (s.awl p).scr x n))))) ∧
  (∀ (s : State) (p d a n : Nat) (imm : BitVec 16) (i : Instr), let x := ((s.awl p).s a + imm.signExtend 64).toNat
    (i, n) ∈ [(Instr.aSw p d a imm, 4), (.aSd p d a imm, 8)] → s.AwlReady p i [d, a] → x % n = 0 → x + n ≤ 0x40000 →
    (s.awl p).scrBusy x n = false → Answers i s fun t =>
      s.onlyAwl p t { (s.awl p).ran 1 ((s.awl p).pc + 4) with scr := scrWrite (s.awl p).scr x (leBytes ((s.awl p).s d).toNat n) }) ∧
  (∀ (s : State) (p d sr : Nat), let x := ((s.awl p).s sr).toNat
    s.AwlReady p (.vld p d sr) [sr] → x % 4 = 0 → x + 512 ≤ 0x40000 → (s.awl p).scrWritten x 512 = false → Answers (.vld p d sr) s fun t =>
      s.onlyAwl p t (((s.awl p).ran 1 ((s.awl p).pc + 4)).withV d (BitVec.ofNat 4096 (leNat (scrRead (s.awl p).scr x 512))))) ∧
  (∀ (s : State) (p va sr : Nat), let x := ((s.awl p).s sr).toNat
    s.AwlReady p (.vst p va sr) [sr] → x % 4 = 0 → x + 512 ≤ 0x40000 → (s.awl p).scrBusy x 512 = false → Answers (.vst p va sr) s fun t =>
      s.onlyAwl p t { (s.awl p).ran 1 ((s.awl p).pc + 4) with scr := scrWrite (s.awl p).scr x (leBytes ((s.awl p).v va).toNat 512) }) ∧
  (∀ (s : State) (p d a n c : Nat) (imm : BitVec 16) (i : Instr), let x := ((s.awl p).s a + imm.signExtend 64).toNat
    (i, n) ∈ [(Instr.aLw p d a imm, 4), (.aLd p d a imm, 8), (.aSw p d a imm, 4), (.aSd p d a imm, 8)] → s.AwlReady p i [d, a] →
    (c = 6 ∧ x % n ≠ 0 ∨ c = 7 ∧ x % n = 0 ∧ 0x40000 < x + n) → Answers i s fun t =>
      (t.awl p).trapCause = BitVec.ofNat 4 c ∧ (t.awl p).trapAddr = BitVec.ofNat 48 x ∧ (t.awl p).ending = some (cBAD, 0) ∧
      (t.awl p).scr = (s.awl p).scr ∧ (t.awl p).sreg = (s.awl p).sreg ∧ t.cells = s.cells) ∧
  (∀ (m : SMap Byte) (x j : Nat) (l : List Byte), smWf 0 m = true →
    smGet 0 (scrWrite m x l) j = if x ≤ j ∧ j < x + l.length then l.getD (j - x) 0 else smGet 0 m j)

/-- Branches, JAL and JALR: the target in the code issues next, in 3 cycles; a branch not taken goes on in 1. JAL saves the next address
in s31, JALR in rd, its target read first. A target out of the code raises PC_RANGE. (R373, R381, R382.) -/
def Obligations.BranchesAndJumps : Prop :=
  (∀ (s : State) (p a b : Nat) (off : BitVec 16) (i : Instr) (c : Bool), let x := (s.awl p).s a; let y := (s.awl p).s b
    (i, c) ∈ [(Instr.aBeq p a b off, decide (x = y)), (.aBne p a b off, decide (x ≠ y)), (.aBlt p a b off, decide (x.toInt < y.toInt)),
      (.aBge p a b off, decide (y.toInt ≤ x.toInt)), (.aBltu p a b off, decide (x.toNat < y.toNat)), (.aBgeu p a b off, decide (y.toNat ≤ x.toNat))] →
    s.AwlReady p i [a, b] →
    (c = false → Answers i s fun t => s.onlyAwl p t ((s.awl p).ran 1 ((s.awl p).pc + 4))) ∧
    (∀ n : Nat, c = true → (n : Int) = (s.awl p).pc + 4 * off.toInt → n < 4 * (s.awl p).words.length → n < 32768 →
      Answers i s fun t => s.onlyAwl p t ((s.awl p).ran 3 n)) ∧
    (c = true → (s.awl p).pc + 4 * off.toInt < 0 → Answers i s fun t =>
      (t.awl p).trapCause = 0xB ∧ (t.awl p).ending = some (cBAD, 0) ∧ (t.awl p).sreg = (s.awl p).sreg ∧ t.cells = s.cells)) ∧
  (∀ (s : State) (p n : Nat) (off : BitVec 26), s.AwlReady p (.aJal p off) [31] → (n : Int) = (s.awl p).pc + 4 * off.toInt →
    n < 4 * (s.awl p).words.length → n < 32768 → Answers (.aJal p off) s fun t =>
      s.onlyAwl p t (((s.awl p).ran 3 n).withS 31 (BitVec.ofNat 64 ((s.awl p).pc + 4)))) ∧
  (∀ (s : State) (p d a n : Nat) (imm : BitVec 16), s.AwlReady p (.aJalr p d a imm) [d, a] →
    n = ((s.awl p).s a + imm.signExtend 64).toNat → n % 4 = 0 → n < 4 * (s.awl p).words.length → n < 32768 →
    Answers (.aJalr p d a imm) s fun t =>
      s.onlyAwl p t (((s.awl p).ran 3 n).withS d (BitVec.ofNat 64 ((s.awl p).pc + 4))))

/-- The state reads of an Awl, SYS NOP and SYS MWAIT. CYCLE reads the issue cycles so far and what the Awl has waited, of which the spec
fixes no number (log 6); MWAIT waits while more operations than min(rs1, 16) are outstanding. SYS HALT lets the part end OK; SYS FAIL ends
it with the code in rs1, or BAD_REQUEST for a code a part may not choose; a word that encodes no instruction raises ILLEGAL at its
address. (R368, R373, R374, R380, R381.) -/
def Obligations.SystemInstructions : Prop :=
  ((∀ (s : State) (p d : Nat) (i : Instr) (v : Dword),
    (i, v) ∈ [(Instr.mfsElapsed p d, s.mgmt.elapsed), (.mfsPhys p d, BitVec.ofNat 64 p), (.mfsGran p d, BitVec.ofNat 64 s.grans),
      (.mfsOutst p d, BitVec.ofNat 64 (s.awl p).memq.length), (.mfsIsa p d, 1)] →
    s.AwlReady p i [d] → Answers i s fun t =>
      s.onlyAwl p t (((s.awl p).ran 1 ((s.awl p).pc + 4)).withS d v)) ∧
  (∀ (s : State) (p d : Nat), s.AwlReady p (.mfsCycle p d) [d] → ∃ w : Word, Answers (.mfsCycle p d) s fun t =>
    s.onlyAwl p t { (s.awl p).ran 1 ((s.awl p).pc + 4) with
      cycle := (s.awl p).cycle + w.zeroExtend 64 + 1, sreg := setS (s.awl p).sreg d ((s.awl p).cycle + w.zeroExtend 64) }) ∧
  (∀ (s : State) (p : Nat), s.AwlReady p (.sysNop p) [] → Answers (.sysNop p) s fun t => s.onlyAwl p t ((s.awl p).ran 1 ((s.awl p).pc + 4))) ∧
  (∀ (s : State) (p a : Nat), s.AwlReady p (.sysMwait p a) [a] →
    ((s.awl p).memq.length ≤ min ((s.awl p).s a).toNat 16 → Answers (.sysMwait p a) s fun t =>
      s.onlyAwl p t ((s.awl p).ran 1 ((s.awl p).pc + 4))) ∧
    (min ((s.awl p).s a).toNat 16 < (s.awl p).memq.length → exec (.sysMwait p a) s = .next s))) ∧
  ((∀ (s : State) (p : Nat), s.AwlReady p (.sysHalt p) [] → Answers (.sysHalt p) s fun t =>
    s.onlyAwl p t { s.awl p with ending := some (cOK, 0), st := .ending }) ∧
  (∀ (s : State) (p a : Nat), s.AwlReady p (.sysFail p a) [a] → Answers (.sysFail p a) s fun t =>
    let k : BitVec 4 := ((s.awl p).s a).truncate 4
    t = { s with awls := t.awls, cnts := t.cnts, free := t.free } ∧ (∀ q, q ≠ p → t.awl q = s.awl q) ∧
    (t.awl p).ending = some (if k ∈ [cPOISON, cFENCED, cABORTED, cEXHAUSTED, cBROKEN, cINCOMPLETE] then k else cBAD, 0) ∧
    (t.awl p).trapCause = 0xD ∧ (t.awl p).trapValid = true ∧ (t.awl p).trapPc = BitVec.ofNat 15 (s.awl p).pc ∧
    (t.awl p).trapTime = s.mgmt.elapsed ∧ (t.awl p).sreg = (s.awl p).sreg ∧ (t.awl p).memq = (s.awl p).memq) ∧
  (∀ (s : State) (p : Nat), p < 136 → s.awls.length = 136 → s.runsCode p = true → ((s.awl p).word.bind (awlDecode p)) = none →
    (s.fr (.awl p)).inj = 0 → Answers (.illegalInstruction p) s fun t =>
      t = { s with awls := t.awls, cnts := t.cnts, free := t.free } ∧ (∀ q, q ≠ p → t.awl q = s.awl q) ∧
      (t.awl p).ending = some (cBAD, 0) ∧ (t.awl p).trapCause = 5 ∧ (t.awl p).trapValid = true ∧
      (t.awl p).trapPc = BitVec.ofNat 15 (s.awl p).pc ∧ (t.awl p).sreg = (s.awl p).sreg))

/-- The vector instructions: vd takes the result and nothing else changes but cycles and the program counter. (R364, R375, R376, R377,
R378, R382.) -/
def Obligations.VectorResults : Prop :=
  (∀ (s : State) (p d a b : Nat) (i : Instr) (f : Word → Word → Word),
    (i, f) ∈ [(Instr.vadd p d a b, add32), (.vsub p d a b, sub32), (.vmul p d a b, mul32), (.vmax p d a b, max32), (.vmin p d a b, min32)] →
    s.AwlReady p i [] → Answers i s fun t =>
      s.onlyAwl p t (((s.awl p).ran 1 ((s.awl p).pc + 4)).withV d (vOfWords (List.zipWith f (vWords ((s.awl p).v a)) (vWords ((s.awl p).v b)))))) ∧
  (∀ (s : State) (p d a b sr fmt sel k : Nat) (i : Instr) (regs : List Nat) (v : BitVec 4096),
    let x := (s.awl p).v a; let y := (s.awl p).v b; let z := (s.awl p).v d; let r := (s.awl p).s sr
    (i, regs, k, v) ∈ [
      (Instr.vmov p d a, [], 1, x), (.vexp p d a, [], 2, vOfWords ((vWords x).map exp32)),
      (.vmuls p d a sr, [sr], 1, vOfWords ((vWords x).map fun e => mul32 e (lo32 r))),
      (.viota p d sr, [sr], 1, vOfWords ((List.range 128).map fun j => itof32 (r.toInt + j))),
      (.vbcast p d sr fmt, [sr], 1, vOf (fmtBits fmt) (List.replicate (4096 / fmtBits fmt) (r.toNat % 2 ^ fmtBits fmt))),
      (.vfma p d a b, [], 1, vOfWords (List.zipWith (fun e c => fma32 e.1 e.2 c) (List.zipWith (fun e c => (e, c)) (vWords x) (vWords y)) (vWords z))),
      (.sacc p d a b sr, [sr], 1, vOfWords (List.zipWith (fun e c => fma32 ((vWords y).getD (r.toNat % 128) 0) e c) (vWords x) (vWords z))),
      (.vpack p d a fmt sel, [], 1, vPut (fmtBits fmt) (128 * sel) ((vWords x).map fun w => elemEnc fmt (dec32 w)) z)] →
    s.AwlReady p i regs → Answers i s fun t =>
      s.onlyAwl p t (((s.awl p).ran k ((s.awl p).pc + 4)).withV d v)) ∧
  (∀ (s : State) (p d a sr fmt sel mode : Nat), s.AwlReady p (.vcvt p d a sr fmt sel mode) [sr] → bits mode 1 2 ≠ 1 →
    Answers (.vcvt p d a sr fmt sel mode) s fun t =>
      s.onlyAwl p t (((s.awl p).ran 1 ((s.awl p).pc + 4)).withV d (vcvtElems fmt sel mode ((s.awl p).v a) [] (lo32 ((s.awl p).s sr))))) ∧
  (∀ (s : State) (p d a sr fmt sel mode n : Nat), let x := ((s.awl p).s sr).toNat
    s.AwlReady p (.vcvt p d a sr fmt sel mode) [sr] → bits mode 1 2 = 1 → n = (if bitN mode 0 then 8 else 4) → x + n ≤ 0x40000 →
    (s.awl p).scrWritten x n = false → Answers (.vcvt p d a sr fmt sel mode) s fun t =>
      s.onlyAwl p t (((s.awl p).ran 1 ((s.awl p).pc + 4)).withV d (vcvtElems fmt sel mode ((s.awl p).v a) (scrRead (s.awl p).scr x n)
        (lo32 ((s.awl p).s sr))))) ∧
  (∀ (s : State) (p d a b sr fmt mode : Nat), s.AwlReady p (.vdot p d a b sr fmt mode) [sr] → 1 ≤ vElems fmt / 32 / 2 ^ mode →
    ((s.awl p).s sr).toNat % 128 + vElems fmt / 32 / 2 ^ mode ≤ 128 → Answers (.vdot p d a b sr fmt mode) s fun t =>
      s.onlyAwl p t (((s.awl p).ran 1 ((s.awl p).pc + 4)).withV d (vPut 32 (((s.awl p).s sr).toNat % 128) ((vDots fmt (2 ^ mode) ((s.awl p).v a) ((s.awl p).v b)).map (·.toNat)) ((s.awl p).v d)))) ∧
  (∀ (s : State) (p d a sr : Nat) (i : Instr) (f : List Word → Word), let n := ((s.awl p).s sr).toNat
    (i, f) ∈ [(Instr.vfoldSum p d a sr, fun l => l.foldl add32 0), (.vfoldMax p d a sr, foldMax)] → s.AwlReady p i [sr] → 1 ≤ n → n ≤ 128 →
    Answers i s fun t =>
      s.onlyAwl p t (((s.awl p).ran (n + 2) ((s.awl p).pc + 4)).withV d (vPut 32 0 [(f ((vWords ((s.awl p).v a)).take n)).toNat] ((s.awl p).v d)))) ∧
  (∀ (s : State) (p a sr : Nat), s.AwlReady p (.vget p a sr) [sr] → Answers (.vget p a sr) s fun t =>
    s.onlyAwl p t (((s.awl p).ran 1 ((s.awl p).pc + 4)).withS sr ((((vWords ((s.awl p).v a)).getD (((s.awl p).s sr).toNat % 128) 0).zeroExtend 64))))

/-- A memory instruction in order joins the queue of its Awl and the next instruction issues; memory is untouched until the operation
retires. (R363, R379, R380, R381.) -/
def Obligations.MemoryOpsQueue : Prop :=
  (∀ (s : State) (p a b c n fn rc : Nat) (w : Bool) (i : Instr) (regs : List Nat) (q : Part),
    let x := ((s.awl p).s a).toNat; let m := ((s.awl p).s b).toNat; let k := ((s.awl p).s n).toNat
    (i, regs, fn, w, rc) ∈ [(Instr.mld p a b n, [a, b, 0, n], 0, true, ((s.awl p).s 0).toNat % 2),
      (.mst p a b n, [a, b, 0, n], 1, false, ((s.awl p).s 0).toNat % 2), (.mred p a b c n, [a, b, c, n], 2, false, ((s.awl p).s c).toNat % 2)] →
    s.AwlReady p i regs → (s.awl p).part = some q → 1 ≤ k → k ≤ 4096 → x % 64 = 0 → m % 64 = 0 → x + 64 * k ≤ 0x40000 →
    s.rangeOk m q.lch k = true → s.queueRoom p x (64 * k) → Answers i s fun t =>
      s.onlyAwl p t { (s.awl p).ran 1 ((s.awl p).pc + 4) with memq := (s.awl p).memq ++
        [{ func := fn, pc := (s.awl p).pc, sc := x, scLen := 64 * k, write := w, addr := m, frame := none, blocks := k, rc := rc, dest := 0, pages := [] }] }) ∧
  (∀ (s : State) (p a b c n fn : Nat) (w : Bool) (i : Instr),
    let x := ((s.awl p).s a).toNat; let f := ((s.awl p).s b).toNat % 2 ^ 24; let o := ((s.awl p).s c).toNat; let k := ((s.awl p).s n).toNat
    (i, fn, w) ∈ [(Instr.fld p a b c n, 3, true), (.fst p a b c n, 8, false)] → s.AwlReady p i [a, b, c, n] →
    (w = false → (s.awl p).kind ≠ 1) → 1 ≤ k → k ≤ 256 → o + 64 * k ≤ 16384 → o % 64 = 0 → x + 64 * k ≤ 0x40000 → s.inPools f = true →
    s.queueRoom p x (64 * k) → Answers i s fun t =>
      s.onlyAwl p t { (s.awl p).ran 1 ((s.awl p).pc + 4) with memq := (s.awl p).memq ++
        [{ func := fn, pc := (s.awl p).pc, sc := x, scLen := 64 * k, write := w, addr := o, frame := some f, blocks := k, rc := 0, dest := 0, pages := [] }] }) ∧
  (∀ (s : State) (p a b c fn o z : Nat) (w : Bool) (i : Instr) (regs : List Nat),
    let x := ((s.awl p).s a).toNat; let f := ((s.awl p).s b).toNat % 2 ^ 24
    (i, regs, fn, w, o) ∈ [(Instr.hld p a b, [a, b], 4, true, 0), (.hst p a b c, [a, b, c], 9, false, ((s.awl p).s c).toNat)] →
    s.AwlReady p i regs → (w = false → (s.awl p).kind ≠ 1) → o ≤ 255 → z = 256 - o → x + z ≤ 0x40000 → s.inPools f = true →
    s.queueRoom p x z → Answers i s fun t =>
      s.onlyAwl p t { (s.awl p).ran 1 ((s.awl p).pc + 4) with memq := (s.awl p).memq ++
        [{ func := fn, pc := (s.awl p).pc, sc := x, scLen := z, write := w, addr := o, frame := some f, blocks := 4, rc := 0, dest := 0, pages := [] }] }) ∧
  (∀ (s : State) (p a b fn : Nat) (i : Instr) (q : Part) (y : Nat),
    (i, fn) ∈ [(Instr.xlat p a b, 5), (.xlata p a b, 6)] → s.AwlReady p i [a, b] → (s.awl p).part = some q → q.ctx = some y →
    s.queueRoom p 0 0 → Answers i s fun t =>
      s.onlyAwl p t { (s.awl p).ran 1 ((s.awl p).pc + 4) with memq := (s.awl p).memq ++
        [{ func := fn, pc := (s.awl p).pc, sc := 0, scLen := 0, write := false, addr := 0, frame := none, blocks := 0, rc := 0, dest := a,
           pages := [((s.awl p).s b).toNat] }] }) ∧
  (∀ (s : State) (p a b c n : Nat) (q : Part) (y : Nat) (l : List Nat),
    let x := ((s.awl p).s a).toNat; let u := ((s.awl p).s b).toNat; let k := ((s.awl p).s c).toNat
    let first := ((s.awl p).s n).toNat % 256; let m := ((s.awl p).s n).toNat / 256 % 256 + 1
    s.AwlReady p (.pgath p a b c n) [a, b, c, n] → (s.awl p).part = some q → q.ctx = some y → 1 ≤ k → k ≤ 1024 → first + m ≤ 256 →
    u % 4 = 0 → x + 64 * k * m ≤ 0x40000 → u + 4 * k ≤ 0x40000 → (s.awl p).scrWritten u (4 * k) = false →
    l = ((List.range k).map fun j => leNat (scrRead (s.awl p).scr (u + 4 * j) 4) % 2 ^ 20) → (∀ g ∈ l, g < q.pages) →
    s.queueRoom p x (64 * k * m) → Answers (.pgath p a b c n) s fun t =>
      s.onlyAwl p t { (s.awl p).ran 1 ((s.awl p).pc + 4) with memq := (s.awl p).memq ++
        [{ func := 7, pc := (s.awl p).pc, sc := x, scLen := 64 * k * m, write := true, addr := first, frame := none, blocks := m, rc := 0,
           dest := 0, pages := l }] })

/-- MEM_OP_RETIRE completes the oldest operation of an Awl in service whose last channel work is done, and its accesses go to their
channel as the Awl's work. A one-block MLD fills scratch from the block, and traps when the read is answered POISON; a one-block MST
stores the scratch bytes as a write of that block does. An XLAT past the context's pages gives 0 and touches no memory. (R125, R379, R380,
R381.) -/
def Obligations.MemoryOpsRetire : Prop :=
  ∀ (s : State) (p : Nat) (o : MemOp) (l : List MemOp) (q : Part), p < 136 → s.awls.length = 136 → s.safe.on = false →
    s.seq.therm ≠ .emergency → s.isFenced (.awl p) = false → (s.fr (.awl p)).st ≠ .resetting → s.working (ownAwl p) = false →
    (s.awl p).memq = o :: l → (s.awl p).part = some q →
    (o.blocks = 1 → ∀ c off r, s.decode o.addr q.lch = some (c, off) → s.serving c = some r → r < s.ctls.length → s.shutAt c = false →
      (∀ b, o.func = 0 → s.paRead o.addr q.lch = (cOK, b) → Answers (.memOpRetire p) s fun t =>
        t = { s with awls := t.awls, cnts := t.cnts, free := t.free, ctls := t.ctls, uid := s.uid + 1,
                     jobs := s.jobs ++ [⟨ownAwl p, s.uid + 1, 1⟩] } ∧
        t.awl p = { s.awl p with memq := l, scr := scrWrite (s.awl p).scr o.sc (blockBytes b) } ∧ (∀ j, j ≠ p → t.awl j = s.awl j) ∧
        (∃ w, t.ctl r = { s.ctl r with inRd := (s.ctl r).inRd ++ [w] } ∧ w.port = ownAwl p ∧ w.cls = q.cls ∧ w.n = 1) ∧
        ∀ j, j ≠ r → t.ctl j = s.ctl j) ∧
      (∀ b, o.func = 0 → s.paRead o.addr q.lch = (cPOISON, b) → (s.awl p).ending = none → Answers (.memOpRetire p) s fun t =>
        (t.awl p).memq = l ∧ (t.awl p).ending = some (cPOISON, 0) ∧ (t.awl p).trapCause = 3 ∧ (t.awl p).trapCode = cPOISON ∧
        (t.awl p).trapPc = BitVec.ofNat 15 o.pc ∧ (t.awl p).trapAddr = BitVec.ofNat 48 o.addr ∧ (t.awl p).scr = (s.awl p).scr ∧
        t.cells = s.cells) ∧
      (∀ t0, o.func = 1 → s.paWrite o.addr q.lch (bytesBlock (scrRead (s.awl p).scr o.sc 64)) = (cOK, t0) →
        Answers (.memOpRetire p) s fun t =>
          t.cells = t0.cells ∧ (t.awl p).memq = l ∧ (t.awl p).scr = (s.awl p).scr ∧ (t.awl p).sreg = (s.awl p).sreg ∧
          t.jobs = s.jobs ++ [⟨ownAwl p, s.uid + 1, 1⟩])) ∧
    (o.func = 5 → q.pages ≤ o.pages.headD 0 → Answers (.memOpRetire p) s fun t =>
      s.onlyAwl p t { s.awl p with memq := l, sreg := setS (s.awl p).sreg o.dest 0 })

/-- A page call at a port (the eleven operations): taken with its tag free and its header and beat in order, with its engine awake, it
runs as one operation; its result waits for its channel work, or goes out at once where it has none. With its engine gated it is not
taken: the port keeps it offered, for the engine it wakes. As a PAGE node the same call runs with the engine as owner and the node ends
with its code; a LOCK that another owner holds ends the node BAD_REQUEST. (R17, R85, R125, R281, R282, R313.) -/
def Obligations.PageCalls : Prop :=
  (∀ (s : State) (n op pick : Nat) (h : WHdr) (b : Beat) (c : Instr), s.Wf →
    (c, op, pick) ∈ [(Instr.create (.port n h b), 1, 0), (.append (.port n h b) pick, 2, pick), (.commit (.port n h b), 3, 0),
      (.fork (.port n h b) pick, 4, pick), (.trim (.port n h b) pick, 5, pick), (.release (.port n h b), 6, 0), (.lock (.port n h b), 7, 0),
      (.unlock (.port n h b), 8, 0), (.query (.port n h b), 9, 0), (.patch (.port n h b) pick, 0x0A, pick), (.cold (.port n h b), 0x0B, 0)] →
    s.Offers n h.cls.toNat true (2 ^ 42) → (s.port n).openW = none → s.PoolFree n → s.tagUsed n h.tag.toNat = false → b.last = true →
    s.hdrBad (s.portLch n) opPage h = false → chkOk h.chkEn b = true → blkGet b.data 0 1 = op →
    (s.callGated b.data = none → (∀ l, s.shutAt l = false) →
      ∃ s1 : State, s1 = { s with ports := s1.ports, pools := s1.pools, cnts := s1.cnts, free := s1.free, uid := s.uid + 1 } ∧
        (∀ m, m ≠ n → s1.port m = s.port m) ∧ (s1.port n).rsp = (s.port n).rsp ∧ (s1.port n).openW = none ∧
        (∃ r, (s1.port n).tags = (s.port n).tags ++ [r] ∧ r.tag = h.tag.toNat ∧ r.op = opPage ∧ r.uid = s.uid + 1 ∧ r.cls = h.cls.toNat) ∧
        let r := ({ s1 with acc := [] } : State).pageCall n h.cls.toNat (s.portLch n) pick b.data
        let s2 := r.2.onReq n (s.uid + 1) fun q => { q with res := some (r.1.1, r.1.2.2) }
        let s3 : State := { (s2.settleAcc (ownCall n) h.cls.toNat (some (s.uid + 1))) with acc := s.acc }
        exec c s = .next (if s3.jobs.any fun j => j.own == ownCall n && j.uid == s.uid + 1 then s3 else s3.release n (s.uid + 1))) ∧
    (∀ y, s.callGated b.data = some y → Answers c s fun t =>
      t = { s with ports := t.ports } ∧ (t.port n).tags = (s.port n).tags ∧ (t.port n).callTo = some y)) ∧
  (∀ (s : State) (x k i op pick m m' : Nat) (s2 s4 : State) (c : Instr) (b : Block), s.Wf →
    (c, op, pick) ∈ [(Instr.create (.node x k i), 1, 0), (.append (.node x k i) pick, 2, pick), (.commit (.node x k i), 3, 0),
      (.fork (.node x k i) pick, 4, pick), (.trim (.node x k i) pick, 5, pick), (.release (.node x k i), 6, 0), (.lock (.node x k i), 7, 0),
      (.unlock (.node x k i), 8, 0), (.query (.node x k i), 9, 0), (.patch (.node x k i) pick, 0x0A, pick), (.cold (.node x k i), 0x0B, 0)] →
    s.readyNode x k i tPAGE = true → s.EngineFree x → resGet (s.params x k i) = .ok m → nf m 0x20 0 8 = op →
    s.callGated (BitVec.ofNat 512 (nf m 0x20 0 512)) = none →
    let s1 := ({ s with acc := [] } : State).startOne x k i
    s1.ask (s1.params x k i) = (.ok m', s2) → nf m' 0x68 0 1 = 0 →
    let s3 := s2.onNode x k i fun nd => { nd with par := BitVec.ofNat 1024 m' }
    s3.ask (s3.nodeCall x k m') = (.ok b, s4) →
    let r := s4.pageCall (0x200 + x) (s4.node x k i).cls (callDec b).origin pick b
    let held := (callDec b).op = 7 ∧ r.1.1 = cOK ∧ r.1.2.1 ≠ 0
    let done := (r.1.1 = cOK ∧ ¬ held) ∨ ((callDec b).op = 7 ∧ r.1.1 = cBROKEN)
    exec c s = .next { ((r.2.endNode x k i (if done then .done else .failed) (if held then cBAD else r.1.1) r.1.2.1).settleAcc
      (ownHar x) (s.node x k i).cls none) with acc := s.acc })

/-- What a page call does, with an engine in service and no parity source armed: QUERY changes nothing and answers the record; a call that
its record's state does not permit answers BAD_REQUEST with detail CTX; one that needs the lock of a context its owner does not hold
answers detail 2; LOCK of a free context gives it to the caller under the next generation; LOCK of a held one answers OK with detail 9 and
changes nothing; CREATE makes a FREE context live; APPEND past 2^24 tokens changes nothing. PD_ORPHAN orphans an owner's locks;
EPOCH_CHECK with no reader of the other epoch makes the frames of that epoch free again. (R267, R283, R284, R287, R294, R296, R297, R298,
R327.) -/
def Obligations.PageOperations : Prop :=
  (∀ (s s1 : State) (o cls org pick : Nat) (b : Block) (r : PRec), let c := callDec b
    (s.executor (c.ctx / 262144)).isSome = true → s.unarmed .pageDir → callBad b = false → s.ask (s.readRec c.ctx) = (.ok r, s1) →
    let t := s.pageCall o cls org pick b
    let same : Prop := t.2 = { s with acc := t.2.acc }
    (c.permitted r.state = true → c.op = 9 → t.1 = (cOK, 0, s.resultOf c.ctx cOK 0 0 0 0) ∧ same) ∧
    (c.permitted r.state = false → t.1 = (cBAD, dCTX, s.resultOf c.ctx cBAD dCTX 0 0 0) ∧ same) ∧
    (c.permitted r.state = true → c.needsLock = true → c.lockGen = 0 → t.1 = (cBAD, 2, s.resultOf c.ctx cBAD 2 0 0 0) ∧ same) ∧
    (c.permitted r.state = true → c.op = 7 → r.held = true → r.orphaned = false → t.1 = (cOK, 9, s.resultOf c.ctx cOK 9 0 0 0) ∧ same) ∧
    (∀ s' : State, c.permitted r.state = true → c.op = 7 → r.held = false → r.orphaned = false → s.pd.locks.length < 4096 →
      s.paWrite (s.recAt c.ctx) 0 (recEnc { r with lock := 1 + o * 4 + c.tag * 2 ^ 16 + (r.lockGen % 65535 + 1) * 2 ^ 32 }) = (cOK, s') →
      t.1.1 = cOK ∧ t.1.2.1 = 0 ∧ t.2.cells = s'.cells ∧
      t.2.pd.locks = (s'.pd.locks.filter fun k => k.ctx != c.ctx) ++ [⟨c.ctx, o, false⟩]) ∧
    (∀ s' : State, c.permitted r.state = true → c.op = 1 → r.held = false → c.lockGen = 0 → c.arg0 < 2 ^ 9 → bits c.arg0 0 4 ≤ 6 →
      bits c.arg0 4 2 ≠ 3 → bits c.arg0 6 1 = 1 ∨ bits c.arg0 7 2 = 0 →
      s.paWrite (s.recAt c.ctx) 0 (recEnc { state := 1, fmt := bits c.arg0 0 4, dim := bits c.arg0 4 2, kind := bits c.arg0 6 1, quad := bits c.arg0 7 2, committed := 0, staged := 0, pages := 0, roots := [0, 0, 0, 0], lock := r.lock, gen := (r.gen + 1) % 2 ^ 32 }) = (cOK, s') →
      t.1.1 = cOK ∧ t.2 = { s' with pd := { s'.pd with live := s'.pd.live + 1 }, acc := t.2.acc }) ∧
    (c.permitted r.state = true → c.op = 2 → c.commit = true → r.held = false → c.lockGen = 0 → 1 ≤ c.arg0 → c.arg0 ≤ 4096 → c.addr % 64 = 0 →
      2 ^ 24 < r.staged + c.arg0 → t.1 = (cBAD, dRANGE, s.resultOf c.ctx cBAD dRANGE 0 0 0) ∧ same)) ∧
  (∀ (s : State) (v : Word), s.mgReady .pageDir → keyed v = true → Answers (.pdOrphan v) s fun t =>
    (t.pd.locks = s.pd.locks.map fun l => if s.pd.locks.any (fun k => k.ctx == l.ctx && k.owner == fld v 0 10 && !k.orphaned)
      then { l with orphaned := true } else l) ∧ t.pd.held = s.pd.held ∧ t.hars = s.hars ∧ s.granted t) ∧
  (∀ (s : State) (v : Word), s.Wf → s.mgReady .pageDir → keyed v = false → Answers (.pdOrphan v) s fun t =>
    t.pd = s.pd ∧ t.cells = s.cells ∧ (t.fr .pageDir).ctrlRej = true ∧ s.granted t) ∧
  (∀ s : State, s.isRunning = true → (∀ x < 8, s.engLost x = true ∨ s.readers x (!s.pd.epoch) = 0) → Answers .epochCheck s fun t =>
    t.pd = { s.pd with epoch := !s.pd.epoch, returning := s.pd.returning.filter fun r => r.2.2 != !s.pd.epoch }) ∧
  (∀ (s : State) (x : Nat), s.isRunning = true → x < 8 → s.engLost x = false → s.readers x (!s.pd.epoch) ≠ 0 → exec .epochCheck s = .next s)

/-- A Harness from its submission to its record. HAR_SUBMIT with the key takes the lowest free slot, which is VALIDATING; a wrong key or a
submission waiting refuses it. HARNESS_CHECK_DONE ends the Harness with the code of the check that fails, or starts it; the record frees
its slot; a read of HAR_END takes the oldest entry; HAR_CANCEL ends a Harness being checked ABORTED, takes every node with always = 0 not
dispatched out of a running one and stops its running nodes, and refuses a slot that holds none. (R303, R304, R318, R330, R331, R332,
R333, R339.) -/
def Obligations.HarnessLife : Prop :=
  (∀ (s : State) (x k : Nat) (v : Word), s.Wf → x < 8 → s.mgReady (.harness x) → keyed v = true → fld v 0 1 = 1 → (s.har x).subBusy = false →
    let a := (s.har x).subLo.toNat / 64 * 64 + bits (s.har x).subHi.toNat 0 16 * 2 ^ 32
    let g := bits (s.har x).subHi.toNat 16 7
    (s.winOf a).isSome = true → (s.decode a g).isSome = true → s.takesSlots x = true → s.seq.therm ≠ .stopping → (s.har x).waitQ = [] →
    s.freeSlotOf x = some k → Answers (.harSubmit x v) s fun t =>
      t.slot x k = { st := .validating, seq := (s.har x).seq + 1, addr := a, origin := g, subCls := bits (s.har x).subHi.toNat 24 4, tSub := s.mgmt.elapsed } ∧
      (∀ j, j ≠ k → t.slot x j = s.slot x j) ∧ (t.har x).subBusy = false ∧ (t.har x).subCode = cOK ∧ (t.har x).subSlot = BitVec.ofNat 6 k ∧
      (∀ y, y ≠ x → t.har y = s.har y) ∧ t.cells = s.cells ∧ s.granted t) ∧
  (∀ (s : State) (x : Nat) (v : Word), s.Wf → x < 8 → s.mgReady (.harness x) → keyed v = false ∨ (s.har x).subBusy = true →
    Answers (.harSubmit x v) s fun t => t.hars = s.hars ∧ (t.fr (.harness x)).ctrlRej = true ∧ s.granted t) ∧
  (∀ (s s1 : State) (x k : Nat) (r : Except (BitVec 4 × Nat) Block), s.Wf → x < 8 → k < 64 → (s.slot x k).st = .validating →
    s.engLost x = false → s.safe.on = false → (s.fr (.harness x)).st ≠ .gated → s.AgentFree (ownHar x) →
    let s0 : State := { s with acc := [] }
    s0.ask (s0.blkRes (s.slot x k).addr (s.slot x k).origin) = (r, s1) →
    (∀ c d, r = .error (c, d) → Answers (.harnessCheckDone x k) s fun t =>
      (t.slot x k).st = .ended ∧ (t.slot x k).code = c ∧ (t.har x).rejCode = c ∧ (t.har x).rejValid = true ∧ t.cells = s.cells) ∧
    (∀ b s3 q, r = .ok b → let s2 := s1.onSlot x k fun l => slotDesc l b
      s2.ask (s2.checkGraph x k b) = (q, s3) →
      (∀ c d i, q = .ok (.fail c d i) ∨ (q = .error (c, d) ∧ i = none) → Answers (.harnessCheckDone x k) s fun t =>
        (t.slot x k).st = .ended ∧ (t.slot x k).code = c ∧ (t.slot x k).detail = d ∧ (t.slot x k).fail = i ∧ (t.har x).rejValid = true ∧
        t.cells = s.cells) ∧
      (∀ nodes lists t0, q = .ok (.pass nodes lists) → s.seq.therm ≠ .stopping → s.seq.therm ≠ .stopped → s.seq.therm ≠ .emergency →
        let s4 := s3.onSlot x k fun l => { l with nodes := nodes }
        let area := ((List.range nodes.length).flatMap (s4.slot x k).entry) ++ lists
        let z := ceilDiv area.length 64
        s4.paWriteN (s4.slot x k).work (s4.slot x k).origin z (area ++ List.replicate (64 * z - area.length) 0) = (cOK, t0) →
        Answers (.harnessCheckDone x k) s fun t =>
          t = { ((t0.onSlot x k fun l => { l with st := .running }).settleAcc (ownHar x) (s.slot x k).subCls none) with acc := s.acc } ∧
          (t.slot x k).nodes = nodes ∧ (t.slot x k).st = .running))) ∧
  (∀ (s : State) (x k : Nat) (t0 : State), s.Wf → x < 8 → k < 64 → (s.slot x k).st = .ended → s.engLost x = false → s.safe.on = false →
    s.seq.therm ≠ .emergency → (s.slot x k).read = true → (s.har x).waitQ = [] →
    s.paWrite (s.slot x k).doneAt (s.slot x k).origin (s.record x k) = (cOK, t0) → Answers (.completionRecordWritten x k) s fun t =>
      t.slot x k = {} ∧ (∀ j, j ≠ k → t.slot x j = s.slot x j) ∧ t.cells = t0.cells ∧
      ((s.slot x k).irqEnd = false → (t.har x).endQ = (s.har x).endQ ∧ (t.har x).ev = (s.har x).ev) ∧
      ((s.slot x k).irqEnd = true → (s.har x).endQ.length < 64 → (t.har x).endQ.length = (s.har x).endQ.length + 1 ∧ (t.har x).ev.getLsbD 0 = true)) ∧
  (∀ (s : State) (x : Nat), s.Wf → x < 8 → s.mgReady (.harness x) →
    (∀ w l, (s.har x).endQ = w :: l → Answers (.harEndRead x) s fun t =>
      t.har x = { s.har x with endQ := l } ∧ t.mgmt.rsp = s.mgmt.rsp ++ [(w, cOK)] ∧ ∀ y, y ≠ x → t.har y = s.har y) ∧
    ((s.har x).endQ = [] → Answers (.harEndRead x) s fun t => t.hars = s.hars ∧ t.mgmt.rsp = s.mgmt.rsp ++ [(0, cOK)])) ∧
  (∀ (s : State) (x : Nat) (v : Word), s.Wf → x < 8 → s.mgReady (.harness x) → keyed v = true → fld v 8 1 = 1 → let k := fld v 0 6
    ((s.slot x k).st = .free ∨ (s.slot x k).st = .ended → Answers (.harCancel x v) s fun t =>
      (∀ j, t.slot x j = s.slot x j) ∧ (t.fr (.harness x)).ctrlRej = true ∧ t.cells = s.cells ∧ s.granted t) ∧
    ((s.slot x k).st = .validating → Answers (.harCancel x v) s fun t =>
      (t.slot x k).st = .ended ∧ (t.slot x k).code = cABORTED ∧ (t.slot x k).detail = dCANCEL ∧ (∀ j, j ≠ k → t.slot x j = s.slot x j) ∧
      t.cells = s.cells ∧ s.granted t) ∧
    ((s.slot x k).st = .running → Answers (.harCancel x v) s fun t =>
      ((t.slot x k).st = .cancelling ∨ (t.slot x k).st = .ended) ∧
      (∀ i < (s.slot x k).nodes.length, (s.node x k i).always = false → (s.node x k i).st = .waiting ∨ (s.node x k i).st = .ready →
        (t.node x k i).st = .notRun) ∧
      (∀ i < (s.slot x k).nodes.length, (s.node x k i).st = .running → limited (s.node x k i).ty = true →
        (t.node x k i).st = .failed ∧ (t.node x k i).code = cABORTED ∧ (t.node x k i).detail = dCANCEL) ∧
      (∀ i < (s.slot x k).nodes.length, (s.node x k i).st = .running → (s.node x k i).ty = tPAGE → (t.node x k i).st = .running)))

/-- Nodes an engine runs: a READY node whose parameters pass is dispatched and ends. NOP ends DONE, and each successor that awaited
nothing else waits no more; SIGNAL ends with the code of its store or add, and in mode bit 1 queues its entry; BUCKET writes its lists,
counting what it sorted, and ends DONE, or FAILED with the code of its input. One whose parameters fail ends FAILED with their code.
NODE_LIMIT ends a running node that the limit holds for ABORTED with LIMIT; ENG_STALL fences the engine. (R317, R320, R321, R323, R326,
R341.) -/
def Obligations.EngineNodes : Prop :=
  (∀ (s s2 : State) (x k i ty : Nat) (r : Except (BitVec 4 × Nat) Nat) (c : Instr), s.Wf →
    (c, ty) ∈ [(Instr.nop x k i, tNOP), (.signal x k i, tSIGNAL), (.bucket x k i, tBUCKET)] →
    s.readyNode x k i ty = true → s.EngineFree x →
    let s1 := ({ s with acc := [] } : State).startOne x k i
    s1.ask (s1.params x k i) = (r, s2) →
    (∀ e d, r = .error (e, d) → Answers c s fun t =>
      (t.node x k i).st = .failed ∧ (t.node x k i).code = e ∧ (t.node x k i).detail = d) ∧
    (∀ m, r = .ok m →
      let s3 := s2.onNode x k i fun nd => { nd with par := BitVec.ofNat 1024 m }
      let g := (s3.slot x k).origin
      let a := nf m 0x20 0 48
      (ty = tNOP → Answers c s fun t => (t.node x k i).st = .done ∧ (t.node x k i).code = cOK ∧
        ∀ j ∈ (s.node x k i).succ, j < (s.slot x k).nodes.length → (s.node x k j).await ≤ 1 → (t.node x k j).st ≠ .waiting) ∧
      (∀ t0, ty = tSIGNAL → nf m 0x30 0 1 = 0 → s3.paPatch a g (leBytes (nf m 0x28 0 64) 8) = (cOK, t0) → Answers c s fun t =>
          (t.node x k i).st = .done ∧
          (nf m 0x30 1 1 = 1 → (s.har x).endQ.length < 64 → (t.har x).endQ.length = (s.har x).endQ.length + 1 ∧ (t.har x).ev.getLsbD 1 = true) ∧
          (nf m 0x30 1 1 = 0 → (t.har x).endQ = (s.har x).endQ)) ∧
      (∀ t0 b, ty = tSIGNAL → nf m 0x30 0 1 = 1 → s3.paRead (a / 64 * 64) g = (cOK, b) →
        (s3.touchRd (a / 64 * 64) g 1).paPatch a g (leBytes (blkGet b (a % 64) 8 + nf m 0x28 0 64) 8) = (cOK, t0) →
        Answers c s fun t => (t.node x k i).st = .done) ∧
      (∀ s4 q, ty = tBUCKET → s3.ask (s3.bucketInput g m) = (q, s4) →
        (∀ e d, q = .error (e, d) → Answers c s fun t =>
          (t.node x k i).st = .failed ∧ (t.node x k i).code = e ∧ (t.node x k i).detail = d) ∧
        (∀ l t0, q = .ok l →
          let lists := (List.range (nf m 0x28 16 4)).map fun b => l.filter fun e => bucketFor m e.2.1 == b
          ((lists.zipIdx).forM fun (e : List (Nat × Nat × Nat) × Nat) =>
            (sPut (nf m 0x30 0 48 + e.2 * (64 * ceilDiv (64 + 16 * nf m 0x28 0 13) 64)) g (bucketList e.1) : SM Unit)).run.run s4 = (.ok (), t0) →
          Answers c s fun t => (t.node x k i).st = .done ∧ (t.node x k i).prog = l.length)))) ∧
  (∀ (s : State) (x k i : Nat), s.Wf → x < 8 → k < 64 → i < (s.slot x k).nodes.length → (s.slot x k).limit ≠ 0 →
    limited (s.node x k i).ty = true → (s.slot x k).st.active = true → (s.node x k i).st = .running → Answers (.nodeLimit x k i) s fun t =>
      (t.node x k i).st = .failed ∧ (t.node x k i).code = cABORTED ∧ (t.node x k i).detail = dLIMIT ∧
      ∀ a ∈ t.awls, ∀ q, a.part = some q → q.of x k i = false) ∧
  (∀ (s : State) (x k i : Nat), s.Wf → x < 8 → k < 64 → i < (s.slot x k).nodes.length → (s.slot x k).st.active = true →
    (s.node x k i).st = .ready → s.paused x = false → s.engLost x = false → s.unarmed (.harness x) → Answers (.engStall x k i) s fun t =>
      t.isFenced (.harness x) = true)

/-- Nodes a mover runs. A READY COPY, FILL or unordered REDUCE node takes the lowest idle channel of its target's mover block; with every
channel halted, or the block fenced, it ends FENCED with NO_MOVER. A node that runs moves one block at a time: COPY the source block, FILL
the pattern, an unordered REDUCE the sum of source and destination; with its last block it is DONE and its channel idle. MOVER_RELEASE
with the key makes the halted channels it names idle. (R311, R314, R338, R340.) -/
def Obligations.MoverNodes : Prop :=
  (∀ (s s2 : State) (x k i ty op m ch : Nat) (c : Instr), s.Wf →
    (c, ty, op) ∈ [(Instr.copy x k i 0, tCOPY, 0), (.fill x k i 0, tFILL, 1), (.reduce x k i 0, tREDUCE, 2)] →
    s.readyNode x k i ty = true → s.EngineFree x → resGet (s.params x k i) = .ok m →
    let s1 := ({ s with acc := [] } : State).startOne x k i
    s1.ask (s1.params x k i) = (.ok m, s2) → (ty = tREDUCE → nf m 0x34 1 1 = 0) → nTgt m < 8 →
    (s.isFenced (.movers (nTgt m)) = false → s.movStops (nTgt m) = false →
      (∀ j < ch, ((s.mov (nTgt m)).ch.getD j {}).st ≠ 0) → ch < 4 → ((s.mov (nTgt m)).ch.getD ch {}).st = 0 → Answers c s fun t =>
        (∃ u, s.uid < u ∧
          (t.mov (nTgt m)).ch.getD ch {} = { st := 1, op := BitVec.ofNat 2 op, eng := BitVec.ofNat 3 x, slot := BitVec.ofNat 6 k, node := BitVec.ofNat 13 i, uid := u }) ∧
        (∀ j, j ≠ ch → (t.mov (nTgt m)).ch.getD j {} = (s.mov (nTgt m)).ch.getD j {}) ∧ (∀ y, y ≠ nTgt m → t.mov y = s.mov y) ∧
        (t.node x k i).st = .running ∧ (t.node x k i).mover = some (nTgt m, ch)) ∧
    (s.isFenced (.movers (nTgt m)) = true ∨ (∀ h ∈ (s.mov (nTgt m)).ch, h.st = 2) → Answers c s fun t =>
      (t.node x k i).st = .failed ∧ (t.node x k i).code = cFENCED ∧ (t.node x k i).detail = dNOMOVER ∧ t.movs = s.movs)) ∧
  (∀ (s : State) (x k i ty y m n : Nat) (c : Instr) (v : Block) (t0 : State), s.Wf →
    (c, ty) ∈ [(Instr.copy x k i 1, tCOPY), (.fill x k i 1, tFILL), (.reduce x k i 1, tREDUCE)] → x < 8 → k < 64 →
    i < (s.slot x k).nodes.length → (s.node x k i).st = .running → (s.node x k i).ty = ty → s.safe.on = false → s.seq.therm ≠ .emergency →
    (s.node x k i).mover = some (y, m) → y < 8 → m < 4 → s.unarmed (.movers y) → s.isFenced (.movers y) = false →
    s.AgentFree (ownMov y m) → n = (s.node x k i).par.toNat → nTy n = ty → (ty = tREDUCE → nf n 0x34 1 1 = 0) →
    let j := ((s.mov y).ch.getD m {}).done.toNat
    let g := (s.slot x k).origin
    j < nf n 0x30 0 24 → j + 1 < 2 ^ 24 →
    (ty = tCOPY → s.paRead (movSrc n j) g = (cOK, v)) →
    (ty = tFILL → v = BitVec.ofNat 512 (leNat ((List.range 8).flatMap fun _ => leBytes (nf n 0x28 0 64) 8))) →
    (ty = tREDUCE → ∃ a b, s.paRead (movSrc n j) g = (cOK, a) ∧ s.paRead (movDst n j) g = (cOK, b) ∧ v = redBlock (nf n 0x34 0 1) b a) →
    s.paWrite (movDst n j) g v = (cOK, t0) → Answers c s fun t =>
      (j + 1 < nf n 0x30 0 24 → t.cells = t0.cells ∧ (t.node x k i).st = .running ∧ (t.node x k i).prog = (s.node x k i).prog + 1 ∧
        ((t.mov y).ch.getD m {}).done.toNat = j + 1) ∧
      (j + 1 = nf n 0x30 0 24 → (t.node x k i).st = .done ∧ (((s.mov y).ch.getD m {}).st = 1 → ((t.mov y).ch.getD m {}).st = 0))) ∧
  (∀ (s : State) (x : Nat) (v : Word), s.Wf → x < 8 → s.mgReady (.movers x) → keyed v = true → Answers (.moverRelease x v) s fun t =>
    (∀ m < 4, (t.mov x).ch.getD m {} =
      if v.getLsbD m = true ∧ ((s.mov x).ch.getD m {}).st = 2 then { (s.mov x).ch.getD m {} with st := 0 } else (s.mov x).ch.getD m {}) ∧
    (∀ y, y ≠ x → t.mov y = s.mov y) ∧ t.cells = s.cells ∧ t.hars = s.hars ∧ s.granted t)

/-- Nodes the Awls run, and their parts. A dispatch makes one part for each channel of the node, and the part whose Awl has room joins its
queue; PART_ENTRY starts the next part with every register clear, and for a program with the registers of its arguments; PART_END takes a
part that has ended off its Awl, and its node ends with its last part; IDENT writes the 64 bytes of its identity block, CONVERT its share
of the elements, or ends BAD_REQUEST for a format code out of range. (R310, R316, R322, R323, R365, R368.) -/
def Obligations.AwlNodes : Prop :=
  (∀ (s s1 : State) (x k i ty m : Nat) (c : Instr)
      (prep : State → Nat → Res (List Nat × Block × List (Nat × Nat) × List (Nat × BitVec 4 × Nat)))
      (chans : List Nat) (rb : Block) (snap : List (Nat × Nat)) (err : List (Nat × BitVec 4 × Nat)), s.Wf →
    (c, ty, prep) ∈ [
      (Instr.score x k i, tSCORE, fun s m => s.fanOut (nf m 0x20 0 21) (nf m 0x28 0 20) (nf m 0x2C 0 21) true),
      (.partialAtt x k i, tPARTIAL, fun s m => s.fanOut (nf m 0x20 0 21) (nf m 0x34 0 20) (nf m 0x38 0 21) (nf m 0x30 0 1 == 0)),
      (.select x k i, tSELECT, fun _ m => pure ([nTgt m], 0, [], [])), (.merge x k i, tMERGE, fun _ m => pure ([nTgt m], 0, [], [])),
      (.awlProg x k i, tPROG, fun _ m => pure (progChans m, 0, [], []))] →
    s.readyNode x k i ty = true → s.EngineFree x →
    let s0 : State := { s with acc := [] }
    s0.ask (do let n ← s0.params x k i; pure (n, ← prep s0 n)) = (.ok (m, chans, rb, snap, err), s1) →
    s.somePart (chans.zipIdx.map fun (l, j) => { part := j, lch := l }) = true → Answers c s fun t =>
      ((t.node x k i).parts.map fun q => q.lch) = chans ∧ (t.node x k i).snap = snap ∧ (t.node x k i).recb = rb ∧
      (t.node x k i).snapErr = err ∧ ((t.node x k i).st = .running ∨ ∀ q ∈ (t.node x k i).parts, q.ended.isSome = true) ∧
      (∀ l p, chans = [l] → s.serving l = some p → s.awlDoing p = some p → p < 136 → (s.awl p).own < 4 →
        (t.node x k i).st = .running ∧ ∃ q, (t.awl p).waitQ = (s.awl p).waitQ ++ [q] ∧ q.of x k i = true ∧ q.part = 0 ∧ q.lch = l ∧ q.ty = ty)) ∧
  (∀ (s : State) (p : Nat) (q : Part) (l : List Part), p < 136 → s.awls.length = 136 → s.awlStops p = false → s.AgentFree (ownAwl p) →
    (s.awl p).part = none → (s.awl p).waitQ = q :: l → (s.awl p).carryQ = [] → q.kind ≠ 1 → (s.awl p).patchOf q = none →
    (q.ty ≠ 10 → Answers (.partEntry p) s fun t =>
      t = { s with awls := t.awls, cnts := t.cnts, free := t.free } ∧ (∀ r, r ≠ p → t.awl r = s.awl r) ∧ (t.awl p).part = some q ∧
      (t.awl p).st = .running ∧ (t.awl p).waitQ = l ∧ (t.awl p).sreg = List.replicate 32 0 ∧ (t.awl p).vreg = List.replicate 16 0 ∧
      (t.awl p).scr = [] ∧ (t.awl p).memq = [] ∧ (t.awl p).pc = 0 ∧ (t.awl p).cycle = 0 ∧ (t.awl p).lastCarry = false) ∧
    (∀ s1 bs, q.ty = 10 → q.ctx = none → ({ s with acc := [] } : State).ask (s.paBytes q.args q.origin (64 * q.argLen)) = (.ok bs, s1) →
      Answers (.partEntry p) s fun t =>
        (t.awl p).st = .running ∧ (t.awl p).pc = 0 ∧ (t.awl p).scr = scrWrite [] 0 bs ∧ (t.awl p).s 1 = BitVec.ofNat 64 q.part ∧
        (t.awl p).s 2 = BitVec.ofNat 64 q.parts ∧ (t.awl p).s 3 = BitVec.ofNat 64 (64 * q.argLen) ∧ (t.awl p).s 4 = BitVec.allOnes 64 ∧
        (t.awl p).s 8 = BitVec.ofNat 64 q.lch ∧ (t.awl p).s 9 = BitVec.ofNat 64 q.cls ∧ (t.awl p).s 0 = 0 ∧ t.cells = s.cells)) ∧
  (∀ (s : State) (x k i j p d : Nat) (c : BitVec 4) (q : Part) (u : PartSt), s.Wf → x < 8 → k < 64 → i < (s.slot x k).nodes.length → p < 136 →
    (s.node x k i).st = .running → (s.node x k i).parts = [u] → u.part = j → u.phys = some p → u.ended = none →
    (s.awl p).part = some q → q.of x k i = true → q.part = j → (s.awl p).ending = some (c, d) → (s.awl p).memq = [] →
    s.working (ownAwl p) = false → Answers (.partEnd x k i j) s fun t =>
      (t.awl p).part = none ∧ (t.awl p).st = .idle ∧ (t.awl p).parts = satAdd (s.awl p).parts 1 ∧
      (t.node x k i).st = (if c = cOK then .done else .failed) ∧ (t.node x k i).code = c) ∧
  (∀ (s : State) (p : Nat) (q : Part) (t0 : State), p < 136 → s.awls.length = 136 → (s.awl p).part = some q → q.ty = tPROG → q.kind = 0 →
    (s.awl p).ending = none → (s.awl p).byCode = false → (s.awl p).st = .running → s.unarmed (.awl p) → s.AgentFree (ownAwl p) →
    (q.routine = 0x100 → s.identAddr p % 64 = 0 →
      s.paPatch (s.identAddr p) q.lch ([BitVec.ofNat 8 p, BitVec.ofNat 8 q.lch, 1, BitVec.ofNat 8 q.part] ++ leBytes s.build.toNat 4 ++
        List.replicate 56 0) = (cOK, t0) → Answers (.ident p) s fun t => t.cells = t0.cells ∧ (t.awl p).ending = some (cOK, 0)) ∧
    (q.routine = 0x100 → s.identAddr p % 64 ≠ 0 → Answers (.ident p) s fun t =>
      t.cells = s.cells ∧ (t.awl p).ending = some (cBAD, 0) ∧ (t.awl p).trapCause = 6 ∧ (t.awl p).trapAddr = BitVec.ofNat 48 (s.identAddr p)) ∧
    (q.routine = 0x101 → ((convertPart p q).run.run { s with acc := [] }) = (.ok (), t0) → t0.awls.length = 136 → Answers (.convert p) s fun t =>
      t.cells = t0.cells ∧ (t.awl p).ending = some (cOK, 0)) ∧
    (q.routine = 0x101 → 7 ≤ leNat ((scrRead (s.awl p).scr 20 1)) → Answers (.convert p) s fun t =>
      t.cells = s.cells ∧ (t.awl p).ending = some (cBAD, 0)))

/-- FRAME_CTRL, as QUIESCE, RESUME_INTAKE, UNIT_RESET, CNT_FREEZE and CNT_CLEAR write it. Every write sets cnt_freeze of the unit and of
everything beneath it, and cnt_clear clears their counters. Quiesce stops the intake of the unit and of everything beneath that takes a
quiesce, and a CTL unit's or a channel's port is held; with neither quiesce nor reset the intake resumes and the unit's holds end. Reset,
with the key, puts the unit and everything beneath it into RESETTING with masks and injections clear, or waits for the end of a flip. A
write the unit's type does not permit, or a reset without the key, changes no frame but its ctrl_rej. (R12, R27, R33, R395, R397, R398.) -/
def Obligations.UnitControl : Prop :=
  ∀ (s : State) (u : UnitId) (v : Word) (c : Instr), s.Wf → s.mgReady u →
    c ∈ [Instr.quiesce u v, .resumeIntake u v, .unitReset u v, .cntFreeze u v, .cntClear u v] →
    (u.canQuiesce = true → v.getLsbD 0 = true → v.getLsbD 1 = false → Answers c s fun t =>
      (∀ w ∈ u.subtree, quiescable w = true → (s.fr w).st ≠ .resetting → (t.fr w).quiesce = true ∧
        (t.fr w).st = (if (s.fr w).st = .running then .quiescing else if (s.fr w).st = .gated then .quiesced else (s.fr w).st)) ∧
      (∀ w ∈ u.subtree, (t.fr w).cntFreeze = v.getLsbD 4) ∧ (∀ w, w.ok = true → w ∉ u.subtree → t.fr w = s.fr w) ∧
      (∀ p n, u = .ctl p ∨ u = .channel p → s.portAt p = some n → Hold.unit u.idx ∈ (t.port n).holds) ∧
      (v.getLsbD 5 = true → ∀ w ∈ u.subtree, (t.cnt w.idx).val = List.replicate 8 0) ∧ t.cells = s.cells ∧ t.hars = s.hars ∧ s.granted t) ∧
    (v.getLsbD 0 = false → v.getLsbD 1 = false → Answers c s fun t =>
      (∀ w ∈ u.subtree, (s.fr w).st ≠ .resetting → (t.fr w).quiesce = false ∧
        (t.fr w).st = (if (s.fr w).st = .quiescing ∨ (s.fr w).st = .quiesced then .running else (s.fr w).st) ∧
        ∀ n, Hold.unit w.idx ∉ (t.port n).holds) ∧
      (∀ w ∈ u.subtree, (t.fr w).cntFreeze = v.getLsbD 4) ∧ (∀ w, w.ok = true → w ∉ u.subtree → t.fr w = s.fr w) ∧
      (v.getLsbD 5 = true → (∀ h ∈ s.hars, h.waitQ = []) → ∀ w ∈ u.subtree, (t.cnt w.idx).val = List.replicate 8 0) ∧
      t.cells = s.cells ∧ s.granted t) ∧
    (u.canReset = true → v.getLsbD 1 = true → v.getLsbD 0 = false → keyed v = true →
      (s.resetWaits u = false → Answers c s fun t => ∀ w ∈ u.subtree, (t.fr w).st = .resetting ∧ (t.fr w).mask = 0 ∧ (t.fr w).inj = 0) ∧
      (s.resetWaits u = true → Answers c s fun t => (t.fr u).deferRst = true ∧ (t.fr u).st = (s.fr u).st ∧ t.cells = s.cells ∧ s.granted t)) ∧
    ((v.getLsbD 1 = true ∧ (keyed v = false ∨ u.canReset = false)) ∨ (v.getLsbD 0 = true ∧ u.canQuiesce = false) → Answers c s fun t =>
      t.fr u = { s.fr u with ctrlRej := true } ∧ (∀ w, w.ok = true → w ≠ u → t.fr w = s.fr w) ∧ t.cells = s.cells ∧ t.hars = s.hars ∧
      t.ports = s.ports ∧ s.granted t)

/-- A FAULT_WORD write clears the source bits it names, and fault_ambig with bit 31; a group bit whose child's line is still high latches
again. FAULT_INJ arms the unit's sources with the inject privilege, and does nothing without it; in a group frame it latches the bits it
names. FLT_FENCE with the key fences an AWL, HARNESS or MOVERS unit from its parent's frame; any other is refused. (R30, R31, R392, R405,
R407.) -/
def Obligations.FaultRegisters : Prop :=
  (∀ (s : State) (u : UnitId) (v : Word), s.Wf → s.mgReady u → let m : BitVec 16 := BitVec.ofNat 16 (fld v 0 16)
    ((∀ k ∈ u.kids, ∀ c, s.line k c = false) → Answers (.faultWordClear u v) s fun t =>
      t.fr u = { s.fr u with src := (s.fr u).src &&& ~~~m, clsCorr := (s.fr u).clsCorr &&& ~~~m, clsCont := (s.fr u).clsCont &&& ~~~m,
                             clsFatal := (s.fr u).clsFatal &&& ~~~m, ambig := (s.fr u).ambig && !v.getLsbD 31 } ∧
      (∀ w, w.ok = true → w ≠ u → t.fr w = s.fr w) ∧ t = { s with frames := t.frames, mgmt := t.mgmt, cnts := t.cnts, free := t.free } ∧ s.granted t) ∧
    (∀ k ∈ u.kids, ∀ c, s.line k c = true → m.getLsbD k.ordinal = true → (s.fr u).mask.getLsbD k.ordinal = false →
      Answers (.faultWordClear u v) s fun t => (t.fr u).src.getLsbD k.ordinal = true)) ∧
  (∀ (s : State) (u : UnitId) (v : Word), s.Wf → s.mgReady u →
    (s.has 1 = false → Answers (.faultInj u v) s fun t => t.frames = s.frames ∧ t.cells = s.cells ∧ s.granted t) ∧
    (s.has 1 = true → u.isGroup = false → (∀ x, u = .network x → v.getLsbD 1 = false) → Answers (.faultInj u v) s fun t =>
      (∀ i < 16, (t.fr u).inj.getLsbD i = (v.getLsbD i && (srcClass u.ty i).isSome)) ∧ t.fr u = { s.fr u with inj := (t.fr u).inj } ∧
      (∀ w, w.ok = true → w ≠ u → t.fr w = s.fr w) ∧ t.cells = s.cells ∧ s.granted t) ∧
    (∀ k, s.has 1 = true → k ∈ u.kids → v.getLsbD k.ordinal = true → k.ordinal < 16 → (s.fr u).mask.getLsbD k.ordinal = false →
      Answers (.faultInj u v) s fun t =>
        (t.fr u).src.getLsbD k.ordinal = true ∧ (t.fr u).fired.getLsbD k.ordinal = true ∧ t.cells = s.cells ∧ s.granted t)) ∧
  (∀ (s : State) (u : UnitId) (v : Word), s.Wf → s.mgReady u → u.isGroup = true → v.getLsbD 8 = true →
    (∀ k, u.kids[fld v 0 4]? = some k → keyed v = true → fenceable u k = true → s.isFenced k = false → Answers (.fltFence u v) s fun t =>
      t.isFenced k = true ∧ ((s.fr u).mask.getLsbD k.ordinal = false → (t.fr u).src.getLsbD k.ordinal = true)) ∧
    (keyed v = false ∨ (∀ k, u.kids[fld v 0 4]? = some k → fenceable u k = false) → Answers (.fltFence u v) s fun t =>
      t.fr u = { s.fr u with ctrlRej := true } ∧ (∀ w, w.ok = true → w ≠ u → t.fr w = s.fr w) ∧ t.cells = s.cells ∧ s.granted t))

/-- An idle Awl or Harness island gates and, given work, wakes; no other frame changes. A lost reference clock fences its sector, which
holds over, once; at the end of the holdover, which comes only when every port of the sector has been answered or has stalled, the
sector's ports are down and its clocks stop. (R17, R19, R100, R394, R450.) -/
def Obligations.IslandsAndClocks : Prop :=
  (∀ (s : State) (u : UnitId), s.Wf → u.ok = true → (∃ i, u = .awl i ∨ u = .harness i) →
    (s.isRunning = true → s.img.policy.gateUs ≠ 0 → (s.fr u).st = .running → s.islandIdle u = true → Answers (.islandGate u) s fun t =>
      t = { s with frames := t.frames } ∧ t.fr u = { s.fr u with st := .gated } ∧ ∀ w, w.ok = true → w ≠ u → t.fr w = s.fr w) ∧
    ((s.fr u).st = .gated → s.islandIdle u = false → Answers (.islandWake u) s fun t =>
      t = { s with frames := t.frames } ∧ t.fr u = { s.fr u with st := .running } ∧ ∀ w, w.ok = true → w ≠ u → t.fr w = s.fr w) ∧
    (s.img.policy.gateUs = 0 → exec (.islandGate u) s = .next s)) ∧
  (∀ (s : State) (x : Nat), s.Wf → x < 8 →
    (s.mgmt.clkLost.getLsbD x = false → Answers (.refClkLost x) s fun t =>
      t.mgmt.clkLost = s.mgmt.clkLost ||| ((1 : BitVec 8) <<< x) ∧ (t.sec x).holdover = true ∧ t.isFenced (.sector x) = true ∧
      ((s.fr (.network x)).mask.getLsbD 1 = false → (s.fr (.network x)).st ≠ .resetting → (t.fr (.network x)).src.getLsbD 1 = true)) ∧
    (s.mgmt.clkLost.getLsbD x = true → exec (.refClkLost x) s = .next s) ∧
    ((s.sec x).holdover = true → (∀ n < 128, secOf (s.portPhys n) = x → (s.port n).answered = true) → Answers (.holdoverEnd x) s fun t =>
      t = { s with ports := t.ports, sectors := t.sectors } ∧ (t.sec x).holdover = false ∧ (t.sec x).clkStop = true ∧
      (∀ n < 128, secOf (s.portPhys n) = x → (t.port n).up = false ∧ (t.port n).clkOn = false ∧ (t.port n).tags = [] ∧ (t.port n).rsp = []) ∧
      (∀ n, secOf (s.portPhys n) ≠ x → t.port n = s.port n) ∧ ∀ y, y ≠ x → t.sec y = s.sec y) ∧
    ((s.sec x).holdover = false ∨ (∃ n < 128, secOf (s.portPhys n) = x ∧ (s.port n).answered = false) →
      exec (.holdoverEnd x) s = .next s))

/-- The ends of quiesces and resets of one smallest unit. DRAIN_DONE makes it QUIESCED once it has drained; WEDGE resets one that has not,
its frame and its parent's recording it; RESET_COMPLETE takes it out of RESETTING, to FENCED, STANDBY, QUIESCED after a wedge, or RUNNING;
RESET_BOUND fences it, and its parent latches it. (R391, R396, R397, R398, R399.) -/
def Obligations.ResetEnds : Prop :=
  ∀ (s : State) (u g : UnitId), s.Wf → u.ok = true → u.isGroup = false → u.parent = some g → u.canReset = true →
    ((s.fr u).st = .quiescing → s.drained u = true → Answers (.drainDone u) s fun t =>
      t = { s with frames := t.frames } ∧ t.fr u = { s.fr u with st := .quiesced } ∧ ∀ w, w.ok = true → w ≠ u → t.fr w = s.fr w) ∧
    ((s.fr u).st = .quiescing → s.drained u = false → exec (.drainDone u) s = .next s) ∧
    ((s.fr u).st = .quiescing → s.drained u = false → s.resetWaits u = false → Answers (.wedge u) s fun t =>
      (t.fr u).wedged = true ∧ (t.fr u).wedgeRst = true ∧ (t.fr u).st = .resetting ∧ (t.fr g).fltWedged.getLsbD u.ordinal = true) ∧
    ((s.fr u).st ≠ .quiescing → exec (.wedge u) s = .next s ∧ exec (.drainDone u) s = .next s) ∧
    ((s.fr u).st = .resetting → (s.fr g).st ≠ .resetting → Answers (.resetComplete u) s fun t =>
      (t.fr u).wedged = false ∧ (t.fr u).quiesce = (s.fr u).wedgeRst ∧ ((s.fr u).fenced = true → (t.fr u).st = .fenced) ∧
      ((s.fr u).fenced = false → (∀ p, chanOfUnit u = some p → posOf p ≠ 16) → (t.fr u).st = (if (s.fr u).wedgeRst then .quiesced else .running)) ∧
      ((s.fr u).fenced = false → (∃ p, chanOfUnit u = some p ∧ posOf p = 16 ∧ s.substituting (secOf p) = false) → (t.fr u).st = .standby)) ∧
    ((s.fr u).st = .resetting → (s.fr g).st ≠ .resetting → Answers (.resetBound u) s fun t =>
      t.isFenced u = true ∧ ((s.fr g).mask.getLsbD u.ordinal = false → (t.fr g).src.getLsbD u.ordinal = true)) ∧
    ((s.fr u).st ≠ .resetting → exec (.resetComplete u) s = .next s ∧ exec (.resetBound u) s = .next s)

/-- A slice of logic self-test. It starts on the unit the walk stands at, or is skipped where the conditions do not hold; without a drain
it is deferred; drained, the unit is isolated with its signature seeded; the scan's end compares the whole signature; a failed window ends
a slice not yet scanned and fails a scan; the release counts a pass, or logs a failure. BIST_ACK frees the log's entries. (R411, R412,
R414, R415, R417, R419, R420.) -/
def Obligations.SelfTest : Prop :=
  (∀ (s : State) (w : Bool), s.Wf → s.seq.bist.phase = 0 → s.walkOk s.seq.bist.entry = true →
    (s.sliceMay w = true → Answers (.bistSliceStart w) s fun t =>
      t.seq.bist.phase = 1 ∧ t.seq.bist.entry = s.seq.bist.entry ∧ t.seq.bist.slice = (smGet {} s.seq.bist.units s.seq.bist.entry).next ∧
      t.cells = s.cells ∧ (∀ p n, heldChan s.sliceUnit = some p → s.portAt p = some n → Hold.slice ∈ (t.port n).holds)) ∧
    (s.sliceMay w = false → s.seq.bist.skipped ≠ 0xFFFF → Answers (.bistSliceStart w) s fun t =>
      t.seq.bist.phase = 0 ∧ t.seq.bist.skipped = s.seq.bist.skipped + 1 ∧ t.frames = s.frames ∧ t.cells = s.cells)) ∧
  (∀ s : State, s.Wf → s.seq.bist.phase = 1 → s.seq.bist.deferred ≠ 0xFFFF →
    (s.sliceDry = false → Answers .sliceDrainTimeout s fun t =>
      t.seq.bist.phase = 0 ∧ t.seq.bist.deferred = s.seq.bist.deferred + 1 ∧ t.cells = s.cells) ∧
    (s.sliceDry = true → Answers .sliceDrained s fun t =>
      t.seq.bist = { s.seq.bist with phase := 3, reached := 3, sig := sigSeed (slicePats s.sliceUnit.ty) s.seq.bist.slice } ∧ t.cells = s.cells ∧
      (∀ p, heldChan s.sliceUnit = some p → p < 136 → s.drives p = true → (t.ctl p).selfRef = true) ∧ (heldChan s.sliceUnit = none → t.ctls = s.ctls))) ∧
  (∀ (s : State) (m : BitVec 48), s.Wf → s.seq.bist.phase = 3 → Answers (.sliceScanDone m) s fun t =>
    t.cells = s.cells ∧ t.seq.bist = { s.seq.bist with phase := 5, reached := 5, run := slicePats s.sliceUnit.ty, sig := BitVec.ofNat 64 (m.toNat * 65536)
                                                       result := if BitVec.ofNat 64 (m.toNat * 65536) = s.expected s.seq.bist.entry s.seq.bist.slice then 0 else 1 }) ∧
  (∀ (s : State) (r : Nat) (m : BitVec 48), s.Wf →
    (s.seq.bist.phase = 1 → Answers (.sliceWindowSample r m) s fun t => t.seq.bist.phase = 0 ∧ t.seq.bist.ev.getLsbD 1 = true ∧ t.cells = s.cells) ∧
    (s.seq.bist.phase = 3 → Answers (.sliceWindowSample r m) s fun t =>
      t.seq.bist.phase = 5 ∧ t.seq.bist.result = 2 ∧ t.seq.bist.run = min r (slicePats s.sliceUnit.ty) ∧ t.cells = s.cells) ∧
    (s.seq.bist.phase = 5 → exec (.sliceWindowSample r m) s = .next { s with seq := { s.seq with bist := { s.seq.bist with result := 2 } } })) ∧
  (∀ s : State, s.Wf → s.seq.bist.phase = 5 →
    (s.seq.bist.result = 0 → Answers .sliceRelease s fun t => t.seq.bist.phase = 0 ∧ t.seq.bist.pass = satAdd s.seq.bist.pass 1 ∧ t.cells = s.cells ∧
      t.seq.bist.log = s.seq.bist.log ∧ (∀ p n, heldChan s.sliceUnit = some p → s.portAt p = some n → Hold.slice ∉ (t.port n).holds)) ∧
    (s.seq.bist.result = 1 → s.seq.bist.log.length < 64 → Answers .sliceRelease s fun t =>
      t.seq.bist.phase = 0 ∧ t.seq.bist.pass = s.seq.bist.pass ∧ t.seq.bist.ev.getLsbD 0 = true ∧ t.cells = s.cells ∧
      t.seq.bist.log.length = s.seq.bist.log.length + 1 ∧ t.seq.bist.next = seqNext s.seq.bist.next)) ∧
  (∀ (s : State) (v : Word), s.Wf → s.mgReady .currierSeq →
    (v = s.seq.bist.next → Answers (.bistAck v) s fun t =>
      t.seq.bist = { s.seq.bist with log := [], head := v, ack := v } ∧ s.granted t) ∧
    (v ≠ s.seq.bist.next → (∀ e ∈ s.seq.bist.log, e.headD 0 ≠ v) → Answers (.bistAck v) s fun t =>
      t.seq = s.seq ∧ (t.fr .currierSeq).ctrlRej = true ∧ s.granted t))

/-- The test access port: one scan per command. Without the scan privilege it stays in Test-Logic-Reset. EXTEST drives the cells only
where its condition holds; SAMPLE/PRELOAD drives nothing; UNIT_SEL captures the old selection; INTSCAN and SLICE work on a QUIESCED unit
only; SIGREAD captures the status and the signature; BYPASS captures 0. (R67, R421, R422.) -/
def Obligations.TestAccessPort : Prop :=
  (∀ s : State, exec .tapReset s = .next { s with tap := { s.tap with ir := 0xFF, drive := [] } }) ∧
  (∀ (s : State) (c : Instr) (d e : List Bool) (w pats : BitVec 16) (i : BitVec 8) (r : Nat) (m : BitVec 48) (b : Bool),
    c ∈ [Instr.extest d e, .samplePreload d e, .unitSel w, .intscan d, .sigread, .slice i pats r m, .bypass b] → s.has 0 = false →
    exec c s = .next { s with tap := { s.tap with ir := 0xFF, drive := [] } }) ∧
  (∀ (s : State) (d e : List Bool) (w : BitVec 16) (b : Bool), s.has 0 = true →
    (s.extestOk = true → exec (.extest d e) s = .next { s with tap := { s.tap with ir := 0, dr := e, boundary := d, drive := d } }) ∧
    (s.extestOk = false → exec (.extest d e) s = .next { s with tap := { s.tap with ir := 0, dr := List.replicate e.length false, drive := [] } }) ∧
    exec (.samplePreload d e) s = .next { s with tap := { s.tap with ir := 1, drive := [], dr := e, boundary := d } } ∧
    exec (.unitSel w) s = .next { s with tap := { s.tap with ir := 0x10, drive := [], dr := bitList s.tap.unit.toNat 16, unit := w } } ∧
    exec .sigread s = .next { s with tap := { s.tap with
      ir := 0x12, drive := [], dr := bitList s.tap.status.toNat 16 ++ bitList s.tap.sig.toNat 64 } } ∧
    exec (.bypass b) s = .next { s with tap := { s.tap with ir := 0xFF, drive := [], dr := [false], bypass := b } }) ∧
  (∀ (s : State) (d : List Bool), s.has 0 = true →
    (s.tapQuiesced = true → Answers (.intscan d) s fun t =>
      t = { s with tap := t.tap, free := t.free } ∧ t.tap = { s.tap with ir := 0x11, drive := [], dr := t.tap.dr, chain := d } ∧
      t.tap.dr.length = d.length) ∧
    (s.tapQuiesced = false → exec (.intscan d) s = .next { s with tap := { s.tap with ir := 0x11, drive := [], dr := List.replicate d.length false } })) ∧
  (∀ (s : State) (i : BitVec 8) (pats : BitVec 16) (r : Nat) (m : BitVec 48), s.Wf → s.has 0 = true →
    (s.tapQuiesced = true → Answers (.slice i pats r m) s fun t =>
      t.cells = s.cells ∧ t.frames = s.frames ∧ t.tap.ir = 0x13 ∧ t.tap.sig = BitVec.ofNat 64 (m.toNat * 65536 + (pats.toNat - min r pats.toNat)) ∧
      t.tap.status.getLsbD 0 = true ∧ (t.tap.status.getLsbD 2 = decide (r < pats.toNat)) ∧
      (t.tap.status.getLsbD 1 = true → pats.toNat ≤ r ∧ pats.toNat = slicePats (unitAt s.tap.unit.toNat).ty)) ∧
    (s.tapQuiesced = false → Answers (.slice i pats r m) s fun t =>
      t = { s with tap := t.tap } ∧ t.tap.sig = s.tap.sig ∧ t.tap.status = s.tap.status ∧ t.tap.dr = List.replicate 24 false))

/-- A read of a counter's low word copies its high word into the counter's shadow, and a read of the high word returns the shadow: low and
then high give one value of the counter. (R25.) -/
def Obligations.CounterShadows : Prop :=
  ∀ (s : State) (u : UnitId) (i : Nat), s.Wf → s.mgReady u → i < 8 →
    (Answers (.cntRead u i false) s fun t => ∃ x : Dword,
      t.mgmt.rsp = s.mgmt.rsp ++ [(x.truncate 32, cOK)] ∧ (t.cnt u.idx).rsh.getD i 0 = (x >>> 32).truncate 32 ∧
      (t.cnt u.idx).val.getD i 0 = x ∧ (∀ j, j ≠ i → (t.cnt u.idx).rsh.getD j 0 = (s.cnt u.idx).rsh.getD j 0) ∧
      t = { s with cnts := t.cnts, free := t.free, mgmt := t.mgmt }) ∧
    (Answers (.cntRead u i true) s fun t =>
      t.mgmt.rsp = s.mgmt.rsp ++ [((s.cnt u.idx).rsh.getD i 0, cOK)] ∧ (∀ j, (t.cnt u.idx).rsh.getD j 0 = (s.cnt u.idx).rsh.getD j 0) ∧
      t = { s with cnts := t.cnts, free := t.free, mgmt := t.mgmt }) ∧
    (∀ t t' : State, exec (.cntRead u i false) s = .next t → t.mgReady u → exec (.cntRead u i true) t = .next t' → ∃ x : Dword,
      t'.mgmt.rsp = s.mgmt.rsp ++ [(x.truncate 32, cOK), ((x >>> 32).truncate 32, cOK)])

/-- Selections, counter writes, overflow, histograms and dump records. A record is written in three stages, header, body and trailer, each
at its answer; with the last the record is done, and an answer other than OK ends it. (R424, R427, R428, R434, R437, R439, R441, R442, R443.) -/
def Obligations.CountersAndTelemetry : Prop :=
  (∀ (s : State) (u : UnitId) (i : Nat) (v : Word), s.Wf → s.mgReady u → i < 8 →
    (Answers (.cntSel u i v) s fun t =>
      (t.cnt u.idx).sel.getD i 0 = v &&& 0x3FFFFFFF ∧ (∀ j, j ≠ i → (t.cnt u.idx).sel.getD j 0 = (s.cnt u.idx).sel.getD j 0) ∧
      t = { s with cnts := t.cnts, free := t.free, mgmt := t.mgmt } ∧ s.granted t) ∧
    (Answers (.cntWrite u i true v) s fun t =>
      (t.cnt u.idx).wsh.getD i 0 = v ∧ t = { s with cnts := t.cnts, free := t.free, mgmt := t.mgmt } ∧ s.granted t) ∧
    (Answers (.cntWrite u i false v) s fun t =>
      (t.cnt u.idx).val.getD i 0 = (s.cnt u.idx).wsh.getD i 0 ++ v ∧ t = { s with cnts := t.cnts, free := t.free, mgmt := t.mgmt } ∧ s.granted t)) ∧
  (∀ (s : State) (u src : UnitId) (i : Nat) (x0 x1 : Word), s.Wf → s.cntTakes u i src = true →
    ((s.cnt u.idx).val.getD i 0 = BitVec.allOnes 64 → Answers (.counterOverflow u i src x0 x1) s fun t =>
      (t.cnt u.idx).val.getD i 0 = 0 ∧ (t.cnt u.idx).ovf = (s.cnt u.idx).ovf ||| ((1 : BitVec 8) <<< i) ∧ t = { s with cnts := t.cnts } ∧
      ∀ j, j ≠ i → (t.cnt u.idx).val.getD j 0 = (s.cnt u.idx).val.getD j 0) ∧
    ((s.cnt u.idx).val.getD i 0 ≠ BitVec.allOnes 64 → exec (.counterOverflow u i src x0 x1) s = .next s)) ∧
  (∀ (s : State) (x : Nat) (v : Word) (c : Instr), s.Wf → x < 8 → c ∈ [Instr.histClear x v, .histKind x v] → s.mgReady (.sector x) →
    (s.histMode x = true → Answers c s fun t =>
      (t.sec x).histKind = BitVec.ofNat 2 (fld v 0 2) ∧
      ((t.sec x).bins = if v.getLsbD 4 = true ∨ BitVec.ofNat 2 (fld v 0 2) ≠ (s.sec x).histKind then [] else (s.sec x).bins) ∧
      (∀ y, y ≠ x → t.sec y = s.sec y) ∧ t.cells = s.cells ∧ s.granted t) ∧
    (s.histMode x = false → Answers c s fun t => t.sectors = s.sectors ∧ s.granted t)) ∧
  (∀ (s : State) (k : Tel), s.telOn = some k → s.isRunning = true → s.seq.tel.busy = false → s.safe.on = false → s.seq.therm ≠ .stopping →
    s.seq.therm ≠ .stopped → s.seq.therm ≠ .emergency → Answers .dump s fun t =>
      t.seq.tel = { s.seq.tel with busy := true, seq := s.seq.tel.next, next := seqNext s.seq.tel.next, addr := k.at s.seq.tel.next, skipped := 0
                                   todo := s.telBlocks k 0 (k.at s.seq.tel.next) } ∧
      (∀ x < 8, s.histMode x = true → x < s.sectors.length → (t.sec x).bins = []) ∧ t.cells = s.cells ∧ t.cnts = s.cnts) ∧
  (∀ (s : State) (k : Tel), s.telOn = some k → s.isRunning = true → s.seq.tel.busy = true → Answers .dump s fun t =>
      t.seq.tel = { s.seq.tel with skip := satAdd s.seq.tel.skip 1, skipped := satAdd s.seq.tel.skipped 1, ev := s.seq.tel.ev ||| 2 } ∧
      t.cells = s.cells ∧ t.sectors = s.sectors) ∧
  (∀ (s : State) (v : Word), s.Wf → s.mgReady .currierSeq → v.getLsbD 0 = true →
    (∀ k, s.telOn = some k → keyed v = true → s.seq.tel.busy = false → s.seq.therm ≠ .stopping → s.seq.therm ≠ .stopped →
      s.seq.therm ≠ .emergency → Answers (.telNow v) s fun t =>
        t.seq.tel.busy = true ∧ t.seq.tel.seq = s.seq.tel.next ∧ t.seq.tel.addr = k.at s.seq.tel.next ∧ t.cells = s.cells ∧ s.granted t) ∧
    (s.telOn = none → Answers (.telNow v) s fun t => t.seq = s.seq ∧ (t.fr .currierSeq).ctrlRej = true ∧ s.granted t)) ∧
  (∀ (s : State) (c : BitVec 4), s.seq.tel.busy = true →
    (c ≠ cOK → Answers (.dumpWriteAck c) s fun t =>
      t = { s with seq := { s.seq with tel := t.seq.tel } } ∧ t.seq.tel.busy = false ∧ t.seq.tel.fail = satAdd s.seq.tel.fail 1 ∧
      t.seq.tel.ev = s.seq.tel.ev ||| 4) ∧
    (∀ n t0, c = cOK → s.AgentFree ownDump →
      n = (if s.seq.tel.todo.length = 1015 then 1 else if 1 < s.seq.tel.todo.length then s.seq.tel.todo.length - 1 else 1) →
      ({ s with acc := [] } : State).telPut (s.seq.tel.todo.take n) = (cOK, t0) →
      (n < s.seq.tel.todo.length → Answers (.dumpWriteAck c) s fun t =>
        t.cells = t0.cells ∧ t.seq.tel = { s.seq.tel with todo := s.seq.tel.todo.drop n }) ∧
      (s.seq.tel.todo.length ≤ n → Answers (.dumpWriteAck c) s fun t =>
        t.cells = t0.cells ∧ t.seq.tel = { s.seq.tel with todo := [], busy := false, last := s.seq.tel.seq, ev := s.seq.tel.ev ||| 1 })))
end

