-- ==== Sys2Proof/Laws/Base.lean ====
section
/-! SUPPORT. Laws of the list update, of sparse maps and of the canonical form of memory. -/

namespace Sys2Proof.Machine

/-! ### upd -/

@[simp] theorem upd_length {α : Type} (l : List α) (i : Nat) (f : α → α) : (upd l i f).length = l.length := by
  induction l generalizing i with
  | nil => rfl
  | cons a l ih => cases i <;> simp [upd, ih]

theorem upd_getElem? {α : Type} (l : List α) (i j : Nat) (f : α → α) :
    (upd l i f)[j]? = if i = j then l[j]?.map f else l[j]? := by
  induction l generalizing i j with
  | nil => simp [upd]
  | cons a l ih => cases i <;> cases j <;> simp [upd, ih]

/-- What a changed element reads as. -/
theorem upd_getD_self {α : Type} (l : List α) (i : Nat) (f : α → α) (d : α) (h : i < l.length) :
    (upd l i f).getD i d = f (l.getD i d) := by
  simp [List.getD, upd_getElem?, List.getElem?_eq_getElem h]

/-- Every other element reads as before. -/
theorem upd_getD_ne {α : Type} (l : List α) (i j : Nat) (f : α → α) (d : α) (h : j ≠ i) :
    (upd l i f).getD j d = l.getD j d := by
  simp [List.getD, upd_getElem?, Ne.symm h]

/-! ### Sparse maps -/

/-- Keys of a sparse map in canonical form lie above a bound. -/
theorem smWf_cons {α : Type} [DecidableEq α] {d : α} {k : Nat} {v : α} {m : SMap α} :
    smWf d ((k, v) :: m) = true ↔ v ≠ d ∧ (∀ e ∈ m, k < e.1) ∧ smWf d m = true := by
  simp [smWf, and_assoc]

theorem smSet_mem {α : Type} [DecidableEq α] (d : α) (m : SMap α) (k : Nat) (v : α) (e : Nat × α)
    (h : e ∈ smSet d m k v) : e = (k, v) ∨ e ∈ m := by
  induction m with
  | nil => unfold smSet at h; split at h <;> simp_all
  | cons a m ih =>
    obtain ⟨k', v'⟩ := a
    unfold smSet at h
    split at h
    · split at h <;> simp_all
    · split at h
      · split at h
        · simp_all
        · rcases List.mem_cons.1 h with h | h
          · simp [h]
          · simp [h]
      · rcases List.mem_cons.1 h with h | h
        · simp [h]
        · rcases ih h with h | h <;> simp [h]

/-- A store keeps the canonical form. -/
theorem smSet_wf {α : Type} [DecidableEq α] (d : α) (m : SMap α) (k : Nat) (v : α) (h : smWf d m = true) :
    smWf d (smSet d m k v) = true := by
  induction m with
  | nil => unfold smSet; split <;> simp_all [smWf]
  | cons a m ih =>
    obtain ⟨k', v'⟩ := a
    obtain ⟨h1, h2, h3⟩ := smWf_cons.1 h
    unfold smSet
    split
    · rename_i hk
      split
      · exact h
      · rename_i hv
        refine smWf_cons.2 ⟨hv, ?_, h⟩
        intro e he
        rcases List.mem_cons.1 he with rfl | he
        · exact hk
        · exact Nat.lt_trans hk (h2 e he)
    · split
      · rename_i hk; subst hk
        split
        · exact h3
        · rename_i hv; exact smWf_cons.2 ⟨hv, h2, h3⟩
      · rename_i hlt hne
        refine smWf_cons.2 ⟨h1, ?_, ih h3⟩
        intro e he
        rcases smSet_mem d m k v e he with rfl | he
        · simp only; omega
        · exact h2 e he

/-- Dropping keys keeps the canonical form. -/
theorem smWf_filter {α : Type} [DecidableEq α] (d : α) (m : SMap α) (p : Nat × α → Bool) (h : smWf d m = true) :
    smWf d (m.filter p) = true := by
  induction m with
  | nil => simpa using h
  | cons a m ih =>
    obtain ⟨k, v⟩ := a
    obtain ⟨h1, h2, h3⟩ := smWf_cons.1 h
    simp only [List.filter_cons]
    split
    · exact smWf_cons.2 ⟨h1, fun e he => h2 e (List.mem_filter.1 he).1, ih h3⟩
    · exact ih h3

theorem smClear_wf {α : Type} [DecidableEq α] (d : α) (m : SMap α) (lo n : Nat) (h : smWf d m = true) :
    smWf d (smClear m lo n) = true := smWf_filter d m _ h

/-- A key below every listed key is not listed. -/
theorem smGet_below {α : Type} (d : α) (m : SMap α) (k : Nat) (h : ∀ e ∈ m, k < e.1) : smGet d m k = d := by
  induction m with
  | nil => rfl
  | cons a m ih =>
    obtain ⟨k', v⟩ := a
    have := h (k', v) (by simp)
    have hk : k ≠ k' := by simp only at this; omega
    simp only [smGet, hk, if_false]
    exact ih fun e he => h e (by simp [he])

/-- A read after a store: the value at its key, and what was there everywhere else. -/
theorem smGet_smSet {α : Type} [DecidableEq α] (d : α) (m : SMap α) (k : Nat) (v : α) (j : Nat) (h : smWf d m = true) :
    smGet d (smSet d m k v) j = if j = k then v else smGet d m j := by
  induction m with
  | nil =>
    unfold smSet
    by_cases hv : v = d <;> by_cases hj : j = k <;> simp_all [smGet]
  | cons a m ih =>
    obtain ⟨k', v'⟩ := a
    obtain ⟨h1, h2, h3⟩ := smWf_cons.1 h
    unfold smSet
    by_cases hlt : k < k'
    · simp only [hlt, if_true]
      by_cases hv : v = d
      · simp only [hv, if_true]
        by_cases hj : j = k
        · subst hj
          simp only [if_true]
          exact smGet_below d _ _ (by
            intro e he
            rcases List.mem_cons.1 he with rfl | he
            · exact hlt
            · exact Nat.lt_trans hlt (h2 e he))
        · simp [hj]
      · simp [hv, smGet]
    · simp only [hlt, if_false]
      by_cases hk : k = k'
      · subst hk
        simp only [if_true]
        by_cases hv : v = d
        · simp only [hv, if_true]
          by_cases hj : j = k
          · subst hj; simp only [if_true]; exact smGet_below d _ _ h2
          · simp [hj, smGet]
        · by_cases hj : j = k <;> simp [hv, hj, smGet]
      · simp only [hk, if_false, smGet]
        by_cases hj : j = k'
        · subst hj; simp [Ne.symm hk]
        · simp [hj, ih h3]

/-! ### Bytes of the array -/

/-- Storing bytes keeps the canonical form of the array. -/
theorem cellsWrite_wf (m : List Host.Cell) (a : Nat) (l : List Byte) (h : smWf 0 m = true) : smWf 0 (cellsWrite m a l) = true := by
  induction l generalizing m a with
  | nil => simpa [cellsWrite] using h
  | cons b l ih => exact ih _ _ (smSet_wf 0 m a b h)

/-- A byte read after bytes were stored from `a`: the byte stored there, or the byte before. -/
theorem smGet_cellsWrite (m : List Host.Cell) (a : Nat) (l : List Byte) (x : Nat) (h : smWf 0 m = true) :
    smGet 0 (cellsWrite m a l) x = if a ≤ x ∧ x < a + l.length then l.getD (x - a) 0 else smGet 0 m x := by
  induction l generalizing m a with
  | nil =>
    have : ¬ (a ≤ x ∧ x < a + ([] : List Byte).length) := by simp
    simp only [cellsWrite, this, if_false]
  | cons b l ih =>
    simp only [cellsWrite]
    rw [ih _ _ (smSet_wf 0 m a b h), smGet_smSet 0 m a b x h]
    by_cases hx : x = a
    · subst hx; simp
    · by_cases h1 : a + 1 ≤ x ∧ x < a + 1 + l.length
      · have e : x - a = x - (a + 1) + 1 := by omega
        have h2 : a ≤ x ∧ x < a + (l.length + 1) := by omega
        simp [h1, h2, e]
      · have h2 : ¬ (a ≤ x ∧ x < a + (l.length + 1)) := by omega
        rw [if_neg h1, if_neg hx, if_neg (by simpa using h2)]

end Sys2Proof.Machine
end

