-- ==== Sys2Proof/Laws/State.lean ====
section
/-! SUPPORT. What each update of the state leaves in each field: one lemma per field per update, and what a unit reads as after a
change of its own or another's registers. -/

namespace Sys2Proof.Machine

variable (s : State)

/-! ### onCtl -/

@[simp] theorem State.onCtl_pending (p : Nat) (f : Ctl → Ctl) : (s.onCtl p f).pending = s.pending := rfl
@[simp] theorem State.onCtl_free (p : Nat) (f : Ctl → Ctl) : (s.onCtl p f).free = s.free := rfl
@[simp] theorem State.onCtl_uid (p : Nat) (f : Ctl → Ctl) : (s.onCtl p f).uid = s.uid := rfl
@[simp] theorem State.onCtl_hides (p : Nat) (f : Ctl → Ctl) : (s.onCtl p f).hides = s.hides := rfl
@[simp] theorem State.onCtl_build (p : Nat) (f : Ctl → Ctl) : (s.onCtl p f).build = s.build := rfl
@[simp] theorem State.onCtl_dieSlope (p : Nat) (f : Ctl → Ctl) : (s.onCtl p f).dieSlope = s.dieSlope := rfl
@[simp] theorem State.onCtl_dieIcpt (p : Nat) (f : Ctl → Ctl) : (s.onCtl p f).dieIcpt = s.dieIcpt := rfl
@[simp] theorem State.onCtl_expSig (p : Nat) (f : Ctl → Ctl) : (s.onCtl p f).expSig = s.expSig := rfl
@[simp] theorem State.onCtl_image (p : Nat) (f : Ctl → Ctl) : (s.onCtl p f).image = s.image := rfl
@[simp] theorem State.onCtl_cells (p : Nat) (f : Ctl → Ctl) : (s.onCtl p f).cells = s.cells := rfl
@[simp] theorem State.onCtl_bad (p : Nat) (f : Ctl → Ctl) : (s.onCtl p f).bad = s.bad := rfl
@[simp] theorem State.onCtl_boot (p : Nat) (f : Ctl → Ctl) : (s.onCtl p f).boot = s.boot := rfl
@[simp] theorem State.onCtl_flash (p : Nat) (f : Ctl → Ctl) : (s.onCtl p f).flash = s.flash := rfl
@[simp] theorem State.onCtl_calRec (p : Nat) (f : Ctl → Ctl) : (s.onCtl p f).calRec = s.calRec := rfl
@[simp] theorem State.onCtl_retRec (p : Nat) (f : Ctl → Ctl) : (s.onCtl p f).retRec = s.retRec := rfl
@[simp] theorem State.onCtl_mgmt (p : Nat) (f : Ctl → Ctl) : (s.onCtl p f).mgmt = s.mgmt := rfl
@[simp] theorem State.onCtl_tack (p : Nat) (f : Ctl → Ctl) : (s.onCtl p f).tack = s.tack := rfl
@[simp] theorem State.onCtl_frames (p : Nat) (f : Ctl → Ctl) : (s.onCtl p f).frames = s.frames := rfl
@[simp] theorem State.onCtl_cnts (p : Nat) (f : Ctl → Ctl) : (s.onCtl p f).cnts = s.cnts := rfl
@[simp] theorem State.onCtl_ports (p : Nat) (f : Ctl → Ctl) : (s.onCtl p f).ports = s.ports := rfl
@[simp] theorem State.onCtl_ctls (p : Nat) (f : Ctl → Ctl) : (s.onCtl p f).ctls = upd s.ctls p f := rfl
@[simp] theorem State.onCtl_links (p : Nat) (f : Ctl → Ctl) : (s.onCtl p f).links = s.links := rfl
@[simp] theorem State.onCtl_awls (p : Nat) (f : Ctl → Ctl) : (s.onCtl p f).awls = s.awls := rfl
@[simp] theorem State.onCtl_curs (p : Nat) (f : Ctl → Ctl) : (s.onCtl p f).curs = s.curs := rfl
@[simp] theorem State.onCtl_sectors (p : Nat) (f : Ctl → Ctl) : (s.onCtl p f).sectors = s.sectors := rfl
@[simp] theorem State.onCtl_pools (p : Nat) (f : Ctl → Ctl) : (s.onCtl p f).pools = s.pools := rfl
@[simp] theorem State.onCtl_nets (p : Nat) (f : Ctl → Ctl) : (s.onCtl p f).nets = s.nets := rfl
@[simp] theorem State.onCtl_hars (p : Nat) (f : Ctl → Ctl) : (s.onCtl p f).hars = s.hars := rfl
@[simp] theorem State.onCtl_movs (p : Nat) (f : Ctl → Ctl) : (s.onCtl p f).movs = s.movs := rfl
@[simp] theorem State.onCtl_jobs (p : Nat) (f : Ctl → Ctl) : (s.onCtl p f).jobs = s.jobs := rfl
@[simp] theorem State.onCtl_rhHeld (p : Nat) (f : Ctl → Ctl) : (s.onCtl p f).rhHeld = s.rhHeld := rfl
@[simp] theorem State.onCtl_acc (p : Nat) (f : Ctl → Ctl) : (s.onCtl p f).acc = s.acc := rfl
@[simp] theorem State.onCtl_pd (p : Nat) (f : Ctl → Ctl) : (s.onCtl p f).pd = s.pd := rfl
@[simp] theorem State.onCtl_seq (p : Nat) (f : Ctl → Ctl) : (s.onCtl p f).seq = s.seq := rfl
@[simp] theorem State.onCtl_safe (p : Nat) (f : Ctl → Ctl) : (s.onCtl p f).safe = s.safe := rfl
@[simp] theorem State.onCtl_tap (p : Nat) (f : Ctl → Ctl) : (s.onCtl p f).tap = s.tap := rfl

/-! ### onLink -/

@[simp] theorem State.onLink_pending (p : Nat) (f : Link → Link) : (s.onLink p f).pending = s.pending := rfl
@[simp] theorem State.onLink_free (p : Nat) (f : Link → Link) : (s.onLink p f).free = s.free := rfl
@[simp] theorem State.onLink_uid (p : Nat) (f : Link → Link) : (s.onLink p f).uid = s.uid := rfl
@[simp] theorem State.onLink_hides (p : Nat) (f : Link → Link) : (s.onLink p f).hides = s.hides := rfl
@[simp] theorem State.onLink_build (p : Nat) (f : Link → Link) : (s.onLink p f).build = s.build := rfl
@[simp] theorem State.onLink_dieSlope (p : Nat) (f : Link → Link) : (s.onLink p f).dieSlope = s.dieSlope := rfl
@[simp] theorem State.onLink_dieIcpt (p : Nat) (f : Link → Link) : (s.onLink p f).dieIcpt = s.dieIcpt := rfl
@[simp] theorem State.onLink_expSig (p : Nat) (f : Link → Link) : (s.onLink p f).expSig = s.expSig := rfl
@[simp] theorem State.onLink_image (p : Nat) (f : Link → Link) : (s.onLink p f).image = s.image := rfl
@[simp] theorem State.onLink_cells (p : Nat) (f : Link → Link) : (s.onLink p f).cells = s.cells := rfl
@[simp] theorem State.onLink_bad (p : Nat) (f : Link → Link) : (s.onLink p f).bad = s.bad := rfl
@[simp] theorem State.onLink_boot (p : Nat) (f : Link → Link) : (s.onLink p f).boot = s.boot := rfl
@[simp] theorem State.onLink_flash (p : Nat) (f : Link → Link) : (s.onLink p f).flash = s.flash := rfl
@[simp] theorem State.onLink_calRec (p : Nat) (f : Link → Link) : (s.onLink p f).calRec = s.calRec := rfl
@[simp] theorem State.onLink_retRec (p : Nat) (f : Link → Link) : (s.onLink p f).retRec = s.retRec := rfl
@[simp] theorem State.onLink_mgmt (p : Nat) (f : Link → Link) : (s.onLink p f).mgmt = s.mgmt := rfl
@[simp] theorem State.onLink_tack (p : Nat) (f : Link → Link) : (s.onLink p f).tack = s.tack := rfl
@[simp] theorem State.onLink_frames (p : Nat) (f : Link → Link) : (s.onLink p f).frames = s.frames := rfl
@[simp] theorem State.onLink_cnts (p : Nat) (f : Link → Link) : (s.onLink p f).cnts = s.cnts := rfl
@[simp] theorem State.onLink_ports (p : Nat) (f : Link → Link) : (s.onLink p f).ports = s.ports := rfl
@[simp] theorem State.onLink_ctls (p : Nat) (f : Link → Link) : (s.onLink p f).ctls = s.ctls := rfl
@[simp] theorem State.onLink_links (p : Nat) (f : Link → Link) : (s.onLink p f).links = upd s.links p f := rfl
@[simp] theorem State.onLink_awls (p : Nat) (f : Link → Link) : (s.onLink p f).awls = s.awls := rfl
@[simp] theorem State.onLink_curs (p : Nat) (f : Link → Link) : (s.onLink p f).curs = s.curs := rfl
@[simp] theorem State.onLink_sectors (p : Nat) (f : Link → Link) : (s.onLink p f).sectors = s.sectors := rfl
@[simp] theorem State.onLink_pools (p : Nat) (f : Link → Link) : (s.onLink p f).pools = s.pools := rfl
@[simp] theorem State.onLink_nets (p : Nat) (f : Link → Link) : (s.onLink p f).nets = s.nets := rfl
@[simp] theorem State.onLink_hars (p : Nat) (f : Link → Link) : (s.onLink p f).hars = s.hars := rfl
@[simp] theorem State.onLink_movs (p : Nat) (f : Link → Link) : (s.onLink p f).movs = s.movs := rfl
@[simp] theorem State.onLink_jobs (p : Nat) (f : Link → Link) : (s.onLink p f).jobs = s.jobs := rfl
@[simp] theorem State.onLink_rhHeld (p : Nat) (f : Link → Link) : (s.onLink p f).rhHeld = s.rhHeld := rfl
@[simp] theorem State.onLink_acc (p : Nat) (f : Link → Link) : (s.onLink p f).acc = s.acc := rfl
@[simp] theorem State.onLink_pd (p : Nat) (f : Link → Link) : (s.onLink p f).pd = s.pd := rfl
@[simp] theorem State.onLink_seq (p : Nat) (f : Link → Link) : (s.onLink p f).seq = s.seq := rfl
@[simp] theorem State.onLink_safe (p : Nat) (f : Link → Link) : (s.onLink p f).safe = s.safe := rfl
@[simp] theorem State.onLink_tap (p : Nat) (f : Link → Link) : (s.onLink p f).tap = s.tap := rfl

/-! ### onAwl -/

@[simp] theorem State.onAwl_pending (p : Nat) (f : Awl → Awl) : (s.onAwl p f).pending = s.pending := rfl
@[simp] theorem State.onAwl_free (p : Nat) (f : Awl → Awl) : (s.onAwl p f).free = s.free := rfl
@[simp] theorem State.onAwl_uid (p : Nat) (f : Awl → Awl) : (s.onAwl p f).uid = s.uid := rfl
@[simp] theorem State.onAwl_hides (p : Nat) (f : Awl → Awl) : (s.onAwl p f).hides = s.hides := rfl
@[simp] theorem State.onAwl_build (p : Nat) (f : Awl → Awl) : (s.onAwl p f).build = s.build := rfl
@[simp] theorem State.onAwl_dieSlope (p : Nat) (f : Awl → Awl) : (s.onAwl p f).dieSlope = s.dieSlope := rfl
@[simp] theorem State.onAwl_dieIcpt (p : Nat) (f : Awl → Awl) : (s.onAwl p f).dieIcpt = s.dieIcpt := rfl
@[simp] theorem State.onAwl_expSig (p : Nat) (f : Awl → Awl) : (s.onAwl p f).expSig = s.expSig := rfl
@[simp] theorem State.onAwl_image (p : Nat) (f : Awl → Awl) : (s.onAwl p f).image = s.image := rfl
@[simp] theorem State.onAwl_cells (p : Nat) (f : Awl → Awl) : (s.onAwl p f).cells = s.cells := rfl
@[simp] theorem State.onAwl_bad (p : Nat) (f : Awl → Awl) : (s.onAwl p f).bad = s.bad := rfl
@[simp] theorem State.onAwl_boot (p : Nat) (f : Awl → Awl) : (s.onAwl p f).boot = s.boot := rfl
@[simp] theorem State.onAwl_flash (p : Nat) (f : Awl → Awl) : (s.onAwl p f).flash = s.flash := rfl
@[simp] theorem State.onAwl_calRec (p : Nat) (f : Awl → Awl) : (s.onAwl p f).calRec = s.calRec := rfl
@[simp] theorem State.onAwl_retRec (p : Nat) (f : Awl → Awl) : (s.onAwl p f).retRec = s.retRec := rfl
@[simp] theorem State.onAwl_mgmt (p : Nat) (f : Awl → Awl) : (s.onAwl p f).mgmt = s.mgmt := rfl
@[simp] theorem State.onAwl_tack (p : Nat) (f : Awl → Awl) : (s.onAwl p f).tack = s.tack := rfl
@[simp] theorem State.onAwl_frames (p : Nat) (f : Awl → Awl) : (s.onAwl p f).frames = s.frames := rfl
@[simp] theorem State.onAwl_cnts (p : Nat) (f : Awl → Awl) : (s.onAwl p f).cnts = s.cnts := rfl
@[simp] theorem State.onAwl_ports (p : Nat) (f : Awl → Awl) : (s.onAwl p f).ports = s.ports := rfl
@[simp] theorem State.onAwl_ctls (p : Nat) (f : Awl → Awl) : (s.onAwl p f).ctls = s.ctls := rfl
@[simp] theorem State.onAwl_links (p : Nat) (f : Awl → Awl) : (s.onAwl p f).links = s.links := rfl
@[simp] theorem State.onAwl_awls (p : Nat) (f : Awl → Awl) : (s.onAwl p f).awls = upd s.awls p f := rfl
@[simp] theorem State.onAwl_curs (p : Nat) (f : Awl → Awl) : (s.onAwl p f).curs = s.curs := rfl
@[simp] theorem State.onAwl_sectors (p : Nat) (f : Awl → Awl) : (s.onAwl p f).sectors = s.sectors := rfl
@[simp] theorem State.onAwl_pools (p : Nat) (f : Awl → Awl) : (s.onAwl p f).pools = s.pools := rfl
@[simp] theorem State.onAwl_nets (p : Nat) (f : Awl → Awl) : (s.onAwl p f).nets = s.nets := rfl
@[simp] theorem State.onAwl_hars (p : Nat) (f : Awl → Awl) : (s.onAwl p f).hars = s.hars := rfl
@[simp] theorem State.onAwl_movs (p : Nat) (f : Awl → Awl) : (s.onAwl p f).movs = s.movs := rfl
@[simp] theorem State.onAwl_jobs (p : Nat) (f : Awl → Awl) : (s.onAwl p f).jobs = s.jobs := rfl
@[simp] theorem State.onAwl_rhHeld (p : Nat) (f : Awl → Awl) : (s.onAwl p f).rhHeld = s.rhHeld := rfl
@[simp] theorem State.onAwl_acc (p : Nat) (f : Awl → Awl) : (s.onAwl p f).acc = s.acc := rfl
@[simp] theorem State.onAwl_pd (p : Nat) (f : Awl → Awl) : (s.onAwl p f).pd = s.pd := rfl
@[simp] theorem State.onAwl_seq (p : Nat) (f : Awl → Awl) : (s.onAwl p f).seq = s.seq := rfl
@[simp] theorem State.onAwl_safe (p : Nat) (f : Awl → Awl) : (s.onAwl p f).safe = s.safe := rfl
@[simp] theorem State.onAwl_tap (p : Nat) (f : Awl → Awl) : (s.onAwl p f).tap = s.tap := rfl

/-! ### onCur -/

@[simp] theorem State.onCur_pending (p : Nat) (f : Cur → Cur) : (s.onCur p f).pending = s.pending := rfl
@[simp] theorem State.onCur_free (p : Nat) (f : Cur → Cur) : (s.onCur p f).free = s.free := rfl
@[simp] theorem State.onCur_uid (p : Nat) (f : Cur → Cur) : (s.onCur p f).uid = s.uid := rfl
@[simp] theorem State.onCur_hides (p : Nat) (f : Cur → Cur) : (s.onCur p f).hides = s.hides := rfl
@[simp] theorem State.onCur_build (p : Nat) (f : Cur → Cur) : (s.onCur p f).build = s.build := rfl
@[simp] theorem State.onCur_dieSlope (p : Nat) (f : Cur → Cur) : (s.onCur p f).dieSlope = s.dieSlope := rfl
@[simp] theorem State.onCur_dieIcpt (p : Nat) (f : Cur → Cur) : (s.onCur p f).dieIcpt = s.dieIcpt := rfl
@[simp] theorem State.onCur_expSig (p : Nat) (f : Cur → Cur) : (s.onCur p f).expSig = s.expSig := rfl
@[simp] theorem State.onCur_image (p : Nat) (f : Cur → Cur) : (s.onCur p f).image = s.image := rfl
@[simp] theorem State.onCur_cells (p : Nat) (f : Cur → Cur) : (s.onCur p f).cells = s.cells := rfl
@[simp] theorem State.onCur_bad (p : Nat) (f : Cur → Cur) : (s.onCur p f).bad = s.bad := rfl
@[simp] theorem State.onCur_boot (p : Nat) (f : Cur → Cur) : (s.onCur p f).boot = s.boot := rfl
@[simp] theorem State.onCur_flash (p : Nat) (f : Cur → Cur) : (s.onCur p f).flash = s.flash := rfl
@[simp] theorem State.onCur_calRec (p : Nat) (f : Cur → Cur) : (s.onCur p f).calRec = s.calRec := rfl
@[simp] theorem State.onCur_retRec (p : Nat) (f : Cur → Cur) : (s.onCur p f).retRec = s.retRec := rfl
@[simp] theorem State.onCur_mgmt (p : Nat) (f : Cur → Cur) : (s.onCur p f).mgmt = s.mgmt := rfl
@[simp] theorem State.onCur_tack (p : Nat) (f : Cur → Cur) : (s.onCur p f).tack = s.tack := rfl
@[simp] theorem State.onCur_frames (p : Nat) (f : Cur → Cur) : (s.onCur p f).frames = s.frames := rfl
@[simp] theorem State.onCur_cnts (p : Nat) (f : Cur → Cur) : (s.onCur p f).cnts = s.cnts := rfl
@[simp] theorem State.onCur_ports (p : Nat) (f : Cur → Cur) : (s.onCur p f).ports = s.ports := rfl
@[simp] theorem State.onCur_ctls (p : Nat) (f : Cur → Cur) : (s.onCur p f).ctls = s.ctls := rfl
@[simp] theorem State.onCur_links (p : Nat) (f : Cur → Cur) : (s.onCur p f).links = s.links := rfl
@[simp] theorem State.onCur_awls (p : Nat) (f : Cur → Cur) : (s.onCur p f).awls = s.awls := rfl
@[simp] theorem State.onCur_curs (p : Nat) (f : Cur → Cur) : (s.onCur p f).curs = upd s.curs p f := rfl
@[simp] theorem State.onCur_sectors (p : Nat) (f : Cur → Cur) : (s.onCur p f).sectors = s.sectors := rfl
@[simp] theorem State.onCur_pools (p : Nat) (f : Cur → Cur) : (s.onCur p f).pools = s.pools := rfl
@[simp] theorem State.onCur_nets (p : Nat) (f : Cur → Cur) : (s.onCur p f).nets = s.nets := rfl
@[simp] theorem State.onCur_hars (p : Nat) (f : Cur → Cur) : (s.onCur p f).hars = s.hars := rfl
@[simp] theorem State.onCur_movs (p : Nat) (f : Cur → Cur) : (s.onCur p f).movs = s.movs := rfl
@[simp] theorem State.onCur_jobs (p : Nat) (f : Cur → Cur) : (s.onCur p f).jobs = s.jobs := rfl
@[simp] theorem State.onCur_rhHeld (p : Nat) (f : Cur → Cur) : (s.onCur p f).rhHeld = s.rhHeld := rfl
@[simp] theorem State.onCur_acc (p : Nat) (f : Cur → Cur) : (s.onCur p f).acc = s.acc := rfl
@[simp] theorem State.onCur_pd (p : Nat) (f : Cur → Cur) : (s.onCur p f).pd = s.pd := rfl
@[simp] theorem State.onCur_seq (p : Nat) (f : Cur → Cur) : (s.onCur p f).seq = s.seq := rfl
@[simp] theorem State.onCur_safe (p : Nat) (f : Cur → Cur) : (s.onCur p f).safe = s.safe := rfl
@[simp] theorem State.onCur_tap (p : Nat) (f : Cur → Cur) : (s.onCur p f).tap = s.tap := rfl

/-! ### onPort -/

@[simp] theorem State.onPort_pending (n : Nat) (f : Port → Port) : (s.onPort n f).pending = s.pending := rfl
@[simp] theorem State.onPort_free (n : Nat) (f : Port → Port) : (s.onPort n f).free = s.free := rfl
@[simp] theorem State.onPort_uid (n : Nat) (f : Port → Port) : (s.onPort n f).uid = s.uid := rfl
@[simp] theorem State.onPort_hides (n : Nat) (f : Port → Port) : (s.onPort n f).hides = s.hides := rfl
@[simp] theorem State.onPort_build (n : Nat) (f : Port → Port) : (s.onPort n f).build = s.build := rfl
@[simp] theorem State.onPort_dieSlope (n : Nat) (f : Port → Port) : (s.onPort n f).dieSlope = s.dieSlope := rfl
@[simp] theorem State.onPort_dieIcpt (n : Nat) (f : Port → Port) : (s.onPort n f).dieIcpt = s.dieIcpt := rfl
@[simp] theorem State.onPort_expSig (n : Nat) (f : Port → Port) : (s.onPort n f).expSig = s.expSig := rfl
@[simp] theorem State.onPort_image (n : Nat) (f : Port → Port) : (s.onPort n f).image = s.image := rfl
@[simp] theorem State.onPort_cells (n : Nat) (f : Port → Port) : (s.onPort n f).cells = s.cells := rfl
@[simp] theorem State.onPort_bad (n : Nat) (f : Port → Port) : (s.onPort n f).bad = s.bad := rfl
@[simp] theorem State.onPort_boot (n : Nat) (f : Port → Port) : (s.onPort n f).boot = s.boot := rfl
@[simp] theorem State.onPort_flash (n : Nat) (f : Port → Port) : (s.onPort n f).flash = s.flash := rfl
@[simp] theorem State.onPort_calRec (n : Nat) (f : Port → Port) : (s.onPort n f).calRec = s.calRec := rfl
@[simp] theorem State.onPort_retRec (n : Nat) (f : Port → Port) : (s.onPort n f).retRec = s.retRec := rfl
@[simp] theorem State.onPort_mgmt (n : Nat) (f : Port → Port) : (s.onPort n f).mgmt = s.mgmt := rfl
@[simp] theorem State.onPort_tack (n : Nat) (f : Port → Port) : (s.onPort n f).tack = s.tack := rfl
@[simp] theorem State.onPort_frames (n : Nat) (f : Port → Port) : (s.onPort n f).frames = s.frames := rfl
@[simp] theorem State.onPort_cnts (n : Nat) (f : Port → Port) : (s.onPort n f).cnts = s.cnts := rfl
@[simp] theorem State.onPort_ports (n : Nat) (f : Port → Port) : (s.onPort n f).ports = upd s.ports n f := rfl
@[simp] theorem State.onPort_ctls (n : Nat) (f : Port → Port) : (s.onPort n f).ctls = s.ctls := rfl
@[simp] theorem State.onPort_links (n : Nat) (f : Port → Port) : (s.onPort n f).links = s.links := rfl
@[simp] theorem State.onPort_awls (n : Nat) (f : Port → Port) : (s.onPort n f).awls = s.awls := rfl
@[simp] theorem State.onPort_curs (n : Nat) (f : Port → Port) : (s.onPort n f).curs = s.curs := rfl
@[simp] theorem State.onPort_sectors (n : Nat) (f : Port → Port) : (s.onPort n f).sectors = s.sectors := rfl
@[simp] theorem State.onPort_pools (n : Nat) (f : Port → Port) : (s.onPort n f).pools = s.pools := rfl
@[simp] theorem State.onPort_nets (n : Nat) (f : Port → Port) : (s.onPort n f).nets = s.nets := rfl
@[simp] theorem State.onPort_hars (n : Nat) (f : Port → Port) : (s.onPort n f).hars = s.hars := rfl
@[simp] theorem State.onPort_movs (n : Nat) (f : Port → Port) : (s.onPort n f).movs = s.movs := rfl
@[simp] theorem State.onPort_jobs (n : Nat) (f : Port → Port) : (s.onPort n f).jobs = s.jobs := rfl
@[simp] theorem State.onPort_rhHeld (n : Nat) (f : Port → Port) : (s.onPort n f).rhHeld = s.rhHeld := rfl
@[simp] theorem State.onPort_acc (n : Nat) (f : Port → Port) : (s.onPort n f).acc = s.acc := rfl
@[simp] theorem State.onPort_pd (n : Nat) (f : Port → Port) : (s.onPort n f).pd = s.pd := rfl
@[simp] theorem State.onPort_seq (n : Nat) (f : Port → Port) : (s.onPort n f).seq = s.seq := rfl
@[simp] theorem State.onPort_safe (n : Nat) (f : Port → Port) : (s.onPort n f).safe = s.safe := rfl
@[simp] theorem State.onPort_tap (n : Nat) (f : Port → Port) : (s.onPort n f).tap = s.tap := rfl

/-! ### onSec -/

@[simp] theorem State.onSec_pending (x : Nat) (f : Sector → Sector) : (s.onSec x f).pending = s.pending := rfl
@[simp] theorem State.onSec_free (x : Nat) (f : Sector → Sector) : (s.onSec x f).free = s.free := rfl
@[simp] theorem State.onSec_uid (x : Nat) (f : Sector → Sector) : (s.onSec x f).uid = s.uid := rfl
@[simp] theorem State.onSec_hides (x : Nat) (f : Sector → Sector) : (s.onSec x f).hides = s.hides := rfl
@[simp] theorem State.onSec_build (x : Nat) (f : Sector → Sector) : (s.onSec x f).build = s.build := rfl
@[simp] theorem State.onSec_dieSlope (x : Nat) (f : Sector → Sector) : (s.onSec x f).dieSlope = s.dieSlope := rfl
@[simp] theorem State.onSec_dieIcpt (x : Nat) (f : Sector → Sector) : (s.onSec x f).dieIcpt = s.dieIcpt := rfl
@[simp] theorem State.onSec_expSig (x : Nat) (f : Sector → Sector) : (s.onSec x f).expSig = s.expSig := rfl
@[simp] theorem State.onSec_image (x : Nat) (f : Sector → Sector) : (s.onSec x f).image = s.image := rfl
@[simp] theorem State.onSec_cells (x : Nat) (f : Sector → Sector) : (s.onSec x f).cells = s.cells := rfl
@[simp] theorem State.onSec_bad (x : Nat) (f : Sector → Sector) : (s.onSec x f).bad = s.bad := rfl
@[simp] theorem State.onSec_boot (x : Nat) (f : Sector → Sector) : (s.onSec x f).boot = s.boot := rfl
@[simp] theorem State.onSec_flash (x : Nat) (f : Sector → Sector) : (s.onSec x f).flash = s.flash := rfl
@[simp] theorem State.onSec_calRec (x : Nat) (f : Sector → Sector) : (s.onSec x f).calRec = s.calRec := rfl
@[simp] theorem State.onSec_retRec (x : Nat) (f : Sector → Sector) : (s.onSec x f).retRec = s.retRec := rfl
@[simp] theorem State.onSec_mgmt (x : Nat) (f : Sector → Sector) : (s.onSec x f).mgmt = s.mgmt := rfl
@[simp] theorem State.onSec_tack (x : Nat) (f : Sector → Sector) : (s.onSec x f).tack = s.tack := rfl
@[simp] theorem State.onSec_frames (x : Nat) (f : Sector → Sector) : (s.onSec x f).frames = s.frames := rfl
@[simp] theorem State.onSec_cnts (x : Nat) (f : Sector → Sector) : (s.onSec x f).cnts = s.cnts := rfl
@[simp] theorem State.onSec_ports (x : Nat) (f : Sector → Sector) : (s.onSec x f).ports = s.ports := rfl
@[simp] theorem State.onSec_ctls (x : Nat) (f : Sector → Sector) : (s.onSec x f).ctls = s.ctls := rfl
@[simp] theorem State.onSec_links (x : Nat) (f : Sector → Sector) : (s.onSec x f).links = s.links := rfl
@[simp] theorem State.onSec_awls (x : Nat) (f : Sector → Sector) : (s.onSec x f).awls = s.awls := rfl
@[simp] theorem State.onSec_curs (x : Nat) (f : Sector → Sector) : (s.onSec x f).curs = s.curs := rfl
@[simp] theorem State.onSec_sectors (x : Nat) (f : Sector → Sector) : (s.onSec x f).sectors = upd s.sectors x f := rfl
@[simp] theorem State.onSec_pools (x : Nat) (f : Sector → Sector) : (s.onSec x f).pools = s.pools := rfl
@[simp] theorem State.onSec_nets (x : Nat) (f : Sector → Sector) : (s.onSec x f).nets = s.nets := rfl
@[simp] theorem State.onSec_hars (x : Nat) (f : Sector → Sector) : (s.onSec x f).hars = s.hars := rfl
@[simp] theorem State.onSec_movs (x : Nat) (f : Sector → Sector) : (s.onSec x f).movs = s.movs := rfl
@[simp] theorem State.onSec_jobs (x : Nat) (f : Sector → Sector) : (s.onSec x f).jobs = s.jobs := rfl
@[simp] theorem State.onSec_rhHeld (x : Nat) (f : Sector → Sector) : (s.onSec x f).rhHeld = s.rhHeld := rfl
@[simp] theorem State.onSec_acc (x : Nat) (f : Sector → Sector) : (s.onSec x f).acc = s.acc := rfl
@[simp] theorem State.onSec_pd (x : Nat) (f : Sector → Sector) : (s.onSec x f).pd = s.pd := rfl
@[simp] theorem State.onSec_seq (x : Nat) (f : Sector → Sector) : (s.onSec x f).seq = s.seq := rfl
@[simp] theorem State.onSec_safe (x : Nat) (f : Sector → Sector) : (s.onSec x f).safe = s.safe := rfl
@[simp] theorem State.onSec_tap (x : Nat) (f : Sector → Sector) : (s.onSec x f).tap = s.tap := rfl

/-! ### onPool -/

@[simp] theorem State.onPool_pending (x : Nat) (f : Pool → Pool) : (s.onPool x f).pending = s.pending := rfl
@[simp] theorem State.onPool_free (x : Nat) (f : Pool → Pool) : (s.onPool x f).free = s.free := rfl
@[simp] theorem State.onPool_uid (x : Nat) (f : Pool → Pool) : (s.onPool x f).uid = s.uid := rfl
@[simp] theorem State.onPool_hides (x : Nat) (f : Pool → Pool) : (s.onPool x f).hides = s.hides := rfl
@[simp] theorem State.onPool_build (x : Nat) (f : Pool → Pool) : (s.onPool x f).build = s.build := rfl
@[simp] theorem State.onPool_dieSlope (x : Nat) (f : Pool → Pool) : (s.onPool x f).dieSlope = s.dieSlope := rfl
@[simp] theorem State.onPool_dieIcpt (x : Nat) (f : Pool → Pool) : (s.onPool x f).dieIcpt = s.dieIcpt := rfl
@[simp] theorem State.onPool_expSig (x : Nat) (f : Pool → Pool) : (s.onPool x f).expSig = s.expSig := rfl
@[simp] theorem State.onPool_image (x : Nat) (f : Pool → Pool) : (s.onPool x f).image = s.image := rfl
@[simp] theorem State.onPool_cells (x : Nat) (f : Pool → Pool) : (s.onPool x f).cells = s.cells := rfl
@[simp] theorem State.onPool_bad (x : Nat) (f : Pool → Pool) : (s.onPool x f).bad = s.bad := rfl
@[simp] theorem State.onPool_boot (x : Nat) (f : Pool → Pool) : (s.onPool x f).boot = s.boot := rfl
@[simp] theorem State.onPool_flash (x : Nat) (f : Pool → Pool) : (s.onPool x f).flash = s.flash := rfl
@[simp] theorem State.onPool_calRec (x : Nat) (f : Pool → Pool) : (s.onPool x f).calRec = s.calRec := rfl
@[simp] theorem State.onPool_retRec (x : Nat) (f : Pool → Pool) : (s.onPool x f).retRec = s.retRec := rfl
@[simp] theorem State.onPool_mgmt (x : Nat) (f : Pool → Pool) : (s.onPool x f).mgmt = s.mgmt := rfl
@[simp] theorem State.onPool_tack (x : Nat) (f : Pool → Pool) : (s.onPool x f).tack = s.tack := rfl
@[simp] theorem State.onPool_frames (x : Nat) (f : Pool → Pool) : (s.onPool x f).frames = s.frames := rfl
@[simp] theorem State.onPool_cnts (x : Nat) (f : Pool → Pool) : (s.onPool x f).cnts = s.cnts := rfl
@[simp] theorem State.onPool_ports (x : Nat) (f : Pool → Pool) : (s.onPool x f).ports = s.ports := rfl
@[simp] theorem State.onPool_ctls (x : Nat) (f : Pool → Pool) : (s.onPool x f).ctls = s.ctls := rfl
@[simp] theorem State.onPool_links (x : Nat) (f : Pool → Pool) : (s.onPool x f).links = s.links := rfl
@[simp] theorem State.onPool_awls (x : Nat) (f : Pool → Pool) : (s.onPool x f).awls = s.awls := rfl
@[simp] theorem State.onPool_curs (x : Nat) (f : Pool → Pool) : (s.onPool x f).curs = s.curs := rfl
@[simp] theorem State.onPool_sectors (x : Nat) (f : Pool → Pool) : (s.onPool x f).sectors = s.sectors := rfl
@[simp] theorem State.onPool_pools (x : Nat) (f : Pool → Pool) : (s.onPool x f).pools = upd s.pools x f := rfl
@[simp] theorem State.onPool_nets (x : Nat) (f : Pool → Pool) : (s.onPool x f).nets = s.nets := rfl
@[simp] theorem State.onPool_hars (x : Nat) (f : Pool → Pool) : (s.onPool x f).hars = s.hars := rfl
@[simp] theorem State.onPool_movs (x : Nat) (f : Pool → Pool) : (s.onPool x f).movs = s.movs := rfl
@[simp] theorem State.onPool_jobs (x : Nat) (f : Pool → Pool) : (s.onPool x f).jobs = s.jobs := rfl
@[simp] theorem State.onPool_rhHeld (x : Nat) (f : Pool → Pool) : (s.onPool x f).rhHeld = s.rhHeld := rfl
@[simp] theorem State.onPool_acc (x : Nat) (f : Pool → Pool) : (s.onPool x f).acc = s.acc := rfl
@[simp] theorem State.onPool_pd (x : Nat) (f : Pool → Pool) : (s.onPool x f).pd = s.pd := rfl
@[simp] theorem State.onPool_seq (x : Nat) (f : Pool → Pool) : (s.onPool x f).seq = s.seq := rfl
@[simp] theorem State.onPool_safe (x : Nat) (f : Pool → Pool) : (s.onPool x f).safe = s.safe := rfl
@[simp] theorem State.onPool_tap (x : Nat) (f : Pool → Pool) : (s.onPool x f).tap = s.tap := rfl

/-! ### onNet -/

@[simp] theorem State.onNet_pending (x : Nat) (f : Net → Net) : (s.onNet x f).pending = s.pending := rfl
@[simp] theorem State.onNet_free (x : Nat) (f : Net → Net) : (s.onNet x f).free = s.free := rfl
@[simp] theorem State.onNet_uid (x : Nat) (f : Net → Net) : (s.onNet x f).uid = s.uid := rfl
@[simp] theorem State.onNet_hides (x : Nat) (f : Net → Net) : (s.onNet x f).hides = s.hides := rfl
@[simp] theorem State.onNet_build (x : Nat) (f : Net → Net) : (s.onNet x f).build = s.build := rfl
@[simp] theorem State.onNet_dieSlope (x : Nat) (f : Net → Net) : (s.onNet x f).dieSlope = s.dieSlope := rfl
@[simp] theorem State.onNet_dieIcpt (x : Nat) (f : Net → Net) : (s.onNet x f).dieIcpt = s.dieIcpt := rfl
@[simp] theorem State.onNet_expSig (x : Nat) (f : Net → Net) : (s.onNet x f).expSig = s.expSig := rfl
@[simp] theorem State.onNet_image (x : Nat) (f : Net → Net) : (s.onNet x f).image = s.image := rfl
@[simp] theorem State.onNet_cells (x : Nat) (f : Net → Net) : (s.onNet x f).cells = s.cells := rfl
@[simp] theorem State.onNet_bad (x : Nat) (f : Net → Net) : (s.onNet x f).bad = s.bad := rfl
@[simp] theorem State.onNet_boot (x : Nat) (f : Net → Net) : (s.onNet x f).boot = s.boot := rfl
@[simp] theorem State.onNet_flash (x : Nat) (f : Net → Net) : (s.onNet x f).flash = s.flash := rfl
@[simp] theorem State.onNet_calRec (x : Nat) (f : Net → Net) : (s.onNet x f).calRec = s.calRec := rfl
@[simp] theorem State.onNet_retRec (x : Nat) (f : Net → Net) : (s.onNet x f).retRec = s.retRec := rfl
@[simp] theorem State.onNet_mgmt (x : Nat) (f : Net → Net) : (s.onNet x f).mgmt = s.mgmt := rfl
@[simp] theorem State.onNet_tack (x : Nat) (f : Net → Net) : (s.onNet x f).tack = s.tack := rfl
@[simp] theorem State.onNet_frames (x : Nat) (f : Net → Net) : (s.onNet x f).frames = s.frames := rfl
@[simp] theorem State.onNet_cnts (x : Nat) (f : Net → Net) : (s.onNet x f).cnts = s.cnts := rfl
@[simp] theorem State.onNet_ports (x : Nat) (f : Net → Net) : (s.onNet x f).ports = s.ports := rfl
@[simp] theorem State.onNet_ctls (x : Nat) (f : Net → Net) : (s.onNet x f).ctls = s.ctls := rfl
@[simp] theorem State.onNet_links (x : Nat) (f : Net → Net) : (s.onNet x f).links = s.links := rfl
@[simp] theorem State.onNet_awls (x : Nat) (f : Net → Net) : (s.onNet x f).awls = s.awls := rfl
@[simp] theorem State.onNet_curs (x : Nat) (f : Net → Net) : (s.onNet x f).curs = s.curs := rfl
@[simp] theorem State.onNet_sectors (x : Nat) (f : Net → Net) : (s.onNet x f).sectors = s.sectors := rfl
@[simp] theorem State.onNet_pools (x : Nat) (f : Net → Net) : (s.onNet x f).pools = s.pools := rfl
@[simp] theorem State.onNet_nets (x : Nat) (f : Net → Net) : (s.onNet x f).nets = upd s.nets x f := rfl
@[simp] theorem State.onNet_hars (x : Nat) (f : Net → Net) : (s.onNet x f).hars = s.hars := rfl
@[simp] theorem State.onNet_movs (x : Nat) (f : Net → Net) : (s.onNet x f).movs = s.movs := rfl
@[simp] theorem State.onNet_jobs (x : Nat) (f : Net → Net) : (s.onNet x f).jobs = s.jobs := rfl
@[simp] theorem State.onNet_rhHeld (x : Nat) (f : Net → Net) : (s.onNet x f).rhHeld = s.rhHeld := rfl
@[simp] theorem State.onNet_acc (x : Nat) (f : Net → Net) : (s.onNet x f).acc = s.acc := rfl
@[simp] theorem State.onNet_pd (x : Nat) (f : Net → Net) : (s.onNet x f).pd = s.pd := rfl
@[simp] theorem State.onNet_seq (x : Nat) (f : Net → Net) : (s.onNet x f).seq = s.seq := rfl
@[simp] theorem State.onNet_safe (x : Nat) (f : Net → Net) : (s.onNet x f).safe = s.safe := rfl
@[simp] theorem State.onNet_tap (x : Nat) (f : Net → Net) : (s.onNet x f).tap = s.tap := rfl

/-! ### onHar -/

@[simp] theorem State.onHar_pending (x : Nat) (f : Har → Har) : (s.onHar x f).pending = s.pending := rfl
@[simp] theorem State.onHar_free (x : Nat) (f : Har → Har) : (s.onHar x f).free = s.free := rfl
@[simp] theorem State.onHar_uid (x : Nat) (f : Har → Har) : (s.onHar x f).uid = s.uid := rfl
@[simp] theorem State.onHar_hides (x : Nat) (f : Har → Har) : (s.onHar x f).hides = s.hides := rfl
@[simp] theorem State.onHar_build (x : Nat) (f : Har → Har) : (s.onHar x f).build = s.build := rfl
@[simp] theorem State.onHar_dieSlope (x : Nat) (f : Har → Har) : (s.onHar x f).dieSlope = s.dieSlope := rfl
@[simp] theorem State.onHar_dieIcpt (x : Nat) (f : Har → Har) : (s.onHar x f).dieIcpt = s.dieIcpt := rfl
@[simp] theorem State.onHar_expSig (x : Nat) (f : Har → Har) : (s.onHar x f).expSig = s.expSig := rfl
@[simp] theorem State.onHar_image (x : Nat) (f : Har → Har) : (s.onHar x f).image = s.image := rfl
@[simp] theorem State.onHar_cells (x : Nat) (f : Har → Har) : (s.onHar x f).cells = s.cells := rfl
@[simp] theorem State.onHar_bad (x : Nat) (f : Har → Har) : (s.onHar x f).bad = s.bad := rfl
@[simp] theorem State.onHar_boot (x : Nat) (f : Har → Har) : (s.onHar x f).boot = s.boot := rfl
@[simp] theorem State.onHar_flash (x : Nat) (f : Har → Har) : (s.onHar x f).flash = s.flash := rfl
@[simp] theorem State.onHar_calRec (x : Nat) (f : Har → Har) : (s.onHar x f).calRec = s.calRec := rfl
@[simp] theorem State.onHar_retRec (x : Nat) (f : Har → Har) : (s.onHar x f).retRec = s.retRec := rfl
@[simp] theorem State.onHar_mgmt (x : Nat) (f : Har → Har) : (s.onHar x f).mgmt = s.mgmt := rfl
@[simp] theorem State.onHar_tack (x : Nat) (f : Har → Har) : (s.onHar x f).tack = s.tack := rfl
@[simp] theorem State.onHar_frames (x : Nat) (f : Har → Har) : (s.onHar x f).frames = s.frames := rfl
@[simp] theorem State.onHar_cnts (x : Nat) (f : Har → Har) : (s.onHar x f).cnts = s.cnts := rfl
@[simp] theorem State.onHar_ports (x : Nat) (f : Har → Har) : (s.onHar x f).ports = s.ports := rfl
@[simp] theorem State.onHar_ctls (x : Nat) (f : Har → Har) : (s.onHar x f).ctls = s.ctls := rfl
@[simp] theorem State.onHar_links (x : Nat) (f : Har → Har) : (s.onHar x f).links = s.links := rfl
@[simp] theorem State.onHar_awls (x : Nat) (f : Har → Har) : (s.onHar x f).awls = s.awls := rfl
@[simp] theorem State.onHar_curs (x : Nat) (f : Har → Har) : (s.onHar x f).curs = s.curs := rfl
@[simp] theorem State.onHar_sectors (x : Nat) (f : Har → Har) : (s.onHar x f).sectors = s.sectors := rfl
@[simp] theorem State.onHar_pools (x : Nat) (f : Har → Har) : (s.onHar x f).pools = s.pools := rfl
@[simp] theorem State.onHar_nets (x : Nat) (f : Har → Har) : (s.onHar x f).nets = s.nets := rfl
@[simp] theorem State.onHar_hars (x : Nat) (f : Har → Har) : (s.onHar x f).hars = upd s.hars x f := rfl
@[simp] theorem State.onHar_movs (x : Nat) (f : Har → Har) : (s.onHar x f).movs = s.movs := rfl
@[simp] theorem State.onHar_jobs (x : Nat) (f : Har → Har) : (s.onHar x f).jobs = s.jobs := rfl
@[simp] theorem State.onHar_rhHeld (x : Nat) (f : Har → Har) : (s.onHar x f).rhHeld = s.rhHeld := rfl
@[simp] theorem State.onHar_acc (x : Nat) (f : Har → Har) : (s.onHar x f).acc = s.acc := rfl
@[simp] theorem State.onHar_pd (x : Nat) (f : Har → Har) : (s.onHar x f).pd = s.pd := rfl
@[simp] theorem State.onHar_seq (x : Nat) (f : Har → Har) : (s.onHar x f).seq = s.seq := rfl
@[simp] theorem State.onHar_safe (x : Nat) (f : Har → Har) : (s.onHar x f).safe = s.safe := rfl
@[simp] theorem State.onHar_tap (x : Nat) (f : Har → Har) : (s.onHar x f).tap = s.tap := rfl

/-! ### onMov -/

@[simp] theorem State.onMov_pending (x : Nat) (f : Mov → Mov) : (s.onMov x f).pending = s.pending := rfl
@[simp] theorem State.onMov_free (x : Nat) (f : Mov → Mov) : (s.onMov x f).free = s.free := rfl
@[simp] theorem State.onMov_uid (x : Nat) (f : Mov → Mov) : (s.onMov x f).uid = s.uid := rfl
@[simp] theorem State.onMov_hides (x : Nat) (f : Mov → Mov) : (s.onMov x f).hides = s.hides := rfl
@[simp] theorem State.onMov_build (x : Nat) (f : Mov → Mov) : (s.onMov x f).build = s.build := rfl
@[simp] theorem State.onMov_dieSlope (x : Nat) (f : Mov → Mov) : (s.onMov x f).dieSlope = s.dieSlope := rfl
@[simp] theorem State.onMov_dieIcpt (x : Nat) (f : Mov → Mov) : (s.onMov x f).dieIcpt = s.dieIcpt := rfl
@[simp] theorem State.onMov_expSig (x : Nat) (f : Mov → Mov) : (s.onMov x f).expSig = s.expSig := rfl
@[simp] theorem State.onMov_image (x : Nat) (f : Mov → Mov) : (s.onMov x f).image = s.image := rfl
@[simp] theorem State.onMov_cells (x : Nat) (f : Mov → Mov) : (s.onMov x f).cells = s.cells := rfl
@[simp] theorem State.onMov_bad (x : Nat) (f : Mov → Mov) : (s.onMov x f).bad = s.bad := rfl
@[simp] theorem State.onMov_boot (x : Nat) (f : Mov → Mov) : (s.onMov x f).boot = s.boot := rfl
@[simp] theorem State.onMov_flash (x : Nat) (f : Mov → Mov) : (s.onMov x f).flash = s.flash := rfl
@[simp] theorem State.onMov_calRec (x : Nat) (f : Mov → Mov) : (s.onMov x f).calRec = s.calRec := rfl
@[simp] theorem State.onMov_retRec (x : Nat) (f : Mov → Mov) : (s.onMov x f).retRec = s.retRec := rfl
@[simp] theorem State.onMov_mgmt (x : Nat) (f : Mov → Mov) : (s.onMov x f).mgmt = s.mgmt := rfl
@[simp] theorem State.onMov_tack (x : Nat) (f : Mov → Mov) : (s.onMov x f).tack = s.tack := rfl
@[simp] theorem State.onMov_frames (x : Nat) (f : Mov → Mov) : (s.onMov x f).frames = s.frames := rfl
@[simp] theorem State.onMov_cnts (x : Nat) (f : Mov → Mov) : (s.onMov x f).cnts = s.cnts := rfl
@[simp] theorem State.onMov_ports (x : Nat) (f : Mov → Mov) : (s.onMov x f).ports = s.ports := rfl
@[simp] theorem State.onMov_ctls (x : Nat) (f : Mov → Mov) : (s.onMov x f).ctls = s.ctls := rfl
@[simp] theorem State.onMov_links (x : Nat) (f : Mov → Mov) : (s.onMov x f).links = s.links := rfl
@[simp] theorem State.onMov_awls (x : Nat) (f : Mov → Mov) : (s.onMov x f).awls = s.awls := rfl
@[simp] theorem State.onMov_curs (x : Nat) (f : Mov → Mov) : (s.onMov x f).curs = s.curs := rfl
@[simp] theorem State.onMov_sectors (x : Nat) (f : Mov → Mov) : (s.onMov x f).sectors = s.sectors := rfl
@[simp] theorem State.onMov_pools (x : Nat) (f : Mov → Mov) : (s.onMov x f).pools = s.pools := rfl
@[simp] theorem State.onMov_nets (x : Nat) (f : Mov → Mov) : (s.onMov x f).nets = s.nets := rfl
@[simp] theorem State.onMov_hars (x : Nat) (f : Mov → Mov) : (s.onMov x f).hars = s.hars := rfl
@[simp] theorem State.onMov_movs (x : Nat) (f : Mov → Mov) : (s.onMov x f).movs = upd s.movs x f := rfl
@[simp] theorem State.onMov_jobs (x : Nat) (f : Mov → Mov) : (s.onMov x f).jobs = s.jobs := rfl
@[simp] theorem State.onMov_rhHeld (x : Nat) (f : Mov → Mov) : (s.onMov x f).rhHeld = s.rhHeld := rfl
@[simp] theorem State.onMov_acc (x : Nat) (f : Mov → Mov) : (s.onMov x f).acc = s.acc := rfl
@[simp] theorem State.onMov_pd (x : Nat) (f : Mov → Mov) : (s.onMov x f).pd = s.pd := rfl
@[simp] theorem State.onMov_seq (x : Nat) (f : Mov → Mov) : (s.onMov x f).seq = s.seq := rfl
@[simp] theorem State.onMov_safe (x : Nat) (f : Mov → Mov) : (s.onMov x f).safe = s.safe := rfl
@[simp] theorem State.onMov_tap (x : Nat) (f : Mov → Mov) : (s.onMov x f).tap = s.tap := rfl

/-! ### onFrame -/

@[simp] theorem State.onFrame_pending (i : Nat) (f : Frame → Frame) : (s.onFrame i f).pending = s.pending := rfl
@[simp] theorem State.onFrame_free (i : Nat) (f : Frame → Frame) : (s.onFrame i f).free = s.free := rfl
@[simp] theorem State.onFrame_uid (i : Nat) (f : Frame → Frame) : (s.onFrame i f).uid = s.uid := rfl
@[simp] theorem State.onFrame_hides (i : Nat) (f : Frame → Frame) : (s.onFrame i f).hides = s.hides := rfl
@[simp] theorem State.onFrame_build (i : Nat) (f : Frame → Frame) : (s.onFrame i f).build = s.build := rfl
@[simp] theorem State.onFrame_dieSlope (i : Nat) (f : Frame → Frame) : (s.onFrame i f).dieSlope = s.dieSlope := rfl
@[simp] theorem State.onFrame_dieIcpt (i : Nat) (f : Frame → Frame) : (s.onFrame i f).dieIcpt = s.dieIcpt := rfl
@[simp] theorem State.onFrame_expSig (i : Nat) (f : Frame → Frame) : (s.onFrame i f).expSig = s.expSig := rfl
@[simp] theorem State.onFrame_image (i : Nat) (f : Frame → Frame) : (s.onFrame i f).image = s.image := rfl
@[simp] theorem State.onFrame_cells (i : Nat) (f : Frame → Frame) : (s.onFrame i f).cells = s.cells := rfl
@[simp] theorem State.onFrame_bad (i : Nat) (f : Frame → Frame) : (s.onFrame i f).bad = s.bad := rfl
@[simp] theorem State.onFrame_boot (i : Nat) (f : Frame → Frame) : (s.onFrame i f).boot = s.boot := rfl
@[simp] theorem State.onFrame_flash (i : Nat) (f : Frame → Frame) : (s.onFrame i f).flash = s.flash := rfl
@[simp] theorem State.onFrame_calRec (i : Nat) (f : Frame → Frame) : (s.onFrame i f).calRec = s.calRec := rfl
@[simp] theorem State.onFrame_retRec (i : Nat) (f : Frame → Frame) : (s.onFrame i f).retRec = s.retRec := rfl
@[simp] theorem State.onFrame_mgmt (i : Nat) (f : Frame → Frame) : (s.onFrame i f).mgmt = s.mgmt := rfl
@[simp] theorem State.onFrame_tack (i : Nat) (f : Frame → Frame) : (s.onFrame i f).tack = s.tack := rfl
@[simp] theorem State.onFrame_frames (i : Nat) (f : Frame → Frame) : (s.onFrame i f).frames = upd s.frames i f := rfl
@[simp] theorem State.onFrame_cnts (i : Nat) (f : Frame → Frame) : (s.onFrame i f).cnts = s.cnts := rfl
@[simp] theorem State.onFrame_ports (i : Nat) (f : Frame → Frame) : (s.onFrame i f).ports = s.ports := rfl
@[simp] theorem State.onFrame_ctls (i : Nat) (f : Frame → Frame) : (s.onFrame i f).ctls = s.ctls := rfl
@[simp] theorem State.onFrame_links (i : Nat) (f : Frame → Frame) : (s.onFrame i f).links = s.links := rfl
@[simp] theorem State.onFrame_awls (i : Nat) (f : Frame → Frame) : (s.onFrame i f).awls = s.awls := rfl
@[simp] theorem State.onFrame_curs (i : Nat) (f : Frame → Frame) : (s.onFrame i f).curs = s.curs := rfl
@[simp] theorem State.onFrame_sectors (i : Nat) (f : Frame → Frame) : (s.onFrame i f).sectors = s.sectors := rfl
@[simp] theorem State.onFrame_pools (i : Nat) (f : Frame → Frame) : (s.onFrame i f).pools = s.pools := rfl
@[simp] theorem State.onFrame_nets (i : Nat) (f : Frame → Frame) : (s.onFrame i f).nets = s.nets := rfl
@[simp] theorem State.onFrame_hars (i : Nat) (f : Frame → Frame) : (s.onFrame i f).hars = s.hars := rfl
@[simp] theorem State.onFrame_movs (i : Nat) (f : Frame → Frame) : (s.onFrame i f).movs = s.movs := rfl
@[simp] theorem State.onFrame_jobs (i : Nat) (f : Frame → Frame) : (s.onFrame i f).jobs = s.jobs := rfl
@[simp] theorem State.onFrame_rhHeld (i : Nat) (f : Frame → Frame) : (s.onFrame i f).rhHeld = s.rhHeld := rfl
@[simp] theorem State.onFrame_acc (i : Nat) (f : Frame → Frame) : (s.onFrame i f).acc = s.acc := rfl
@[simp] theorem State.onFrame_pd (i : Nat) (f : Frame → Frame) : (s.onFrame i f).pd = s.pd := rfl
@[simp] theorem State.onFrame_seq (i : Nat) (f : Frame → Frame) : (s.onFrame i f).seq = s.seq := rfl
@[simp] theorem State.onFrame_safe (i : Nat) (f : Frame → Frame) : (s.onFrame i f).safe = s.safe := rfl
@[simp] theorem State.onFrame_tap (i : Nat) (f : Frame → Frame) : (s.onFrame i f).tap = s.tap := rfl

/-! ### onFr -/

@[simp] theorem State.onFr_pending (u : UnitId) (f : Frame → Frame) : (s.onFr u f).pending = s.pending := rfl
@[simp] theorem State.onFr_free (u : UnitId) (f : Frame → Frame) : (s.onFr u f).free = s.free := rfl
@[simp] theorem State.onFr_uid (u : UnitId) (f : Frame → Frame) : (s.onFr u f).uid = s.uid := rfl
@[simp] theorem State.onFr_hides (u : UnitId) (f : Frame → Frame) : (s.onFr u f).hides = s.hides := rfl
@[simp] theorem State.onFr_build (u : UnitId) (f : Frame → Frame) : (s.onFr u f).build = s.build := rfl
@[simp] theorem State.onFr_dieSlope (u : UnitId) (f : Frame → Frame) : (s.onFr u f).dieSlope = s.dieSlope := rfl
@[simp] theorem State.onFr_dieIcpt (u : UnitId) (f : Frame → Frame) : (s.onFr u f).dieIcpt = s.dieIcpt := rfl
@[simp] theorem State.onFr_expSig (u : UnitId) (f : Frame → Frame) : (s.onFr u f).expSig = s.expSig := rfl
@[simp] theorem State.onFr_image (u : UnitId) (f : Frame → Frame) : (s.onFr u f).image = s.image := rfl
@[simp] theorem State.onFr_cells (u : UnitId) (f : Frame → Frame) : (s.onFr u f).cells = s.cells := rfl
@[simp] theorem State.onFr_bad (u : UnitId) (f : Frame → Frame) : (s.onFr u f).bad = s.bad := rfl
@[simp] theorem State.onFr_boot (u : UnitId) (f : Frame → Frame) : (s.onFr u f).boot = s.boot := rfl
@[simp] theorem State.onFr_flash (u : UnitId) (f : Frame → Frame) : (s.onFr u f).flash = s.flash := rfl
@[simp] theorem State.onFr_calRec (u : UnitId) (f : Frame → Frame) : (s.onFr u f).calRec = s.calRec := rfl
@[simp] theorem State.onFr_retRec (u : UnitId) (f : Frame → Frame) : (s.onFr u f).retRec = s.retRec := rfl
@[simp] theorem State.onFr_mgmt (u : UnitId) (f : Frame → Frame) : (s.onFr u f).mgmt = s.mgmt := rfl
@[simp] theorem State.onFr_tack (u : UnitId) (f : Frame → Frame) : (s.onFr u f).tack = s.tack := rfl
@[simp] theorem State.onFr_frames (u : UnitId) (f : Frame → Frame) : (s.onFr u f).frames = upd s.frames u.idx f := rfl
@[simp] theorem State.onFr_cnts (u : UnitId) (f : Frame → Frame) : (s.onFr u f).cnts = s.cnts := rfl
@[simp] theorem State.onFr_ports (u : UnitId) (f : Frame → Frame) : (s.onFr u f).ports = s.ports := rfl
@[simp] theorem State.onFr_ctls (u : UnitId) (f : Frame → Frame) : (s.onFr u f).ctls = s.ctls := rfl
@[simp] theorem State.onFr_links (u : UnitId) (f : Frame → Frame) : (s.onFr u f).links = s.links := rfl
@[simp] theorem State.onFr_awls (u : UnitId) (f : Frame → Frame) : (s.onFr u f).awls = s.awls := rfl
@[simp] theorem State.onFr_curs (u : UnitId) (f : Frame → Frame) : (s.onFr u f).curs = s.curs := rfl
@[simp] theorem State.onFr_sectors (u : UnitId) (f : Frame → Frame) : (s.onFr u f).sectors = s.sectors := rfl
@[simp] theorem State.onFr_pools (u : UnitId) (f : Frame → Frame) : (s.onFr u f).pools = s.pools := rfl
@[simp] theorem State.onFr_nets (u : UnitId) (f : Frame → Frame) : (s.onFr u f).nets = s.nets := rfl
@[simp] theorem State.onFr_hars (u : UnitId) (f : Frame → Frame) : (s.onFr u f).hars = s.hars := rfl
@[simp] theorem State.onFr_movs (u : UnitId) (f : Frame → Frame) : (s.onFr u f).movs = s.movs := rfl
@[simp] theorem State.onFr_jobs (u : UnitId) (f : Frame → Frame) : (s.onFr u f).jobs = s.jobs := rfl
@[simp] theorem State.onFr_rhHeld (u : UnitId) (f : Frame → Frame) : (s.onFr u f).rhHeld = s.rhHeld := rfl
@[simp] theorem State.onFr_acc (u : UnitId) (f : Frame → Frame) : (s.onFr u f).acc = s.acc := rfl
@[simp] theorem State.onFr_pd (u : UnitId) (f : Frame → Frame) : (s.onFr u f).pd = s.pd := rfl
@[simp] theorem State.onFr_seq (u : UnitId) (f : Frame → Frame) : (s.onFr u f).seq = s.seq := rfl
@[simp] theorem State.onFr_safe (u : UnitId) (f : Frame → Frame) : (s.onFr u f).safe = s.safe := rfl
@[simp] theorem State.onFr_tap (u : UnitId) (f : Frame → Frame) : (s.onFr u f).tap = s.tap := rfl

/-! ### onCnt -/

@[simp] theorem State.onCnt_pending (i : Nat) (f : Cnt → Cnt) : (s.onCnt i f).pending = s.pending := rfl
@[simp] theorem State.onCnt_free (i : Nat) (f : Cnt → Cnt) : (s.onCnt i f).free = s.free := rfl
@[simp] theorem State.onCnt_uid (i : Nat) (f : Cnt → Cnt) : (s.onCnt i f).uid = s.uid := rfl
@[simp] theorem State.onCnt_hides (i : Nat) (f : Cnt → Cnt) : (s.onCnt i f).hides = s.hides := rfl
@[simp] theorem State.onCnt_build (i : Nat) (f : Cnt → Cnt) : (s.onCnt i f).build = s.build := rfl
@[simp] theorem State.onCnt_dieSlope (i : Nat) (f : Cnt → Cnt) : (s.onCnt i f).dieSlope = s.dieSlope := rfl
@[simp] theorem State.onCnt_dieIcpt (i : Nat) (f : Cnt → Cnt) : (s.onCnt i f).dieIcpt = s.dieIcpt := rfl
@[simp] theorem State.onCnt_expSig (i : Nat) (f : Cnt → Cnt) : (s.onCnt i f).expSig = s.expSig := rfl
@[simp] theorem State.onCnt_image (i : Nat) (f : Cnt → Cnt) : (s.onCnt i f).image = s.image := rfl
@[simp] theorem State.onCnt_cells (i : Nat) (f : Cnt → Cnt) : (s.onCnt i f).cells = s.cells := rfl
@[simp] theorem State.onCnt_bad (i : Nat) (f : Cnt → Cnt) : (s.onCnt i f).bad = s.bad := rfl
@[simp] theorem State.onCnt_boot (i : Nat) (f : Cnt → Cnt) : (s.onCnt i f).boot = s.boot := rfl
@[simp] theorem State.onCnt_flash (i : Nat) (f : Cnt → Cnt) : (s.onCnt i f).flash = s.flash := rfl
@[simp] theorem State.onCnt_calRec (i : Nat) (f : Cnt → Cnt) : (s.onCnt i f).calRec = s.calRec := rfl
@[simp] theorem State.onCnt_retRec (i : Nat) (f : Cnt → Cnt) : (s.onCnt i f).retRec = s.retRec := rfl
@[simp] theorem State.onCnt_mgmt (i : Nat) (f : Cnt → Cnt) : (s.onCnt i f).mgmt = s.mgmt := rfl
@[simp] theorem State.onCnt_tack (i : Nat) (f : Cnt → Cnt) : (s.onCnt i f).tack = s.tack := rfl
@[simp] theorem State.onCnt_frames (i : Nat) (f : Cnt → Cnt) : (s.onCnt i f).frames = s.frames := rfl
@[simp] theorem State.onCnt_cnts (i : Nat) (f : Cnt → Cnt) : (s.onCnt i f).cnts = upd s.cnts i f := rfl
@[simp] theorem State.onCnt_ports (i : Nat) (f : Cnt → Cnt) : (s.onCnt i f).ports = s.ports := rfl
@[simp] theorem State.onCnt_ctls (i : Nat) (f : Cnt → Cnt) : (s.onCnt i f).ctls = s.ctls := rfl
@[simp] theorem State.onCnt_links (i : Nat) (f : Cnt → Cnt) : (s.onCnt i f).links = s.links := rfl
@[simp] theorem State.onCnt_awls (i : Nat) (f : Cnt → Cnt) : (s.onCnt i f).awls = s.awls := rfl
@[simp] theorem State.onCnt_curs (i : Nat) (f : Cnt → Cnt) : (s.onCnt i f).curs = s.curs := rfl
@[simp] theorem State.onCnt_sectors (i : Nat) (f : Cnt → Cnt) : (s.onCnt i f).sectors = s.sectors := rfl
@[simp] theorem State.onCnt_pools (i : Nat) (f : Cnt → Cnt) : (s.onCnt i f).pools = s.pools := rfl
@[simp] theorem State.onCnt_nets (i : Nat) (f : Cnt → Cnt) : (s.onCnt i f).nets = s.nets := rfl
@[simp] theorem State.onCnt_hars (i : Nat) (f : Cnt → Cnt) : (s.onCnt i f).hars = s.hars := rfl
@[simp] theorem State.onCnt_movs (i : Nat) (f : Cnt → Cnt) : (s.onCnt i f).movs = s.movs := rfl
@[simp] theorem State.onCnt_jobs (i : Nat) (f : Cnt → Cnt) : (s.onCnt i f).jobs = s.jobs := rfl
@[simp] theorem State.onCnt_rhHeld (i : Nat) (f : Cnt → Cnt) : (s.onCnt i f).rhHeld = s.rhHeld := rfl
@[simp] theorem State.onCnt_acc (i : Nat) (f : Cnt → Cnt) : (s.onCnt i f).acc = s.acc := rfl
@[simp] theorem State.onCnt_pd (i : Nat) (f : Cnt → Cnt) : (s.onCnt i f).pd = s.pd := rfl
@[simp] theorem State.onCnt_seq (i : Nat) (f : Cnt → Cnt) : (s.onCnt i f).seq = s.seq := rfl
@[simp] theorem State.onCnt_safe (i : Nat) (f : Cnt → Cnt) : (s.onCnt i f).safe = s.safe := rfl
@[simp] theorem State.onCnt_tap (i : Nat) (f : Cnt → Cnt) : (s.onCnt i f).tap = s.tap := rfl

/-! ### Units read back -/

@[simp] theorem State.ctl_onCtl (p : Nat) (f : Ctl → Ctl) (h : p < s.ctls.length) : (s.onCtl p f).ctl p = f (s.ctl p) := upd_getD_self _ _ _ _ h
theorem State.ctl_onCtl_ne (p : Nat) (f : Ctl → Ctl) (j : Nat) (h : j ≠ p) : (s.onCtl p f).ctl j = s.ctl j := upd_getD_ne _ _ _ _ _ h
@[simp] theorem State.link_onLink (p : Nat) (f : Link → Link) (h : p < s.links.length) : (s.onLink p f).link p = f (s.link p) := upd_getD_self _ _ _ _ h
theorem State.link_onLink_ne (p : Nat) (f : Link → Link) (j : Nat) (h : j ≠ p) : (s.onLink p f).link j = s.link j := upd_getD_ne _ _ _ _ _ h
@[simp] theorem State.awl_onAwl (p : Nat) (f : Awl → Awl) (h : p < s.awls.length) : (s.onAwl p f).awl p = f (s.awl p) := upd_getD_self _ _ _ _ h
theorem State.awl_onAwl_ne (p : Nat) (f : Awl → Awl) (j : Nat) (h : j ≠ p) : (s.onAwl p f).awl j = s.awl j := upd_getD_ne _ _ _ _ _ h
@[simp] theorem State.cur_onCur (p : Nat) (f : Cur → Cur) (h : p < s.curs.length) : (s.onCur p f).cur p = f (s.cur p) := upd_getD_self _ _ _ _ h
theorem State.cur_onCur_ne (p : Nat) (f : Cur → Cur) (j : Nat) (h : j ≠ p) : (s.onCur p f).cur j = s.cur j := upd_getD_ne _ _ _ _ _ h
@[simp] theorem State.port_onPort (n : Nat) (f : Port → Port) (h : n < s.ports.length) : (s.onPort n f).port n = f (s.port n) := upd_getD_self _ _ _ _ h
theorem State.port_onPort_ne (n : Nat) (f : Port → Port) (j : Nat) (h : j ≠ n) : (s.onPort n f).port j = s.port j := upd_getD_ne _ _ _ _ _ h
@[simp] theorem State.sec_onSec (x : Nat) (f : Sector → Sector) (h : x < s.sectors.length) : (s.onSec x f).sec x = f (s.sec x) := upd_getD_self _ _ _ _ h
theorem State.sec_onSec_ne (x : Nat) (f : Sector → Sector) (j : Nat) (h : j ≠ x) : (s.onSec x f).sec j = s.sec j := upd_getD_ne _ _ _ _ _ h
@[simp] theorem State.pool_onPool (x : Nat) (f : Pool → Pool) (h : x < s.pools.length) : (s.onPool x f).pool x = f (s.pool x) := upd_getD_self _ _ _ _ h
theorem State.pool_onPool_ne (x : Nat) (f : Pool → Pool) (j : Nat) (h : j ≠ x) : (s.onPool x f).pool j = s.pool j := upd_getD_ne _ _ _ _ _ h
@[simp] theorem State.net_onNet (x : Nat) (f : Net → Net) (h : x < s.nets.length) : (s.onNet x f).net x = f (s.net x) := upd_getD_self _ _ _ _ h
theorem State.net_onNet_ne (x : Nat) (f : Net → Net) (j : Nat) (h : j ≠ x) : (s.onNet x f).net j = s.net j := upd_getD_ne _ _ _ _ _ h
@[simp] theorem State.har_onHar (x : Nat) (f : Har → Har) (h : x < s.hars.length) : (s.onHar x f).har x = f (s.har x) := upd_getD_self _ _ _ _ h
theorem State.har_onHar_ne (x : Nat) (f : Har → Har) (j : Nat) (h : j ≠ x) : (s.onHar x f).har j = s.har j := upd_getD_ne _ _ _ _ _ h
@[simp] theorem State.mov_onMov (x : Nat) (f : Mov → Mov) (h : x < s.movs.length) : (s.onMov x f).mov x = f (s.mov x) := upd_getD_self _ _ _ _ h
theorem State.mov_onMov_ne (x : Nat) (f : Mov → Mov) (j : Nat) (h : j ≠ x) : (s.onMov x f).mov j = s.mov j := upd_getD_ne _ _ _ _ _ h
@[simp] theorem State.frame_onFrame (i : Nat) (f : Frame → Frame) (h : i < s.frames.length) : (s.onFrame i f).frame i = f (s.frame i) := upd_getD_self _ _ _ _ h
theorem State.frame_onFrame_ne (i : Nat) (f : Frame → Frame) (j : Nat) (h : j ≠ i) : (s.onFrame i f).frame j = s.frame j := upd_getD_ne _ _ _ _ _ h
@[simp] theorem State.cnt_onCnt (i : Nat) (f : Cnt → Cnt) (h : i < s.cnts.length) : (s.onCnt i f).cnt i = f (s.cnt i) := upd_getD_self _ _ _ _ h
theorem State.cnt_onCnt_ne (i : Nat) (f : Cnt → Cnt) (j : Nat) (h : j ≠ i) : (s.onCnt i f).cnt j = s.cnt j := upd_getD_ne _ _ _ _ _ h
@[simp] theorem State.fr_onFr (u : UnitId) (f : Frame → Frame) (h : u.idx < s.frames.length) : (s.onFr u f).fr u = f (s.fr u) := upd_getD_self _ _ _ _ h
theorem State.fr_onFr_ne (u v : UnitId) (f : Frame → Frame) (h : v.idx ≠ u.idx) : (s.onFr u f).fr v = s.fr v := upd_getD_ne _ _ _ _ _ h

/-! ### A change of one kind of unit leaves the other kinds -/

@[simp] theorem State.link_onCtl (p : Nat) (f : Ctl → Ctl) (j : Nat) : (s.onCtl p f).link j = s.link j := rfl
@[simp] theorem State.awl_onCtl (p : Nat) (f : Ctl → Ctl) (j : Nat) : (s.onCtl p f).awl j = s.awl j := rfl
@[simp] theorem State.cur_onCtl (p : Nat) (f : Ctl → Ctl) (j : Nat) : (s.onCtl p f).cur j = s.cur j := rfl
@[simp] theorem State.port_onCtl (p : Nat) (f : Ctl → Ctl) (j : Nat) : (s.onCtl p f).port j = s.port j := rfl
@[simp] theorem State.sec_onCtl (p : Nat) (f : Ctl → Ctl) (j : Nat) : (s.onCtl p f).sec j = s.sec j := rfl
@[simp] theorem State.pool_onCtl (p : Nat) (f : Ctl → Ctl) (j : Nat) : (s.onCtl p f).pool j = s.pool j := rfl
@[simp] theorem State.net_onCtl (p : Nat) (f : Ctl → Ctl) (j : Nat) : (s.onCtl p f).net j = s.net j := rfl
@[simp] theorem State.har_onCtl (p : Nat) (f : Ctl → Ctl) (j : Nat) : (s.onCtl p f).har j = s.har j := rfl
@[simp] theorem State.mov_onCtl (p : Nat) (f : Ctl → Ctl) (j : Nat) : (s.onCtl p f).mov j = s.mov j := rfl
@[simp] theorem State.frame_onCtl (p : Nat) (f : Ctl → Ctl) (j : Nat) : (s.onCtl p f).frame j = s.frame j := rfl
@[simp] theorem State.cnt_onCtl (p : Nat) (f : Ctl → Ctl) (j : Nat) : (s.onCtl p f).cnt j = s.cnt j := rfl
@[simp] theorem State.fr_onCtl (p : Nat) (f : Ctl → Ctl) (u : UnitId) : (s.onCtl p f).fr u = s.fr u := rfl
@[simp] theorem State.ctl_onLink (p : Nat) (f : Link → Link) (j : Nat) : (s.onLink p f).ctl j = s.ctl j := rfl
@[simp] theorem State.awl_onLink (p : Nat) (f : Link → Link) (j : Nat) : (s.onLink p f).awl j = s.awl j := rfl
@[simp] theorem State.cur_onLink (p : Nat) (f : Link → Link) (j : Nat) : (s.onLink p f).cur j = s.cur j := rfl
@[simp] theorem State.port_onLink (p : Nat) (f : Link → Link) (j : Nat) : (s.onLink p f).port j = s.port j := rfl
@[simp] theorem State.sec_onLink (p : Nat) (f : Link → Link) (j : Nat) : (s.onLink p f).sec j = s.sec j := rfl
@[simp] theorem State.pool_onLink (p : Nat) (f : Link → Link) (j : Nat) : (s.onLink p f).pool j = s.pool j := rfl
@[simp] theorem State.net_onLink (p : Nat) (f : Link → Link) (j : Nat) : (s.onLink p f).net j = s.net j := rfl
@[simp] theorem State.har_onLink (p : Nat) (f : Link → Link) (j : Nat) : (s.onLink p f).har j = s.har j := rfl
@[simp] theorem State.mov_onLink (p : Nat) (f : Link → Link) (j : Nat) : (s.onLink p f).mov j = s.mov j := rfl
@[simp] theorem State.frame_onLink (p : Nat) (f : Link → Link) (j : Nat) : (s.onLink p f).frame j = s.frame j := rfl
@[simp] theorem State.cnt_onLink (p : Nat) (f : Link → Link) (j : Nat) : (s.onLink p f).cnt j = s.cnt j := rfl
@[simp] theorem State.fr_onLink (p : Nat) (f : Link → Link) (u : UnitId) : (s.onLink p f).fr u = s.fr u := rfl
@[simp] theorem State.ctl_onAwl (p : Nat) (f : Awl → Awl) (j : Nat) : (s.onAwl p f).ctl j = s.ctl j := rfl
@[simp] theorem State.link_onAwl (p : Nat) (f : Awl → Awl) (j : Nat) : (s.onAwl p f).link j = s.link j := rfl
@[simp] theorem State.cur_onAwl (p : Nat) (f : Awl → Awl) (j : Nat) : (s.onAwl p f).cur j = s.cur j := rfl
@[simp] theorem State.port_onAwl (p : Nat) (f : Awl → Awl) (j : Nat) : (s.onAwl p f).port j = s.port j := rfl
@[simp] theorem State.sec_onAwl (p : Nat) (f : Awl → Awl) (j : Nat) : (s.onAwl p f).sec j = s.sec j := rfl
@[simp] theorem State.pool_onAwl (p : Nat) (f : Awl → Awl) (j : Nat) : (s.onAwl p f).pool j = s.pool j := rfl
@[simp] theorem State.net_onAwl (p : Nat) (f : Awl → Awl) (j : Nat) : (s.onAwl p f).net j = s.net j := rfl
@[simp] theorem State.har_onAwl (p : Nat) (f : Awl → Awl) (j : Nat) : (s.onAwl p f).har j = s.har j := rfl
@[simp] theorem State.mov_onAwl (p : Nat) (f : Awl → Awl) (j : Nat) : (s.onAwl p f).mov j = s.mov j := rfl
@[simp] theorem State.frame_onAwl (p : Nat) (f : Awl → Awl) (j : Nat) : (s.onAwl p f).frame j = s.frame j := rfl
@[simp] theorem State.cnt_onAwl (p : Nat) (f : Awl → Awl) (j : Nat) : (s.onAwl p f).cnt j = s.cnt j := rfl
@[simp] theorem State.fr_onAwl (p : Nat) (f : Awl → Awl) (u : UnitId) : (s.onAwl p f).fr u = s.fr u := rfl
@[simp] theorem State.ctl_onCur (p : Nat) (f : Cur → Cur) (j : Nat) : (s.onCur p f).ctl j = s.ctl j := rfl
@[simp] theorem State.link_onCur (p : Nat) (f : Cur → Cur) (j : Nat) : (s.onCur p f).link j = s.link j := rfl
@[simp] theorem State.awl_onCur (p : Nat) (f : Cur → Cur) (j : Nat) : (s.onCur p f).awl j = s.awl j := rfl
@[simp] theorem State.port_onCur (p : Nat) (f : Cur → Cur) (j : Nat) : (s.onCur p f).port j = s.port j := rfl
@[simp] theorem State.sec_onCur (p : Nat) (f : Cur → Cur) (j : Nat) : (s.onCur p f).sec j = s.sec j := rfl
@[simp] theorem State.pool_onCur (p : Nat) (f : Cur → Cur) (j : Nat) : (s.onCur p f).pool j = s.pool j := rfl
@[simp] theorem State.net_onCur (p : Nat) (f : Cur → Cur) (j : Nat) : (s.onCur p f).net j = s.net j := rfl
@[simp] theorem State.har_onCur (p : Nat) (f : Cur → Cur) (j : Nat) : (s.onCur p f).har j = s.har j := rfl
@[simp] theorem State.mov_onCur (p : Nat) (f : Cur → Cur) (j : Nat) : (s.onCur p f).mov j = s.mov j := rfl
@[simp] theorem State.frame_onCur (p : Nat) (f : Cur → Cur) (j : Nat) : (s.onCur p f).frame j = s.frame j := rfl
@[simp] theorem State.cnt_onCur (p : Nat) (f : Cur → Cur) (j : Nat) : (s.onCur p f).cnt j = s.cnt j := rfl
@[simp] theorem State.fr_onCur (p : Nat) (f : Cur → Cur) (u : UnitId) : (s.onCur p f).fr u = s.fr u := rfl
@[simp] theorem State.ctl_onPort (n : Nat) (f : Port → Port) (j : Nat) : (s.onPort n f).ctl j = s.ctl j := rfl
@[simp] theorem State.link_onPort (n : Nat) (f : Port → Port) (j : Nat) : (s.onPort n f).link j = s.link j := rfl
@[simp] theorem State.awl_onPort (n : Nat) (f : Port → Port) (j : Nat) : (s.onPort n f).awl j = s.awl j := rfl
@[simp] theorem State.cur_onPort (n : Nat) (f : Port → Port) (j : Nat) : (s.onPort n f).cur j = s.cur j := rfl
@[simp] theorem State.sec_onPort (n : Nat) (f : Port → Port) (j : Nat) : (s.onPort n f).sec j = s.sec j := rfl
@[simp] theorem State.pool_onPort (n : Nat) (f : Port → Port) (j : Nat) : (s.onPort n f).pool j = s.pool j := rfl
@[simp] theorem State.net_onPort (n : Nat) (f : Port → Port) (j : Nat) : (s.onPort n f).net j = s.net j := rfl
@[simp] theorem State.har_onPort (n : Nat) (f : Port → Port) (j : Nat) : (s.onPort n f).har j = s.har j := rfl
@[simp] theorem State.mov_onPort (n : Nat) (f : Port → Port) (j : Nat) : (s.onPort n f).mov j = s.mov j := rfl
@[simp] theorem State.frame_onPort (n : Nat) (f : Port → Port) (j : Nat) : (s.onPort n f).frame j = s.frame j := rfl
@[simp] theorem State.cnt_onPort (n : Nat) (f : Port → Port) (j : Nat) : (s.onPort n f).cnt j = s.cnt j := rfl
@[simp] theorem State.fr_onPort (n : Nat) (f : Port → Port) (u : UnitId) : (s.onPort n f).fr u = s.fr u := rfl
@[simp] theorem State.ctl_onSec (x : Nat) (f : Sector → Sector) (j : Nat) : (s.onSec x f).ctl j = s.ctl j := rfl
@[simp] theorem State.link_onSec (x : Nat) (f : Sector → Sector) (j : Nat) : (s.onSec x f).link j = s.link j := rfl
@[simp] theorem State.awl_onSec (x : Nat) (f : Sector → Sector) (j : Nat) : (s.onSec x f).awl j = s.awl j := rfl
@[simp] theorem State.cur_onSec (x : Nat) (f : Sector → Sector) (j : Nat) : (s.onSec x f).cur j = s.cur j := rfl
@[simp] theorem State.port_onSec (x : Nat) (f : Sector → Sector) (j : Nat) : (s.onSec x f).port j = s.port j := rfl
@[simp] theorem State.pool_onSec (x : Nat) (f : Sector → Sector) (j : Nat) : (s.onSec x f).pool j = s.pool j := rfl
@[simp] theorem State.net_onSec (x : Nat) (f : Sector → Sector) (j : Nat) : (s.onSec x f).net j = s.net j := rfl
@[simp] theorem State.har_onSec (x : Nat) (f : Sector → Sector) (j : Nat) : (s.onSec x f).har j = s.har j := rfl
@[simp] theorem State.mov_onSec (x : Nat) (f : Sector → Sector) (j : Nat) : (s.onSec x f).mov j = s.mov j := rfl
@[simp] theorem State.frame_onSec (x : Nat) (f : Sector → Sector) (j : Nat) : (s.onSec x f).frame j = s.frame j := rfl
@[simp] theorem State.cnt_onSec (x : Nat) (f : Sector → Sector) (j : Nat) : (s.onSec x f).cnt j = s.cnt j := rfl
@[simp] theorem State.fr_onSec (x : Nat) (f : Sector → Sector) (u : UnitId) : (s.onSec x f).fr u = s.fr u := rfl
@[simp] theorem State.ctl_onPool (x : Nat) (f : Pool → Pool) (j : Nat) : (s.onPool x f).ctl j = s.ctl j := rfl
@[simp] theorem State.link_onPool (x : Nat) (f : Pool → Pool) (j : Nat) : (s.onPool x f).link j = s.link j := rfl
@[simp] theorem State.awl_onPool (x : Nat) (f : Pool → Pool) (j : Nat) : (s.onPool x f).awl j = s.awl j := rfl
@[simp] theorem State.cur_onPool (x : Nat) (f : Pool → Pool) (j : Nat) : (s.onPool x f).cur j = s.cur j := rfl
@[simp] theorem State.port_onPool (x : Nat) (f : Pool → Pool) (j : Nat) : (s.onPool x f).port j = s.port j := rfl
@[simp] theorem State.sec_onPool (x : Nat) (f : Pool → Pool) (j : Nat) : (s.onPool x f).sec j = s.sec j := rfl
@[simp] theorem State.net_onPool (x : Nat) (f : Pool → Pool) (j : Nat) : (s.onPool x f).net j = s.net j := rfl
@[simp] theorem State.har_onPool (x : Nat) (f : Pool → Pool) (j : Nat) : (s.onPool x f).har j = s.har j := rfl
@[simp] theorem State.mov_onPool (x : Nat) (f : Pool → Pool) (j : Nat) : (s.onPool x f).mov j = s.mov j := rfl
@[simp] theorem State.frame_onPool (x : Nat) (f : Pool → Pool) (j : Nat) : (s.onPool x f).frame j = s.frame j := rfl
@[simp] theorem State.cnt_onPool (x : Nat) (f : Pool → Pool) (j : Nat) : (s.onPool x f).cnt j = s.cnt j := rfl
@[simp] theorem State.fr_onPool (x : Nat) (f : Pool → Pool) (u : UnitId) : (s.onPool x f).fr u = s.fr u := rfl
@[simp] theorem State.ctl_onNet (x : Nat) (f : Net → Net) (j : Nat) : (s.onNet x f).ctl j = s.ctl j := rfl
@[simp] theorem State.link_onNet (x : Nat) (f : Net → Net) (j : Nat) : (s.onNet x f).link j = s.link j := rfl
@[simp] theorem State.awl_onNet (x : Nat) (f : Net → Net) (j : Nat) : (s.onNet x f).awl j = s.awl j := rfl
@[simp] theorem State.cur_onNet (x : Nat) (f : Net → Net) (j : Nat) : (s.onNet x f).cur j = s.cur j := rfl
@[simp] theorem State.port_onNet (x : Nat) (f : Net → Net) (j : Nat) : (s.onNet x f).port j = s.port j := rfl
@[simp] theorem State.sec_onNet (x : Nat) (f : Net → Net) (j : Nat) : (s.onNet x f).sec j = s.sec j := rfl
@[simp] theorem State.pool_onNet (x : Nat) (f : Net → Net) (j : Nat) : (s.onNet x f).pool j = s.pool j := rfl
@[simp] theorem State.har_onNet (x : Nat) (f : Net → Net) (j : Nat) : (s.onNet x f).har j = s.har j := rfl
@[simp] theorem State.mov_onNet (x : Nat) (f : Net → Net) (j : Nat) : (s.onNet x f).mov j = s.mov j := rfl
@[simp] theorem State.frame_onNet (x : Nat) (f : Net → Net) (j : Nat) : (s.onNet x f).frame j = s.frame j := rfl
@[simp] theorem State.cnt_onNet (x : Nat) (f : Net → Net) (j : Nat) : (s.onNet x f).cnt j = s.cnt j := rfl
@[simp] theorem State.fr_onNet (x : Nat) (f : Net → Net) (u : UnitId) : (s.onNet x f).fr u = s.fr u := rfl
@[simp] theorem State.ctl_onHar (x : Nat) (f : Har → Har) (j : Nat) : (s.onHar x f).ctl j = s.ctl j := rfl
@[simp] theorem State.link_onHar (x : Nat) (f : Har → Har) (j : Nat) : (s.onHar x f).link j = s.link j := rfl
@[simp] theorem State.awl_onHar (x : Nat) (f : Har → Har) (j : Nat) : (s.onHar x f).awl j = s.awl j := rfl
@[simp] theorem State.cur_onHar (x : Nat) (f : Har → Har) (j : Nat) : (s.onHar x f).cur j = s.cur j := rfl
@[simp] theorem State.port_onHar (x : Nat) (f : Har → Har) (j : Nat) : (s.onHar x f).port j = s.port j := rfl
@[simp] theorem State.sec_onHar (x : Nat) (f : Har → Har) (j : Nat) : (s.onHar x f).sec j = s.sec j := rfl
@[simp] theorem State.pool_onHar (x : Nat) (f : Har → Har) (j : Nat) : (s.onHar x f).pool j = s.pool j := rfl
@[simp] theorem State.net_onHar (x : Nat) (f : Har → Har) (j : Nat) : (s.onHar x f).net j = s.net j := rfl
@[simp] theorem State.mov_onHar (x : Nat) (f : Har → Har) (j : Nat) : (s.onHar x f).mov j = s.mov j := rfl
@[simp] theorem State.frame_onHar (x : Nat) (f : Har → Har) (j : Nat) : (s.onHar x f).frame j = s.frame j := rfl
@[simp] theorem State.cnt_onHar (x : Nat) (f : Har → Har) (j : Nat) : (s.onHar x f).cnt j = s.cnt j := rfl
@[simp] theorem State.fr_onHar (x : Nat) (f : Har → Har) (u : UnitId) : (s.onHar x f).fr u = s.fr u := rfl
@[simp] theorem State.ctl_onMov (x : Nat) (f : Mov → Mov) (j : Nat) : (s.onMov x f).ctl j = s.ctl j := rfl
@[simp] theorem State.link_onMov (x : Nat) (f : Mov → Mov) (j : Nat) : (s.onMov x f).link j = s.link j := rfl
@[simp] theorem State.awl_onMov (x : Nat) (f : Mov → Mov) (j : Nat) : (s.onMov x f).awl j = s.awl j := rfl
@[simp] theorem State.cur_onMov (x : Nat) (f : Mov → Mov) (j : Nat) : (s.onMov x f).cur j = s.cur j := rfl
@[simp] theorem State.port_onMov (x : Nat) (f : Mov → Mov) (j : Nat) : (s.onMov x f).port j = s.port j := rfl
@[simp] theorem State.sec_onMov (x : Nat) (f : Mov → Mov) (j : Nat) : (s.onMov x f).sec j = s.sec j := rfl
@[simp] theorem State.pool_onMov (x : Nat) (f : Mov → Mov) (j : Nat) : (s.onMov x f).pool j = s.pool j := rfl
@[simp] theorem State.net_onMov (x : Nat) (f : Mov → Mov) (j : Nat) : (s.onMov x f).net j = s.net j := rfl
@[simp] theorem State.har_onMov (x : Nat) (f : Mov → Mov) (j : Nat) : (s.onMov x f).har j = s.har j := rfl
@[simp] theorem State.frame_onMov (x : Nat) (f : Mov → Mov) (j : Nat) : (s.onMov x f).frame j = s.frame j := rfl
@[simp] theorem State.cnt_onMov (x : Nat) (f : Mov → Mov) (j : Nat) : (s.onMov x f).cnt j = s.cnt j := rfl
@[simp] theorem State.fr_onMov (x : Nat) (f : Mov → Mov) (u : UnitId) : (s.onMov x f).fr u = s.fr u := rfl
@[simp] theorem State.ctl_onFrame (i : Nat) (f : Frame → Frame) (j : Nat) : (s.onFrame i f).ctl j = s.ctl j := rfl
@[simp] theorem State.link_onFrame (i : Nat) (f : Frame → Frame) (j : Nat) : (s.onFrame i f).link j = s.link j := rfl
@[simp] theorem State.awl_onFrame (i : Nat) (f : Frame → Frame) (j : Nat) : (s.onFrame i f).awl j = s.awl j := rfl
@[simp] theorem State.cur_onFrame (i : Nat) (f : Frame → Frame) (j : Nat) : (s.onFrame i f).cur j = s.cur j := rfl
@[simp] theorem State.port_onFrame (i : Nat) (f : Frame → Frame) (j : Nat) : (s.onFrame i f).port j = s.port j := rfl
@[simp] theorem State.sec_onFrame (i : Nat) (f : Frame → Frame) (j : Nat) : (s.onFrame i f).sec j = s.sec j := rfl
@[simp] theorem State.pool_onFrame (i : Nat) (f : Frame → Frame) (j : Nat) : (s.onFrame i f).pool j = s.pool j := rfl
@[simp] theorem State.net_onFrame (i : Nat) (f : Frame → Frame) (j : Nat) : (s.onFrame i f).net j = s.net j := rfl
@[simp] theorem State.har_onFrame (i : Nat) (f : Frame → Frame) (j : Nat) : (s.onFrame i f).har j = s.har j := rfl
@[simp] theorem State.mov_onFrame (i : Nat) (f : Frame → Frame) (j : Nat) : (s.onFrame i f).mov j = s.mov j := rfl
@[simp] theorem State.cnt_onFrame (i : Nat) (f : Frame → Frame) (j : Nat) : (s.onFrame i f).cnt j = s.cnt j := rfl
@[simp] theorem State.ctl_onFr (u : UnitId) (f : Frame → Frame) (j : Nat) : (s.onFr u f).ctl j = s.ctl j := rfl
@[simp] theorem State.link_onFr (u : UnitId) (f : Frame → Frame) (j : Nat) : (s.onFr u f).link j = s.link j := rfl
@[simp] theorem State.awl_onFr (u : UnitId) (f : Frame → Frame) (j : Nat) : (s.onFr u f).awl j = s.awl j := rfl
@[simp] theorem State.cur_onFr (u : UnitId) (f : Frame → Frame) (j : Nat) : (s.onFr u f).cur j = s.cur j := rfl
@[simp] theorem State.port_onFr (u : UnitId) (f : Frame → Frame) (j : Nat) : (s.onFr u f).port j = s.port j := rfl
@[simp] theorem State.sec_onFr (u : UnitId) (f : Frame → Frame) (j : Nat) : (s.onFr u f).sec j = s.sec j := rfl
@[simp] theorem State.pool_onFr (u : UnitId) (f : Frame → Frame) (j : Nat) : (s.onFr u f).pool j = s.pool j := rfl
@[simp] theorem State.net_onFr (u : UnitId) (f : Frame → Frame) (j : Nat) : (s.onFr u f).net j = s.net j := rfl
@[simp] theorem State.har_onFr (u : UnitId) (f : Frame → Frame) (j : Nat) : (s.onFr u f).har j = s.har j := rfl
@[simp] theorem State.mov_onFr (u : UnitId) (f : Frame → Frame) (j : Nat) : (s.onFr u f).mov j = s.mov j := rfl
@[simp] theorem State.cnt_onFr (u : UnitId) (f : Frame → Frame) (j : Nat) : (s.onFr u f).cnt j = s.cnt j := rfl
@[simp] theorem State.ctl_onCnt (i : Nat) (f : Cnt → Cnt) (j : Nat) : (s.onCnt i f).ctl j = s.ctl j := rfl
@[simp] theorem State.link_onCnt (i : Nat) (f : Cnt → Cnt) (j : Nat) : (s.onCnt i f).link j = s.link j := rfl
@[simp] theorem State.awl_onCnt (i : Nat) (f : Cnt → Cnt) (j : Nat) : (s.onCnt i f).awl j = s.awl j := rfl
@[simp] theorem State.cur_onCnt (i : Nat) (f : Cnt → Cnt) (j : Nat) : (s.onCnt i f).cur j = s.cur j := rfl
@[simp] theorem State.port_onCnt (i : Nat) (f : Cnt → Cnt) (j : Nat) : (s.onCnt i f).port j = s.port j := rfl
@[simp] theorem State.sec_onCnt (i : Nat) (f : Cnt → Cnt) (j : Nat) : (s.onCnt i f).sec j = s.sec j := rfl
@[simp] theorem State.pool_onCnt (i : Nat) (f : Cnt → Cnt) (j : Nat) : (s.onCnt i f).pool j = s.pool j := rfl
@[simp] theorem State.net_onCnt (i : Nat) (f : Cnt → Cnt) (j : Nat) : (s.onCnt i f).net j = s.net j := rfl
@[simp] theorem State.har_onCnt (i : Nat) (f : Cnt → Cnt) (j : Nat) : (s.onCnt i f).har j = s.har j := rfl
@[simp] theorem State.mov_onCnt (i : Nat) (f : Cnt → Cnt) (j : Nat) : (s.onCnt i f).mov j = s.mov j := rfl
@[simp] theorem State.frame_onCnt (i : Nat) (f : Cnt → Cnt) (j : Nat) : (s.onCnt i f).frame j = s.frame j := rfl
@[simp] theorem State.fr_onCnt (i : Nat) (f : Cnt → Cnt) (u : UnitId) : (s.onCnt i f).fr u = s.fr u := rfl

end Sys2Proof.Machine
end

