-- ==== Sys2Proof/Laws/Reports.lean ====
section
/-! SUPPORT. What counting an event, latching a source and logging can change: the counter banks, the frames, the error log. -/

namespace Sys2Proof.Machine

/-- s and t differ at most in the counter banks and the number of free values used. -/
def CntOnly (s t : State) : Prop := ∃ c f, t = { s with cnts := c, free := f } ∧ c.length = s.cnts.length

theorem CntOnly.refl (s : State) : CntOnly s s := ⟨_, _, rfl, rfl⟩

theorem CntOnly.trans {s t u : State} (h : CntOnly s t) (k : CntOnly t u) : CntOnly s u := by
  obtain ⟨c, f, rfl, hc⟩ := h
  obtain ⟨c', f', rfl, hc'⟩ := k
  exact ⟨c', f', rfl, hc'.trans hc⟩

theorem State.onCnt_cntOnly (s : State) (i : Nat) (f : Cnt → Cnt) : CntOnly s (s.onCnt i f) :=
  ⟨_, _, rfl, by simp⟩

/-- A fold of steps that change only counters changes only counters. -/
theorem CntOnly.foldl {α : Type} (l : List α) (f : State → α → State) (h : ∀ s a, CntOnly s (f s a)) (s : State) :
    CntOnly s (l.foldl f s) := by
  induction l generalizing s with
  | nil => exact .refl s
  | cons a l ih => exact (h s a).trans (ih _)

theorem State.countX_cntOnly (s : State) (u : UnitId) (code : Nat) (amt : Option Nat → Nat × Nat) (x0 x1 : Word) :
    CntOnly s (s.countX u code amt x0 x1) := by
  unfold State.countX
  split
  · refine CntOnly.foldl _ _ (fun s f => ?_) s
    split
    · exact .refl s
    · exact s.onCnt_cntOnly _ _
  · exact .refl s

/-- Counting an event changes only counters (R424). -/
theorem State.count_cntOnly (s : State) (u : UnitId) (code : Nat) (cl : Option Nat) (n : Nat) (x0 x1 : Option Word) :
    CntOnly s (s.count u code cl n x0 x1) := by
  unfold State.count
  split
  · exact .refl s
  · refine CntOnly.trans ?_ (State.countX_cntOnly _ _ _ _ _ _)
    split
    · exact ⟨_, _, rfl, rfl⟩
    · exact .refl s

/-- Every other field reads as before: the counted state is s with other counters. -/
theorem State.count_eq (s : State) (u : UnitId) (code : Nat) (cl : Option Nat) (n : Nat) (x0 x1 : Option Word) :
    s.count u code cl n x0 x1 =
      { s with cnts := (s.count u code cl n x0 x1).cnts, free := (s.count u code cl n x0 x1).free } := by
  obtain ⟨c, f, h, -⟩ := s.count_cntOnly u code cl n x0 x1
  rw [h]

/-- s and t differ at most in the frames, the counter banks and the number of free values used. -/
def RptOnly (s t : State) : Prop :=
  ∃ r c f, t = { s with frames := r, cnts := c, free := f } ∧ r.length = s.frames.length ∧ c.length = s.cnts.length

theorem RptOnly.refl (s : State) : RptOnly s s := ⟨_, _, _, rfl, rfl, rfl⟩

theorem RptOnly.trans {s t u : State} (h : RptOnly s t) (k : RptOnly t u) : RptOnly s u := by
  obtain ⟨r, c, f, rfl, hr, hc⟩ := h
  obtain ⟨r', c', f', rfl, hr', hc'⟩ := k
  exact ⟨r', c', f', rfl, hr'.trans hr, hc'.trans hc⟩

theorem CntOnly.rpt {s t : State} (h : CntOnly s t) : RptOnly s t := by
  obtain ⟨c, f, rfl, hc⟩ := h
  exact ⟨_, _, _, rfl, rfl, hc⟩

theorem State.onFr_rptOnly (s : State) (u : UnitId) (f : Frame → Frame) : RptOnly s (s.onFr u f) :=
  ⟨_, _, _, rfl, by simp, rfl⟩

theorem RptOnly.foldl {α : Type} (l : List α) (f : State → α → State) (h : ∀ s a, RptOnly s (f s a)) (s : State) :
    RptOnly s (l.foldl f s) := by
  induction l generalizing s with
  | nil => exact .refl s
  | cons a l ih => exact (h s a).trans (ih _)

theorem RptOnly.ite {s t u : State} {c : Prop} [Decidable c] (h : RptOnly s t) (k : RptOnly s u) : RptOnly s (if c then t else u) := by
  split <;> assumption

theorem State.latch_rptOnly (s : State) (g : UnitId) (i : Nat) (k : Cls3) : RptOnly s (s.latch g i k) := by
  unfold State.latch
  exact .ite (.refl s) (.ite (s.onFr_rptOnly _ _) ((s.onFr_rptOnly _ _).trans (State.count_cntOnly _ _ _ _ _ _ _).rpt))

theorem State.latchUp_rptOnly (s : State) (u : UnitId) : RptOnly s (s.latchUp u) := by
  unfold State.latchUp
  split
  · exact .refl s
  · refine RptOnly.foldl _ _ (fun s k => ?_) s
    split
    · exact s.latch_rptOnly _ _ _
    · exact .refl s

theorem State.collect_rptOnly (s : State) (u : UnitId) : RptOnly s (s.collect u) :=
  RptOnly.foldl _ _ (fun s v => s.latchUp_rptOnly v) s

/-- A report changes only frames and counters (R385, R386). -/
theorem State.report_rptOnly (s : State) (u : UnitId) (bit : Nat) : RptOnly s (s.report u bit) := by
  unfold State.report
  dsimp only
  split
  · exact .refl s
  · exact (s.onFr_rptOnly _ _).trans (State.collect_rptOnly _ _)

theorem State.report_eq (s : State) (u : UnitId) (bit : Nat) :
    s.report u bit =
      { s with frames := (s.report u bit).frames, cnts := (s.report u bit).cnts, free := (s.report u bit).free } := by
  obtain ⟨r, c, f, h, -, -⟩ := s.report_rptOnly u bit
  rw [h]

/-- An armed source that does not fire changes nothing. -/
theorem State.fire_none (s : State) (u : UnitId) (bit : Nat) (real : Bool) (h : (s.fr u).inj = 0) : s.fire u bit real = (false, s) := by
  simp [State.fire, h]

/-- A source that is not armed is found only where it is real. -/
theorem State.fire_rptOnly (s : State) (u : UnitId) (bit : Nat) (real : Bool) : RptOnly s (s.fire u bit real).2 := by
  unfold State.fire
  dsimp only
  split
  · exact s.onFr_rptOnly _ _
  · exact .refl s

/-! ### What a report leaves of the frames -/

/-- Every frame of t is that of s with source bits set and class bits changed: its state, mask and arms are as before. -/
def SrcUp (s t : State) : Prop := ∀ i, ∃ a b c d,
  t.frame i = { s.frame i with src := (s.frame i).src ||| a, clsCorr := b, clsCont := c, clsFatal := d }

theorem SrcUp.refl (s : State) : SrcUp s s := fun i => ⟨0, _, _, _, by simp; rfl⟩

theorem SrcUp.trans {s t u : State} (h : SrcUp s t) (k : SrcUp t u) : SrcUp s u := by
  intro i
  obtain ⟨a, b, c, d, e⟩ := h i
  obtain ⟨a', b', c', d', e'⟩ := k i
  exact ⟨a ||| a', b', c', d', by rw [e', e]; simp [BitVec.or_assoc]⟩

theorem SrcUp.of_frames {s t u : State} (h : SrcUp s t) (e : u.frames = t.frames) : SrcUp s u := by
  intro i
  have : u.frame i = t.frame i := by simp [State.frame, e]
  rw [this]; exact h i

theorem SrcUp.foldl {α : Type} (l : List α) (f : State → α → State) (h : ∀ s a, SrcUp s (f s a)) (s : State) : SrcUp s (l.foldl f s) := by
  induction l generalizing s with
  | nil => exact .refl s
  | cons a l ih => exact (h s a).trans (ih _)

theorem SrcUp.onFr (s : State) (u : UnitId) (f : Frame → Frame)
    (h : ∀ x : Frame, ∃ a b c d, f x = { x with src := x.src ||| a, clsCorr := b, clsCont := c, clsFatal := d }) : SrcUp s (s.onFr u f) := by
  intro i
  have : (s.onFr u f).frame i = if u.idx = i ∧ i < s.frames.length then f (s.frame i) else s.frame i := by
    show (upd s.frames u.idx f).getD i {} = _
    by_cases hi : u.idx = i
    · by_cases hl : i < s.frames.length
      · rw [if_pos ⟨hi, hl⟩, hi]; exact upd_getD_self _ _ _ _ hl
      · rw [if_neg (by tauto)]
        simp [State.frame, List.getD, upd_getElem?, List.getElem?_eq_none (Nat.not_lt.1 hl)]
    · rw [if_neg (by tauto)]; exact upd_getD_ne _ _ _ _ _ (Ne.symm hi)
  rw [this]
  split
  · exact h _
  · exact SrcUp.refl s i

theorem State.count_frames (s : State) (u : UnitId) (code : Nat) (cl : Option Nat) (n : Nat) (x0 x1 : Option Word) :
    (s.count u code cl n x0 x1).frames = s.frames := by rw [State.count_eq]

theorem State.latch_srcUp (s : State) (g : UnitId) (i : Nat) (k : Cls3) : SrcUp s (s.latch g i k) := by
  unfold State.latch
  dsimp only
  have h : SrcUp s (s.onFr g fun f =>
      { f with
        src := f.src ||| (1 <<< i : BitVec 16)
        clsCorr := if k = .corr then f.clsCorr ||| (1 <<< i : BitVec 16) else f.clsCorr
        clsCont := if k = .cont then f.clsCont ||| (1 <<< i : BitVec 16) else f.clsCont
        clsFatal := if k = .fatal then f.clsFatal ||| (1 <<< i : BitVec 16) else f.clsFatal }) := SrcUp.onFr _ _ _ fun x => ⟨_, _, _, _, rfl⟩
  split
  · exact .refl s
  · split
    · exact h
    · exact h.of_frames (State.count_frames _ _ _ _ _ _ _)

theorem State.latchUp_srcUp (s : State) (u : UnitId) : SrcUp s (s.latchUp u) := by
  unfold State.latchUp
  split
  · exact .refl s
  · refine SrcUp.foldl _ _ (fun s k => ?_) s
    split
    · exact s.latch_srcUp _ _ _
    · exact .refl s

theorem State.collect_srcUp (s : State) (u : UnitId) : SrcUp s (s.collect u) := SrcUp.foldl _ _ (fun s v => s.latchUp_srcUp v) s

/-- A report leaves every frame but for sources and classes (R385, R386). -/
theorem State.report_srcUp (s : State) (u : UnitId) (bit : Nat) : SrcUp s (s.report u bit) := by
  unfold State.report
  dsimp only
  split
  · exact .refl s
  · exact (SrcUp.onFr _ _ _ fun x => ⟨_, _, _, _, rfl⟩).trans (State.collect_srcUp _ _)

/-- A source that is neither masked nor held in reset latches (R32, R385). -/
theorem State.report_latches (s : State) (u : UnitId) (bit : Nat) (hu : u.idx < s.frames.length) (hb : bit < 16)
    (hm : (s.fr u).mask.getLsbD bit = false) (hr : (s.fr u).st ≠ .resetting) : ((s.report u bit).fr u).src.getLsbD bit = true := by
  unfold State.report
  dsimp only
  have hr' : ((s.fr u).st == UState.resetting) = false := by simpa using hr
  rw [hm, hr', if_neg (by simp)]
  have e : (s.onFr u fun f => { f with src := f.src ||| ((1 : BitVec 16) <<< bit) }).frame u.idx =
      { s.fr u with src := (s.fr u).src ||| ((1 : BitVec 16) <<< bit) } := upd_getD_self _ _ _ _ hu
  obtain ⟨a, b, c, d, h⟩ := State.collect_srcUp (s.onFr u fun f => { f with src := f.src ||| ((1 : BitVec 16) <<< bit) }) u u.idx
  show (State.frame _ u.idx).src.getLsbD bit = true
  rw [h, e]
  simp [hb]

end Sys2Proof.Machine
end

