-- ==== Sys2Proof/Laws/Awl.lean ====
section
/-! SUPPORT. What issuing an instruction of an Awl does: the checks find nothing, the register is written, the next instruction
follows. -/

namespace Sys2Proof.Machine

/-- A check of an unarmed source that is not real changes nothing. -/
theorem State.check_unarmed (s : State) (u : UnitId) (bit : Nat) (h : (s.fr u).inj = 0) : s.check u bit false = s := by
  simp [State.check, s.fire_none u bit false h]

/-- The fetch of an Awl without an armed source finds nothing. -/
theorem State.fetchChecks_unarmed (s : State) (p : Nat) (h : (s.fr (.awl p)).inj = 0) : s.fetchChecks p = s := by
  unfold State.fetchChecks
  simp only [s.check_unarmed _ _ h, s.fire_none _ _ _ h]
  split <;> rfl

/-- An instruction that may issue runs. -/
theorem State.issue_ready {s : State} {p : Nat} {i : Instr} {regs : List Nat} (h : s.AwlReady p i regs) (run : Awl → State → State) :
    s.issue p i regs run = run (s.awl p) s := by
  unfold State.issue
  simp only [h.next, h.free, s.fetchChecks_unarmed p h.unarmed]
  rfl

/-- Reading an Awl that was just changed. -/
theorem State.onAwl_self (s : State) (p : Nat) (f : Awl → Awl) (h : p < s.awls.length) : (s.onAwl p f).awl p = f (s.awl p) := by
  simp only [State.awl, State.onAwl]
  exact upd_getD_self _ _ _ _ h

/-- Every other Awl reads as before. -/
theorem State.onAwl_ne (s : State) (p q : Nat) (f : Awl → Awl) (h : q ≠ p) : (s.onAwl p f).awl q = s.awl q := by
  simp only [State.awl, State.onAwl]
  exact upd_getD_ne _ _ _ _ _ h

/-- Counting an event of an Awl changes only counters. -/
theorem State.countAwl_eq (s : State) (p code : Nat) (cl : Option Nat) (n : Nat) :
    ∃ c f, s.countAwl p code cl n = { s with cnts := c, free := f } := by
  unfold State.countAwl
  exact ⟨_, _, State.count_eq _ _ _ _ _ _ _⟩

/-- The next instruction issues at n, in the code: the program counter and the cycle count change. -/
theorem State.goTo_in (s : State) (p cost n : Nat) (h : p < s.awls.length) (h4 : n % 4 = 0) (hw : n < 4 * (s.awl p).words.length)
    (h15 : n < 32768) : ∃ c f, s.goTo p cost (n : Int) = { s.onAwl p (fun a => a.ran cost n) with cnts := c, free := f } := by
  obtain ⟨c, f, e⟩ := s.countAwl_eq p 1 none 1
  refine ⟨c, f, ?_⟩
  unfold State.goTo
  have hm : ((n : Int) % 32768).toNat = n := by omega
  have hwd : ((State.onAwl { s with cnts := c, free := f } p fun a => { a with cycle := a.cycle + BitVec.ofNat 64 cost, pc := n }).awl p).words
      = (s.awl p).words := by
    rw [State.onAwl_self]
    · rfl
    · exact h
  simp only [e, hm, hwd]
  rw [if_neg]
  · rfl
  · simp only [Bool.or_eq_true, bne_iff_ne, decide_eq_true_eq, not_or]
    omega

/-- The next instruction in sequence issues. -/
theorem State.goOn_in (s : State) (p cost : Nat) (h : p < s.awls.length) (h4 : (s.awl p).pc % 4 = 0)
    (hw : (s.awl p).pc + 4 < 4 * (s.awl p).words.length) (h15 : (s.awl p).pc + 4 < 32768) :
    ∃ c f, s.goOn p cost = { s.onAwl p (fun a => a.ran cost (a.pc + 4)) with cnts := c, free := f } := by
  obtain ⟨c, f, e⟩ := s.goTo_in p cost ((s.awl p).pc + 4) h (by omega) hw h15
  refine ⟨c, f, ?_⟩
  have hc : (((s.awl p).pc + 4 : Nat) : Int) = ((s.awl p).pc : Int) + 4 := by omega
  unfold State.goOn
  rw [← hc, e]
  have hu : ∀ (l : List Awl) (i : Nat) (g k : Awl → Awl), g (l.getD i {}) = k (l.getD i {}) → upd l i g = upd l i k := by
    intro l
    induction l with
    | nil => intros; rfl
    | cons a l ih =>
      intro i g k hg
      cases i with
      | zero => simpa [upd] using hg
      | succ i => simpa [upd] using ih i g k (by simpa using hg)
  simp only [State.onAwl]
  rw [hu s.awls p (fun a => a.ran cost ((s.awl p).pc + 4)) (fun a => a.ran cost (a.pc + 4)) rfl]

/-- An instruction changed its Awl by f, which leaves the code and the program counter, and goes on in sequence. -/
theorem State.goOn_only (s : State) (p cost : Nat) (f : Awl → Awl) (h : p < 136) (hl : s.awls.length = 136)
    (hp : (f (s.awl p)).pc = (s.awl p).pc) (hw' : (f (s.awl p)).words = (s.awl p).words)
    (h4 : (s.awl p).pc % 4 = 0) (hw : (s.awl p).pc + 4 < 4 * (s.awl p).words.length) (h15 : (s.awl p).pc + 4 < 32768) :
    s.onlyAwl p ((s.onAwl p f).goOn p cost) ((f (s.awl p)).ran cost ((s.awl p).pc + 4)) := by
  have hlt : p < s.awls.length := by omega
  have e0 := s.onAwl_self p f hlt
  have hlen : (s.onAwl p f).awls.length = s.awls.length := by simp [State.onAwl]
  obtain ⟨c, g, e⟩ := (s.onAwl p f).goOn_in p cost (by omega) (by rw [e0, hp]; exact h4) (by rw [e0, hp, hw']; exact hw)
    (by rw [e0, hp]; exact h15)
  rw [e]
  refine ⟨rfl, ?_, fun q hq => ?_⟩
  · have := (s.onAwl p f).onAwl_self p (fun a => a.ran cost (a.pc + 4)) (by omega)
    rw [e0, hp] at this
    exact this
  · have := (s.onAwl p f).onAwl_ne p q (fun a => a.ran cost (a.pc + 4)) hq
    rw [s.onAwl_ne p q f hq] at this
    exact this

/-- What an instruction that issues, changes its Awl by f and goes on in sequence answers. -/
theorem State.AwlReady.goOn {s : State} {p : Nat} {i : Instr} {regs : List Nat} (h : s.AwlReady p i regs) (cost : Nat) (f : Awl → Awl)
    (hp : (f (s.awl p)).pc = (s.awl p).pc) (hw : (f (s.awl p)).words = (s.awl p).words) :
    s.onlyAwl p ((s.onAwl p f).goOn p cost) ((f (s.awl p)).ran cost ((s.awl p).pc + 4)) :=
  s.goOn_only p cost f h.unit.1 h.unit.2 hp hw h.aligned h.inCode.1 h.inCode.2

end Sys2Proof.Machine
end

