-- ==== Sys2Proof/Laws/Mgmt.lean ====
section
/-! SUPPORT. What a management access leaves besides its register's own effect. -/

namespace Sys2Proof.Machine

/-- With nothing armed the self-checks of the management island change nothing. -/
theorem State.mgmtChecks_unarmed (s : State) (h : (s.fr .mgmt).inj = 0) : s.mgmtChecks = s := by
  simp [State.mgmtChecks, State.fire_none _ _ _ _ h]

/-- An access whose register is reached: the register's rule runs on the state with one access counted, and OK is answered. -/
theorem State.mgAccess_ready {s : State} {u : UnitId} (h : s.mgReady u) (f : State → State) :
    ∃ c n, c.length = s.cnts.length ∧ s.mgAccess u f = (f { s with cnts := c, free := n }).answer 0 cOK := by
  obtain ⟨h1, h2, h3, h4, -, h6⟩ := h
  obtain ⟨c, n, e, hc⟩ := s.count_cntOnly .mgmt 1 none 1 none none
  refine ⟨c, n, hc, ?_⟩
  have hr : (!s.isRunning && u != .array) = false := by
    rcases h3 with h | h <;> simp [h]
  have e2 : (s.count .mgmt 1).mgmtChecks = { s with cnts := c, free := n } := by
    rw [e]
    exact State.mgmtChecks_unarmed _ h6
  have h1' : (!s.mgOpen) = false := by simp [h1]
  have h2' : (!u.ok || !s.isRunning && u != .array) = false := by rw [h2, hr]; rfl
  unfold State.mgAccess
  rw [h1', if_neg (by simp)]
  dsimp only
  rw [e2]
  have e3 : State.isRunning { s with cnts := c, free := n } = s.isRunning := rfl
  rw [e3, h2', if_neg (by simp)]
  have e4 : ({ s with cnts := c, free := n } : State).safe.on = false := h4
  rw [e4, if_neg (by simp)]

/-- The same for a register that a shut unit does not write. -/
theorem State.mgWrite_ready {s : State} {u : UnitId} (h : s.mgReady u) (f : State → State) :
    ∃ c n, c.length = s.cnts.length ∧ s.mgWrite u f = (f { s with cnts := c, free := n }).answer 0 cOK := by
  obtain ⟨c, n, hc, e⟩ := State.mgAccess_ready h fun s => if s.shut u then s else f s
  refine ⟨c, n, hc, ?_⟩
  have hs : State.shut { s with cnts := c, free := n } u = false := h.2.2.2.2.1
  unfold State.mgWrite
  rw [e]
  rw [hs, if_neg (by simp)]

/-- A read that changes state. -/
theorem State.mgRead_ready {s : State} {u : UnitId} (h : s.mgReady u) (f : State → Word × State) :
    ∃ c n, c.length = s.cnts.length ∧
      s.mgRead u f = (f { s with cnts := c, free := n }).2.answer (f { s with cnts := c, free := n }).1 cOK := by
  obtain ⟨h1, h2, h3, -, h5, h6⟩ := h
  obtain ⟨c, n, e, hc⟩ := s.count_cntOnly .mgmt 1 none 1 none none
  refine ⟨c, n, hc, ?_⟩
  have hr : (!s.isRunning && u != .array) = false := by
    rcases h3 with h | h <;> simp [h]
  have e2 : (s.count .mgmt 1).mgmtChecks = { s with cnts := c, free := n } := by
    rw [e]
    exact State.mgmtChecks_unarmed _ h6
  have h1' : (!s.mgOpen) = false := by simp [h1]
  have h2' : (!u.ok || !s.isRunning && u != .array) = false := by rw [h2, hr]; rfl
  unfold State.mgRead
  rw [h1', if_neg (by simp)]
  dsimp only
  rw [e2]
  have e3 : State.isRunning { s with cnts := c, free := n } = s.isRunning := rfl
  rw [e3, h2', if_neg (by simp)]
  have hs : State.shut { s with cnts := c, free := n } u = false := h5
  rw [hs, if_neg (by simp)]

@[simp] theorem State.answer_mgmt (s : State) (d : Word) (c : BitVec 4) :
    (s.answer d c).mgmt = { s.mgmt with rsp := s.mgmt.rsp ++ [(d, c)] } := rfl

end Sys2Proof.Machine
end

