-- ==== Sys2Proof/Laws/Wf.lean ====
section
/-! SUPPORT. What keeps the canonical form of the state: each update of one unit's registers, under what it must keep of that unit. -/

namespace Sys2Proof.Machine

theorem upd_all {α : Type} {P : α → Prop} (l : List α) (i : Nat) (f : α → α) (d : α) (h : ∀ a ∈ l, P a) (hf : P (f (l.getD i d))) :
    ∀ a ∈ upd l i f, P a := by
  induction l generalizing i with
  | nil => simp [upd]
  | cons b l ih =>
    cases i with
    | zero =>
      intro a ha
      rcases List.mem_cons.1 ha with rfl | ha
      · exact hf
      · exact h a (List.mem_cons_of_mem _ ha)
    | succ i =>
      intro a ha
      rcases List.mem_cons.1 ha with rfl | ha
      · exact h _ (List.mem_cons_self ..)
      · exact ih i (fun a ha => h a (List.mem_cons_of_mem _ ha)) hf a ha

variable {s : State}

/-- Every field but the unit lists, both memories and the error log may change; request numbers may only rise. -/
theorem State.Wf.others (h : s.Wf) {t : State}
    (e : t = { s with pending := t.pending, free := t.free, uid := t.uid, hides := t.hides, build := t.build, dieSlope := t.dieSlope,
                      dieIcpt := t.dieIcpt, expSig := t.expSig, image := t.image, bad := t.bad, boot := t.boot, calRec := t.calRec,
                      retRec := t.retRec, tack := t.tack, jobs := t.jobs, rhHeld := t.rhHeld, acc := t.acc, pd := t.pd, seq := t.seq,
                      safe := t.safe, tap := t.tap })
    (hu : s.uid ≤ t.uid) : t.Wf := by
  rw [e]
  exact ⟨h.cells, h.flash, h.frames, h.cnts, h.ports, h.ctls, h.links, h.awls, h.curs, h.sectors, h.pools, h.nets, h.hars, h.movs,
  h.elog, fun q hq r hr => Nat.le_trans (h.uids q hq r hr) hu, h.regs, h.slots, h.movers, h.bankMaps, h.freshMaps, h.groups, h.slices,
  h.banks⟩

/-- The registers of the management island may change, the error log within its bound. -/
theorem State.Wf.withMgmt (h : s.Wf) (m : Mgmt) (hm : m.elog.length ≤ 1024) : ({ s with mgmt := m } : State).Wf :=
  ⟨h.cells, h.flash, h.frames, h.cnts, h.ports, h.ctls, h.links, h.awls, h.curs, h.sectors, h.pools, h.nets, h.hars, h.movs, hm,
  h.uids, h.regs, h.slots, h.movers, h.bankMaps, h.freshMaps, h.groups, h.slices, h.banks⟩

/-- The flash's registers may change, and its bytes in canonical form. -/
theorem State.Wf.withFlash (h : s.Wf) (f : Flash) (hf : Memory.flashWf f.cells = true) : ({ s with flash := f } : State).Wf :=
  ⟨h.cells, hf, h.frames, h.cnts, h.ports, h.ctls, h.links, h.awls, h.curs, h.sectors, h.pools, h.nets, h.hars, h.movs, h.elog, h.uids,
  h.regs, h.slots, h.movers, h.bankMaps, h.freshMaps, h.groups, h.slices, h.banks⟩

/-- The array's bytes may change, in canonical form. -/
theorem State.Wf.withCells (h : s.Wf) (m : List Host.Cell) (hm : Memory.wf m = true) : ({ s with cells := m } : State).Wf :=
  ⟨hm, h.flash, h.frames, h.cnts, h.ports, h.ctls, h.links, h.awls, h.curs, h.sectors, h.pools, h.nets, h.hars, h.movs, h.elog, h.uids,
  h.regs, h.slots, h.movers, h.bankMaps, h.freshMaps, h.groups, h.slices, h.banks⟩

/-- A controller, its bank and granule maps in canonical form. -/
theorem State.Wf.onCtl (h : s.Wf) (p : Nat) (f : Ctl → Ctl) (hb : smWf {} (f (s.ctl p)).banks = true)
    (hg : smWf 0 (f (s.ctl p)).fresh = true) : (s.onCtl p f).Wf :=
  ⟨h.cells, h.flash, h.frames, h.cnts, h.ports, (upd_length ..).trans h.ctls, h.links, h.awls, h.curs, h.sectors, h.pools, h.nets,
  h.hars, h.movs, h.elog, h.uids, h.regs, h.slots, h.movers, upd_all _ _ _ {} h.bankMaps hb, upd_all _ _ _ {} h.freshMaps hg, h.groups,
  h.slices, h.banks⟩

/-- A link, its 20 groups and its lanes kept. -/
theorem State.Wf.onLink (h : s.Wf) (p : Nat) (f : Link → Link)
    (hf : (f (s.link p)).grps.length = 20 ∧ smWf {} (f (s.link p)).lanes = true) : (s.onLink p f).Wf :=
  ⟨h.cells, h.flash, h.frames, h.cnts, h.ports, h.ctls, (upd_length ..).trans h.links, h.awls, h.curs, h.sectors, h.pools, h.nets,
  h.hars, h.movs, h.elog, h.uids, h.regs, h.slots, h.movers, h.bankMaps, h.freshMaps, upd_all _ _ _ {} h.groups hf, h.slices, h.banks⟩

/-- An Awl, its registers kept in number. -/
theorem State.Wf.onAwl (h : s.Wf) (p : Nat) (f : Awl → Awl)
    (hf : (f (s.awl p)).sreg.length = 32 ∧ (f (s.awl p)).vreg.length = 16) : (s.onAwl p f).Wf :=
  ⟨h.cells, h.flash, h.frames, h.cnts, h.ports, h.ctls, h.links, (upd_length ..).trans h.awls, h.curs, h.sectors, h.pools, h.nets,
  h.hars, h.movs, h.elog, h.uids, upd_all _ _ _ {} h.regs hf, h.slots, h.movers, h.bankMaps, h.freshMaps, h.groups, h.slices, h.banks⟩

/-- A Currier slice, its registers of eight Hides kept. -/
theorem State.Wf.onCur (h : s.Wf) (p : Nat) (f : Cur → Cur)
    (hf : (f (s.cur p)).rate.length = 8 ∧ (f (s.cur p)).below.length = 8 ∧ (f (s.cur p)).fall.length = 8 ∧ (f (s.cur p)).temp.length = 8 ∧
      smWf {} (f (s.cur p)).bank = true) : (s.onCur p f).Wf :=
  ⟨h.cells, h.flash, h.frames, h.cnts, h.ports, h.ctls, h.links, h.awls, (upd_length ..).trans h.curs, h.sectors, h.pools, h.nets,
  h.hars, h.movs, h.elog, h.uids, h.regs, h.slots, h.movers, h.bankMaps, h.freshMaps, h.groups, upd_all _ _ _ {} h.slices hf, h.banks⟩

/-- A port, its requests numbered up to the last number given. -/
theorem State.Wf.onPort (h : s.Wf) (p : Nat) (f : Port → Port) (hf : ∀ r ∈ (f (s.port p)).tags, r.uid ≤ s.uid) : (s.onPort p f).Wf :=
  ⟨h.cells, h.flash, h.frames, h.cnts, (upd_length ..).trans h.ports, h.ctls, h.links, h.awls, h.curs, h.sectors, h.pools, h.nets,
  h.hars, h.movs, h.elog, upd_all _ _ _ {} h.uids hf, h.regs, h.slots, h.movers, h.bankMaps, h.freshMaps, h.groups, h.slices, h.banks⟩

/-- A sector. -/
theorem State.Wf.onSec (h : s.Wf) (x : Nat) (f : Sector → Sector) : (s.onSec x f).Wf :=
  ⟨h.cells, h.flash, h.frames, h.cnts, h.ports, h.ctls, h.links, h.awls, h.curs, (upd_length ..).trans h.sectors, h.pools, h.nets,
  h.hars, h.movs, h.elog, h.uids, h.regs, h.slots, h.movers, h.bankMaps, h.freshMaps, h.groups, h.slices, h.banks⟩

/-- A pool. -/
theorem State.Wf.onPool (h : s.Wf) (x : Nat) (f : Pool → Pool) : (s.onPool x f).Wf :=
  ⟨h.cells, h.flash, h.frames, h.cnts, h.ports, h.ctls, h.links, h.awls, h.curs, h.sectors, (upd_length ..).trans h.pools, h.nets,
  h.hars, h.movs, h.elog, h.uids, h.regs, h.slots, h.movers, h.bankMaps, h.freshMaps, h.groups, h.slices, h.banks⟩

/-- A sector network. -/
theorem State.Wf.onNet (h : s.Wf) (x : Nat) (f : Net → Net) : (s.onNet x f).Wf :=
  ⟨h.cells, h.flash, h.frames, h.cnts, h.ports, h.ctls, h.links, h.awls, h.curs, h.sectors, h.pools, (upd_length ..).trans h.nets,
  h.hars, h.movs, h.elog, h.uids, h.regs, h.slots, h.movers, h.bankMaps, h.freshMaps, h.groups, h.slices, h.banks⟩

/-- An engine, its 64 slots kept. -/
theorem State.Wf.onHar (h : s.Wf) (x : Nat) (f : Har → Har) (hf : (f (s.har x)).slots.length = 64) : (s.onHar x f).Wf :=
  ⟨h.cells, h.flash, h.frames, h.cnts, h.ports, h.ctls, h.links, h.awls, h.curs, h.sectors, h.pools, h.nets, (upd_length ..).trans
  h.hars, h.movs, h.elog, h.uids, h.regs, upd_all _ _ _ {} h.slots hf, h.movers, h.bankMaps, h.freshMaps, h.groups, h.slices, h.banks⟩

/-- A mover block, its four channels kept. -/
theorem State.Wf.onMov (h : s.Wf) (x : Nat) (f : Mov → Mov) (hf : (f (s.mov x)).ch.length = 4) : (s.onMov x f).Wf :=
  ⟨h.cells, h.flash, h.frames, h.cnts, h.ports, h.ctls, h.links, h.awls, h.curs, h.sectors, h.pools, h.nets, h.hars, (upd_length
  ..).trans h.movs, h.elog, h.uids, h.regs, h.slots, upd_all _ _ _ {} h.movers hf, h.bankMaps, h.freshMaps, h.groups, h.slices,
  h.banks⟩

/-- A unit's frame. -/
theorem State.Wf.onFr (h : s.Wf) (u : UnitId) (f : Frame → Frame) : (s.onFr u f).Wf :=
  ⟨h.cells, h.flash, (upd_length ..).trans h.frames, h.cnts, h.ports, h.ctls, h.links, h.awls, h.curs, h.sectors, h.pools, h.nets,
  h.hars, h.movs, h.elog, h.uids, h.regs, h.slots, h.movers, h.bankMaps, h.freshMaps, h.groups, h.slices, h.banks⟩

/-- A counter bank, its eight counters kept. -/
theorem State.Wf.onCnt (h : s.Wf) (i : Nat) (f : Cnt → Cnt)
    (hf : (f (s.cnt i)).sel.length = 8 ∧ (f (s.cnt i)).val.length = 8 ∧ (f (s.cnt i)).rsh.length = 8 ∧ (f (s.cnt i)).wsh.length = 8) : (s.onCnt i f).Wf :=
  ⟨h.cells, h.flash, h.frames, (upd_length ..).trans h.cnts, h.ports, h.ctls, h.links, h.awls, h.curs, h.sectors, h.pools, h.nets,
  h.hars, h.movs, h.elog, h.uids, h.regs, h.slots, h.movers, h.bankMaps, h.freshMaps, h.groups, h.slices, upd_all _ _ _ {} h.banks hf⟩

end Sys2Proof.Machine
end

