-- ==== Sys2Proof/WellFormed.lean ====
section
/-! DEFINITION. Which commands are well formed: every operand names something the block has. A command that is not well formed is no
event of this block; exec leaves the state alone on one, or answers as the rules say for a register that does not exist. -/

namespace Sys2Proof

/-- Groups of a lane set: 9 read, 9 write, 2 CA halves (R173). -/
def grpCount (set : Nat) : Nat := if set = 2 then 2 else 9

/-- The position exists (R173). -/
def LanePos.wf (l : LanePos) : Bool := l.set < 3 && l.group < grpCount l.set && l.pos < (if l.set = 2 then 13 else 17)

/-- Channels and Hides named in range (R7, R20). -/
def HideUp.wf (h : HideUp) : Bool :=
  h.silent.all (fun x => x.1 < 136 && x.2 < 8) && h.sensK.all (fun x => x.1 < 136 && x.2.1 < 8) && h.die.all (fun x => x.1 < 136)

/-- Every position named exists (R173). -/
def TrainRes.wf (r : TrainRes) : Bool := r.fails.all (·.wf) && r.trims.all (·.1.wf)

/-- Symbols of one codeword, each at most once, each in error (R233, R234). -/
def symsWf (l : SymErrs) : Bool := l.all (fun x => x.1 < 72 && x.2 != 0) && decide ((l.map (·.1)).Nodup)

/-- A tracking test is of a position of the slice's set (R197). -/
def TrackRes.wf (set : Nat) (r : TrackRes) : Bool := LanePos.wf ⟨set, r.group, r.pos⟩

/-- A block of a channel, the symbols of its codeword in range (R233, R245). -/
def BlkErr.wf (e : BlkErr) : Bool := e.chan < 136 && e.off % 64 == 0 && e.syms.all (· < 72)

/-- The agent exists: a port, or a slot of an engine (R281, R304). -/
def PageSrc.wf : PageSrc → Bool
  | .port n _ _ => n < 128
  | .node eng slot _ => eng < 8 && slot < 64

/-- The input exists (R101, R140, R142). -/
def ArbInput.wf : ArbInput → Bool
  | .port n _ => n < 128
  | .ctl p bit => p < 136 && bit < 5
  | .net s bit => s < 8 && bit < 18

/-- The command is well formed. -/
def Instr.wf : Instr → Bool
  | .blockResetAssert | .blockResetRelease _ | .clockEnd _ _ _ _ | .discoverEnd _ | .loadEnd | .verifyEnd | .slotsEnd | .islandsEnd
  | .applyEnd | .buildEnd | .startupTimeout | .bootReload _ | .lcInputChange | .strapChange | .flashRead | .flashProgram | .flashErase
  | .flashOpDone | .flashTimeout | .calRecordPeriod | .recordWriteStart | .registerWrite _ _ | .rhPenaltyEnd _ | .governorRound
  | .stopComplete | .stopOverrun | .thermResume _ | .rangeScrub _ | .rangeClear _ | .rangePoison _ | .rangeCancel _ | .elogAck _
  | .pdOrphan _ | .epochCheck | .bistSliceStart _ | .sliceDrainTimeout | .sliceDrained | .sliceScanDone _ | .sliceWindowSample _ _
  | .sliceRelease | .bistAck _ | .tapReset | .unitSel _ | .intscan _ | .sigread | .slice _ _ _ _ | .bypass _ | .dump | .telNow _
  | .dumpWriteAck _ | .mgmtRspTaken | .rangeDone _ => true
  | .islandsLockTimeout unlocked => unlocked.all (· < 8)
  | .hideUpEnd h => h.wf
  | .channelTrained p r | .retrainSliceEnd p _ r => p < 136 && r.wf
  | .read n _ _ _ _ | .write n _ _ | .writeMasked n _ _ | .atomAdd n _ _ | .atomMax n _ _ | .atomMin n _ _ | .atomSwap n _ _
  | .atomCas n _ _ | .reduceAdd n _ _ | .reduceAddOrd n _ _ | .doorbell n _ _ | .writeBeat n _ | .gapCut n | .rspBeatTaken n
  | .rspStall n => n < 128
  | .networkMessage s _ | .ringReserve s | .poolScaleUpdate s | .migrationStart s _ | .migrationCancel s _ | .flipDrainDone s
  | .flipDrainTimeout s | .migrationCopyDone s _ | .harSubmit s _ | .harCancel s _ | .harEndRead s | .moverRelease s _ | .refClkLost s | .holdoverEnd s
  | .histClear s _ | .histKind s _ => s < 8
  | .schedulerCycle p | .entryAged p _ _ | .schedStall p | .zeroFillDone p _ | .combineWriteback p _ | .ordTimeout p _ | .trrLimit p _
  | .regulationPeriodStart p | .tier4WaitLimit p _ _ | .readSweepStart p | .fullRetrain p _ | .retrainSlice p | .linkHaltEnd p
  | .modeRegisterRead p _ | .modeRegisterWrite p _ | .statusReadClear p _ | .layerReset p _ | .sbResponse p _ _ _ | .sbTimeout p
  | .weakRowRefreshDue p _ | .sensorRead p | .dieSensorRead p _ | .weakAgeing p | .patrolRead p | .profilingStepDone p _ | .patrolLate p | .ceCommit p _
  | .bankRetirement p _ | .partEntry p | .ident p | .convert p | .aJal p _ | .sysHalt p | .sysNop p | .memOpRetire p
  | .illegalInstruction p => p < 136
  | .hitLimit p bank | .idleRowClose p bank | .bankOpeningDone p bank | .bankClosingDone p bank | .bankRefreshDone p bank
  | .refreshDueTick p bank | .refreshRoundEnd p bank => p < 136 && bank < 128
  | .powerDownEntry p hide | .hideAlert p hide | .sensorResult p hide _ | .emergencyReread p hide _ => p < 136 && hide < 8
  | .readBurstReturn p _ errs => p < 136 && symsWf errs.syms && decide (errs.edge.length ≤ 9)
  | .arbiterCutoff i => i.wf
  | .calAttemptDone p set grp passing _ _ => p < 136 && set < 3 && grp < grpCount set && passing ≤ 128
  | .calWaitEnd p set grp | .rotStep p set grp | .rotEffect p set grp => p < 136 && set < 3 && grp < grpCount set
  | .trackingSlice p set res => p < 136 && set < 3 && res.all (·.wf set)
  | .laneStale p l => p < 136 && l.wf
  | .rowRetirement p _ errs | .bankCopyDone p errs => p < 136 && errs.all (·.wf)
  | .create src | .append src _ | .commit src | .fork src _ | .trim src _ | .release src | .lock src | .unlock src | .query src
  | .patch src _ | .cold src => src.wf
  | .harnessCheckDone s slot | .nop s slot _ | .score s slot _ | .select s slot _ | .partialAtt s slot _ | .merge s slot _
  | .reduce s slot _ _ | .copy s slot _ _ | .fill s slot _ _ | .bucket s slot _ | .awlProg s slot _ | .signal s slot _
  | .nodeLimit s slot _ | .completionRecordWritten s slot | .engStall s slot _ => s < 8 && slot < 64
  | .partEnd s slot _ part => s < 8 && slot < 64 && part < 16
  | .aAdd p rd rs1 rs2 | .aSub p rd rs1 rs2 | .aAnd p rd rs1 rs2 | .aOr p rd rs1 rs2 | .aXor p rd rs1 rs2 | .aSll p rd rs1 rs2
  | .aSrl p rd rs1 rs2 | .aSra p rd rs1 rs2 | .aSlt p rd rs1 rs2 | .aSltu p rd rs1 rs2 | .aMul p rd rs1 rs2 | .aDivu p rd rs1 rs2
  | .aRemu p rd rs1 rs2 | .aFadd p rd rs1 rs2 | .aFsub p rd rs1 rs2 | .aFmul p rd rs1 rs2 | .aFdiv p rd rs1 rs2 | .aFmin p rd rs1 rs2
  | .aFmax p rd rs1 rs2 | .aFlt p rd rs1 rs2 | .aFeq p rd rs1 rs2 => p < 136 && rd < 32 && rs1 < 32 && rs2 < 32
  | .aFtoi p rd rs1 | .aItof p rd rs1 | .aAddi p rd rs1 _ | .aAndi p rd rs1 _ | .aOri p rd rs1 _ | .aXori p rd rs1 _
  | .aShiSll p rd rs1 _ | .aShiSrl p rd rs1 _ | .aShiSra p rd rs1 _ | .aLsh p rd rs1 _ | .aLw p rd rs1 _ | .aLd p rd rs1 _
  | .aSw p rd rs1 _ | .aSd p rd rs1 _ | .aJalr p rd rs1 _ => p < 136 && rd < 32 && rs1 < 32
  | .aLui p rd _ | .mfsCycle p rd | .mfsElapsed p rd | .mfsPhys p rd | .mfsGran p rd | .mfsOutst p rd | .mfsIsa p rd => p < 136 && rd < 32
  | .aBeq p rs1 rs2 _ | .aBne p rs1 rs2 _ | .aBlt p rs1 rs2 _ | .aBge p rs1 rs2 _ | .aBltu p rs1 rs2 _ | .aBgeu p rs1 rs2 _ =>
    p < 136 && rs1 < 32 && rs2 < 32
  | .sysFail p rs1 | .sysMwait p rs1 => p < 136 && rs1 < 32
  | .vld p vd sr | .viota p vd sr => p < 136 && vd < 16 && sr < 32
  | .vst p va sr | .vget p va sr => p < 136 && va < 16 && sr < 32
  | .vbcast p vd sr fmt => p < 136 && vd < 16 && sr < 32 && fmt < 2
  | .vcvt p vd va sr fmt sel mode => p < 136 && vd < 16 && va < 16 && sr < 32 && fmt < 7 && sel < 8 && mode < 8
  | .vpack p vd va fmt sel => p < 136 && vd < 16 && va < 16 && 1 ≤ fmt && fmt < 7 && sel < 8
  | .vdot p vd va vb sr fmt mode => p < 136 && vd < 16 && va < 16 && vb < 16 && sr < 32 && fmt < 7 && mode < 4
  | .vadd p vd va vb | .vsub p vd va vb | .vmul p vd va vb | .vfma p vd va vb | .vmax p vd va vb | .vmin p vd va vb =>
    p < 136 && vd < 16 && va < 16 && vb < 16
  | .vexp p vd va | .vmov p vd va => p < 136 && vd < 16 && va < 16
  | .vmuls p vd va sr | .vfoldSum p vd va sr | .vfoldMax p vd va sr => p < 136 && vd < 16 && va < 16 && sr < 32
  | .sacc p vd va vb sr => p < 136 && vd < 16 && va < 16 && vb < 16 && sr < 32
  | .mld p ra rb rn | .mst p ra rb rn => p < 136 && ra < 32 && rb < 32 && rn < 32
  | .mred p ra rb rc rn | .fld p ra rb rc rn | .pgath p ra rb rc rn | .fst p ra rb rc rn =>
    p < 136 && ra < 32 && rb < 32 && rc < 32 && rn < 32
  | .hld p ra rb | .xlat p ra rb | .xlata p ra rb => p < 136 && ra < 32 && rb < 32
  | .hst p ra rb rc => p < 136 && ra < 32 && rb < 32 && rc < 32
  | .islandGate u | .islandWake u | .faultWordClear u _ | .faultInj u _ | .fltFence u _ | .quiesce u _ | .resumeIntake u _
  | .unitReset u _ | .cntFreeze u _ | .cntClear u _ | .drainDone u | .wedge u | .resetComplete u | .resetBound u | .safeStateEntry u =>
    u.ok
  | .extest drive capture | .samplePreload drive capture => capture.length == drive.length
  | .cntSel u i _ | .cntWrite u i _ _ | .cntRead u i _ => u.ok && i < 8
  | .counterOverflow u i src _ _ => u.ok && i < 8 && src.ok

end Sys2Proof
end

