-- ==== Sys2Proof/Tests/Slice0.lean ====
section
/-! SUPPORT. Tests: the examples of the spec, the smoke test of WellFormed, and for every statement with hypotheses a state and operands that
meet them. -/

namespace Sys2Proof.Tests

open Sys2Proof Sys2Proof.Machine

set_option Elab.async false

/-! ### Small states -/

/-- An image: one private window from 0 over the first 128 MiB of every channel, then one striped over sector 5 and one over the array;
sixteen classes with equal shares and no ceilings. -/
def img : Image :=
  { windows := [⟨0, 64, 0, 0, 0⟩, ⟨64, 64, 1, 5, 64⟩, ⟨128, 128, 2, 0, 68⟩]
    classes := List.replicate 16 { rdShare := 64, wrShare := 64, poolShare := 64, rdCeil := 1023, wrCeil := 1023, poolCeil := 1023 }
    policy := { refi := 3900, warm := 75, hot := 85, critical := 95, emergency := 105, pdIdle := 1, drainUs := 1000, rhThresh := 1000 }
    granLo := 2048, granHi := 4096 }

/-- The block running with that image. -/
def up : State :=
  { State.reset with
    boot := { phase := 0xA, lcState := 1 }, image := some img, tack := { busy := false, gen := 1 }
    ports := List.replicate 128 { up := true, clkOn := true }
    links := List.replicate 136 { st := .running } }

theorem up_wf : up.Wf :=
  ⟨rfl, rfl, by decide +kernel, by decide +kernel, by decide +kernel, by decide +kernel, by decide +kernel, by decide +kernel,
   by decide +kernel, rfl, rfl, rfl, rfl, rfl, by decide, by decide +kernel, by decide +kernel, by decide +kernel, by decide +kernel,
   by decide +kernel, by decide +kernel, by decide +kernel, by decide +kernel, by decide +kernel⟩

theorem unarmed_of {s : State} {u : UnitId} (h : ((s.fr u).inj == 0) = true) : s.unarmed u := eq_of_beq h

theorem ready_of {s : State} {u : UnitId}
    (h : (s.mgOpen && u.ok && s.isRunning && !s.safe.on && !s.shut u && (s.fr .mgmt).inj == 0) = true) : s.mgReady u := by
  simp only [Bool.and_eq_true, Bool.not_eq_true', beq_iff_eq] at h
  obtain ⟨⟨⟨⟨⟨a, b⟩, c⟩, d⟩, e⟩, f⟩ := h
  exact ⟨a, b, .inl c, d, e, f⟩
/-! ### Start-up, flash and management port: witnesses -/

/-- Start-up in a phase. -/
def inPh (ph : BitVec 4) : State := { up with boot := { phase := ph, lcState := 1 } }

theorem inPh_wf (ph : BitVec 4) : (inPh ph).Wf := up_wf.others rfl (Nat.le_refl _)

/-- The management port reaches every unit of the running block. -/
theorem up_ready (u : UnitId) (hu : u.ok = true) (h : up.shut u = false) : up.mgReady u :=
  ⟨by decide +kernel, hu, .inl (by decide +kernel), rfl, h, by decide +kernel⟩

theorem witness_IdleStepTicks :
    (up.pending = [] ∧ up.boot.rstLow = false ∧ (∀ f ∈ up.frames, f.deferRst = false) ∧ up.tack.pend = [] ∧ up.mgmt.sub + 1 < 400) ∧
    (let s : State := { up with mgmt := { sub := 399 } }
     s.pending = [] ∧ s.boot.rstLow = false ∧ (∀ f ∈ s.frames, f.deferRst = false) ∧ s.tack.pend = [] ∧ 399 ≤ s.mgmt.sub) ∧
    (let s : State := { up with tack := { gen := 1, busy := true, pend := [[.awl 3]] } }
     s.pending = [] ∧ s.boot.rstLow = false ∧ (∀ f ∈ s.frames, f.deferRst = false) ∧ s.tack.pend = [.awl 3] :: [] ∧
     (UnitId.awl 3).idx < s.frames.length) ∧
    (let s : State := { up with boot := { rstLow := true } }; s.pending = [] ∧ s.boot.rstLow = true) :=
  ⟨⟨rfl, rfl, by decide +kernel, rfl, by decide⟩, ⟨rfl, rfl, by decide +kernel, rfl, by decide⟩,
   ⟨rfl, rfl, by decide +kernel, rfl, by decide +kernel⟩, rfl, rfl⟩

theorem witness_StepKeepsWf : up.Wf ∧ ∃ t, step up = .next t := ⟨up_wf, _, rfl⟩

theorem witness_BlockReset : ({ up with boot := { rstLow := true } } : State).boot.rstLow = true ∧ up.flash.job = none := ⟨rfl, rfl⟩

theorem witness_ClockEnd : State.reset.inPhase 0 = true ∧ up.boot.rstLow = false ∧ up.boot.phase ≠ 0 := by decide +kernel

/-- What a 1 Gbit flash with 4-byte addresses answers: DWORDs 1, 2 and 11 of R53. -/
def sfdp : Sfdp := { major := 1, dwords := [0x00240001, 0x3FFFFFFF, 0, 0, 0, 0, 0, 0, 0, 0, 0x80] }

theorem witness_ImageLoading_discover :
    (inPh 1).inPhase 1 = true ∧ sfdp.major = 1 ∧ bits (sfdp.dwords.getD 0 0).toNat 0 2 = 1 ∧
    bits (sfdp.dwords.getD 0 0).toNat 17 2 ≠ 3 ∧ bitN (sfdp.dwords.getD 0 0).toNat 21 = true ∧ 2 ^ 26 ≤ sfdpBits (sfdp.dwords.getD 1 0) ∧
    (inPh 9).boot.rstLow = false ∧ (inPh 9).boot.phase.toNat ≤ 9 := by decide +kernel

/-- An image that waits in VERIFY: the public key is the base point, and digest, r and s are the x coordinate of twice it. -/
def signed : Image :=
  let x := 0x7CF27B188D034F7E8A52380304B51AC3C08969E277F21B35A60B48FC47669978
  { sig := some (ecG.1, ecG.2, x, x), digest := x }

theorem witness_ImageLoading_verify :
    let x := 0x7CF27B188D034F7E8A52380304B51AC3C08969E277F21B35A60B48FC47669978
    let s : State := { inPh 3 with boot := { phase := 3, cand := some signed
                                             lcKey := BitVec.ofNat 256 (sha256 ((leBytes ecG.1 32).reverse ++ (leBytes ecG.2 32).reverse)) } }
    s.inPhase 3 = true ∧ s.boot.cand = some signed ∧ signed.sig = some (ecG.1, ecG.2, x, x) ∧
    sha256 ((leBytes ecG.1 32).reverse ++ (leBytes ecG.2 32).reverse) = s.boot.lcKey.toNat ∧ ecdsaOk ecG.1 ecG.2 x x signed.digest = true := by
  decide +kernel

theorem witness_StartupPhases :
    (∀ ph, (inPh ph).Wf) ∧ (inPh 4).inPhase 4 = true ∧ (inPh 5).inPhase 5 = true ∧ (inPh 8).inPhase 8 = true ∧
    ((inPh 9).inPhase 9 = true ∧ (inPh 9).persisting = false) ∧
    (let s : State := { inPh 9 with boot := { phase := 9, parked := true }, flash := { retQ := 1 } }; s.inPhase 9 = true ∧ s.persisting = true) :=
  ⟨inPh_wf, by decide +kernel⟩

/-- Nothing answers in HIDE_UP at Hide 0. -/
def noHide0 : HideUp := { silent := (List.range 136).map fun p => (p, 0), sensK := [], die := [] }

/-- A channel whose every position passes. -/
def good : TrainRes := { fails := [], noEye := false, badVerify := false, trims := [] }

theorem witness_HideUpAndTrain :
    ((inPh 6).inPhase 6 = true ∧ 0 < (inPh 6).hides ∧ ∀ p < 136, (inPh 6).tried p = true → (p, 0) ∈ noHide0.silent) ∧
    ((inPh 6).Wf ∧ (inPh 6).inPhase 6 = true ∧ (inPh 6).boot.trained = [] ∧ ({ noHide0 with silent := [] } : HideUp).silent = [] ∧
      ∃ p < 136, (inPh 6).tried p = true) ∧
    ((inPh 7).Wf ∧ (inPh 7).inPhase 7 = true ∧ (inPh 7).tried 0 = true ∧ (inPh 7).tried 135 = true ∧
      (inPh 7).boot.trained.contains 0 = false ∧ (inPh 7).boot.trained.contains 135 = false ∧ 135 ≠ 0 ∧ (inPh 7).inSearch 0 good = true ∧
      good.fails = [] ∧ good.noEye = false ∧ good.badVerify = false) ∧
    (let s : State := { inPh 7 with boot := { phase := 7, lcState := 1, trained := List.range 135 } }
     s.Wf ∧ s.inPhase 7 = true ∧ s.tried 135 = true ∧ s.boot.trained.contains 135 = false ∧
     (∀ q < 136, s.tried q = true → q = 135 ∨ s.boot.trained.contains q = true) ∧ s.inSearch 135 good = true) :=
  ⟨by decide +kernel, ⟨inPh_wf 6, by decide +kernel, rfl, rfl, 135, by decide +kernel⟩, ⟨inPh_wf 7, by decide +kernel⟩,
   (inPh_wf 7).others rfl (Nat.le_refl _), by decide +kernel⟩

/-- FAILED, with the management port open. -/
theorem witness_BootReload :
    ((inPh 0xB).Wf ∧ (inPh 0xB).mgReady .array ∧ bitN (0x5A000001 : Word).toNat 0 = true ∧ keyed 0x5A000001 = true ∧ (inPh 0xB).boot.phase = 0xB) ∧
    (up.Wf ∧ up.mgReady .array ∧ (keyed 0x5A000001 && up.boot.phase == 0xB) = false ∧ (keyed 1 && (inPh 0xB).boot.phase == 0xB) = false) :=
  ⟨⟨inPh_wf _, ⟨by decide +kernel, rfl, .inr rfl, rfl, by decide +kernel, by decide +kernel⟩, by decide +kernel⟩,
   up_wf, up_ready .array rfl (by decide +kernel), by decide +kernel⟩

/-- The block running with a flash of 64 Mbit. -/
def upFlash : State := { up with boot := { phase := 0xA, lcState := 1, flBytes := 0x800000 } }

/-- A mailbox operation in progress. -/
def mboxRun (op : BitVec 2) (a : BitVec 24) : State :=
  { upFlash with flash := { busy := true, mbox := some op, op := op, addr := a, job := some .mbox } }

theorem witness_FlashMailbox :
    (upFlash.mgReady .array ∧ upFlash.flash.busy = false ∧ upFlash.mboxOk 1 = true ∧ upFlash.mboxOk 2 = true ∧ upFlash.mboxOk 3 = true) ∧
    ({ upFlash with flash := { addr := 1 } } : State).mboxOk 1 = false ∧
    ∀ op a, (mboxRun op a).Wf ∧ (mboxRun op a).flash.job = some .mbox ∧ (mboxRun op a).flash.mbox = some op :=
  ⟨⟨⟨by decide +kernel, rfl, .inl (by decide +kernel), rfl, by decide +kernel, by decide +kernel⟩, by decide +kernel⟩, by decide +kernel,
   fun _ _ => ⟨(up_wf.others (t := upFlash) rfl (Nat.le_refl _)).withFlash _ rfl, rfl, rfl⟩⟩

/-- A record write with these steps left. -/
def recRun (l : List FStep) : State := { up with flash := { job := some (.record ⟨true, false, 2, l⟩) } }

theorem witness_RecordWrites :
    (up.isRunning = true ∧ up.boot.rstLow = false) ∧
    (let s : State := { up with flash := { retQ := 1 } }; s.isRunning = true ∧ s.flash.job = none ∧ 0 < s.flash.retQ) ∧
    (let s : State := { up with flash := { calQ := true } }; s.isRunning = true ∧ s.flash.job = none ∧ s.flash.retQ = 0 ∧ s.flash.calQ = true) ∧
    (recRun [.erase 0x400000, .prog 0x400000 []]).flash.job = some (.record ⟨true, false, 2, [.erase 0x400000, .prog 0x400000 []]⟩) ∧
    (recRun [.prog 0x400000 []]).flash.job = some (.record ⟨true, false, 2, [.prog 0x400000 []]⟩) ∧
    (recRun []).Wf ∧ ((recRun []).fr .loader).mask = 0 ∧ ((recRun []).fr .loader).st ≠ .resetting :=
  ⟨by decide +kernel, by decide +kernel, by decide +kernel, rfl, rfl, up_wf.withFlash _ rfl, by decide +kernel, by decide +kernel⟩

theorem witness_RegisterWrites :
    (up.mgOpen = true ∧ (up.fr .mgmt).inj = 0) ∧ (0x2 : Word).toNat % 4 ≠ 0 ∧ 757 ≤ (757 * 4096 : Word).toNat / 4096 ∧
    ((inPh 2).mgOpen = true ∧ (inPh 2).isRunning = false ∧ 0 < (4096 : Word).toNat / 4096 ∧ (4096 : Word).toNat / 4096 < 757) ∧
    (up.mgReady (.awl 99) ∧ (0x26F154 : Word).toNat = (UnitId.awl 99).idx * 4096 + 0x154) ∧ up.mgReady .array :=
  ⟨by decide +kernel, by decide, by decide, by decide +kernel, ⟨up_ready _ rfl (by decide +kernel), by decide +kernel⟩,
   up_ready _ rfl (by decide +kernel)⟩
/-! ### Slice ports: witnesses -/

/-- A header of one block of class 2 at a block address. -/
def hdr (addr : BitVec 42) (arg : BitVec 24) : WHdr := { tag := 7, cls := 2, addr := addr, len := 0, arg := arg, chkEn := false }
/-- A last beat. -/
def beat (d : Block) : Beat := { data := d, be := 1, chk := 0, last := true }
/-- A request of a port. -/
def req (op : Nat) : Req := { tag := 9, uid := 1, op := op, len := 3, addr := 0x10000, lch := 5, taken := 1, doneN := 1 }
/-- Port 5 with one request. -/
def withReq (r : Req) (f : Port → Port) : State := ({ up with uid := 1 } : State).onPort 5 fun p => f { p with tags := [r] }

theorem withReq_wf (r : Req) (f : Port → Port) (hr : r.uid ≤ 1) (hf : ∀ p, (f p).tags = p.tags) : (withReq r f).Wf :=
  (up_wf.others (t := { up with uid := 1 }) rfl (Nat.zero_le _)).onPort 5 _ (by
    intro q hq
    rw [hf] at hq
    have : q = r := by simpa using hq
    rw [this]; exact hr)

/-- What Offers asks, in one check. -/
theorem offers_of {s : State} {n cls addr : Nat} {write : Bool}
    (h : (decide (n < 128) && s.portTakes n && (if write then s.wqReady n else s.rqReady n) && s.freeToOffer n cls write addr &&
      !s.allFenced n) = true) : s.Offers n cls write addr := by
  simp only [Bool.and_eq_true, decide_eq_true_eq, Bool.not_eq_true'] at h
  obtain ⟨⟨⟨⟨a, b⟩, c⟩, d⟩, e⟩ := h
  exact ⟨a, b, c, d, e⟩

theorem up_offers : up.Offers 5 2 false 0x400 ∧ up.Offers 5 2 true 0x400 ∧ up.Offers 127 15 false 0x200001 ∧ up.Offers 5 2 true (2 ^ 42) ∧
    up.PoolFree 5 :=
  ⟨offers_of (by decide +kernel), offers_of (by decide +kernel), offers_of (by decide +kernel), offers_of (by decide +kernel),
   ⟨by decide +kernel, by decide +kernel, by decide +kernel, by decide +kernel, by decide +kernel⟩⟩

/-- Port address 0x10000 lies in port 5's own slice; 0x8000040 in the window striped over sector 5. -/
theorem up_own : up.ownBlock 5 (0x400 * 64) 5 0x10000 ∧ up.decode (0x200001 * 64) (up.portLch 127) = some (80, 0x8000040) := by
  refine ⟨⟨?_, ?_, ?_⟩, ?_⟩ <;> decide +kernel

/-- Port 5 two cycles before either of its directions is ready again. -/
def busy5 : State := up.onPort 5 fun p => { p with rdFree := 2, wrFree := 2 }

theorem busy5_wf : busy5.Wf := up_wf.onPort 5 _ (by decide +kernel)

theorem witness_ReadRequest :
    (up.Wf ∧ up.Offers 5 2 false 0x400 ∧ up.tagUsed 5 255 = false ∧ crosses 0x400 31 = false ∧ up.ownBlock 5 (0x400 * 64) 5 0x10000) ∧
    (up.Offers 127 15 false 0x200001 ∧ crosses 0x200001 0 = false ∧ up.decode (0x200001 * 64) (up.portLch 127) = some (80, 0x8000040) ∧
      80 ≠ up.portLch 127 ∧ secOf (up.portPhys 127) < 8) ∧
    (crosses 0x401 31 = true ∧ up.decode (0x3FFFFFFFFFF * 64) (up.portLch 5) = none) ∧
    ((withReq (req 0) id).Wf ∧ (withReq (req 0) id).Offers 5 2 false 0x400 ∧ (withReq (req 0) id).tagUsed 5 9 = true) ∧
    (busy5.Wf ∧ busy5.portTakes 5 = true ∧ busy5.rqReady 5 = false) ∧
    (let s := up.onPort 5 fun p => { p with holds := [.cls 5 2] }; s.portTakes 5 = true ∧ s.freeToOffer 5 2 false 0x400 = false) ∧
    State.reset.portTakes 5 = false :=
  ⟨⟨up_wf, up_offers.1, by decide +kernel, by decide, up_own.1⟩, ⟨up_offers.2.2.1, by decide, up_own.2, by decide +kernel, by decide +kernel⟩,
   by decide +kernel, ⟨withReq_wf _ _ (Nat.le_refl _) (fun _ => rfl), offers_of (by decide +kernel), by decide +kernel⟩,
   ⟨busy5_wf, by decide +kernel, by decide +kernel⟩, by decide +kernel, by decide +kernel⟩

theorem witness_BurstsStayInAStripe :
    (crosses 0x400 31 = false ∧ up.decode (0x400 * 64) 5 = some (5, 0x10000)) ∧ crosses 0x401 31 = true ∧ up.tagUsed 5 7 = false ∧
    up.Wf ∧ up.Offers 5 2 false 0x400 ∧ up.Offers 5 2 true 0x400 ∧ (up.port 5).openW = none ∧ up.PoolFree 5 ∧ (beat 5).last = true :=
  ⟨by decide +kernel, by decide, by decide +kernel, up_wf, up_offers.1, up_offers.2.1, by decide +kernel, up_offers.2.2.2.2, rfl⟩

theorem witness_FirstBeat :
    (up.Wf ∧ up.Offers 5 2 true ((0x400 : BitVec 42).toNat) ∧ (up.port 5).openW = none ∧ up.PoolFree 5 ∧ up.tagUsed 5 7 = false ∧
      up.ownBlock 5 (0x400 * 64) 5 0x10000) ∧
    (∀ op ∈ [opWrite, opMasked, opAdd, opMax, opMin, opSwap, opRed], up.hdrBad (up.portLch 5) op (hdr 0x400 0) = false) ∧
    up.hdrBad (up.portLch 5) opCas (hdr 0x400 0x140) = false ∧ up.hdrBad (up.portLch 5) opOrd (hdr 0x400 0xFF0000) = false ∧
    (chkOk false (beat 5) = true ∧ (beat 5).last = true ∧ (hdr 0x400 0).len = 0) ∧
    (∀ op ∈ [opAdd, opMax, opMin, opSwap, opCas], atomDataBad op 0 5 = false) ∧
    (∀ op ∈ [opWrite, opCas], up.hdrBad (up.portLch 5) op { hdr 0x400 0 with op := 0x1F } = true) ∧
    (busy5.Wf ∧ (busy5.port 5).openW = none ∧ busy5.portTakes 5 = true ∧ busy5.wqReady 5 = false) :=
  ⟨⟨up_wf, up_offers.2.1, by decide +kernel, up_offers.2.2.2.2, by decide +kernel, up_own.1⟩, by decide +kernel, by decide +kernel,
   by decide +kernel, by decide +kernel, by decide +kernel, by decide +kernel, busy5_wf, by decide +kernel⟩

theorem witness_DoorbellSubmits :
    (up.Wf ∧ up.Offers 5 2 true (2 ^ 42) ∧ (up.port 5).openW = none ∧ (beat 5).last = true ∧ up.tagUsed 5 7 = false ∧
      up.hdrBad (up.portLch 5) opBell (hdr 0 0) = false ∧ chkOk false (beat 5) = true) ∧
    (let b := beat (BitVec.ofNat 512 (0x10000 + 3 * 2 ^ 64))
     up.bellBad (up.portLch 5) b.data = false ∧ up.safe.on = false ∧ up.takesSlots (blkGet b.data 8 1 % 8) = true ∧
     (up.har (blkGet b.data 8 1 % 8)).waitQ = [] ∧ up.freeSlotOf (blkGet b.data 8 1 % 8) = some 0) ∧
    up.bellBad (up.portLch 5) (beat 8).data = true :=
  ⟨⟨up_wf, up_offers.2.2.2.1, by decide +kernel⟩, by decide +kernel, by decide +kernel⟩

/-- A plain write of four blocks, open after one beat. -/
def openW1 : OpenW := { uid := 1, op := opWrite, len := 3, beats := 1, chkEn := false, dead := false, blocks := [] }
/-- Port 5 with it. -/
def openOn (f : Port → Port) : State := withReq (req opWrite) fun p => f { p with openW := some openW1 }

theorem witness_LaterBeats :
    ((openOn id).Wf ∧ (openOn id).wqReady 5 = true ∧ ((openOn id).port 5).openW = some openW1 ∧ (openOn id).reqOf 5 1 = some (req opWrite) ∧
      openW1.dead = false ∧ chkOk false (beat 5) = true ∧ collects openW1.op false = false ∧ ({ beat 5 with last := false } : Beat).last = false ∧
      openW1.beats < openW1.len ∧ ((openOn id).fr (.pool (secOf ((openOn id).portPhys 5)))).inj = 0 ∧
      (openOn id).ownBlock 5 ((req opWrite).addr + 64 * (req opWrite).taken) 5 0x10040 ∧ (req opWrite).op ≠ 0) ∧
    (busy5.Wf ∧ busy5.portTakes 5 = true ∧ busy5.wqReady 5 = false) ∧
    (up.Wf ∧ up.wqReady 127 = true ∧ (up.port 127).openW = none) ∧
    ((openOn id).hasGrant 5 true = true ∧ openW1.blocks = [] ∧ (req opWrite).failed = false ∧ (req opWrite).answered = false ∧
      (req opWrite).remote = false ∧ (req opWrite).doneN = (req opWrite).taken ∧ onData (req opWrite).op (req opWrite).arg = false ∧
      (openOn id).portPhys 5 < 136) :=
  ⟨⟨withReq_wf _ _ (Nat.le_refl _) (fun _ => rfl), by decide +kernel, by decide +kernel, by decide +kernel, rfl, by decide, by decide, rfl, by decide,
    by decide +kernel, ⟨by decide +kernel, by decide +kernel, by decide⟩, by decide⟩, ⟨busy5_wf, by decide +kernel, by decide +kernel⟩,
   ⟨up_wf, by decide +kernel⟩, by decide +kernel⟩

/-- A read message of port 20 for a logical channel. -/
def msg (port lch : Nat) : Work :=
  { port := port, uid := 1, tag := 9, cls := 2, req := 5, op := 0, arg := 0, lch := lch, off := 0, idx := 0, n := 1, data := [], be := 0, inp := 1,
    first := 0 }
/-- A response to port 5, on its way from channel 20. -/
def answer : Work := { msg 5 20 with ans := some (.ack ⟨9, cOK, 1, false⟩) }
/-- Sector 1's network with these messages. -/
def netOn (l : List Work) : State := up.onNet 1 fun b => { b with msgs := l }

theorem witness_ResponsesAndNetwork :
    (let s := withReq (req 0) fun p => { p with rsp := [⟨9, 3, true, false, cOK, 1⟩] }
     s.Wf ∧ s.portReset 5 = false ∧ (s.port 5).rsp = [⟨9, 3, true, false, cOK, 1⟩] ∧
     (s.port 5).tags.find? (fun r => r.tag == 9) = some (req 0) ∧ (s.port 5).rsp ≠ [] ∧ s.allFenced 5 = false ∧ s.portPhys 5 < 136) ∧
    (let s := netOn [msg 16 20]
     s.Wf ∧ (s.net 1).msgs = [msg 16 20] ∧ s.msgPick 1 (s.msgOut 1 (msg 16 20)) = some 0 ∧ (s.fr (.network 1)).inj = 0 ∧ s.msgDst (msg 16 20) = 1 ∧
     (msg 16 20).ans = none ∧ s.serving 20 = some 21) ∧
    (let s := (withReq (req opWrite) id).onNet 0 fun b => { b with msgs := [answer] }
     s.Wf ∧ (s.net 0).msgs = [answer] ∧ s.msgPick 0 (s.msgOut 0 answer) = some 0 ∧ (s.fr (.network 0)).inj = 0 ∧ s.msgDst answer = 0 ∧
     answer.ans ≠ none ∧ answer.port < 128 ∧ (s.reqOf answer.port answer.uid).isSome = true) ∧
    (let s := netOn [answer]
     s.Wf ∧ (s.net 1).msgs = [answer] ∧ s.msgPick 1 (s.msgOut 1 answer) = some 0 ∧ s.msgDst answer ≠ 1 ∧ s.msgDst answer < 8 ∧ answer.ans ≠ none) ∧
    (let s := netOn [msg 16 100]; s.Wf ∧ ∃ w ∈ (s.net 1).msgs, s.msgSrc w = 1 ∧ s.msgDst w ≠ 1) ∧
    (let s := (withReq (req 0) id).onNet 1 fun b => { b with msgs := [msg 5 20] }
     s.Wf ∧ ∃ w, (s.net 1).msgs.find? (fun w => w.ans.isNone && (if s.msgSrc w = 1 then s.msgFrom w == 17 else 17 == 17)) = some w ∧ w.port < 128 ∧
       w.op = 0 ∧ s.reqOf w.port w.uid = some (req 0) ∧ (req 0).answered = false) ∧
    (up.Wf ∧ (up.net 7).msgs = [] ∧ (up.ctl 3).inRd = [] ∧ (up.ctl 3).inWr = [] ∧ (up.port 5).openW = none) ∧
    (let s := (withReq (req 0) id).onCtl 5 fun c => { c with inRd := [{ msg 5 5 with inp := 0 }, { msg 5 5 with inp := 1 }] }
     s.Wf ∧ s.portPhys 5 = 5 ∧ (s.ctl 5).inRd.find? (fun w => w.inp == 0 && w.port == 5) = some { msg 5 5 with inp := 0 } ∧
     (s.ctl 5).inRd.find? (fun w => w.inp == 1) = some { msg 5 5 with inp := 1 } ∧
     s.reqOf 5 1 = some (req 0) ∧ (req 0).answered = false ∧ (req 0).remote = false) ∧
    ((openOn id).Wf ∧ ((openOn id).port 5).openW ≠ none ∧ (openOn id).portPhys 5 < 136) := by
  have w0 := withReq_wf (req 0) id (Nat.le_refl _) (fun _ => rfl)
  have w1 := withReq_wf (req opWrite) id (Nat.le_refl _) (fun _ => rfl)
  exact ⟨⟨withReq_wf _ _ (Nat.le_refl _) (fun _ => rfl), by decide +kernel⟩, ⟨up_wf.onNet .., by decide +kernel⟩,
    ⟨w1.onNet .., by decide +kernel⟩, ⟨up_wf.onNet .., by decide +kernel⟩, ⟨up_wf.onNet .., msg 16 100, by decide +kernel⟩,
    ⟨w0.onNet .., msg 5 20, by decide +kernel⟩, ⟨up_wf, by decide +kernel⟩,
    ⟨w0.onCtl _ _ (by decide +kernel) (by decide +kernel), by decide +kernel⟩, withReq_wf _ _ (Nat.le_refl _) (fun _ => rfl), by decide +kernel⟩
/-! ### Channel controllers: witnesses -/

/-- Channel 3 changed. -/
def onC (f : Ctl → Ctl) : State := up.onCtl 3 f

theorem onC_wf (f : Ctl → Ctl) (h : (smWf {} (f (up.ctl 3)).banks && smWf 0 (f (up.ctl 3)).fresh) = true) : (onC f).Wf := by
  simp only [Bool.and_eq_true] at h
  exact up_wf.onCtl 3 f h.1 h.2

/-- A read entry of a request of port 3. -/
def ent (off : Nat) : Entry :=
  { port := 3, uid := 1, tag := 9, cls := 2, req := 3, idx := 0, op := 0, off := off, ord := 0, enq := 0, data := 0, aged := false, inp := 0 }
/-- A bank with an open row. -/
def openBank : Bank := { st := .opn, row := 5, hits := 16, ordLast := 1 }

theorem witness_SchedulerCycle :
    (let s := onC fun c => { c with selfRef := true }; s.Wf ∧ s.canIssue 3 = false ∧ s.portAt 3 = some 3 ∧ s.portReset 3 = false) ∧
    (let s := onC fun c => { c with rdQ := [ent 0], banks := [(0, { openBank with row := 0, hits := 0 })], fresh := [(0, 1)], cyc := 100 }
     s.Wf ∧ s.canIssue 3 = true ∧ s.unarmed (.ctl 3) ∧ (s.sec (secOf 3)).sp ≠ .copy ∧ s.seq.range.busy = false ∧ (s.ctl 3).rdQ = [ent 0] ∧
     (s.ctl 3).wrQ = [] ∧ (s.ctl 3).comb = [] ∧ (s.ctl 3).fills = [] ∧ (s.ctl 3).inRd = [] ∧ (s.ctl 3).inWr = [] ∧ (s.ctl 3).ordRun = [] ∧
     s.rdReady 3 (ent 0) = true ∧ s.blackout 3 2 = false ∧ s.fresh 3 (ent 0).off = 1) := by
  refine ⟨⟨onC_wf _ (by decide +kernel), by decide +kernel⟩, onC_wf _ (by decide +kernel), by decide +kernel, unarmed_of (by decide +kernel), by decide +kernel⟩

/-- The block running with a tRCD of 20 ns. -/
def slow : State := { up with image := some { img with timing := [(1, 20000)] } }

theorem slow_wf : slow.Wf := up_wf.others (t := slow) rfl (Nat.le_refl _)

theorem witness_BankTimers :
    (∀ a : BankSt, let s := onC fun c => { c with banks := [(5, { st := a, row := 1 })] }
     s.Wf ∧ 5 < 16 * s.hides ∧ (s.ctl 3).frozen = false ∧ ((s.ctl 3).bk 5).st = a ∧ (a ≠ .opn → a ≠ .closed → s.bankPast 3 5 = true)) ∧
    (let s := slow.onCtl 3 fun c => { c with banks := [(5, { st := .opening, row := 1, tAct := 101 })], cyc := 100 }
     s.Wf ∧ (s.ctl 3).frozen = false ∧ ((s.ctl 3).bk 5).st = .opening ∧ s.bankPast 3 5 = false) ∧
    (let s := onC fun c => { c with banks := [(0, openBank)], rdQ := [ent 0] }
     s.Wf ∧ (s.ctl 3).frozen = false ∧ ((s.ctl 3).bk 0).st = .opn ∧ 16 ≤ ((s.ctl 3).bk 0).hits ∧ ent 0 ∈ (s.ctl 3).rdQ ++ (s.ctl 3).wrQ ∧
     (ent 0).ord < ((s.ctl 3).bk 0).ordLast ∧ (s.place 3 (ent 0).off).key = 0 ∧ (s.place 3 (ent 0).off).row ≠ ((s.ctl 3).bk 0).row) ∧
    (let s := onC fun c => { c with banks := [(0, { openBank with tRd := 69, tWr := 1, tAct := 1 })], cyc := 100 }
     s.Wf ∧ s.rowFree 3 = true ∧ s.preOk 3 0 = true ∧ s.rowWanted 3 0 = false ∧
     ∀ n ∈ [((s.ctl 3).bk 0).tRd, ((s.ctl 3).bk 0).tWr, ((s.ctl 3).bk 0).tAct], since (s.ctl 3).cyc n 32 = true) := by
  refine ⟨fun a => ?_, ⟨slow_wf.onCtl _ _ (by decide +kernel) (by decide +kernel), by decide +kernel⟩, ⟨onC_wf _ (by decide +kernel), by decide +kernel⟩,
    onC_wf _ (by decide +kernel), by decide +kernel⟩
  cases a <;> exact ⟨onC_wf _ (by decide +kernel), by decide +kernel⟩

/-- A tier-4 read that waits. -/
def tier4 : Work :=
  { port := 3, uid := 1, tag := 9, cls := 15, req := 0x190, op := 0, arg := 0, lch := 3, off := 0, idx := 0, n := 1, data := [], be := 0, inp := 4,
    first := 0 }

theorem witness_ChannelTimers :
    (let s := onC fun c => { c with rdQ := [ent 0], wrQ := [ent 64, ent 128] }
     s.Wf ∧ (s.ctl 3).frozen = false ∧ (s.ctl 3).wrQ[1]? = some (ent 128) ∧ (s.ctl 3).rdQ[0]? = some (ent 0)) ∧
    (let s := onC fun c => { c with inRd := [tier4], inWr := [tier4] }
     s.Wf ∧ (s.ctl 3).inRd[0]? = some tier4 ∧ (s.ctl 3).inWr[0]? = some tier4 ∧ 4 ≤ tier4.inp) ∧
    (let s := up.onCur 135 fun c => { c with trr := [⟨0, 0, 7, false, 600, false⟩] }
     s.Wf ∧ (s.cur 135).trr[0]? = some ⟨0, 0, 7, false, 600, false⟩ ∧ (s.ctl 135).frozen = false) ∧
    (let s := onC fun c => { c with frozen := true }; s.Wf ∧ (s.ctl 3).frozen = true) ∧
    (up.Wf ∧ up.img.policy.pdIdle ≠ 0 ∧ 7 < up.hides ∧ up.rowFree 3 = true ∧ (up.ctl 3).pd.getLsbD 7 = false ∧
      (∀ b < 16, ((up.ctl 3).bk (16 * 7 + b)).st = .closed) ∧
      since (up.ctl 3).cyc (smGet 0 (up.ctl 3).hideIdle 7) up.img.policy.pdIdle = true ∧
      (up.ctl 3).rdQ ++ (up.ctl 3).wrQ ++ (up.ctl 3).running.map Fill.entry = []) ∧
    (∀ k ∈ [0, 256], let s := onC fun c => { c with fills := [{ gran := 2, k := k }] }
     s.Wf ∧ s.canIssue 3 = true ∧ ((s.ctl 3).fills.take 4).find? (fun f => f.gran == 2) = some { gran := 2, k := k }) ∧
    (let e : Comb := { off := 64, val := some 5, pend := [], ord := 0, last := 0 }
     let s := onC fun c => { c with comb := [e] }
     s.Wf ∧ s.canIssue 3 = true ∧ s.backOk 3 = true ∧ (s.ctl 3).comb[0]? = some e ∧
     (s.ctl 3).comb.find? (fun f => f.off == e.off) = some e ∧ e.val = some 5 ∧ e.pend = []) := by
  refine ⟨⟨onC_wf _ (by decide +kernel), by decide +kernel⟩, ⟨onC_wf _ (by decide +kernel), by decide +kernel⟩,
   ⟨up_wf.onCur _ _ (by decide +kernel), by decide +kernel⟩, ⟨onC_wf _ (by decide +kernel), by decide +kernel⟩, ⟨up_wf, by decide +kernel⟩,
   fun k hk => ?_, ⟨onC_wf _ (by decide +kernel), by decide +kernel⟩⟩
  simp only [List.mem_cons, List.not_mem_nil, or_false] at hk
  rcases hk with rfl | rfl <;> exact ⟨onC_wf _ (by decide +kernel), by decide +kernel⟩

/-- A waiting contribution of port 3 and its open group. -/
def ctb : Contrib := { port := 3, uid := 1, tag := 9, req := 3, ord := 0, enq := 0, idx := 1, cls := 2, off := 0, blocks := [0] }
/-- The group. -/
def grp1 : OGroup := { key := 0, len := 0, count := 3, fmt := 0, next := 0, waiting := [ctb] }
/-- Its request. -/
def ordReq : Req := { tag := 9, uid := 1, op := opOrd, cls := 2, len := 0, arg := 0x030100, lch := 3, taken := 1, closed := true }

/-- Port 3 with one request, and channel 3 changed. -/
def withOne (r : Req) (f : Ctl → Ctl) : State := (({ up with uid := 1 } : State).onPort 3 fun p => { p with tags := [r] }).onCtl 3 f

theorem withOne_wf (r : Req) (f : Ctl → Ctl) (hr : r.uid ≤ 1)
    (h : (smWf {} (f (up.ctl 3)).banks && smWf 0 (f (up.ctl 3)).fresh) = true) : (withOne r f).Wf := by
  simp only [Bool.and_eq_true] at h
  exact (State.Wf.onPort (up_wf.others (t := { up with uid := 1 }) rfl (Nat.zero_le _)) 3 _ (by
    intro q hq
    rw [show q = r by simpa using hq]; exact hr)).onCtl 3 f h.1 h.2

theorem witness_ChannelFaults :
    (let s := onC fun c => { c with rdQ := [ent 0] }
     s.Wf ∧ s.canIssue 3 = true ∧ s.unarmed (.ctl 3) ∧ ¬ ((s.ctl 3).rdQ = [] ∧ (s.ctl 3).wrQ = [])) ∧
    (7 < up.hides ∧ up.chFenced 135 = false ∧ (up.ctl 135).unpowered = false ∧ up.unarmed (.ctl 135)) ∧
    ((127 : BitVec 9).toNat < 128 ∧ 128 ≤ (0x1A3 : BitVec 9).toNat) ∧
    (let s := withOne ordReq fun c => { c with groups := [grp1] }
     s.Wf ∧ (s.ctl 3).groups[0]? = some grp1 ∧ grp1.waiting = [ctb] ∧ (s.ctl 3).frozen = false ∧ (s.ctl 3).ordRun = [] ∧ (s.ctl 3).ordWait = [] ∧
     s.reqOf ctb.port ctb.uid = some ordReq ∧ ordReq.answered = false ∧ ordReq.remote = false ∧ onData ordReq.op ordReq.arg = false) :=
  ⟨⟨onC_wf _ (by decide +kernel), by decide +kernel, unarmed_of (by decide +kernel), by decide +kernel⟩,
   ⟨by decide +kernel, by decide +kernel, by decide +kernel, unarmed_of (by decide +kernel)⟩, by decide,
   withOne_wf _ _ (by decide) (by decide +kernel), by decide +kernel⟩

/-- A read of port 3 in flight. -/
def rdReq : Req := { tag := 9, uid := 1, op := 0, cls := 2, len := 0, lch := 3, taken := 1, closed := true }
/-- Its state, with the block's data. -/
def flying : State := withOne rdReq fun c => { c with flight := [ent 0], fresh := [(0, 1)] }

theorem flying_wf : flying.Wf := withOne_wf _ _ (by decide) (by decide +kernel)

theorem witness_BurstReturns :
    (flying.Wf ∧ (flying.ctl 3).frozen = false ∧ flying.unarmed (.ctl 3) ∧ (flying.ctl 3).flight = [ent 0] ∧ flying.isLent 3 (ent 0).off = false ∧
      (ent 0).op = 0 ∧ (ent 0).inp < 4 ∧ (ent 0).ue = false ∧ (ent 0).port < 128 ∧ (ent 0).slots = [] ∧ flying.reqOf 3 1 = some rdReq ∧
      rdReq.got = [] ∧ rdReq.sent = (ent 0).idx ∧ rdReq.answered = false ∧ rdReq.remote = false ∧ rdReq.poison = false) ∧
    (∀ errs ∈ ([[(0, 1)], [(1, 255), (35, 7), (71, 128)], [(0, 1), (1, 255), (35, 7), (71, 128)], [(0, 1), (1, 255), (2, 3), (35, 7), (71, 128)]] : List SymErrs),
      (flying.link 3).erased = [] ∧ 1 ≤ errs.length ∧ errs.length ≤ 5 ∧ (errs.map (·.1)).Nodup ∧ (∀ x ∈ errs, x.1 < 72 ∧ x.2 ≠ 0) ∧
      (flying.ctl 3).ueRun = [] ∧ flying.superseded 3 (ent 0) = false) ∧
    ((up.ctl 3).frozen = false ∧ up.unarmed (.ctl 3) ∧ (up.ctl 3).flight = [] ∧ (up.link 3).st ≠ .off ∧ up.chFenced 3 = false) ∧
    (let c : Coal := ⟨0, 0, 0, 0, 0, 3, 0, 1, 1, 1, [4]⟩
     let s := onC fun k => { k with coal := [c] }; s.Wf ∧ (s.ctl 3).coal[0]? = some c ∧ s.mgmt.elog.length < 960) :=
  ⟨⟨flying_wf, by decide +kernel, unarmed_of (by decide +kernel), by decide +kernel⟩, by decide +kernel,
   ⟨by decide +kernel, unarmed_of (by decide +kernel), by decide +kernel⟩, onC_wf _ (by decide +kernel), by decide +kernel⟩

theorem witness_Regulation : up.Wf ∧ up.isRunning = true := ⟨up_wf, by decide +kernel⟩
/-! ### Sparing, links, refresh and sensors: witnesses -/

/-- Sector 2 changed. -/
def onS (f : Sector → Sector) : State := up.onSec 2 f
/-- The link of channel 3 changed. -/
def onL (f : Link → Link) : State := up.onLink 3 f
/-- The Currier slice of channel 3 changed. -/
def onK (f : Cur → Cur) : State := up.onCur 3 f

theorem witness_MigrationCommands :
    (up.Wf ∧ up.mgReady (.sector 2) ∧ bitN (0x5A00001F : Word).toNat 4 = true ∧ bitN (0x5A00001F : Word).toNat 5 = false ∧
      keyed 0x5A00001F = true ∧ (up.sec 2).sp = .standby ∧ (up.sec 2).fenced.getLsbD (fld 0x5A00001F 0 4) = false ∧
      (up.sec 2).hole.getLsbD (fld 0x5A00001F 0 4) = false ∧ up.borrower 2 = none) ∧
    (let s := onS fun e => { e with sp := .copy, pos := 15 }
     s.Wf ∧ s.mgReady (.sector 2) ∧ bitN (0x5A000020 : Word).toNat 4 = false ∧ bitN (0x5A000020 : Word).toNat 5 = true ∧ keyed 0x5A000020 = true ∧
     (s.sec 2).sp = .copy ∧ (s.ctl (17 * 2 + (s.sec 2).pos.toNat)).wrQ = []) ∧
    (let s := onS fun e => { e with fenced := 0x8000 }
     s.Wf ∧ s.mgReady (.sector 2) ∧ (s.sec 2).sp = .standby ∧ (s.sec 2).fenced.getLsbD (fld 0x5A00001F 0 4) = true) ∧
    (bitN (0x5A000030 : Word).toNat 4 && bitN (0x5A000030 : Word).toNat 5) = true ∧
    ((bitN (0x10 : Word).toNat 4 || bitN (0x10 : Word).toNat 5) = true ∧ keyed 0x10 = false) :=
  ⟨⟨up_wf, ready_of (by decide +kernel), by decide +kernel⟩, ⟨up_wf.onSec .., ready_of (by decide +kernel), by decide +kernel⟩,
   ⟨up_wf.onSec .., ready_of (by decide +kernel), by decide +kernel⟩, by decide +kernel⟩

theorem witness_MigrationEnds :
    (∀ at_ ∈ [0, up.grans], let s := onS fun e => { e with sp := .copy, pos := 15, copyAt := at_ }
     s.Wf ∧ (s.sec 2).sp = .copy ∧ ((s.sec 2).copyAt < s.grans ↔ at_ = 0) ∧ s.ctlQuiet (17 * 2 + (s.sec 2).pos.toNat) = false ∧
     s.ctlQuiet (spareOf 2) = false ∧ (s.ctl (17 * 2 + (s.sec 2).pos.toNat)).wrQ = [] ∧ s.portOf (16 * 2 + (s.sec 2).pos.toNat) = some 47) ∧
    (let s := onS fun e => { e with sp := .flip, pos := 15 }
     s.Wf ∧ (s.sec 2).sp = .flip ∧ s.flipDrained (17 * 2 + (s.sec 2).pos.toNat) = true ∧ (s.sec 2).fenced.getLsbD (s.sec 2).pos.toNat = false ∧
     (s.awl (17 * 2 + (s.sec 2).pos.toNat)).carriedBy = none) := by
  refine ⟨fun k hk => ?_, up_wf.onSec .., by decide +kernel⟩
  have : ∀ k ∈ [0, up.grans], (let s := onS fun e => { e with sp := .copy, pos := 15, copyAt := k }
     (s.sec 2).sp = .copy ∧ ((s.sec 2).copyAt < s.grans ↔ k = 0) ∧ s.ctlQuiet (17 * 2 + (s.sec 2).pos.toNat) = false ∧
     s.ctlQuiet (spareOf 2) = false ∧ (s.ctl (17 * 2 + (s.sec 2).pos.toNat)).wrQ = [] ∧ s.portOf (16 * 2 + (s.sec 2).pos.toNat) = some 47) := by
    decide +kernel
  exact ⟨up_wf.onSec .., this k hk⟩

/-- Group g of the link of channel 3 in a state. -/
def grpIs (i : Nat) (g : Grp) : State := onL fun l => { l with grps := upd l.grps i fun _ => g }

theorem witness_Calibration :
    (let s := grpIs 8 { st := .cal, sweep := true, c := 3 }
     s.Wf ∧ grpOk 0 8 = true ∧ s.calOn 3 = true ∧ s.unarmed (.link 3) ∧ ((s.link 3).grp (grpIx 0 8)).st = .cal ∧
     ((s.link 3).grp (grpIx 0 8)).rot = none ∧ ((s.link 3).grp (grpIx 0 8)).sweep = true ∧ ((s.link 3).grp (grpIx 0 8)).tries = [] ∧
     phaseDist (-8) ((s.link 3).lane (laneKey 0 8 ((s.link 3).grp (grpIx 0 8)).c)).phase.toNat ≤ 8) ∧
    (let s := grpIs 19 { st := .cal, c := 12 }
     s.Wf ∧ grpOk 2 1 = true ∧ s.calOn 3 = true ∧ ((s.link 3).grp (grpIx 2 1)).st = .cal ∧ ((s.link 3).grp (grpIx 2 1)).rot = none) ∧
    (let s := grpIs 0 { st := .wait, c := 0 }; s.Wf ∧ s.calOn 3 = true ∧ ((s.link 3).grp (grpIx 0 0)).st = .wait) ∧
    (let s := grpIs 9 { st := .step, c := 16 }
     s.Wf ∧ grpOk 1 0 = true ∧ s.calOn 3 = true ∧ s.linkQuiet 3 = false ∧ s.rowFree 3 = true ∧ ((s.link 3).grp (grpIx 1 0)).st = .step ∧
     ((s.link 3).grp (grpIx 1 0)).rot = none ∧ since (s.ctl 3).cyc ((s.link 3).stepT.getD (stepKey 1 0) 0) (stepGap 1) = true) ∧
    (let s := onL fun l => { l with stepT := [1, 1, 1, 1], sweepT := 1 }
     s.Wf ∧ grpOk 2 1 = true ∧ since (s.ctl 3).cyc ((s.link 3).stepT.getD (stepKey 2 1) 0) (stepGap 2) = false ∧
     since (s.ctl 3).cyc (s.link 3).sweepT cycMs = false) ∧
    (∀ k ∈ [0, 40], let s := grpIs 9 { st := .cal, c := 16, rot := some (15, k) }
     s.Wf ∧ ((s.link 3).grp (grpIx 1 0)).rot = some (15, k)) ∧
    (up.Wf ∧ up.calOn 135 = true ∧ since (up.ctl 135).cyc (up.link 135).sweepT cycMs = true) ∧
    (let s := (grpIs 9 { st := .cal, c := 16, rot := some (15, 40) }).onCtl 3 fun c => { c with cyc := 48 }
     s.Wf ∧ ((s.link 3).grp (grpIx 1 0)).rot = some (15, 40) ∧ 40 + 8 ≤ (s.ctl 3).cyc) := by
  refine ⟨⟨up_wf.onLink _ _ (by decide +kernel), by decide +kernel, by decide +kernel, unarmed_of (by decide +kernel), by decide +kernel⟩,
   ⟨up_wf.onLink _ _ (by decide +kernel), by decide +kernel⟩, ⟨up_wf.onLink _ _ (by decide +kernel), by decide +kernel⟩,
   ⟨up_wf.onLink _ _ (by decide +kernel), by decide +kernel⟩, ⟨up_wf.onLink _ _ (by decide +kernel), by decide +kernel⟩, fun k hk => ?_,
   ⟨up_wf, by decide +kernel⟩,
   State.Wf.onCtl (up_wf.onLink _ _ (by decide +kernel)) _ _ (by decide +kernel) (by decide +kernel), by decide +kernel⟩
  simp only [List.mem_cons, List.not_mem_nil, or_false] at hk
  rcases hk with rfl | rfl <;> exact ⟨up_wf.onLink _ _ (by decide +kernel), by decide +kernel⟩

/-- A slice of the read groups' only parked group, 8, at position 16: every other position tested, position 15 failing on one side. -/
def sliceRes : List TrackRes := (List.range 16).map fun p => { group := 8, pos := p, lowFail := p == 15, highFail := false }

/-- The results of a retraining that found every eye. -/
def goodTrain : TrainRes := { fails := [], noEye := false, badVerify := false, trims := [], strobes := List.replicate 144 9 }

theorem witness_TrackingAndRetrain :
    (let s := grpIs 8 { st := .parked, parked := true, c := 16 }
     let r : TrackRes := { group := 8, pos := 15, lowFail := true, highFail := false }
     s.Wf ∧ s.calOn 3 = true ∧ s.linkQuiet 3 = false ∧ s.canIssue 3 = true ∧ s.sliceOk 3 = true ∧ (s.link 3).covers 0 sliceRes = true ∧
     s.unarmed (.link 3) ∧ (∀ r ∈ sliceRes, (r.lowFail && r.highFail) = false) ∧
     since (s.ctl 3).cyc ((s.link 3).sliceT.getD 0 0) cycMs = true ∧ (s.link 3).tracked 0 r.group = true ∧ r.pos ≤ lastPos 0 ∧
     r.pos ≠ ((s.link 3).grp (grpIx 0 r.group)).c ∧ sliceRes.filter (fun q => q.group == r.group && q.pos == r.pos) = [r]) ∧
    (up.Wf ∧ lposOk ⟨2, 1, 11⟩ = true ∧ up.calOn 135 = true ∧ (up.link 135).st = .running ∧ (up.link 135).rtRun = false ∧
      11 ≠ ((up.link 135).grp (grpIx 2 1)).c ∧ up.unarmed (.link 135) ∧ (up.fr (.link 135)).mask = 0 ∧ (up.fr (.link 135)).st ≠ .resetting) ∧
    (up.mgReady (.link 3) ∧ bitN (0x5A000001 : Word).toNat 0 = true ∧ keyed 0x5A000001 = true ∧ up.calOn 3 = true ∧ (up.link 3).rtRun = false) ∧
    (∀ t ∈ [0, 1], let s := onL fun l => { l with rtRun := true, st := .retrain, rtT := t }
     s.Wf ∧ s.mgReady (.link 3) ∧ (s.link 3).rtRun = true ∧ (s.link 3).rtSlice = false ∧ (s.link 3).st = .retrain ∧ s.canIssue 3 = true ∧
     s.sliceOk 3 = true ∧ s.portAt 3 = some 3 ∧ since (s.ctl 3).cyc (s.link 3).rtT 32000 = decide (t = 0)) ∧
    (let s := onL fun l => { l with rtRun := true, rtSlice := true, st := .retrain }
     s.Wf ∧ (s.link 3).rtSlice = true ∧ s.portAt 3 = some 3 ∧ (s.link 3).rtDone + 1 ≠ 0 ∧ s.unarmed (.link 3) ∧ (s.link 3).st = .retrain ∧
     (s.link 3).staleAt = [] ∧ goodTrain.noEye = false ∧ goodTrain.fails = [] ∧ goodTrain.trims = []) ∧
    (let s := onL fun l => { l with st := .halted }
     s.Wf ∧ (s.link 3).st = .halted ∧ (s.ctl 3).frozen = false ∧ s.chFenced 3 = false ∧ (s.ctl 3).selfRef = false ∧ s.linkQuiet 3 = false ∧
     s.seq.bist.phase = 0) := by
  refine ⟨⟨up_wf.onLink _ _ (by decide +kernel), by decide +kernel, by decide +kernel, by decide +kernel, by decide +kernel, by decide +kernel,
    unarmed_of (by decide +kernel), by decide +kernel⟩,
   ⟨up_wf, by decide, by decide +kernel, by decide +kernel, by decide +kernel, by decide +kernel, unarmed_of (by decide +kernel), by decide +kernel⟩,
   ⟨ready_of (by decide +kernel), by decide +kernel⟩, fun t ht => ?_,
   ⟨up_wf.onLink _ _ (by decide +kernel), by decide +kernel, by decide +kernel, by decide +kernel, unarmed_of (by decide +kernel), by decide +kernel⟩,
   up_wf.onLink _ _ (by decide +kernel), by decide +kernel⟩
  simp only [List.mem_cons, List.not_mem_nil, or_false] at ht
  rcases ht with rfl | rfl <;> exact ⟨up_wf.onLink _ _ (by decide +kernel), ready_of (by decide +kernel), by decide +kernel⟩

/-- The block running in a lifecycle state. -/
def upLc (lc : BitVec 3) : State := { up with boot := { phase := 0xA, lcState := lc } }

/-- A sideband transaction of a driver at Hide 7 of channel 3. -/
def asking (op : BitVec 4) (addr : Byte) (tries : Nat) : State :=
  onL fun l => { l with sbBusy := true, sbTries := tries, sbOp := op, sbHide := 7, sbAddr := addr, sbData := 0x1234 }

theorem asking_wf (op addr tries) : (asking op addr tries).Wf :=
  up_wf.onLink _ _ ((by decide +kernel : (up.link 3).grps.length = 20 ∧ smWf {} (up.link 3).lanes = true))

/-- What a response to the transaction rests on. -/
def askOk (op : BitVec 4) (addr : Byte) : Bool :=
  let s := asking op addr 0
  (s.fr (.link 3)).inj == 0 && (s.link 3).sbBusy && (s.link 3).sbTries == 0 && (s.link 3).sbOp == op && (s.link 3).sbHide.toNat == 7 &&
  (s.link 3).sbAddr == addr && 7 < s.hides

/-- The Hide's frame on the line, its request damaged by reqErr. -/
def response (s : State) (reqErr : BitVec 44) : Option (BitVec 44) :=
  (s.link 3).sbWire.bind fun f => (s.hideAnswers 3 (f ^^^ reqErr) 0).1

theorem witness_Sideband :
    ((upLc 1).Wf ∧ (upLc 1).mgReady (.link 3) ∧ (upLc 1).has 4 = true ∧ ((upLc 1).link 3).sbBusy = false ∧ fld 0x1234031 0 4 ≠ 0) ∧
    ((upLc 3).mgReady (.link 3) ∧ (upLc 3).has 4 = false) ∧
    (∀ op addr, (asking op addr 0).Wf) ∧
    ((askOk 0 0 && askOk 1 0x10 && askOk 1 3 && askOk 1 0xFF && askOk 2 0x10 && askOk 2 0x15 && askOk 3 0 && askOk 4 0 && askOk 5 0 &&
      askOk 15 0) = true) ∧
    (mrReads 0x10 = true ∧ mrReads 0xFF = false ∧ mrWrites 0x10 = true ∧ mrWrites 0x15 = false ∧ mrClears 0x10 = false) ∧
    ((response (asking 1 0x10 0) 0).any (fun r => !sbGood 0x5 (r ^^^ 1)) = true ∧
      (response (asking 1 0x10 0) 1).any (fun r => bits (sbPayload r) 28 4 == 1) = true ∧
      ((asking 1 0x10 0).link 3).sbWire.any (fun f => bits (f ^^^ (1#44 <<< 40)).toNat 40 4 != 0xA) = true) ∧
    (let s := asking 4 0 3; s.Wf ∧ (s.link 3).sbBusy = true ∧ 3 ≤ (s.link 3).sbTries ∧ s.unarmed (.link 3)) :=
  ⟨⟨up_wf.others rfl (Nat.le_refl _), ready_of (by decide +kernel), by decide +kernel⟩, ⟨ready_of (by decide +kernel), by decide +kernel⟩,
   fun _ _ => asking_wf .., by decide +kernel, by decide +kernel, by decide +kernel, asking_wf .., by decide +kernel, by decide +kernel, unarmed_of (by decide +kernel)⟩

theorem witness_Refresh :
    (up.Wf ∧ 127 < 16 * up.hides ∧ up.curOn 135 = true ∧ (up.ctl 135).lent.contains 127 = false ∧ (smGet {} (up.cur 135).bank 127).count < 8) ∧
    8 ≤ (smGet {} ((onK fun c => { c with bank := [(5, { count := 8 })] }).cur 3).bank 5).count ∧
    (let s := onK fun c => { c with bank := [(5, { pos := 6176 })], fall := [some 0] ++ List.replicate 7 none }
     s.Wf ∧ Config.roundRefs ≤ (smGet {} (s.cur 3).bank 5).pos ∧ (s.cur 3).fall.getD (5 / 16) none = some 0) ∧
    (smGet {} (up.cur 3).bank 5).pos < Config.roundRefs ∧
    (let w : Weak := ⟨7, 15, 100, 2, true, 0⟩
     ∀ k ∈ [1543, 1544], let s := onK fun c => { c with weak := [w], bank := [(127, { pos := k })] }
     s.Wf ∧ (s.cur 3).weak[0]? = some w ∧ w.dueAt = some 1544 ∧ 16 * w.hide + w.bank < 16 * s.hides ∧ s.curOn 3 = true ∧
     (s.ctl 3).lent.contains (16 * w.hide + w.bank) = false ∧ (smGet {} (s.cur 3).bank (16 * w.hide + w.bank)).count < 8 ∧
     (smGet {} (s.cur 3).bank (16 * w.hide + w.bank)).pos = k) := by
  refine ⟨⟨up_wf, by decide +kernel⟩, by decide +kernel, ⟨up_wf.onCur _ _ (by decide +kernel), by decide +kernel⟩, by decide +kernel,
   fun k hk => ?_⟩
  simp only [List.mem_cons, List.not_mem_nil, or_false] at hk
  rcases hk with rfl | rfl <;> exact ⟨up_wf.onCur _ _ (by decide +kernel), by decide +kernel⟩

/-- Sensor constants of every Hide at channel 3. -/
def sensing : State := onK fun c => { c with temp := List.replicate 8 { kLo := 1000, kHi := 2000 } }

/-- The same with a sideband read of Hide 7's sensor waiting. -/
def sensAsked : State := sensing.onLink 3 fun l => { l with sbQ := [7] }

theorem witness_Sensors :
    (up.Wf ∧ up.sensed 135 = true ∧ (up.link 135).st ≠ .training ∧ (up.ctl 135).selfRef = false ∧ (up.ctl 135).pd.getLsbD 7 = false ∧
      (up.link 135).sbQ = []) ∧
    (let s := onC fun c => { c with selfRef := true }; s.Wf ∧ s.sensed 3 = true ∧ (s.ctl 3).selfRef = true ∧ (s.cur 3).sensReq = []) ∧
    (sensAsked.Wf ∧ 7 < sensAsked.hides ∧ sensAsked.sensed 3 = true ∧ sensAsked.unarmed (.link 3) ∧ sensAsked.unarmed (.currier 3) ∧
      7 ∈ (sensAsked.link 3).sbQ ∧ (sensAsked.link 3).sensTries = 0 ∧ ((sensAsked.cur 3).temp.getD 7 {}).bad = false ∧
      -80 ≤ tempOf 1000 2000 1000 ∧ tempOf 1000 2000 1000 ≤ 600) ∧
    (sensing.Wf ∧ sensing.sensed 3 = true ∧ sensing.isRunning = true ∧ sensing.unarmed (.currier 3) ∧
      ((sensing.cur 3).temp.getD 0 {}).t - 20 ≤ sensing.dieSlope * 90 + sensing.dieIcpt - (sensing.cur 3).dieOfs) :=
  ⟨⟨up_wf, by decide +kernel⟩, ⟨onC_wf _ (by decide +kernel), by decide +kernel⟩,
   ⟨State.Wf.onLink (up_wf.onCur _ _ (by decide +kernel)) _ _ (by decide +kernel), by decide +kernel, by decide +kernel, unarmed_of (by decide +kernel),
    unarmed_of (by decide +kernel), by decide +kernel⟩, up_wf.onCur _ _ (by decide +kernel), by decide +kernel, by decide +kernel,
    unarmed_of (by decide +kernel), by decide +kernel⟩

/-- A profiling pass of bank 0 of Hide 0 at channel 3. -/
def profiling (step blk : Nat) (weak : List Weak) (hits : List (Nat × Bool)) : State :=
  onK fun c => { c with profStep := step, profAt := blk, weak := weak, profHits := hits }

theorem profiling_wf (step blk weak hits) : (profiling step blk weak hits).Wf :=
  up_wf.onCur _ _ ((by decide +kernel : (up.cur 3).rate.length = 8 ∧ (up.cur 3).below.length = 8 ∧ (up.cur 3).fall.length = 8 ∧
    (up.cur 3).temp.length = 8 ∧ smWf {} (up.cur 3).bank = true))

theorem witness_ProfilingAndPatrol :
    (∀ k ∈ [0, 1, 2, 3], ∀ a ∈ [0, bankBlocks], let s := profiling k a [⟨0, 0, 9, 1, false, 0⟩] [(7, false)]
      s.curOn 3 = true ∧ s.curQuiet 3 = false ∧ (s.ctl 3).lent.contains (16 * (s.cur 3).profHide + (s.cur 3).profBank) = false ∧
      (s.cur 3).profStep = k ∧ (s.cur 3).profAt = a ∧ (s.ctl 3).asks profPort = false ∧ (s.fr (.currier 3)).inj = 0 ∧
      ((s.cur 3).temp.getD (s.cur 3).profHide {}).t ≤ 4 * (s.img.policy.warm : Int) - 40 ∧
      (s.cur 3).rateOf (16 * (s.cur 3).profHide + (s.cur 3).profBank) = 0 ∧ (s.cur 3).weak.length + (s.cur 3).weakRows.length ≤ 512) ∧
    (let s := (profiling 2 0 [] []).onCtl 3 fun c => { c with lent := [0] }
     s.Wf ∧ s.curOn 3 = true ∧ s.curQuiet 3 = false ∧ (s.ctl 3).lent.contains (16 * (s.cur 3).profHide + (s.cur 3).profBank) = true ∧
     (s.cur 3).profStep ≠ 0) ∧
    (let s := profiling 0 0 [⟨0, 0, 9, 1, true, 0⟩, ⟨0, 0, 10, 2, false, 0⟩] []
     s.Wf ∧ (∃ e ∈ (s.cur 3).weak, e.found = true) ∧ ∃ e ∈ (s.cur 3).weak, e.found = false ∧ 2 ≤ e.bin) ∧
    (let s := onC fun c => { c with patrolOn := true, fresh := [(7, 1)] }
     s.Wf ∧ (s.ctl 3).patrolOn = true ∧ s.canIssue 3 = true ∧ s.lchOf 3 ≠ none ∧ s.curQuiet 3 = false ∧ (s.ctl 3).fresh = (7, 1) :: [] ∧
     (s.ctl 3).ptPos ≤ 7) :=
  ⟨by decide +kernel, ⟨State.Wf.onCtl (profiling_wf ..) _ _ (by decide +kernel) (by decide +kernel), by decide +kernel⟩,
   ⟨profiling_wf .., by decide +kernel⟩, onC_wf _ (by decide +kernel), by decide +kernel⟩
/-! ### Heat, safe state, data integrity: witnesses -/

/-- Hide 7 of channel 3 read at a temperature in 0.25 °C. -/
def hot (t : Int) : State :=
  onK fun c => { c with temp := upd c.temp 7 fun k => { k with t := t, valid := true, kLo := 1000, kHi := 2000 } }
/-- The same with the channel's count of critical readings at one. -/
def hotTwice : State :=
  onK fun c => { c with temp := upd c.temp 7 fun k => { k with t := 400, valid := true, kLo := 1000, kHi := 2000 }, crit := 1 }
/-- The block in a thermal state. -/
def therm (t : Therm) : State := { up with seq := { therm := t, thermStop := t = .stopped } }

/-- A stop at which every driven channel is in self-refresh. -/
def asleep : State := { therm .stopping with ctls := List.replicate 136 { selfRef := true } }

theorem asleep_wf : asleep.Wf :=
  ⟨rfl, rfl, by decide +kernel, by decide +kernel, by decide +kernel, by decide +kernel, by decide +kernel, by decide +kernel,
   by decide +kernel, rfl, rfl, rfl, rfl, rfl, by decide, by decide +kernel, by decide +kernel, by decide +kernel, by decide +kernel,
   by decide +kernel, by decide +kernel, by decide +kernel, by decide +kernel, by decide +kernel⟩

/-- Hide 0 of channel 3 read below its die's reading, after a disagreement. -/
def dieHigher : State :=
  onK fun c => { c with temp := upd c.temp 0 fun k => { k with t := 300, valid := true, kLo := 1000, kHi := 2000 }, die := 425, dieValid := true, useMax := true }

theorem witness_ThermalGovernor :
    ((hot 350).Wf ∧ (hot 350).isRunning = true ∧ (hot 350).safe.on = false ∧ (hot 350).unarmed .currierSeq ∧ (hot 350).tmax = some (350, 7, 3) ∧
      (hot 350).seq.therm = .normal ∧ (hot 350).img.policy.warm ≤ (hot 350).img.policy.hot ∧ (∀ q < 136, (hot 350).critical q = false) ∧
      quarters (hot 350).img.policy.hot < 350) ∧
    ((hot 340).tmax = some (340, 7, 3) ∧ 340 ≤ quarters (hot 340).img.policy.hot ∧ quarters (hot 340).img.policy.warm < 340) ∧
    ((hot 300).tmax = some (300, 7, 3) ∧ 300 ≤ quarters (hot 300).img.policy.warm) ∧
    (hotTwice.Wf ∧ hotTwice.tmax = some (400, 7, 3) ∧ hotTwice.critical 3 = true ∧ 1 ≤ (hotTwice.cur 3).crit ∧ hotTwice.unarmed .currierSeq) ∧
    (asleep.Wf ∧ asleep.seq.therm = .stopping ∧ asleep.stopDry = true ∧ asleep.drives 3 = true) ∧
    ((therm .stopping).Wf ∧ (therm .stopping).seq.therm = .stopping ∧ (therm .stopping).stopDry = false) ∧
    (dieHigher.Wf ∧ dieHigher.sensed 3 = true ∧ dieHigher.hideReading 3 0 = some 425 ∧ (dieHigher.cur 3).useMax = true ∧
      (dieHigher.cur 3).dieValid = true ∧ quarters dieHigher.img.policy.emergency ≤ max (tempOf 1000 2000 1500) (dieHigher.cur 3).die ∧
      -80 ≤ tempOf 1000 2000 1500 ∧ tempOf 1000 2000 1500 ≤ 600) ∧
    ((hot 420).Wf ∧ (hot 420).sensed 3 = true ∧ (hot 420).hideReading 3 7 = some 420 ∧ (hot 420).isRunning = true ∧ (hot 420).safe.on = false ∧ (hot 420).seq.therm ≠ .emergency ∧ (hot 420).unarmed (.currier 3) ∧
      ((hot 420).cur 3).temp.getD 7 {} = { t := 420, valid := true, kLo := 1000, kHi := 2000 } ∧ quarters (hot 420).img.policy.emergency ≤ 420 ∧
      420 ≤ tempOf 1000 2000 2070 ∧ tempOf 1000 2000 2070 ≤ 600 ∧ tempOf 1000 2000 2069 < 420 ∧ -80 ≤ tempOf 1000 2000 2069) :=
  ⟨⟨up_wf.onCur _ _ (by decide +kernel), by decide +kernel, by decide +kernel, unarmed_of (by decide +kernel), by decide +kernel⟩,
   by decide +kernel, by decide +kernel,
   ⟨up_wf.onCur _ _ (by decide +kernel), by decide +kernel, by decide +kernel, by decide +kernel, unarmed_of (by decide +kernel)⟩,
   ⟨asleep_wf, by decide +kernel⟩, ⟨up_wf.others rfl (Nat.le_refl _), by decide +kernel⟩, ⟨up_wf.onCur _ _ (by decide +kernel), by decide +kernel⟩,
   ⟨up_wf.onCur _ _ (by decide +kernel), by decide +kernel, by decide +kernel, by decide +kernel, by decide +kernel, by decide +kernel,
    unarmed_of (by decide +kernel), by decide +kernel⟩⟩

theorem witness_SafeStateAndResume :
    (up.Wf ∧ (UnitId.ctl 135).ok = true ∧ up.safe.on = false) ∧
    (let s : State := { up with safe := { on := true } }; s.Wf ∧ s.safe.on = true) ∧
    ((therm .stopped).Wf ∧ (therm .stopped).mgReady .currierSeq ∧ (0x5A000001 : Word).getLsbD 0 = true ∧ keyed 0x5A000001 = true ∧
      (therm .stopped).seq.therm = .stopped ∧ (therm .stopped).coolEnough = true ∧ ∀ h ∈ (therm .stopped).hars, h.waitQ = []) ∧
    (up.mgReady .currierSeq ∧ (keyed 0x5A000001 && up.seq.therm == .stopped && up.coolEnough) = false) :=
  ⟨⟨up_wf, by decide +kernel⟩, ⟨up_wf.others rfl (Nat.le_refl _), rfl⟩, ⟨up_wf.others rfl (Nat.le_refl _), ready_of (by decide +kernel), by decide +kernel⟩,
   ready_of (by decide +kernel), by decide +kernel⟩

/-- A range operation over granule 1 of the private window, as port 0's tile would name it. -/
def ranging (r : RangeOp) : State := { up with seq := { range := r } }
/-- Its set-up. -/
def rg : RangeOp := { base := 0x4000, len := 256, recAddr := 0x10000 }

theorem witness_RangeAndErrorLog :
    ((ranging rg).mgReady .currierSeq ∧ fld 0x5A000001 0 2 ≠ 0 ∧ keyed 0x5A000001 = true ∧ (ranging rg).seq.range.busy = false ∧
      ((ranging rg).rangeShares (fld 0x5A000003 0 2) rg.base.toNat rg.len.toNat rg.recAddr.toNat (fld 0x5A000003 16 7)).isSome = true) ∧
    (ranging {}).rangeShares (fld 0x5A000003 0 2) 0 0 0 0 = none ∧
    (let s := ranging { rg with busy := true }
     s.mgReady .currierSeq ∧ fld 0x5A000010 0 2 = 0 ∧ bitN (0x5A000010 : Word).toNat 4 = true ∧ keyed 0x5A000010 = true ∧ s.seq.range.busy = true) ∧
    (let s := ranging { rg with busy := true, op := 2, shares := [{ lch := 0, pos := 4, stop := 4 }, { lch := 1, pos := 0, stop := 4, ended := true }] }
     s.Wf ∧ s.seq.range.busy = true ∧ s.sharesOver = true ∧ s.safe.on = false ∧ s.working ownSeq = false ∧
     s.decode s.seq.range.recAddr.toNat s.seq.range.origin.toNat = some (0, 0x10000) ∧ s.serving 0 = some 0 ∧ s.shutAt 0 = false ∧
     s.fresh 0 0x10000 ≠ 2 ∧ s.mirror 0 = none) ∧
    (ranging { rg with busy := true, shares := [{ lch := 0, pos := 3, stop := 4 }] }).skipShares.sharesOver = false ∧
    (let s : State := { up with mgmt := { elog := [[4], [5]], elogHead := 4, elogNext := 6 } }
     s.mgReady .mgmt ∧ s.Wf ∧ s.mgmt.elog[1]? = some [5] ∧ [5].headD 0 = (5 : Word) ∧ (5 : Word) ≠ s.mgmt.elogNext ∧
     (∀ j < 1, ∀ f, s.mgmt.elog[j]? = some f → f.headD 0 ≠ 5) ∧ (9 : Word) ≠ s.mgmt.elogNext ∧ ∀ e ∈ s.mgmt.elog, e.headD 0 ≠ 9) := by
  refine ⟨⟨ready_of (by decide +kernel), by decide +kernel⟩, by decide +kernel, ⟨ready_of (by decide +kernel), by decide +kernel⟩,
    ⟨up_wf.others rfl (Nat.le_refl _), by decide +kernel⟩, by decide +kernel, ready_of (by decide +kernel), up_wf.withMgmt _ (by decide), rfl, rfl, by decide, ?_, by decide, by decide⟩
  intro j hj f hf
  obtain rfl : j = 0 := by omega
  obtain rfl : ([4] : List Word) = f := by simpa using hf
  decide

/-- Row 100 of a bank named for retirement at channel 3. -/
def retiring : State := onC fun c => { c with retRow := 100, fresh := [(800, 1)] }

theorem witness_Retirement :
    (retiring.Wf ∧ retiring.mgReady (.ctl 3) ∧ fld 0x5A000041 0 2 = 1 ∧ keyed 0x5A000041 = true ∧ (retiring.ctl 3).retBusy = false ∧
      retiring.chFenced 3 = false ∧ nextSpare (retiring.ctl 3) (fld 0x5A000041 2 3) (fld 0x5A000041 5 4) = some 0 ∧
      (retiring.ctl 3).retRow.toNat < 12288 ∧ fld 0x5A000041 2 3 < retiring.hides ∧
      (retiring.ctl 3).lent.contains (16 * fld 0x5A000041 2 3 + fld 0x5A000041 5 4) = false ∧ retiring.retEntries.length < 8186 ∧ retiring.bad = []) ∧
    (let s := onC fun c => { c with remaps := (List.range 64).map fun i => ⟨0, 2, i, false, i⟩ }
     s.Wf ∧ s.mgReady (.ctl 3) ∧ nextSpare (s.ctl 3) (fld 0x5A000041 2 3) (fld 0x5A000041 5 4) = none) ∧
    (let s := up.onFr (.channel 3) fun f => { f with fenced := true }; s.Wf ∧ s.mgReady (.ctl 3) ∧ s.chFenced 3 = true) ∧
    (up.Wf ∧ up.mgReady (.ctl 3) ∧ fld 0x5A0001FE 0 2 = 2 ∧ keyed 0x5A0001FE = true ∧ posOf 3 ≠ 16 ∧ fld 0x5A0001FE 2 3 < up.hides ∧
      (up.sec (secOf 3)).sp = .standby ∧ (up.ctl 3).lent.contains (16 * fld 0x5A0001FE 2 3 + fld 0x5A0001FE 5 4) = false ∧
      (up.ctl 3).lent.length < 8 ∧ up.borrower (secOf 3) = none) ∧
    (let s := onC fun c => { c with retBusy := true, bankCopy := some 127 }; s.Wf ∧ (s.ctl 3).bankCopy = some 127 ∧ s.canIssue 3 = true ∧ s.bad = []) :=
  ⟨⟨up_wf.onCtl _ _ (by decide +kernel) (by decide +kernel), ready_of (by decide +kernel), by decide +kernel⟩,
   ⟨up_wf.onCtl _ _ (by decide +kernel) (by decide +kernel), ready_of (by decide +kernel), by decide +kernel⟩,
   ⟨up_wf.onFr .., ready_of (by decide +kernel), by decide +kernel⟩, ⟨up_wf, ready_of (by decide +kernel), by decide +kernel⟩,
   up_wf.onCtl _ _ (by decide +kernel) (by decide +kernel), by decide +kernel⟩

/-- With the witness of Retirement: the row's granule is written, and its last block is one of its 16. -/
theorem witness_RetirementKeepsData :
    retiring.fresh 3 (rowOffset retiring.hides (fld 0x5A000041 2 3) (fld 0x5A000041 5 4) (retiring.ctl 3).retRow.toNat) = 1 := by decide +kernel
/-! ### The Awls' instructions: words from the encoding tables, and witnesses -/

/-- R-type words (R371, R373). -/
def wordsR : List (Word × Instr) :=
  [(0x07FEE800, .aAdd 3 31 30 29), (0x07FEE801, .aSub 3 31 30 29), (0x07FEE802, .aAnd 3 31 30 29), (0x07FEE803, .aOr 3 31 30 29),
   (0x07FEE804, .aXor 3 31 30 29), (0x07FEE805, .aSll 3 31 30 29), (0x07FEE806, .aSrl 3 31 30 29), (0x07FEE807, .aSra 3 31 30 29),
   (0x07FEE808, .aSlt 3 31 30 29), (0x07FEE809, .aSltu 3 31 30 29), (0x07FEE80A, .aMul 3 31 30 29), (0x07FEE80B, .aDivu 3 31 30 29),
   (0x07FEE80C, .aRemu 3 31 30 29), (0x07FEE810, .aFadd 3 31 30 29), (0x07FEE811, .aFsub 3 31 30 29),
   (0x07FEE812, .aFmul 3 31 30 29), (0x07FEE813, .aFdiv 3 31 30 29), (0x07FEE814, .aFmin 3 31 30 29),
   (0x07FEE815, .aFmax 3 31 30 29), (0x07FEE816, .aFlt 3 31 30 29), (0x07FEE817, .aFeq 3 31 30 29)]

/-- The other arithmetic words (R371, R373). -/
def wordsI : List (Word × Instr) :=
  [(0x07FE0018, .aFtoi 3 31 30), (0x07FE0019, .aItof 3 31 30), (0x0BFE8000, .aAddi 3 31 30 0x8000),
   (0x0FFE8001, .aAndi 3 31 30 0x8001), (0x13FE8002, .aOri 3 31 30 0x8002), (0x17FE8003, .aXori 3 31 30 0x8003),
   (0x23FE8004, .aLsh 3 31 30 0x8004), (0x1BFE003F, .aShiSll 3 31 30 63), (0x1BFE007E, .aShiSrl 3 31 30 62),
   (0x1BFE00BD, .aShiSra 3 31 30 61), (0x1FE08005, .aLui 3 31 0x8005)]

/-- Scratch words, branches, jumps, state reads and SYS words (R371, R373, R374). -/
def wordsB : List (Word × Instr) :=
  [(0x27FE0004, .aLw 3 31 30 4), (0x2BFE0008, .aLd 3 31 30 8), (0x2FFE000C, .aSw 3 31 30 12), (0x33FE0010, .aSd 3 31 30 16),
   (0x43FE8000, .aBeq 3 31 30 0x8000), (0x47FE8001, .aBne 3 31 30 0x8001), (0x4BFE8002, .aBlt 3 31 30 0x8002),
   (0x4FFE8003, .aBge 3 31 30 0x8003), (0x53FE8004, .aBltu 3 31 30 0x8004), (0x57FE8005, .aBgeu 3 31 30 0x8005),
   (0x5BFFFFFE, .aJal 3 0x3FFFFFE), (0x5FFE0004, .aJalr 3 31 30 4), (0x7BE00000, .mfsCycle 3 31), (0x7BE00001, .mfsElapsed 3 31),
   (0x7BE00002, .mfsPhys 3 31), (0x7BE00003, .mfsGran 3 31), (0x7BE00004, .mfsOutst 3 31), (0x7BE00005, .mfsIsa 3 31),
   (0x7C000000, .sysHalt 3), (0x7C1E0001, .sysFail 3 30), (0x7C1E0002, .sysMwait 3 30), (0x7C000003, .sysNop 3)]

/-- Vector words (R371, R375-R378). -/
def wordsV : List (Word × Instr) :=
  [(0x83C03E00, .vld 3 15 31), (0x84383E00, .vst 3 14 31), (0x8BC03E40, .vbcast 3 15 31 1), (0x8FC03E00, .viota 3 15 31),
   (0x93F80048, .vcvt 3 15 14 0 1 1 0), (0x93F83E9A, .vcvt 3 15 14 31 2 3 2), (0x97F80158, .vpack 3 15 14 5 3),
   (0x9BFB7F83, .vdot 3 15 14 13 31 6 3), (0x9FFB4000, .vadd 3 15 14 13), (0xA3FB4000, .vsub 3 15 14 13),
   (0xA7FB4000, .vmul 3 15 14 13), (0xABFB4000, .vfma 3 15 14 13), (0xAFFB4000, .vmax 3 15 14 13), (0xB3FB4000, .vmin 3 15 14 13),
   (0xB7F80000, .vexp 3 15 14), (0xBBF83E00, .vmuls 3 15 14 31), (0xBFFB7E00, .sacc 3 15 14 13 31),
   (0xC3F83E00, .vfoldSum 3 15 14 31), (0xC3F83E01, .vfoldMax 3 15 14 31), (0xC4383E00, .vget 3 14 31), (0xCBF80000, .vmov 3 15 14)]

/-- Memory words (R371, R379). -/
def wordsM : List (Word × Instr) :=
  [(0xE3FE0700, .mld 3 31 30 28), (0xE3FE0701, .mst 3 31 30 28), (0xE3FEEF02, .mred 3 31 30 29 28),
   (0xE3FEEF03, .fld 3 31 30 29 28), (0xE3FE0004, .hld 3 31 30), (0xE3FE0005, .xlat 3 31 30), (0xE3FE0006, .xlata 3 31 30),
   (0xE3FEEF07, .pgath 3 31 30 29 28), (0xE3FEEF08, .fst 3 31 30 29 28), (0xE3FEE809, .hst 3 31 30 29)]

/-- Each word decodes to its instruction, and the four words of the spec's example kernel to theirs. -/
theorem test_words : ∀ e ∈ wordsR ++ wordsI ++ wordsB ++ wordsV ++ wordsM ++
    [(0xE2950583, .fld 3 20 21 0 22), (0xE2AD0005, .xlat 3 21 13), (0x98805842, .vdot 3 2 0 1 12 1 2), (0xBD9CDC00, .sacc 3 6 7 3 14)],
    awlDecode 3 e.1 = some e.2 := by decide +kernel

/-- A word with a reserved opcode or func, an unused field set or a field out of range encodes nothing (R371). -/
theorem test_words_illegal :
    ([0, 0x04000819, 0x0400001A, 0x1BFE00FF, 0x7BE00006, 0x7C000004, 0xE3FE0744, 0x93F801C0] : List Word).all
      (fun w => (awlDecode 3 w).isNone) = true := by decide +kernel

/-- A part of an AWL_PROG node of kind 1, on a context of 100 tokens. -/
def prog : Part :=
  { ty := 10, kind := 1, lch := 3, origin := 3, ctx := some 5, recb := recEnc { state := 1, fmt := 0, dim := 1, kind := 0, quad := 0, committed := 100, staged := 100, pages := 4, roots := [], lock := 0, gen := 0 } }
/-- Awl 3 about to issue a word of a loaded program, at address 4 of three words. -/
def onCode (w : Word) (f : Awl → Awl) : State :=
  up.onAwl 3 fun a => f { a with st := .running, kind := 1, part := some prog, code := [0x7C000003, w, 0x7C000003], pc := 4 }
/-- The same of a patched routine. -/
def onPatch (w : Word) (f : Awl → Awl) : State :=
  up.onAwl 3 fun a => f { a with st := .running, part := some { prog with kind := 0, routine := 0x100 }, pc := 4
                                 patches := [{ routine := 0x100, code := [0x7C000003, w, 0x7C000003] }] }
/-- Scalar registers set. -/
def withRegs (l : List (Nat × Dword)) (a : Awl) : Awl := { a with sreg := l.foldl (fun r e => setS r e.1 e.2) a.sreg }

theorem awlReady_of {s : State} {p : Nat} {i : Instr} {regs : List Nat}
    (h : (decide (p < 136) && s.awls.length == 136 && s.nextIs p i && !regs.any (s.awl p).pendingS && (s.fr (.awl p)).inj == 0 &&
      (s.awl p).pc % 4 == 0 && decide ((s.awl p).pc + 4 < 4 * (s.awl p).words.length) && decide ((s.awl p).pc + 4 < 32768)) = true) :
    s.AwlReady p i regs := by
  simp only [Bool.and_eq_true, Bool.not_eq_true', beq_iff_eq, decide_eq_true_eq] at h
  obtain ⟨⟨⟨⟨⟨⟨⟨a, b⟩, c⟩, d⟩, e⟩, f⟩, g⟩, k⟩ := h
  exact ⟨⟨a, b⟩, c, d, e, f, g, k⟩

theorem witness_ScalarResults : ∀ e ∈ wordsR ++ wordsI, (onCode e.1 id).AwlReady 3 e.2 [31, 30, 29] := by
  intro e he
  apply awlReady_of
  revert e; decide +kernel

theorem witness_ScratchAccess :
    (let s := onCode 0x27FE0004 (withRegs [(30, 0x3FFF8)])
     s.AwlReady 3 (.aLw 3 31 30 4) [31, 30] ∧ ((s.awl 3).s 30 + (4 : BitVec 16).signExtend 64).toNat + 4 = 0x40000 ∧
     ((s.awl 3).s 30 + (4 : BitVec 16).signExtend 64).toNat % 4 = 0 ∧ (s.awl 3).scrWritten 0x3FFFC 4 = false) ∧
    (let s := onCode 0x33FE0010 id
     s.AwlReady 3 (.aSd 3 31 30 16) [31, 30] ∧ ((s.awl 3).s 30 + (16 : BitVec 16).signExtend 64).toNat % 8 = 0 ∧ (s.awl 3).scrBusy 16 8 = false) ∧
    (let s := onCode 0x83C03E00 (withRegs [(31, 0x3FE00)]); s.AwlReady 3 (.vld 3 15 31) [31] ∧ ((s.awl 3).s 31).toNat + 512 = 0x40000) ∧
    (let s := onCode 0x84383E00 (withRegs [(31, 4)]); s.AwlReady 3 (.vst 3 14 31) [31] ∧ ((s.awl 3).s 31).toNat % 4 = 0 ∧ (s.awl 3).scrBusy 4 512 = false) ∧
    (let s := onCode 0x2BFE0008 (withRegs [(30, 4)])
     s.AwlReady 3 (.aLd 3 31 30 8) [31, 30] ∧ ((s.awl 3).s 30 + (8 : BitVec 16).signExtend 64).toNat % 8 ≠ 0) ∧
    (let s := onCode 0x2FFE000C (withRegs [(30, 0x3FFF4)])
     s.AwlReady 3 (.aSw 3 31 30 12) [31, 30] ∧ ((s.awl 3).s 30 + (12 : BitVec 16).signExtend 64).toNat % 4 = 0 ∧
     0x40000 < ((s.awl 3).s 30 + (12 : BitVec 16).signExtend 64).toNat + 4) ∧ smWf 0 (up.awl 3).scr = true :=
  ⟨⟨awlReady_of (by decide +kernel), by decide +kernel⟩, ⟨awlReady_of (by decide +kernel), by decide +kernel⟩,
   ⟨awlReady_of (by decide +kernel), by decide +kernel⟩, ⟨awlReady_of (by decide +kernel), by decide +kernel⟩,
   ⟨awlReady_of (by decide +kernel), by decide +kernel⟩, ⟨awlReady_of (by decide +kernel), by decide +kernel⟩, by decide +kernel⟩

theorem witness_BranchesAndJumps :
    (let s := onCode 0x43FEFFFF id
     s.AwlReady 3 (.aBeq 3 31 30 0xFFFF) [31, 30] ∧ (s.awl 3).s 31 = (s.awl 3).s 30 ∧ ((0 : Nat) : Int) = (s.awl 3).pc + 4 * (0xFFFF : BitVec 16).toInt ∧
     0 < 4 * (s.awl 3).words.length) ∧
    ((onCode 0x43FEFFFE id).AwlReady 3 (.aBeq 3 31 30 0xFFFE) [31, 30] ∧ ((onCode 0x43FEFFFE id).awl 3).pc + 4 * (0xFFFE : BitVec 16).toInt < 0) ∧
    ((onCode 0x47FE8001 id).AwlReady 3 (.aBne 3 31 30 0x8001) [31, 30] ∧ ¬ ((onCode 0x47FE8001 id).awl 3).s 31 ≠ ((onCode 0x47FE8001 id).awl 3).s 30) ∧
    ((onCode 0x5BFFFFFF id).AwlReady 3 (.aJal 3 0x3FFFFFF) [31] ∧ ((0 : Nat) : Int) = ((onCode 0x5BFFFFFF id).awl 3).pc + 4 * (0x3FFFFFF : BitVec 26).toInt) ∧
    ((onCode 0x5FFE0004 id).AwlReady 3 (.aJalr 3 31 30 4) [31, 30] ∧ 4 = (((onCode 0x5FFE0004 id).awl 3).s 30 + (4 : BitVec 16).signExtend 64).toNat) :=
  ⟨⟨awlReady_of (by decide +kernel), by decide +kernel⟩, ⟨awlReady_of (by decide +kernel), by decide +kernel⟩,
   ⟨awlReady_of (by decide +kernel), by decide +kernel⟩, ⟨awlReady_of (by decide +kernel), by decide +kernel⟩,
   awlReady_of (by decide +kernel), by decide +kernel⟩

/-- A memory operation outstanding. -/
def memOp (fn blocks : Nat) (pages : List Nat) : MemOp :=
  { func := fn, pc := 0, sc := 64, scLen := 64 * blocks, write := fn == 0, addr := 0x10000, frame := none, blocks := blocks, rc := 0, dest := 4, pages := pages }

theorem witness_SystemInstructions :
    (∀ e ∈ wordsB.drop 12, (onCode e.1 id).AwlReady 3 e.2 [31, 30]) ∧
    ((onCode 0x7C1E0002 id).awl 3).memq.length ≤ min (((onCode 0x7C1E0002 id).awl 3).s 30).toNat 16 ∧
    (let s := onCode 0x7C1E0002 fun a => { a with memq := [memOp 0 1 []] }
     s.AwlReady 3 (.sysMwait 3 30) [30] ∧ min ((s.awl 3).s 30).toNat 16 < (s.awl 3).memq.length) ∧
    (let s := onCode 0 id
     s.awls.length = 136 ∧ s.runsCode 3 = true ∧ ((s.awl 3).word.bind (awlDecode 3)) = none ∧ (s.fr (.awl 3)).inj = 0) := by
  refine ⟨fun e he => awlReady_of ?_, by decide +kernel, ⟨awlReady_of (by decide +kernel), by decide +kernel⟩, by decide +kernel⟩
  revert e; decide +kernel

theorem witness_VectorResults :
    (∀ e ∈ wordsV, (onCode e.1 id).AwlReady 3 e.2 [31]) ∧ (bits 0 1 2 ≠ 1 ∧ bits 2 1 2 = 1 ∧ 4 = if bitN 2 0 then 8 else 4) ∧
    (let s := onCode 0x93F83E9A (withRegs [(31, 0x3FFFC)])
     s.AwlReady 3 (.vcvt 3 15 14 31 2 3 2) [31] ∧ ((s.awl 3).s 31).toNat + 4 = 0x40000 ∧ (s.awl 3).scrWritten 0x3FFFC 4 = false) ∧
    (let s := onCode 0x9BFB7F83 (withRegs [(31, 124)])
     s.AwlReady 3 (.vdot 3 15 14 13 31 6 3) [31] ∧ 1 ≤ vElems 6 / 32 / 2 ^ 3 ∧ ((s.awl 3).s 31).toNat % 128 + vElems 6 / 32 / 2 ^ 3 = 128) ∧
    (let s := onCode 0xC3F83E01 (withRegs [(31, 128)]); s.AwlReady 3 (.vfoldMax 3 15 14 31) [31] ∧ ((s.awl 3).s 31).toNat = 128) := by
  refine ⟨fun e he => awlReady_of ?_, by decide, ⟨awlReady_of (by decide +kernel), by decide +kernel⟩,
    ⟨awlReady_of (by decide +kernel), by decide +kernel⟩, awlReady_of (by decide +kernel), by decide +kernel⟩
  revert e; decide +kernel

/-- Registers of a memory instruction: one block between scratch 64 and port address 0x10000. -/
def memRegs (a : Awl) : Awl := withRegs [(31, 64), (30, 0x10000), (29, 0), (28, 1)] a
/-- One block, or the header, of a frame in the pools of channel 5. -/
def frmRegs (a : Awl) : Awl := withRegs [(31, 64), (30, 493568), (29, 0), (28, 1)] a

theorem witness_MemoryOpsQueue :
    (∀ e ∈ wordsM.take 3, (onCode e.1 memRegs).AwlReady 3 e.2 [31, 30, 29, 28, 0]) ∧
    (let s := onCode 0xE3FE0700 memRegs
     (s.awl 3).part = some prog ∧ s.rangeOk 0x10000 prog.lch 1 = true ∧ s.queueRoom 3 64 64 ∧ ((s.awl 3).s 28).toNat = 1 ∧
     ((s.awl 3).s 30).toNat = 0x10000 ∧ ((s.awl 3).s 31).toNat = 64) ∧
    ((onCode 0xE3FEEF03 frmRegs).AwlReady 3 (.fld 3 31 30 29 28) [31, 30, 29, 28] ∧ (onCode 0xE3FE0004 frmRegs).AwlReady 3 (.hld 3 31 30) [31, 30] ∧
      (onCode 0xE3FEEF03 frmRegs).inPools (493568 % 2 ^ 24) = true) ∧
    (let s := onPatch 0xE3FEEF08 frmRegs; s.AwlReady 3 (.fst 3 31 30 29 28) [31, 30, 29, 28] ∧ (s.awl 3).kind ≠ 1 ∧ s.queueRoom 3 64 64) ∧
    (let s := onPatch 0xE3FEE809 frmRegs; s.AwlReady 3 (.hst 3 31 30 29) [31, 30, 29] ∧ (s.awl 3).kind ≠ 1 ∧ ((s.awl 3).s 29).toNat ≤ 255) ∧
    ((onCode 0xE3FE0005 id).AwlReady 3 (.xlat 3 31 30) [31, 30] ∧ (onCode 0xE3FE0006 id).AwlReady 3 (.xlata 3 31 30) [31, 30] ∧ prog.ctx = some 5 ∧
      (onCode 0xE3FE0005 id).queueRoom 3 0 0) ∧
    (let s := onCode 0xE3FEEF07 (withRegs [(31, 64), (30, 0), (29, 1), (28, 0)])
     s.AwlReady 3 (.pgath 3 31 30 29 28) [31, 30, 29, 28] ∧ (s.awl 3).scrWritten 0 4 = false ∧ s.queueRoom 3 64 64 ∧
     ((List.range 1).map fun j => leNat (scrRead (s.awl 3).scr (0 + 4 * j) 4) % 2 ^ 20) = [0] ∧ 0 < prog.pages) := by
  refine ⟨fun e he => awlReady_of ?_, ⟨by decide +kernel, by decide +kernel, ⟨by decide +kernel, by decide +kernel⟩, by decide +kernel⟩,
    ⟨awlReady_of (by decide +kernel), awlReady_of (by decide +kernel), by decide +kernel⟩,
    ⟨awlReady_of (by decide +kernel), by decide +kernel, by decide +kernel, by decide +kernel⟩,
    ⟨awlReady_of (by decide +kernel), by decide +kernel⟩,
    ⟨awlReady_of (by decide +kernel), awlReady_of (by decide +kernel), rfl, by decide +kernel, by decide +kernel⟩,
    awlReady_of (by decide +kernel), by decide +kernel, ⟨by decide +kernel, by decide +kernel⟩, by decide +kernel⟩
  revert e; decide +kernel

/-- Awl 3 with one operation outstanding, its block written or poisoned. -/
def retiringOp (o : MemOp) (g : Nat) : State :=
  (up.onCtl 3 fun c => { c with fresh := [(4, g)] }).onAwl 3 fun a => { a with st := .running, kind := 1, part := some prog, memq := [o] }

theorem witness_MemoryOpsRetire :
    (let s := retiringOp (memOp 0 1 []) 1
     s.awls.length = 136 ∧ s.safe.on = false ∧ s.seq.therm ≠ .emergency ∧ s.isFenced (.awl 3) = false ∧ (s.fr (.awl 3)).st ≠ .resetting ∧
     (s.awl 3).memq = [memOp 0 1 []] ∧ (s.awl 3).part = some prog ∧ s.working (ownAwl 3) = false ∧
     s.decode 0x10000 prog.lch = some (3, 0x10000) ∧ s.serving 3 = some 3 ∧ 3 < s.ctls.length ∧ s.shutAt 3 = false ∧ (s.paRead 0x10000 prog.lch).1 = cOK) ∧
    ((retiringOp (memOp 0 1 []) 2).paRead 0x10000 prog.lch).1 = cPOISON ∧ ((retiringOp (memOp 0 1 []) 2).awl 3).ending = none ∧
    ((retiringOp (memOp 1 1 []) 1).paWrite 0x10000 prog.lch 0).1 = cOK ∧ prog.pages ≤ (memOp 5 0 [4]).pages.headD 0 := by decide +kernel
/-! ### Pages, Harnesses, movers, Awl parts: witnesses -/

/-- A call block. -/
def call (op ctx arg0 : Nat) : Block := BitVec.ofNat 512 (op + ctx * 2 ^ 32 + arg0 * 2 ^ 64)
/-- The first granules of channels 0 and 2 written. -/
def upW : State :=
  (up.onCtl 0 fun c => { c with fresh := (List.range 32).map fun g => (g, 1) }).onCtl 2 fun c => { c with fresh := (List.range 32).map fun g => (g, 1) }
theorem upW_wf : upW.Wf := (up_wf.onCtl _ _ (by decide +kernel) (by decide +kernel)).onCtl _ _ (by decide +kernel) (by decide +kernel)
/-- The block with bytes at a port address of channel 2's private window. -/
def holding (a : Nat) (bs : List Byte) (s : State) : State := { s with cells := (s.paWriteN a 2 (ceilDiv bs.length 64) bs).2.cells }
/-- A LIVE record. -/
def rec1 : PRec :=
  { state := 1, fmt := 0, dim := 1, kind := 0, quad := 0, committed := 0, staged := 2 ^ 24, pages := 0, roots := [0, 0, 0, 0], lock := 0, gen := 1 }
/-- The block with the record of context 5. -/
def withRec (r : PRec) : State := { upW with cells := (upW.paWrite (up.recAt 5) 0 (recEnc r)).2.cells }
/-- Every channel is open to the agents: none in self-refresh, and no unit in a reset. -/
def open1 (s : State) : Bool := s.ctls.all (fun c => !c.selfRef) && s.frames.all (fun f => f.st != .resetting)

theorem opened_of {s : State} (h : open1 s = true) : ∀ l, s.shutAt l = false := by
  simp only [open1, Bool.and_eq_true, List.all_eq_true, Bool.not_eq_true', bne_iff_ne] at h
  intro l
  have hc : ∀ q, (s.ctl q).selfRef = false := by
    intro q
    unfold State.ctl
    rw [List.getD_eq_getElem?_getD]
    cases e : s.ctls[q]? with
    | none => rfl
    | some c => exact h.1 c (List.mem_of_getElem? e)
  have hf : ∀ u, (s.fr u).st ≠ .resetting := by
    intro u
    unfold State.fr State.frame
    rw [List.getD_eq_getElem?_getD]
    cases e : s.frames[u.idx]? with
    | none => decide
    | some c => exact h.2 c (List.mem_of_getElem? e)
  unfold State.shutAt
  split
  · rfl
  · simp only [hc, Bool.false_or, State.pathIn, List.any_eq_false]
    intro u _
    simpa using hf u

theorem free_of {s : State} {own : Nat} (h : (!s.working own && open1 s) = true) : s.AgentFree own := by
  simp only [Bool.and_eq_true, Bool.not_eq_true'] at h
  exact ⟨h.1, opened_of h.2⟩

/-- The answer of a read is the value. -/
def okIs {α : Type} [DecidableEq α] (r : Except (BitVec 4 × Nat) α) (a : α) : Bool :=
  match r with
  | .ok b => b == a
  | .error _ => false

theorem okIs_eq {α : Type} [DecidableEq α] {r : Except (BitVec 4 × Nat) α} {a : α} (h : okIs r a = true) : r = .ok a := by
  unfold okIs at h
  split at h
  · rw [eq_of_beq h]
  · cases h

/-- The answer of a read is the error. -/
def errIs {α : Type} (r : Except (BitVec 4 × Nat) α) (e : BitVec 4 × Nat) : Bool :=
  match r with
  | .ok _ => false
  | .error f => f == e

/-- Slot 3 of engine 2. -/
def onSlot3 (l : HSlot) (s : State) : State := s.onSlot 2 3 fun _ => l
/-- A running Harness of one node. -/
def slot1 (nd : Node) : HSlot :=
  { st := .running, seq := 1, addr := 0x10000, origin := 2, read := true, limit := 100, ntab := 0x20000, work := 0x30000, workLen := 256,
    doneAt := 0x40000, nodes := [nd] }
/-- A PAGE node. -/
def pageNode (op ctx arg0 : Nat) : Nat := tPAGE + (call op ctx arg0).toNat * 2 ^ 256
/-- A state with one node ready, its entry in memory. -/
def readyOn (n : Nat) (nd : Node) (s : State) : State := onSlot3 (slot1 { nd with ty := nTy n, st := .ready }) (holding 0x20000 (leBytes n 128) s)

theorem slot3_wf {s : State} (h : s.Wf) (hl : (s.har 2).slots.length = 64) (l : HSlot) : (onSlot3 l s).Wf :=
  h.onHar 2 _ (by simpa [upd] using hl)

theorem readyOn_wf (n : Nat) (nd : Node) (h : Memory.wf (holding 0x20000 (leBytes n 128) upW).cells = true) : (readyOn n nd upW).Wf :=
  slot3_wf (upW_wf.withCells _ h) rfl _

/-- Node 0 of slot 3 of engine 2 is READY and its entry passes, before and after its dispatch; the engine dispatches. -/
def dispatchable (n : Nat) (s : State) : Bool :=
  let s1 := ({ s with acc := [] } : State).startOne 2 3 0
  s.readyNode 2 3 0 (nTy n) && okIs (resGet (s.params 2 3 0)) n && okIs (s1.ask (s1.params 2 3 0)).1 n && (s.fr (.harness 2)).inj == 0 &&
  !s.working (ownHar 2) && open1 s

theorem engineFree_of {n : Nat} {s : State} (h : dispatchable n s = true) : s.EngineFree 2 := by
  simp only [dispatchable, Bool.and_eq_true, Bool.not_eq_true', beq_iff_eq] at h
  exact ⟨⟨h.1.2, opened_of h.2⟩, h.1.1.2⟩

/-- The dispatch has begun, and the entry is the node's. -/
def begun (n : Nat) (s : State) : State :=
  let s1 := ({ s with acc := [] } : State).startOne 2 3 0
  (s1.ask (s1.params 2 3 0)).2.onNode 2 3 0 fun nd => { nd with par := BitVec.ofNat 1024 n }

theorem witness_PageCalls :
    (up.Wf ∧ up.Offers 5 2 true (2 ^ 42) ∧ (up.port 5).openW = none ∧ up.PoolFree 5 ∧ up.tagUsed 5 7 = false ∧
      up.hdrBad (up.portLch 5) opPage (hdr 0 0) = false ∧ (∀ l, up.shutAt l = false) ∧
      ∀ op ∈ List.range 12, (beat (call op 5 1)).last = true ∧ chkOk false (beat (call op 5 1)) = true ∧
        blkGet (beat (call op 5 1)).data 0 1 = op ∧ up.callGated (call op 5 1) = none) ∧
    (let s := up.onFr (.harness 0) fun f => { f with st := .gated }; s.Wf ∧ s.Offers 5 2 true (2 ^ 42) ∧ s.callGated (call 9 5 1) = some 0) ∧
    (∀ op ∈ (List.range 12).drop 1,
      let s := readyOn (pageNode op 5 1) {} upW
      let n := pageNode op 5 1
      Memory.wf s.cells = true ∧ dispatchable n s = true ∧ nTy n = tPAGE ∧ nf n 0x20 0 8 = op ∧ nf n 0x68 0 1 = 0 ∧
      s.callGated (BitVec.ofNat 512 (nf n 0x20 0 512)) = none ∧ okIs ((begun n s).ask ((begun n s).nodeCall 2 3 n)).1 (call op 5 1) = true) := by
  refine ⟨⟨up_wf, up_offers.2.2.2.1, by decide +kernel, up_offers.2.2.2.2, by decide +kernel, by decide +kernel, opened_of (by decide +kernel),
    by decide +kernel⟩, ⟨up_wf.onFr .., offers_of (by decide +kernel), by decide +kernel⟩, by decide +kernel⟩

theorem witness_PageOperations :
    ((up.executor 0).isSome = true ∧ (up.fr .pageDir).inj = 0 ∧ callBad (call 1 5 0x10) = false ∧
      (let r : PRec := { rec1 with state := 0, dim := 0, staged := 0, gen := 0 }
       okIs (up.ask (up.readRec 5)).1 r = true ∧ (callDec (call 1 5 0x10)).permitted r.state = true ∧ r.held = false ∧
        (callDec (call 9 5 0)).permitted r.state = false ∧ (callDec (call 1 5 0x10)).lockGen = 0 ∧ bits 0x10 0 4 ≤ 6 ∧ bits 0x10 4 2 ≠ 3 ∧
        bits 0x10 7 2 = 0 ∧ (up.paWrite (up.recAt 5) 0 (recEnc { rec1 with staged := 0 })).1 = cOK)) ∧
    (let s := withRec rec1
     okIs (s.ask (s.readRec 5)).1 rec1 = true ∧ (callDec (call 9 5 0)).permitted 1 = true ∧ (callDec (call 3 5 0)).needsLock = true ∧
     (callDec (call 3 5 0)).permitted 1 = true ∧ (callDec (call 3 5 0)).lockGen = 0 ∧
     (callDec (call 7 5 0)).permitted 1 = true ∧ s.pd.locks.length < 4096 ∧
     (s.paWrite (s.recAt 5) 0 (recEnc { rec1 with lock := 1 + 5 * 4 + 2 ^ 32 })).1 = cOK ∧
     (callDec (call 0x102 5 1)).op = 2 ∧ (callDec (call 0x102 5 1)).permitted 1 = true ∧ (callDec (call 0x102 5 1)).commit = true ∧
     (callDec (call 0x102 5 1)).addr = 0 ∧ 2 ^ 24 < rec1.staged + 1) ∧
    (let r : PRec := { rec1 with lock := 1 + 2 ^ 32 }
     let s := withRec r; okIs (s.ask (s.readRec 5)).1 r = true ∧ r.held = true ∧ r.orphaned = false) ∧
    (up.mgReady .pageDir ∧ keyed 0x5A000007 = true ∧ up.Wf ∧ keyed 7 = false) ∧
    (up.isRunning = true ∧ (∀ x < 8, up.readers x true = 0)) ∧
    (let s := onSlot3 (slot1 { st := .running, epoch := some true }) up
     s.isRunning = true ∧ s.engLost 2 = false ∧ s.readers 2 (!s.pd.epoch) ≠ 0) :=
  ⟨by decide +kernel, by decide +kernel, by decide +kernel, ⟨ready_of (by decide +kernel), by decide, up_wf, by decide⟩, by decide +kernel,
   by decide +kernel⟩

/-- A descriptor of n nodes: node table at 0x20000, work area of 256 bytes at 0x30000, record to 0x40000. -/
def desc (n : Nat) : List Byte :=
  leBytes (0x4E524148 + 2 ^ 32 + 2 * 2 ^ 56 + n * 2 ^ 64 + 0x20000 * 2 ^ 128 + 0x30000 * 2 ^ 192 + 256 * 2 ^ 256 + 0x40000 * 2 ^ 320) 64
/-- A slot being checked. -/
def slotV (a : Nat) : HSlot := { st := .validating, seq := 1, addr := a, origin := 2 }
/-- A slot whose Harness has ended. -/
def slotE (irq : Bool) : HSlot := { slot1 {} with st := .ended, irqEnd := irq }
/-- Two nodes: one may be cancelled, one runs on an Awl and one runs a page call. -/
def slotR : HSlot := { slot1 {} with nodes := [{ st := .ready }, { ty := tSCORE, st := .running }, { ty := tPAGE, st := .running }] }

/-- Slot 3 of engine 2 may be checked now. -/
def checking (s : State) : Bool :=
  (s.slot 2 3).st == .validating && !s.engLost 2 && !s.safe.on && (s.fr (.harness 2)).st != .gated && !s.working (ownHar 2) && open1 s
/-- The graph check of slot 3 of engine 2, its descriptor read, and the state with the blocks noted. -/
def graphOf (s : State) : Option (Check × State) :=
  let s0 : State := { s with acc := [] }
  match s0.ask (s0.blkRes (s.slot 2 3).addr (s.slot 2 3).origin) with
  | (.error _, _) => none
  | (.ok b, s1) =>
    let s2 := s1.onSlot 2 3 fun l => slotDesc l b
    match s2.ask (s2.checkGraph 2 3 b) with
    | (.ok r, s3) => some (r, s3)
    | (.error _, _) => none

theorem witness_HarnessLife :
    (let s := upW.onHar 2 fun h => { h with subLo := 0x10000, subHi := 0x20000 }
     s.Wf ∧ s.mgReady (.harness 2) ∧ keyed 0x5A000001 = true ∧ fld 0x5A000001 0 1 = 1 ∧ (s.har 2).subBusy = false ∧
     (s.winOf 0x10000).isSome = true ∧ (s.decode 0x10000 2).isSome = true ∧ s.takesSlots 2 = true ∧ s.seq.therm ≠ .stopping ∧
     (s.har 2).waitQ = [] ∧ s.freeSlotOf 2 = some 0 ∧
     (s.har 2).subLo.toNat / 64 * 64 + bits (s.har 2).subHi.toNat 0 16 * 2 ^ 32 = 0x10000 ∧ bits (s.har 2).subHi.toNat 16 7 = 2) ∧
    (let s := up.onHar 2 fun h => { h with subBusy := true }; s.Wf ∧ s.mgReady (.harness 2) ∧ (s.har 2).subBusy = true ∧ keyed 1 = false) ∧
    (∀ a : Nat, a < 2 ^ 48 → (onSlot3 (slotV a) upW).Wf) ∧
    (let s := onSlot3 (slotV (2 ^ 47)) upW
     checking s = true ∧ errIs (s.ask (s.blkRes (2 ^ 47) 2)).1 (cBAD, 0) = true) ∧
    (let s := onSlot3 (slotV 0x10000) upW
     checking s = true ∧ (graphOf s).any (fun r => r.1 == .fail cBAD dDESC none) = true) ∧
    (let s := onSlot3 (slotV 0x10000) (holding 0x10000 (desc 1) upW)
     s.Wf ∧ s.seq.therm ≠ .stopping ∧ s.seq.therm ≠ .stopped ∧ s.seq.therm ≠ .emergency ∧ checking s = true ∧
     (graphOf s).any (fun r => match r with
       | (.pass nodes lists, s3) =>
         let s4 := s3.onSlot 2 3 fun l => { l with nodes := nodes }
         let area := ((List.range nodes.length).flatMap (s4.slot 2 3).entry) ++ lists
         let z := ceilDiv area.length 64
         (s4.paWriteN (s4.slot 2 3).work (s4.slot 2 3).origin z (area ++ List.replicate (64 * z - area.length) 0)).1 == cOK
       | _ => false) = true) ∧
    (∀ irq : Bool, let s := onSlot3 (slotE irq) upW
      s.Wf ∧ (s.slot 2 3).st = .ended ∧ s.engLost 2 = false ∧ s.safe.on = false ∧ s.seq.therm ≠ .emergency ∧ (s.slot 2 3).read = true ∧
      (s.har 2).waitQ = [] ∧ (s.paWrite (s.slot 2 3).doneAt (s.slot 2 3).origin (s.record 2 3)).1 = cOK ∧ (s.slot 2 3).irqEnd = irq ∧
      (s.har 2).endQ.length < 64) ∧
    (let s := up.onHar 2 fun h => { h with endQ := [0x80000003] }
     s.Wf ∧ s.mgReady (.harness 2) ∧ (s.har 2).endQ = [0x80000003] ∧ (up.har 2).endQ = [] ∧ up.mgReady (.harness 2)) ∧
    ((onSlot3 slotR up).Wf ∧ (onSlot3 slotR up).mgReady (.harness 2) ∧ fld 0x5A000103 8 1 = 1 ∧ keyed 0x5A000103 = true ∧ fld 0x5A000103 0 6 = 3 ∧
     ((onSlot3 slotR up).slot 2 3).st = .running ∧ (up.slot 2 3).st = .free ∧ ((onSlot3 (slotV 0) up).slot 2 3).st = .validating ∧
     ((onSlot3 slotR up).node 2 3 0).always = false ∧ ((onSlot3 slotR up).node 2 3 0).st = .ready ∧
     ((onSlot3 slotR up).node 2 3 1).st = .running ∧ limited ((onSlot3 slotR up).node 2 3 1).ty = true ∧
     ((onSlot3 slotR up).node 2 3 2).st = .running ∧ ((onSlot3 slotR up).node 2 3 2).ty = tPAGE) := by
  refine ⟨⟨upW_wf.onHar 2 _ rfl, ready_of (by decide +kernel), by decide +kernel⟩, ⟨up_wf.onHar 2 _ rfl, ready_of (by decide +kernel), by decide +kernel⟩,
    fun _ _ => slot3_wf upW_wf rfl _, by decide +kernel, by decide +kernel,
    ⟨slot3_wf (upW_wf.withCells _ (by decide +kernel)) rfl _, by decide +kernel⟩,
    fun irq => ⟨slot3_wf upW_wf rfl _, ?_⟩, ⟨up_wf.onHar 2 _ rfl, ready_of (by decide +kernel), rfl, rfl, ready_of (by decide +kernel)⟩,
    slot3_wf up_wf rfl _, ready_of (by decide +kernel), by decide +kernel⟩
  cases irq <;> decide +kernel

/-- Node entries of the examples; addresses in channel 2's private window, target sector or channel 2, context 5. -/
def nSignal (mode : Nat) : Nat := tSIGNAL + 0x50000 * 2 ^ 256 + 7 * 2 ^ 320 + mode * 2 ^ 384
/-- BUCKET of one context into one bucket. -/
def nBucket : Nat := tBUCKET + 0x60000 * 2 ^ 256 + 2 ^ 320 + 2 ^ 336 + 0x70000 * 2 ^ 384
/-- COPY, FILL or REDUCE of z blocks. -/
def nMove (ty z : Nat) : Nat := ty + 2 * 2 ^ 216 + 0x50000 * 2 ^ 256 + 0x60000 * 2 ^ 320 + z * 2 ^ 384
/-- SCORE. -/
def nScore : Nat := tSCORE + 5 * 2 ^ 256 + 2 ^ 288 + 0x50000 * 2 ^ 384 + 0x60000 * 2 ^ 448
/-- PARTIAL. -/
def nPartial : Nat := tPARTIAL + 5 * 2 ^ 256 + 2 ^ 288 + 0x50000 * 2 ^ 320 + 0x3F800000 * 2 ^ 480 + 0x60000 * 2 ^ 512 + 0x70000 * 2 ^ 576
/-- SELECT. -/
def nSelect : Nat := tSELECT + 2 * 2 ^ 216 + 0x50000 * 2 ^ 256 + 2 ^ 320 + 2 ^ 352 + 0x60000 * 2 ^ 448
/-- MERGE. -/
def nMerge : Nat := tMERGE + 2 * 2 ^ 216 + 0x50000 * 2 ^ 256 + 2 ^ 352 + 0x60000 * 2 ^ 384 + 0x70000 * 2 ^ 448
/-- AWL_PROG of IDENT. -/
def nProg : Nat := tPROG + 2 * 2 ^ 216 + 0x100 * 2 ^ 272 + 0x50000 * 2 ^ 320 + 0x60000 * 2 ^ 384 + 2 ^ 448

/-- Two nodes: the second awaits the first. -/
def slotN : HSlot := { slot1 {} with nodes := [{ st := .ready, succ := [1] }, { await := 1 }] }

theorem witness_EngineNodes :
    (let s := onSlot3 slotN upW
     s.Wf ∧ dispatchable 0 s = true ∧ 1 ∈ (s.node 2 3 0).succ ∧ (s.slot 2 3).nodes.length = 2 ∧ (s.node 2 3 1).await ≤ 1) ∧
    (let s := onSlot3 slotN (holding 0x20000 [0xFF] upW)
     let s1 := ({ s with acc := [] } : State).startOne 2 3 0
     s.Wf ∧ s.readyNode 2 3 0 tNOP = true ∧ s.EngineFree 2 ∧ errIs (s1.ask (s1.params 2 3 0)).1 (cBAD, dNODE) = true) ∧
    (∀ mode < 4, let s := readyOn (nSignal mode) {} upW
     let s3 := begun (nSignal mode) s
     Memory.wf s.cells = true ∧ dispatchable (nSignal mode) s = true ∧ nf (nSignal mode) 0x30 0 1 = mode % 2 ∧ nf (nSignal mode) 0x30 1 1 = mode / 2 ∧
     (s3.paRead 0x50000 2).1 = cOK ∧ (s3.paPatch 0x50000 2 (leBytes 7 8)).1 = cOK ∧
     ((s3.touchRd 0x50000 2 1).paPatch 0x50000 2 (leBytes 7 8)).1 = cOK ∧ (s.har 2).endQ.length < 64) ∧
    (let s := readyOn nBucket {} upW
     let s3 := begun nBucket s
     Memory.wf s.cells = true ∧ dispatchable nBucket s = true ∧ errIs (s3.ask (s3.bucketInput 2 nBucket)).1 (cBAD, dCTX) = true) ∧
    (let s := readyOn nBucket {} (holding 0x60000 [5] (withRec rec1))
     let s3 := begun nBucket s
     let l := [(5, 0, 0)]
     Memory.wf s.cells = true ∧ dispatchable nBucket s = true ∧ okIs (s3.ask (s3.bucketInput 2 nBucket)).1 l = true ∧
     (((((List.range 1).map fun b => l.filter fun e => bucketFor nBucket e.2.1 == b).zipIdx).forM fun (e : List (Nat × Nat × Nat) × Nat) =>
        (sPut (nf nBucket 0x30 0 48 + e.2 * (64 * ceilDiv (64 + 16 * nf nBucket 0x28 0 13) 64)) 2 (bucketList e.1) : SM Unit)).run.run
          (s3.ask (s3.bucketInput 2 nBucket)).2).1.isOk = true) ∧
    (let s := onSlot3 slotR up
     s.Wf ∧ (s.slot 2 3).limit ≠ 0 ∧ limited (s.node 2 3 1).ty = true ∧ (s.slot 2 3).st.active = true ∧ (s.node 2 3 1).st = .running ∧
     (s.node 2 3 0).st = .ready ∧ s.paused 2 = false ∧ s.engLost 2 = false ∧ (s.fr (.harness 2)).inj = 0) :=
  ⟨⟨slot3_wf upW_wf rfl _, by decide +kernel⟩,
   ⟨slot3_wf (upW_wf.withCells _ (by decide +kernel)) rfl _, by decide +kernel, ⟨free_of (by decide +kernel), unarmed_of (by decide +kernel)⟩,
    by decide +kernel⟩, by decide +kernel, by decide +kernel, by decide +kernel, slot3_wf up_wf rfl _, by decide +kernel⟩

/-- Channel 1 of mover block 2 runs node 0 of slot 3. -/
def moving (ty z : Nat) : State :=
  (onSlot3 (slot1 { ty := ty, st := .running, mover := some (2, 1), par := BitVec.ofNat 1024 (nMove ty z) }) upW).onMov 2 fun b =>
    { b with ch := upd b.ch 1 fun _ => { st := 1, eng := 2, slot := 3 } }

theorem witness_MoverNodes :
    (∀ ty ∈ [tCOPY, tFILL, tREDUCE], let n := nMove ty 2
     let s := readyOn n {} upW
     Memory.wf s.cells = true ∧ dispatchable n s = true ∧ nf n 0x34 1 1 = 0 ∧ nTgt n < 8 ∧ s.isFenced (.movers 2) = false ∧ s.movStops 2 = false ∧
     ((s.mov 2).ch.getD 0 {}).st = 0 ∧ (let t := s.onMov 2 fun b => { b with ch := b.ch.map fun h => { h with st := 2 } }
       dispatchable n t = true ∧ ∀ h ∈ (t.mov 2).ch, h.st = 2)) ∧
    (∀ ty ∈ [tCOPY, tFILL, tREDUCE], ∀ z ∈ [1, 2], let s := moving ty z
     s.safe.on = false ∧ s.seq.therm ≠ .emergency ∧ (s.node 2 3 0).mover = some (2, 1) ∧ (s.fr (.movers 2)).inj = 0 ∧ s.isFenced (.movers 2) = false ∧
     (!s.working (ownMov 2 1) && open1 s) = true ∧ (s.node 2 3 0).par.toNat = nMove ty z ∧ nTy (nMove ty z) = ty ∧ nf (nMove ty z) 0x34 1 1 = 0 ∧ ((s.mov 2).ch.getD 1 {}).done.toNat = 0 ∧
     nf (nMove ty z) 0x30 0 24 = z ∧ (s.paRead (movSrc (nMove ty z) 0) 2).1 = cOK ∧ (s.paRead (movDst (nMove ty z) 0) 2).1 = cOK ∧
     (s.paWrite (movDst (nMove ty z) 0) 2 0).1 = cOK ∧ ((s.mov 2).ch.getD 1 {}).st = 1) ∧
    (∀ ty z, (moving ty z).Wf) ∧
    (let s := up.onMov 2 fun b => { b with ch := upd b.ch 3 fun h => { h with st := 2 } }
     s.Wf ∧ s.mgReady (.movers 2) ∧ keyed 0x5A00000F = true ∧ BitVec.getLsbD (0x5A00000F : Word) 3 = true ∧ ((s.mov 2).ch.getD 3 {}).st = 2) :=
  ⟨by decide +kernel, by decide +kernel, fun _ _ => (slot3_wf upW_wf rfl _).onMov 2 _ (by simp; rfl),
   up_wf.onMov 2 _ rfl, ready_of (by decide +kernel), by decide, by decide, by decide +kernel⟩

/-- A part of an AWL_PROG node on channel 2. -/
def progPart (routine : Nat) : Part :=
  { sec := 2, slot := 3, node := 0, ty := tPROG, lch := 2, origin := 2, routine := routine, args := 0x50000, argLen := 1 }
/-- Awl 2 with a part waiting, or running with arguments in its scratchpad. -/
def awl2 (f : Awl → Awl) : State := upW.onAwl 2 f
/-- A running part. -/
def partOn (routine : Nat) (args : List Byte) : State :=
  awl2 fun a => { a with st := .running, part := some (progPart routine), scr := scrWrite [] 0 args }
/-- Arguments of CONVERT: no element, source format sf. -/
def cvtArgs (sf : Nat) : List Byte := leBytes (0x50000 + 0x60000 * 2 ^ 64 + sf * 2 ^ 160 + 2 ^ 168 + 0x3F800000 * 2 ^ 192) 64

theorem witness_AwlNodes :
    (∀ n ∈ [nScore, nPartial, nSelect, nMerge, nProg], let s := readyOn n {} (withRec { rec1 with staged := 0 })
     let s0 : State := { s with acc := [] }
     Memory.wf s.cells = true ∧ dispatchable n s = true ∧ okIs (s0.ask (s0.params 2 3 0)).1 n = true) ∧
    (let s := readyOn nScore {} (withRec { rec1 with staged := 0 })
     let s0 : State := { s with acc := [] }
     okIs ((s0.ask (s0.fanOut (nf nScore 0x20 0 21) (nf nScore 0x28 0 20) (nf nScore 0x2C 0 21) true)).1.map (·.1)) (List.range 16) = true ∧
     (s0.ask (s0.fanOut (nf nPartial 0x20 0 21) (nf nPartial 0x34 0 20) (nf nPartial 0x38 0 21) (nf nPartial 0x30 0 1 == 0))).1.isOk = true ∧
     s.somePart (((List.range 16).zipIdx).map fun (l, j) => { part := j, lch := l }) = true ∧
     s.somePart [{ part := 0, lch := 2 }] = true ∧ nTgt nSelect = 2 ∧ nTgt nMerge = 2 ∧ progChans nProg = [2] ∧ s.serving 2 = some 2 ∧
     s.awlDoing 2 = some 2 ∧ (s.awl 2).own < 4) ∧
    (let s := awl2 fun a => { a with waitQ := [{ progPart 0x100 with ty := tSELECT, routine := 2 }] }
     s.awls.length = 136 ∧ s.awlStops 2 = false ∧ s.AgentFree (ownAwl 2) ∧ (s.awl 2).part = none ∧ (s.awl 2).carryQ = [] ∧
     (s.awl 2).patchOf { progPart 0x100 with ty := tSELECT, routine := 2 } = none) ∧
    (let s := awl2 fun a => { a with waitQ := [progPart 0x100] }
     s.awls.length = 136 ∧ s.awlStops 2 = false ∧ s.AgentFree (ownAwl 2) ∧ (s.awl 2).part = none ∧ (s.awl 2).carryQ = [] ∧ (progPart 0x100).kind ≠ 1 ∧
     (s.awl 2).patchOf (progPart 0x100) = none ∧ (progPart 0x100).ctx = none ∧
     okIs (({ s with acc := [] } : State).ask (s.paBytes (progPart 0x100).args (progPart 0x100).origin 64)).1 (List.replicate 64 0) = true) ∧
    (let s := onSlot3 (slot1 { ty := tPROG, st := .running, parts := [{ part := 0, lch := 2, phys := some 2 }] })
       (awl2 fun a => { a with st := .running, part := some (progPart 0x100), ending := some (cOK, 0) })
     s.Wf ∧ (s.node 2 3 0).st = .running ∧ (s.node 2 3 0).parts = [{ part := 0, lch := 2, phys := some 2 }] ∧
     (s.awl 2).part = some (progPart 0x100) ∧ (progPart 0x100).of 2 3 0 = true ∧ (s.awl 2).ending = some (cOK, 0) ∧ (s.awl 2).memq = [] ∧
     s.working (ownAwl 2) = false) ∧
    (∀ r ∈ [0x100, 0x101], let s := partOn r (leBytes 0x50000 8)
     s.awls.length = 136 ∧ (s.awl 2).part = some (progPart r) ∧ (s.awl 2).ending = none ∧ (s.awl 2).byCode = false ∧ (s.awl 2).st = .running ∧
     (s.fr (.awl 2)).inj = 0 ∧ (!s.working (ownAwl 2) && open1 s) = true) ∧
    (let s := partOn 0x100 (leBytes 0x50000 8)
     s.identAddr 2 = 0x50000 ∧ (s.paPatch 0x50000 2 (List.replicate 64 0)).1 = cOK ∧ (partOn 0x100 (leBytes 0x50001 8)).identAddr 2 = 0x50001) ∧
    ((convertPart 2 (progPart 0x101)).run.run (partOn 0x101 (cvtArgs 0))).1.isOk = true ∧
    ((convertPart 2 (progPart 0x101)).run.run (partOn 0x101 (cvtArgs 0))).2.awls.length = 136 ∧
    leNat (scrRead ((partOn 0x101 (cvtArgs 7)).awl 2).scr 20 1) = 7 :=
  ⟨by decide +kernel, by decide +kernel,
   ⟨by decide +kernel, by decide +kernel, free_of (by decide +kernel), by decide +kernel⟩,
   ⟨by decide +kernel, by decide +kernel, free_of (by decide +kernel), by decide +kernel⟩,
   ⟨slot3_wf (upW_wf.onAwl _ _ ⟨rfl, rfl⟩) rfl _, by decide +kernel⟩, by decide +kernel, by decide +kernel, by decide +kernel⟩
/-! ### Frames, self-test, test port, telemetry: witnesses -/

/-- The block running, with an image that grants nothing. -/
def noPriv : State := { up with image := some { img with priv := 0 } }
theorem noPriv_wf : noPriv.Wf := up_wf.others rfl (Nat.le_refl _)
/-- Unit u's frame changed. -/
def onF (u : UnitId) (f : Frame → Frame) : State := up.onFr u f

theorem witness_UnitControl :
    (up.Wf ∧ up.mgReady (.ctl 3) ∧ (UnitId.ctl 3).canQuiesce = true ∧ (UnitId.ctl 3).canReset = true ∧ up.portAt 3 = some 3 ∧
      up.mgReady .array ∧ UnitId.array.canQuiesce = true ∧ (UnitId.ctl 0) ∈ UnitId.array.subtree ∧ quiescable (.ctl 0) = true) ∧
    ((5 : Word).getLsbD 0 = true ∧ (5 : Word).getLsbD 1 = false ∧ (0x5A000002 : Word).getLsbD 1 = true ∧ keyed 0x5A000002 = true ∧ keyed 2 = false) ∧
    (∀ h ∈ up.hars, h.waitQ = []) ∧ up.resetWaits (.ctl 3) = false ∧
    (let s := up.onSec 0 fun x => { x with sp := .flip, pos := 3 }
     s.Wf ∧ s.mgReady (.ctl 3) ∧ s.resetWaits (.ctl 3) = true) ∧
    (up.mgReady .pageDir ∧ UnitId.pageDir.canQuiesce = false ∧ UnitId.pageDir.canReset = false) :=
  ⟨⟨up_wf, ready_of (by decide +kernel), by decide, by decide, by decide +kernel, ready_of (by decide +kernel), by decide, by decide, by decide⟩, by decide +kernel,
   by decide +kernel, by decide +kernel, ⟨up_wf.onSec .., ready_of (by decide +kernel), by decide +kernel⟩, ready_of (by decide +kernel), by decide, by decide⟩

theorem witness_FaultRegisters :
    (up.Wf ∧ up.mgReady (.ctl 3) ∧ ∀ k ∈ (UnitId.ctl 3).kids, ∀ c, up.line k c = false) ∧
    (let s := onF (.ctl 3) fun f => { f with src := 2, clsCont := 2 }
     s.Wf ∧ s.mgReady (.channel 3) ∧ UnitId.ctl 3 ∈ (UnitId.channel 3).kids ∧ s.line (.ctl 3) .cont = true ∧
     (BitVec.ofNat 16 (fld 0xF 0 16)).getLsbD (UnitId.ctl 3).ordinal = true ∧ (s.fr (.channel 3)).mask.getLsbD (UnitId.ctl 3).ordinal = false) ∧
    (noPriv.Wf ∧ noPriv.mgReady (.ctl 3) ∧ noPriv.has 1 = false ∧ up.has 1 = true ∧ (UnitId.ctl 3).isGroup = false ∧
      up.mgReady (.network 0) ∧ (4 : Word).getLsbD 1 = false) ∧
    (up.mgReady (.channel 3) ∧ (UnitId.awl 3).ordinal < 16 ∧ (UnitId.awl 3) ∈ (UnitId.channel 3).kids ∧
      (up.fr (.channel 3)).mask.getLsbD (UnitId.awl 3).ordinal = false ∧ (UnitId.channel 3).isGroup = true ∧ (0x5A000122 : Word).getLsbD 8 = true ∧
      (UnitId.channel 3).kids[fld 0x5A000122 0 4]? = some (.awl 3) ∧ keyed 0x5A000122 = true ∧ fenceable (.channel 3) (.awl 3) = true ∧
      up.isFenced (.awl 3) = false ∧ (UnitId.channel 3).kids[fld 0x5A000120 0 4]? = some (.ctl 3) ∧ fenceable (.channel 3) (.ctl 3) = false) :=
  ⟨⟨up_wf, ready_of (by decide +kernel), fun k h => absurd h List.not_mem_nil⟩, ⟨up_wf.onFr .., ready_of (by decide +kernel), by decide +kernel⟩,
   ⟨noPriv_wf, ready_of (by decide +kernel), by decide +kernel, by decide +kernel, by decide, ready_of (by decide +kernel), by decide⟩,
   ready_of (by decide +kernel), by decide +kernel⟩

theorem witness_IslandsAndClocks :
    (∀ u ∈ [UnitId.awl 3, .harness 7], let s := { up with image := some { img with policy := { img.policy with gateUs := 50 } } }
     u.ok = true ∧ s.isRunning = true ∧ s.img.policy.gateUs ≠ 0 ∧ (s.fr u).st = .running ∧ s.islandIdle u = true) ∧
    ({ up with image := some { img with policy := { img.policy with gateUs := 50 } } } : State).Wf ∧
    (let s := (onF (.awl 3) fun f => { f with st := .gated }).onAwl 3 fun a => { a with waitQ := [{}] }
     s.Wf ∧ (s.fr (.awl 3)).st = .gated ∧ s.islandIdle (.awl 3) = false ∧ s.img.policy.gateUs = 0) ∧
    (up.mgmt.clkLost.getLsbD 2 = false ∧ (up.fr (.network 2)).mask.getLsbD 1 = false ∧ (up.fr (.network 2)).st ≠ .resetting ∧ (up.sec 2).holdover = false) ∧
    (let s := { up with mgmt := { up.mgmt with clkLost := 4 } }; s.Wf ∧ s.mgmt.clkLost.getLsbD 2 = true) ∧
    (let s := (withReq (req 0) id).onSec 0 fun x => { x with holdover := true }
     s.Wf ∧ (s.sec 0).holdover = true ∧ secOf (s.portPhys 5) = 0 ∧ (s.port 5).answered = false) ∧
    (let s := up.onSec 2 fun x => { x with holdover := true }
     s.Wf ∧ (s.sec 2).holdover = true ∧ secOf (s.portPhys 40) = 2 ∧ ∀ n < 128, (s.port n).answered = true) :=
  ⟨by decide +kernel, up_wf.others rfl (Nat.le_refl _), ⟨(up_wf.onFr ..).onAwl _ _ ⟨rfl, rfl⟩, by decide +kernel⟩, by decide +kernel,
   ⟨up_wf.withMgmt _ (Nat.zero_le _), by decide⟩, ⟨(withReq_wf _ _ (Nat.le_refl _) (fun _ => rfl)).onSec .., by decide +kernel⟩, up_wf.onSec .., by decide +kernel⟩

theorem witness_ResetEnds :
    ((UnitId.ctl 3).ok = true ∧ (UnitId.ctl 3).isGroup = false ∧ (UnitId.ctl 3).parent = some (.channel 3) ∧ (UnitId.ctl 3).canReset = true) ∧
    (let s := onF (.ctl 3) fun f => { f with st := .quiescing }
     s.Wf ∧ (s.fr (.ctl 3)).st = .quiescing ∧ s.drained (.ctl 3) = true) ∧
    (let s := (onF (.ctl 3) fun f => { f with st := .quiescing }).onCtl 3 fun c => { c with ordRun := [msg 3 3] }
     s.Wf ∧ (s.fr (.ctl 3)).st = .quiescing ∧ s.drained (.ctl 3) = false ∧ s.resetWaits (.ctl 3) = false) ∧
    ((up.fr (.ctl 3)).st ≠ .quiescing ∧ (up.fr (.ctl 3)).st ≠ .resetting) ∧
    (∀ w f : Bool, let s := onF (.ctl 3) fun g => { g with st := .resetting, wedgeRst := w, fenced := f }
     s.Wf ∧ (s.fr (.ctl 3)).st = .resetting ∧ (s.fr (.channel 3)).st ≠ .resetting ∧ (s.fr (.ctl 3)).fenced = f ∧ (s.fr (.ctl 3)).wedgeRst = w ∧
     (s.fr (.channel 3)).mask.getLsbD (UnitId.ctl 3).ordinal = false ∧ chanOfUnit (.ctl 3) = some 3 ∧ posOf 3 ≠ 16) ∧
    (let s := onF (.ctl 16) fun g => { g with st := .resetting }
     s.Wf ∧ (s.fr (.ctl 16)).st = .resetting ∧ (s.fr (.channel 16)).st ≠ .resetting ∧ chanOfUnit (.ctl 16) = some 16 ∧ posOf 16 = 16 ∧
     s.substituting (secOf 16) = false) := by
  refine ⟨by decide, ⟨up_wf.onFr .., by decide +kernel⟩, ⟨(up_wf.onFr ..).onCtl _ _ rfl rfl, by decide +kernel⟩, by decide +kernel,
    fun w f => ⟨up_wf.onFr .., ?_⟩, up_wf.onFr .., by decide +kernel⟩
  cases w <;> cases f <;> decide +kernel

/-- The walk at index i, a slice in a phase. -/
def sliceAt (i : Nat) (f : Bist → Bist) : State := { up with seq := { up.seq with bist := f { up.seq.bist with entry := i } } }
theorem sliceAt_wf (i : Nat) (f : Bist → Bist) : (sliceAt i f).Wf := up_wf.others rfl (Nat.le_refl _)

theorem witness_SelfTest :
    (let s := sliceAt (UnitId.ctl 3).idx id
     s.seq.bist.phase = 0 ∧ s.walkOk s.seq.bist.entry = true ∧ s.sliceMay true = true ∧ s.sliceMay false = false ∧ s.seq.bist.skipped ≠ 0xFFFF ∧
     heldChan s.sliceUnit = some 3 ∧ s.portAt 3 = some 3) ∧
    (let s := (sliceAt (UnitId.ctl 3).idx fun b => { b with phase := 1 }).onCtl 3 fun c => { c with ordRun := [msg 3 3] }
     s.Wf ∧ s.seq.bist.phase = 1 ∧ s.seq.bist.deferred ≠ 0xFFFF ∧ s.sliceDry = false) ∧
    (let s := (sliceAt (UnitId.ctl 3).idx fun b => { b with phase := 1 }).onFr (.ctl 3) fun f => { f with st := .quiesced }
     s.Wf ∧ s.seq.bist.phase = 1 ∧ s.seq.bist.deferred ≠ 0xFFFF ∧ s.sliceDry = true ∧ s.drives 3 = true) ∧
    (∀ p ∈ List.range 6, (sliceAt (UnitId.ctl 3).idx fun b => { b with phase := BitVec.ofNat 3 p }).seq.bist.phase = BitVec.ofNat 3 p) ∧
    (∀ r ∈ [0, 1], let s := sliceAt (UnitId.ctl 3).idx fun b => { b with phase := 5, result := r }
     s.seq.bist.phase = 5 ∧ s.seq.bist.result = r ∧ s.seq.bist.log.length < 64) ∧
    (∀ i f, (sliceAt i f).Wf) ∧ (up.mgReady .currierSeq ∧ up.seq.bist.next = 1 ∧ ∀ e ∈ up.seq.bist.log, e.headD 0 ≠ 2) := by
  refine ⟨by decide +kernel, ⟨(sliceAt_wf ..).onCtl _ _ rfl rfl, by decide +kernel⟩, ⟨(sliceAt_wf ..).onFr .., by decide +kernel⟩, by decide +kernel, by decide +kernel,
    fun i f => sliceAt_wf i f, ready_of (by decide +kernel), rfl, fun e h => absurd h List.not_mem_nil⟩

theorem witness_TestAccessPort :
    noPriv.has 0 = false ∧ up.has 0 = true ∧ up.extestOk = false ∧
    ({ up with boot := { up.boot with phase := 0xB } } : State).extestOk = true ∧
    (let s := { (onF (.ctl 3) fun f => { f with st := .quiesced }) with tap := { up.tap with unit := BitVec.ofNat 16 (UnitId.ctl 3).idx } }
     s.Wf ∧ s.has 0 = true ∧ s.tapQuiesced = true) ∧ up.tapQuiesced = false :=
  ⟨by decide +kernel, by decide +kernel, by decide +kernel, by decide +kernel, ⟨(up_wf.onFr ..).others rfl (Nat.le_refl _), by decide +kernel⟩, by decide +kernel⟩

theorem witness_CounterShadows : up.Wf ∧ up.mgReady (.ctl 3) ∧ 7 < 8 := ⟨up_wf, ready_of (by decide +kernel), by decide⟩

/-- Telemetry into a ring at 0. -/
def tel : Tel := { ringMib := 2, periodUs := 1000, enable := true }
/-- The block running with telemetry, sector 0's bins in histogram mode. -/
def telling (f : TelSt → TelSt) : State :=
  { up with image := some { img with tel := some tel }, seq := { up.seq with tel := f up.seq.tel } }
theorem telling_wf (f : TelSt → TelSt) : (telling f).Wf := up_wf.others rfl (Nat.le_refl _)

theorem witness_CountersAndTelemetry :
    (let s := up.onCnt (UnitId.channel 3).idx fun c =>
       { c with sel := upd c.sel 7 fun _ => BitVec.ofNat 32 (1 + (UnitId.ctl 3).ty * 2 ^ 8 + 2 ^ 20), val := upd c.val 7 fun _ => BitVec.allOnes 64 }
     s.Wf ∧ s.cntTakes (.channel 3) 7 (.ctl 3) = true ∧ (s.cnt (UnitId.channel 3).idx).val.getD 7 0 = BitVec.allOnes 64) ∧
    (up.mgReady (.sector 0) ∧ up.histMode 0 = true ∧ ({ up with image := some { img with tel := some { tel with secMode := 1 } } } : State).histMode 0 = false) ∧
    (let s := telling id
     s.Wf ∧ s.telOn = some tel ∧ s.isRunning = true ∧ s.seq.tel.busy = false ∧ s.safe.on = false ∧ s.seq.therm = .normal ∧ s.mgReady .currierSeq ∧
     (0x5A000001 : Word).getLsbD 0 = true ∧ keyed 0x5A000001 = true ∧ up.telOn = none ∧ up.mgReady .currierSeq ∧ s.histMode 0 = true) ∧
    (∀ n ∈ [1, 3, 1015], let s := telling fun t => { t with busy := true, todo := (List.range n).map fun k => (64 * k, 0) }
     s.seq.tel.busy = true ∧ s.telOn = some tel ∧ s.isRunning = true ∧ s.seq.tel.todo.length = n ∧ (!s.working ownDump && open1 s) = true ∧
     (({ s with acc := [] } : State).telPut (s.seq.tel.todo.take (if n = 3 then 2 else 1))).1 = cOK) := by
  refine ⟨⟨up_wf.onCnt _ _ ⟨rfl, rfl, rfl, rfl⟩, by decide +kernel⟩, ⟨ready_of (by decide +kernel), by decide +kernel⟩, ⟨telling_wf _, by decide +kernel, by decide +kernel, by decide +kernel, by decide +kernel,
    by decide +kernel, ready_of (by decide +kernel), by decide, by decide, by decide +kernel, ready_of (by decide +kernel), by decide +kernel⟩, by decide +kernel⟩
/-! ### Examples of the spec -/

/-- 05: the decode of 0x8012_3456 in a window striped over sector 5 (R102, R105). -/
theorem test_decode_example :
    decodeIn ⟨0x400, 4096, 1, 5, 256⟩ 0x80123456 0 = (86, 0x20012456) ∧ homeOf 86 = 91 ∧ locate 8 0x20012456 = ⟨4, 4096, 4 * 1 + 2, 1⟩ ∧
    0x20012456 % 64 = 22 := by decide

/-- 02: indices of the example build. -/
theorem test_index_example :
    homeOf 94 = 99 ∧ [UnitId.sector 5, .quad 5 3, .channel 101, .channel 99, .awl 101, .awl 99].map UnitId.idx = [6, 61, 62, 199, 203, 623] := by
  decide +kernel

/-- The example classes of 06, with refi_ns and tRFCpb of R121. -/
def exImg (rd1 : Nat) : Image :=
  { img with
    timing := [(0x0D, 9000)]
    classes := [⟨384, 256, 300, 1023, 1023, 1023, 64⟩, ⟨rd1, 384, 300, 1023, 1023, 1023, 64⟩, ⟨160, 160, 200, 512, 512, 400, 32⟩,
      ⟨96, 96, 100, 256, 256, 200, 16⟩] ++ List.replicate 11 {} ++ [⟨0, 0, 0, 128, 96, 64, 32⟩] }

/-- 06: K is 925; the previous image is admitted, the rebuilt one fails with S_rd = 1,088 (R120, R121, R127). -/
theorem test_admission_example :
    (exImg 256).kcap = 925 ∧ (exImg 256).admission = none ∧ (exImg 320).admission = some (0, 1088) := by decide +kernel

/-- 06: the scales at A = 896 (R128). -/
theorem test_scale_example : scaleOf 896 896 128 = 219 ∧ scaleOf 896 896 96 = 228 := by decide

/-- 13: the exponentials and the first level of the merge example (R352, R355); and element 0 at the second level. (The l printed there for
the second level, 1.2537118, is not what R355 gives in binary32 from the l printed for the first.) -/
theorem test_merge_example :
    [0xBF800000, 0xC1080000, 0xC0E00000].map exp32 = [0x3EBC5AB2, 0x39555A20, 0x3A6F0B5D] ∧
    combine ⟨0x40000000, 0x40400000, [0x40C00000]⟩ ⟨0x3F800000, 0x40000000, [0x3F800000]⟩ = ⟨0x40000000, 0x406F16AC, [0x40CBC5AB]⟩ ∧
    combine ⟨0x3F000000, 0x3FC00000, [0xBFC00000]⟩ ⟨0x41100000, 0x3FA00000, [0x40A00000]⟩ = ⟨0x41100000, 0x3FA00A00, [0x409FFD80]⟩ ∧
    (combine ⟨0x40000000, 0x406F16AC, [0x40CBC5AB]⟩ ⟨0x41100000, 0x3FA00A00, [0x409FFD80]⟩).o = [0x40A02D12] := by decide +kernel


/-- 10: the generator polynomial of R233, multiplied out by hand. -/
theorem test_code_generator : rsGen = [1, 255, 11, 81, 54, 239, 173, 200, 24] := by decide +kernel
/-! ### Well-formedness: one ill-formed term for each check -/

theorem test_wf_refuses_commands :
    [Instr.islandsLockTimeout [8], .read 128 0 0 0 0, .networkMessage 8 0, .schedulerCycle 136, .hitLimit 136 0, .hitLimit 0 128, .powerDownEntry 0 8,
     .readBurstReturn 0 false ⟨[(72, 1)], []⟩, .readBurstReturn 0 true ⟨[], List.replicate 10 0⟩, .sbResponse 136 0 0 0, .migrationCopyDone 8 0, .harnessCheckDone 8 0, .nop 0 64 0, .partEnd 0 0 0 16, .aAdd 0 32 0 0, .aAdd 0 0 32 0,
     .aAdd 0 0 0 32, .aFtoi 0 0 32, .aLui 0 32 0, .aBeq 0 0 32 0, .sysFail 0 32, .vld 0 16 0, .vbcast 0 0 0 2, .vcvt 0 0 0 0 7 0 0,
     .vpack 0 0 0 0 0, .vdot 0 0 0 0 0 0 4, .mld 0 0 0 32, .mred 0 0 0 0 32, .hst 0 0 0 32, .islandGate (.awl 136), .extest [true] [],
     .cntSel .array 8 0, .counterOverflow .array 0 (.sector 8) 0 0].all (fun c => !c.wf) = true := by decide +kernel

theorem test_wf_refuses_operands :
    (LanePos.mk 2 2 0).wf = false ∧ (LanePos.mk 0 0 17).wf = false ∧ (LanePos.mk 3 0 0).wf = false ∧ symsWf [(3, 0)] = false ∧
    symsWf [(3, 1), (3, 2)] = false ∧ (PageSrc.node 8 0 0).wf = false ∧ (ArbInput.ctl 0 5).wf = false ∧ (ArbInput.net 0 18).wf = false ∧
    (Instr.hideUpEnd { silent := [(136, 0)], sensK := [], die := [] }).wf = false ∧ (Instr.read 127 0 0 0 0).wf = true := by decide +kernel

/-- The one command EveryCommandCompletes keeps out, and another; reset held and not. -/
theorem witness_EveryCommandCompletes :
    Instr.dump ≠ .blockResetRelease false ∧ State.reset.boot.rstLow = false ∧
    ({ State.reset with boot := { State.reset.boot with rstLow := true } } : State).boot.rstLow = true := by decide
/-! ### A whole image: a witness of LOAD_END -/

/-- A section: its header and its body. -/
def sect (ty crc : Nat) (body : List Byte) : List Byte :=
  leBytes (ty + 2 ^ 16) 4 ++ leBytes body.length 4 ++ leBytes crc 4 ++ leBytes 0 4 ++ body
/-- Words of a body. -/
def ws (l : List Nat) : List Byte := l.flatMap fun w => leBytes w 4
/-- The six required sections: the timing of R185's example, ports in order, one window over the array, the previous classes of 06. -/
def exSecs : List Byte :=
  sect 1 0xDD3FDC2C (ws ([8, 0, 12288, 1024, 1000, 20] ++
    ([1050, 1100, 3200, 4375, 125, 250, 1000, 125, 125, 250, 250, 1250, 9000, 12000, 750, 180, 94, 10000, 500, 200].zipIdx.map fun e =>
      e.1 + (e.2 + 1) * 2 ^ 16))) ++
  sect 2 0x24650D57 ((List.range 128).map (BitVec.ofNat 8)) ++
  sect 3 0xA0E50215 (ws [1, 0, 1664, 2, 0]) ++
  sect 4 0xBFA9E7AB ((exImg 256).classes.flatMap fun c =>
    ws [c.rdShare + c.wrShare * 2 ^ 10 + c.poolShare * 2 ^ 20, c.rdCeil + c.wrCeil * 2 ^ 10 + c.poolCeil * 2 ^ 20, c.burst, 0]) ++
  sect 5 0x36DECE81 (ws [3900, 75 + 85 * 2 ^ 8 + 95 * 2 ^ 16 + 105 * 2 ^ 24, 24, 2 ^ 16, 0, 0, 1000, 1000 + 2 ^ 16, 3600]) ++
  sect 6 0x05E8EF88 (ws [0, 64, 2048, 98304] ++ List.replicate 256 0)
/-- The whole image: header, digest, sections. -/
def exBytes : List Byte :=
  let h := ws [0x4D495745, 1 + 8 * 2 ^ 16, 0, 64 + exSecs.length, 7, 6, 0]
  let h := h ++ leBytes 0x74D9AD73 4
  h ++ (leBytes 0x1C9709BBE8A1B329735CA08162EE64DF7CE76BA0571C0BB3EC12FF8183BFD938 32).reverse ++ exSecs
/-- The cells of bytes from an address. -/
def cellsOf (a : Nat) : List Byte → List Host.Cell
  | [] => []
  | b :: l => if b = 0xFF then cellsOf (a + 1) l else (a, b) :: cellsOf (a + 1) l

theorem smGet_cellsOf_lt (l : List Byte) : ∀ a k : Nat, k < a → smGet 0xFF (cellsOf a l) k = 0xFF := by
  induction l with
  | nil => intro a k _; rfl
  | cons b l ih =>
    intro a k h
    simp only [cellsOf]
    split
    · exact ih _ _ (by omega)
    · simp only [smGet, if_neg (show ¬k = a by omega)]; exact ih _ _ (by omega)

theorem smGet_cellsOf_cons (b : Byte) (l : List Byte) (a k : Nat) (h : a < k) : smGet 0xFF (cellsOf a (b :: l)) k = smGet 0xFF (cellsOf (a + 1) l) k := by
  simp only [cellsOf]
  split
  · rfl
  · simp only [smGet, if_neg (show ¬k = a by omega)]

theorem flashRead_congr (m m' : List Host.Cell) (n : Nat) : ∀ a : Nat, (∀ k, a ≤ k → smGet 0xFF m k = smGet 0xFF m' k) → flashRead m a n = flashRead m' a n := by
  induction n with
  | zero => intro a _; rfl
  | succ n ih =>
    intro a h
    simp only [flashRead, h a (Nat.le_refl _)]
    rw [ih (a + 1) fun k hk => h k (by omega)]

/-- A flash that holds bytes reads back as them. -/
theorem flashRead_cellsOf (l : List Byte) : ∀ a : Nat, flashRead (cellsOf a l) a l.length = l := by
  induction l with
  | nil => intro a; rfl
  | cons b l ih =>
    intro a
    have h0 : smGet 0xFF (cellsOf a (b :: l)) a = b := by
      simp only [cellsOf]
      split
      · rename_i h; rw [h]; exact smGet_cellsOf_lt l _ _ (Nat.lt_succ_self a)
      · simp [smGet]
    show smGet 0xFF (cellsOf a (b :: l)) a :: flashRead (cellsOf a (b :: l)) (a + 1) l.length = b :: l
    rw [h0, flashRead_congr _ _ _ _ fun k hk => smGet_cellsOf_cons b l a k (by omega), ih]

set_option maxRecDepth 100000 in
/-- The loader's checks pass on the image, on a block of eight Hides without a root key hash. -/
theorem witness_ImageLoading_load :
    exBytes.length = 976 ∧ headerLen (exBytes.take 64) = some 976 ∧
    (match checkImage exBytes 976 State.reset.hides State.reset.build.toNat false with
     | .pass i => i.imgSeq == 7
     | _ => false) = true ∧
    (inPh 2).inPhase 2 = true ∧ (inPh 2).boot.onFallback = false ∧ (inPh 2).boot.lcKey = 0 ∧ (inPh 2).hides = State.reset.hides ∧
    (inPh 2).build = State.reset.build := by
  decide +kernel

end Sys2Proof.Tests
end

section
/-! SUPPORT. The canonical form of the state (`State.Wf`) is kept by every function of the model and by every command: one lemma per
function, in the model's order, each from the lemmas of the functions it calls. -/

namespace Sys2Proof.Machine

-- The setters' default arguments are read back only once everything before them is checked, so proofs in parallel would each wait in
-- a thread of its own.
set_option Elab.async false

/-! ### Units, setters and control flow -/

/-- What `State.Wf` asks of one controller: its maps of banks and of fresh granules are in canonical form. -/
structure Ctl.Wf (c : Ctl) : Prop where
  banks : smWf {} c.banks = true
  fresh : smWf 0 c.fresh = true

/-- What `State.Wf` asks of one link: it has its twenty lane groups, and its map of lanes is in canonical form. -/
structure Link.Wf (l : Link) : Prop where
  grps : l.grps.length = 20
  lanes : smWf {} l.lanes = true

/-- What `State.Wf` asks of one Awl: both register files have their size. -/
structure Awl.Wf (a : Awl) : Prop where
  sreg : a.sreg.length = 32
  vreg : a.vreg.length = 16

/-- What `State.Wf` asks of one Currier slice: a row per Hide in each table, and a canonical map of banks. -/
structure Cur.Wf (c : Cur) : Prop where
  rate : c.rate.length = 8
  below : c.below.length = 8
  fall : c.fall.length = 8
  temp : c.temp.length = 8
  bank : smWf {} c.bank = true

/-- What `State.Wf` asks of the counters of one frame: eight of each register. -/
structure Cnt.Wf (c : Cnt) : Prop where
  sel : c.sel.length = 8
  val : c.val.length = 8
  rsh : c.rsh.length = 8
  wsh : c.wsh.length = 8

/-- What `State.Wf` asks of one Harness: its 64 slots. -/
structure Har.Wf (h : Har) : Prop where
  slots : h.slots.length = 64

/-- What `State.Wf` asks of the movers of one sector: four channels. -/
structure Mov.Wf (m : Mov) : Prop where
  ch : m.ch.length = 4

/-- What `State.Wf` asks of one port: no open request is numbered above `n`, the last number given out. -/
structure Port.Wf (n : Nat) (q : Port) : Prop where
  uids : ∀ r ∈ q.tags, r.uid ≤ n

/-- What every entry of a table and its default have, the entry at any index has. -/
theorem getD_of_forall {α : Type} {motive : α → Prop} {l : List α} {d : α} (hl : ∀ a ∈ l, motive a) (hd : motive d) (i : Nat) :
    motive (l.getD i d) := by
  rw [List.getD_eq_getElem?_getD]
  cases e : l[i]? with
  | none => exact hd
  | some a => exact hl a (List.mem_of_getElem? e)

variable {s : State}

/-! #### A unit read from a well-formed state -/

theorem State.Wf.ctl (h : s.Wf) (p : Nat) : (s.ctl p).Wf :=
  getD_of_forall (motive := Ctl.Wf) (fun c hc => ⟨h.bankMaps c hc, h.freshMaps c hc⟩) ⟨rfl, rfl⟩ p

theorem State.Wf.link (h : s.Wf) (p : Nat) : (s.link p).Wf :=
  getD_of_forall (motive := Link.Wf) (fun c hc => ⟨(h.groups c hc).1, (h.groups c hc).2⟩) ⟨rfl, rfl⟩ p

theorem State.Wf.awl (h : s.Wf) (p : Nat) : (s.awl p).Wf :=
  getD_of_forall (motive := Awl.Wf) (fun c hc => ⟨(h.regs c hc).1, (h.regs c hc).2⟩) ⟨rfl, rfl⟩ p

theorem State.Wf.cur (h : s.Wf) (p : Nat) : (s.cur p).Wf :=
  getD_of_forall (motive := Cur.Wf) (fun c hc => have ⟨h1, h2, h3, h4, h5⟩ := h.slices c hc; ⟨h1, h2, h3, h4, h5⟩)
    ⟨rfl, rfl, rfl, rfl, rfl⟩ p

theorem State.Wf.cnt (h : s.Wf) (i : Nat) : (s.cnt i).Wf :=
  getD_of_forall (motive := Cnt.Wf) (fun c hc => have ⟨h1, h2, h3, h4⟩ := h.banks c hc; ⟨h1, h2, h3, h4⟩)
    ⟨rfl, rfl, rfl, rfl⟩ i

theorem State.Wf.har (h : s.Wf) (x : Nat) : (s.har x).Wf :=
  getD_of_forall (motive := Har.Wf) (fun a ha => ⟨h.slots a ha⟩) ⟨rfl⟩ x

theorem State.Wf.mov (h : s.Wf) (x : Nat) : (s.mov x).Wf :=
  getD_of_forall (motive := Mov.Wf) (fun a ha => ⟨h.movers a ha⟩) ⟨rfl⟩ x

theorem State.Wf.port (h : s.Wf) (n : Nat) : (s.port n).Wf s.uid :=
  getD_of_forall (motive := Port.Wf s.uid) (fun q hq => ⟨h.uids q hq⟩) ⟨fun r hr => by cases hr⟩ n

/-! #### One unit written

A unit's new registers keep their own form: by the default argument where the write leaves what the form speaks of, by a proof where
it does not. -/

theorem State.Wf.setCtl (h : s.Wf) {p : Nat} {f : Ctl → Ctl}
    (hf : ∀ c : Ctl, c.Wf → (f c).Wf := by exact fun _ hc => ⟨hc.1, hc.2⟩) : (s.onCtl p f).Wf :=
  have k := hf _ (h.ctl p)
  h.onCtl p f k.banks k.fresh

theorem State.Wf.setLink (h : s.Wf) {p : Nat} {f : Link → Link}
    (hf : ∀ l : Link, l.Wf → (f l).Wf := by exact fun _ hl => ⟨hl.1, hl.2⟩) : (s.onLink p f).Wf :=
  have k := hf _ (h.link p)
  h.onLink p f ⟨k.grps, k.lanes⟩

theorem State.Wf.setAwl (h : s.Wf) {p : Nat} {f : Awl → Awl}
    (hf : ∀ a : Awl, a.Wf → (f a).Wf := by exact fun _ ha => ⟨ha.1, ha.2⟩) : (s.onAwl p f).Wf :=
  have k := hf _ (h.awl p)
  h.onAwl p f ⟨k.sreg, k.vreg⟩

theorem State.Wf.setCur (h : s.Wf) {p : Nat} {f : Cur → Cur}
    (hf : ∀ c : Cur, c.Wf → (f c).Wf := by exact fun _ hc => ⟨hc.1, hc.2, hc.3, hc.4, hc.5⟩) : (s.onCur p f).Wf :=
  have k := hf _ (h.cur p)
  h.onCur p f ⟨k.rate, k.below, k.fall, k.temp, k.bank⟩

theorem State.Wf.setCnt (h : s.Wf) {i : Nat} {f : Cnt → Cnt}
    (hf : ∀ c : Cnt, c.Wf → (f c).Wf := by exact fun _ hc => ⟨hc.1, hc.2, hc.3, hc.4⟩) : (s.onCnt i f).Wf :=
  have k := hf _ (h.cnt i)
  h.onCnt i f ⟨k.sel, k.val, k.rsh, k.wsh⟩

theorem State.Wf.setHar (h : s.Wf) {x : Nat} {f : Har → Har}
    (hf : ∀ a : Har, a.Wf → (f a).Wf := by exact fun _ ha => ⟨ha.1⟩) : (s.onHar x f).Wf :=
  h.onHar x f (hf _ (h.har x)).slots

theorem State.Wf.setMov (h : s.Wf) {x : Nat} {f : Mov → Mov}
    (hf : ∀ a : Mov, a.Wf → (f a).Wf := by exact fun _ ha => ⟨ha.1⟩) : (s.onMov x f).Wf :=
  h.onMov x f (hf _ (h.mov x)).ch

theorem State.Wf.setPort (h : s.Wf) {n : Nat} {f : Port → Port}
    (hf : ∀ q : Port, q.Wf s.uid → (f q).Wf s.uid := by exact fun _ hq => ⟨hq.1⟩) : (s.onPort n f).Wf :=
  h.onPort n f (hf _ (h.port n)).uids

theorem State.Wf.setSec (h : s.Wf) {x : Nat} {f : Sector → Sector} : (s.onSec x f).Wf := h.onSec x f

theorem State.Wf.setPool (h : s.Wf) {x : Nat} {f : Pool → Pool} : (s.onPool x f).Wf := h.onPool x f

theorem State.Wf.setNet (h : s.Wf) {x : Nat} {f : Net → Net} : (s.onNet x f).Wf := h.onNet x f

theorem State.Wf.setFr (h : s.Wf) {u : UnitId} {f : Frame → Frame} : (s.onFr u f).Wf := h.onFr u f

/-- Every field the form does not speak of may change, and the request number may grow. -/
theorem State.Wf.rest (h : s.Wf) {pending : List Instr} {free uid hides : Nat} {build : Word} {dieSlope dieIcpt : Int}
    {expSig : SMap Dword} {image : Option Image} {bad : List (Nat × Nat)} {boot : Boot} {calRec retRec : List (List Byte)}
    {tack : Tack} {jobs : List Job} {rhHeld : List Nat} {acc : List Acc} {pd : Pd} {seq : Seq} {safe : Safe} {tap : Tap}
    (hu : s.uid ≤ uid := by exact Nat.le_refl _) :
    ({ s with
      pending := pending, free := free, uid := uid, hides := hides, build := build, dieSlope := dieSlope, dieIcpt := dieIcpt
      expSig := expSig, image := image, bad := bad, boot := boot, calRec := calRec, retRec := retRec, tack := tack, jobs := jobs
      rhHeld := rhHeld, acc := acc, pd := pd, seq := seq, safe := safe, tap := tap } : State).Wf :=
  h.others rfl hu

theorem State.Wf.setMgmt (h : s.Wf) {m : Mgmt} (hm : m.elog = s.mgmt.elog := by rfl) : ({ s with mgmt := m } : State).Wf :=
  h.withMgmt m (hm ▸ h.elog)

theorem State.Wf.setFlash (h : s.Wf) {f : Flash} (hf : f.cells = s.flash.cells := by rfl) : ({ s with flash := f } : State).Wf :=
  h.withFlash f (hf ▸ h.flash)

/-- The array's bytes change, in canonical form, and with them the blocks found uncorrectable. -/
theorem State.Wf.setCells (h : s.Wf) {m : List Host.Cell} {b : List (Nat × Nat)} (hm : smWf 0 m = true) :
    ({ s with cells := m, bad := b } : State).Wf := (h.withCells m hm).rest

/-! #### Every unit of a kind written -/

/-- Every network changes. -/
theorem State.Wf.mapNets (h : s.Wf) {f : Net → Net} :
    ({ s with nets := s.nets.map f } : State).Wf :=
  ⟨h.cells, h.flash, h.frames, h.cnts, h.ports, h.ctls, h.links, h.awls, h.curs, h.sectors, h.pools, (List.length_map ..).trans h.nets,
  h.hars, h.movs, h.elog, h.uids, h.regs, h.slots, h.movers, h.bankMaps, h.freshMaps, h.groups, h.slices, h.banks⟩

/-- Every channel's link changes. -/
theorem State.Wf.mapLinks (h : s.Wf) {f : Link → Link}
    (hf : ∀ l : Link, l.Wf → (f l).Wf := by exact fun _ hl => ⟨hl.1, hl.2⟩) :
    ({ s with links := s.links.map f } : State).Wf :=
  ⟨h.cells, h.flash, h.frames, h.cnts, h.ports, h.ctls, (List.length_map ..).trans h.links, h.awls, h.curs, h.sectors, h.pools, h.nets,
  h.hars, h.movs, h.elog, h.uids, h.regs, h.slots, h.movers, h.bankMaps, h.freshMaps,
  List.forall_mem_map.2 fun l hl => have k := hf l ⟨(h.groups l hl).1, (h.groups l hl).2⟩; ⟨k.grps, k.lanes⟩,
  h.slices, h.banks⟩

/-- Every AWL changes. -/
theorem State.Wf.mapAwls (h : s.Wf) {f : Awl → Awl}
    (hf : ∀ a : Awl, a.Wf → (f a).Wf := by exact fun _ ha => ⟨ha.1, ha.2⟩) :
    ({ s with awls := s.awls.map f } : State).Wf :=
  ⟨h.cells, h.flash, h.frames, h.cnts, h.ports, h.ctls, h.links, (List.length_map ..).trans h.awls, h.curs, h.sectors, h.pools, h.nets,
  h.hars, h.movs, h.elog, h.uids,
  List.forall_mem_map.2 fun a ha => have k := hf a ⟨(h.regs a ha).1, (h.regs a ha).2⟩; ⟨k.sreg, k.vreg⟩,
  h.slots, h.movers, h.bankMaps, h.freshMaps, h.groups, h.slices, h.banks⟩

/-- Every harness changes. -/
theorem State.Wf.mapHars (h : s.Wf) {f : Har → Har}
    (hf : ∀ a : Har, a.Wf → (f a).Wf := by exact fun _ ha => ⟨ha.1⟩) :
    ({ s with hars := s.hars.map f } : State).Wf :=
  ⟨h.cells, h.flash, h.frames, h.cnts, h.ports, h.ctls, h.links, h.awls, h.curs, h.sectors, h.pools, h.nets,
  (List.length_map ..).trans h.hars, h.movs, h.elog, h.uids, h.regs, List.forall_mem_map.2 fun a ha => (hf a ⟨h.slots a ha⟩).slots,
  h.movers, h.bankMaps, h.freshMaps, h.groups, h.slices, h.banks⟩

/-- Every sector's movers change. -/
theorem State.Wf.mapMovs (h : s.Wf) {f : Mov → Mov}
    (hf : ∀ a : Mov, a.Wf → (f a).Wf := by exact fun _ ha => ⟨ha.1⟩) :
    ({ s with movs := s.movs.map f } : State).Wf :=
  ⟨h.cells, h.flash, h.frames, h.cnts, h.ports, h.ctls, h.links, h.awls, h.curs, h.sectors, h.pools, h.nets, h.hars,
  (List.length_map ..).trans h.movs, h.elog, h.uids, h.regs, h.slots, List.forall_mem_map.2 fun a ha => (hf a ⟨h.movers a ha⟩).ch,
  h.bankMaps, h.freshMaps, h.groups, h.slices, h.banks⟩

/-- Every port changes. -/
theorem State.Wf.mapPorts (h : s.Wf) {f : Port → Port}
    (hf : ∀ q : Port, q.Wf s.uid → (f q).Wf s.uid := by exact fun _ hq => ⟨hq.1⟩) :
    ({ s with ports := s.ports.map f } : State).Wf :=
  ⟨h.cells, h.flash, h.frames, h.cnts, (List.length_map ..).trans h.ports, h.ctls, h.links, h.awls, h.curs, h.sectors, h.pools, h.nets,
  h.hars, h.movs, h.elog, List.forall_mem_map.2 fun q hq => (hf q ⟨h.uids q hq⟩).uids, h.regs, h.slots, h.movers, h.bankMaps,
  h.freshMaps, h.groups, h.slices, h.banks⟩

/-! #### Control flow -/

theorem State.Wf.ite {a b : State} {c : Prop} [Decidable c] (h : a.Wf) (k : b.Wf) :
    (if c then a else b).Wf := by
  split <;> assumption

theorem State.Wf.iteSnd {α : Type} {a b : α × State} {c : Prop} [Decidable c] (h : a.2.Wf) (k : b.2.Wf) :
    (if c then a else b).2.Wf := by split <;> assumption

/-- The state of an answer, or `s` where there is none. -/
theorem State.Wf.getDSnd {α : Type} (h : s.Wf) {o : Option (α × State)} (ho : ∀ {k t}, o = some (k, t) → t.Wf) :
    ((o.map (·.2)).getD s).Wf := by
  cases o with
  | none => exact h
  | some r => exact ho rfl

theorem State.Wf.foldl {α : Type} (h : s.Wf) {l : List α} {f : State → α → State} (hf : ∀ {t a}, t.Wf → (f t a).Wf) :
    (l.foldl f s).Wf :=
  List.foldlRecOn _ _ h fun _ ht _ _ => hf ht

/-- The state a call answers with, once its answer is taken apart by `e`. -/
theorem State.Wf.snd_eq {α : Type} {x y : α × State} (h : x.2.Wf) (e : x = y) : y.2.Wf := e ▸ h

/-! #### Commands -/

/-- A command's outcome from `s` is a next state, well formed where `s` is. -/
def Keeps (s : State) (o : Out) : Prop := ∃ t, o = .next t ∧ (s.Wf → t.Wf)

theorem Keeps.next {t : State} (h : s.Wf → t.Wf) : Keeps s (.next t) := ⟨t, rfl, h⟩

theorem Keeps.same : Keeps s (.next s) := ⟨s, rfl, id⟩

theorem Keeps.ite {a b : Out} {c : Prop} [Decidable c] (h : Keeps s a) (k : Keeps s b) :
    Keeps s (if c then a else b) := by
  split <;> assumption

theorem Keeps.onChan {p : Nat} {f : State → State} (hf : s.Wf → (f s).Wf) :
    Keeps s (onChan p s f) :=
  .ite (.next hf) .same

theorem Keeps.onPortN {n : Nat} {f : State → State} (hf : s.Wf → (f s).Wf) :
    Keeps s (onPortN n s f) :=
  .ite (.next hf) .same

theorem Keeps.onSect {x : Nat} {f : State → State} (hf : s.Wf → (f s).Wf) :
    Keeps s (onSect x s f) :=
  .ite (.next hf) .same

theorem Keeps.onUnit {u : UnitId} {f : State → State} (hf : s.Wf → (f s).Wf) :
    Keeps s (onUnit u s f) :=
  .ite (.next hf) .same

theorem Keeps.onHarness {x k : Nat} {f : State → State} (hf : s.Wf → (f s).Wf) :
    Keeps s (onHarness x k s f) :=
  .ite (.next hf) .same

theorem Keeps.onPhase {ph : BitVec 4} {f : State → State} (hf : s.Wf → (f s).Wf) :
    Keeps s (onPhase ph s f) :=
  .ite (.next hf) .same

/-! ### The array written -/

theorem State.Wf.store (h : s.Wf) {p x : Nat} {b : Block} : (s.store p x b).Wf :=
  h.setCells (cellsWrite_wf _ _ _ h.cells)

theorem State.Wf.markBad (h : s.Wf) {p x : Nat} : (s.markBad p x).Wf := .ite h h.rest

theorem State.Wf.setFresh (h : s.Wf) {p g v : Nat} : (s.setFresh p g v).Wf := h.setCtl fun _ hc => ⟨hc.1, smSet_wf _ _ _ _ hc.2⟩

theorem State.Wf.zeroGran (h : s.Wf) {p g : Nat} : (s.zeroGran p g).Wf :=
  h.setCells (List.foldlRecOn (motive := fun m => smWf 0 m = true) _ _ h.cells fun m hm _ _ => smClear_wf 0 m _ _ hm)

theorem State.Wf.openGran (h : s.Wf) {p g : Nat} : (s.openGran p g).Wf := .ite h.zeroGran.setFresh h

theorem State.Wf.newer (h : s.Wf) {p off : Nat} : (s.newer p off).Wf := h.setCur.setCtl

theorem State.Wf.poke1 (h : s.Wf) {p x : Nat} {b : Block} : (s.poke1 p x b).Wf := h.openGran.newer.store.setCtl

theorem State.Wf.poke (h : s.Wf) {p x : Nat} {b : Block} : (s.poke p x b).Wf := by
  unfold State.poke
  split
  · exact h.poke1.poke1
  · exact h.poke1

theorem State.Wf.touch (h : s.Wf) {write : Bool} {l x : Nat} : (s.touch write l x).Wf := h.rest

theorem State.Wf.touchRd (h : s.Wf) {a origin n : Nat} : (s.touchRd a origin n).Wf := by
  induction n generalizing s a with
  | zero => exact h
  | succ n ih =>
    refine ih ?_
    split
    · exact h
    · exact h.touch

theorem State.Wf.memWrite (h : s.Wf) {l x : Nat} {b : Block} : (s.memWrite l x b).2.Wf := by
  unfold State.memWrite
  split
  · exact h
  · exact .iteSnd h h.poke.touch

theorem State.Wf.paWrite (h : s.Wf) {a origin : Nat} {b : Block} : (s.paWrite a origin b).2.Wf := by
  unfold State.paWrite
  split
  · exact h
  · exact h.memWrite

theorem State.Wf.paWriteN (h : s.Wf) {a origin n : Nat} {l : List Byte} : (s.paWriteN a origin n l).2.Wf := by
  induction n generalizing s a l with
  | zero => exact h
  | succ n ih =>
    unfold State.paWriteN
    split
    next e =>
      split
      · exact ih (h.paWrite.snd_eq e)
      · exact h

theorem State.Wf.paPatch (h : s.Wf) {a origin : Nat} {bs : List Byte} : (s.paPatch a origin bs).2.Wf := by
  unfold State.paPatch
  split
  · exact .iteSnd h.paWrite h

theorem State.Wf.takeFree (h : s.Wf) : (s.takeFree).2.Wf := h.rest

/-! ### Flags, counters and the error log -/

theorem Cnt.Wf.cntAdd {c : Cnt} (hc : c.Wf) {n amt src : Nat} {t : Dword} {x0 x1 : Word} : (cntAdd c n amt t src x0 x1).Wf := by
  have hv : ({ c with val := upd c.val n fun _ => BitVec.ofNat 64 ((c.val.getD n 0).toNat + amt) } : Cnt).Wf :=
    ⟨hc.1, (upd_length ..).trans hc.2, hc.3, hc.4⟩
  unfold Machine.cntAdd
  extract_lets v c1 c2
  split
  · exact hv
  · split
    · split <;> exact ⟨hv.1, hv.2, hv.3, hv.4⟩
    · exact ⟨hv.1, hv.2, hv.3, hv.4⟩

theorem Cnt.Wf.cntFrame {c : Cnt} (hc : c.Wf) {f u : UnitId} {code : Nat} {amt : Option Nat → Nat × Nat} {t : Dword} {x0 x1 : Word} :
    (cntFrame c f u code amt t x0 x1).Wf := by
  refine List.foldlRecOn (motive := Cnt.Wf) _ _ hc fun c hc n _ => ?_
  extract_lets w a k
  split
  · split
    · exact hc
    · exact hc.cntAdd
  · exact hc

theorem State.Wf.tackStep (h : s.Wf) : (s.tackStep).Wf := by
  unfold State.tackStep
  split
  · exact h
  · exact (h.foldl (·.setFr)).rest

theorem State.Wf.mgmtCycle (h : s.Wf) : (mgmtCycle s).Wf := .ite h.tackStep.setMgmt h.tackStep.setMgmt

theorem State.Wf.countX (h : s.Wf) {u : UnitId} {code : Nat} {amt : Option Nat → Nat × Nat} {x0 x1 : Word} :
    (s.countX u code amt x0 x1).Wf :=
  .ite (h.foldl fun h' => .ite h' (h'.setCnt fun _ hc => hc.cntFrame)) h

theorem State.Wf.count (h : s.Wf) {u : UnitId} {code : Nat} {cls : Option Nat} {n : Nat} {x0 x1 : Option Word} :
    (s.count u code cls n x0 x1).Wf :=
  .ite h (.countX (.ite h.rest h))

theorem State.Wf.countAwl (h : s.Wf) {p code : Nat} {cls : Option Nat} {n : Nat} : (s.countAwl p code cls n).Wf := h.count

theorem State.Wf.countL (h : s.Wf) {u : UnitId} {code : Nat} {now prev : Bool} : (s.countL u code now prev).Wf := .ite h.countX h

theorem State.Wf.countLC (h : s.Wf) {u : UnitId} {code : Nat} {now prev : BitVec 16} :
    (s.countLC u code now prev).Wf :=
  .ite h h.countX

theorem State.Wf.latch (h : s.Wf) {g : UnitId} {i : Nat} {k : Cls3} : (s.latch g i k).Wf := .ite h (.ite h.setFr h.setFr.count)

theorem State.Wf.latchUp (h : s.Wf) {u : UnitId} : (s.latchUp u).Wf := by
  unfold State.latchUp
  split
  · exact h
  · exact h.foldl fun h' => .ite h'.latch h'

theorem State.Wf.collect (h : s.Wf) {u : UnitId} : (s.collect u).Wf := h.foldl (·.latchUp)

theorem State.Wf.report (h : s.Wf) {u : UnitId} {bit : Nat} : (s.report u bit).Wf := .ite h h.setFr.collect

theorem State.Wf.clearSrc (h : s.Wf) {u : UnitId} {m : BitVec 16} :
    (s.clearSrc u m).Wf :=
  h.setFr.foldl fun h' => .ite h'.latchUp h'

theorem State.Wf.fire (h : s.Wf) {u : UnitId} {bit : Nat} {real : Bool} : (s.fire u bit real).2.Wf := .iteSnd h.setFr h

/-- The log takes an entry only while it holds fewer than 1,024 (R248). -/
theorem State.Wf.log (h : s.Wf) {r : LogRec} : (s.log r).Wf := by
  unfold State.log
  extract_lets m s1
  by_cases hl : m.elog.length < (if r.kind = 1 then 960 else 1024)
  · rw [if_pos hl]
    have hb : m.elog.length < 1024 := Nat.lt_of_lt_of_le hl (by split <;> decide)
    exact (h.withMgmt _ (by simpa using hb)).count
  · rw [if_neg hl]
    exact .ite h.setMgmt h.setMgmt

theorem State.Wf.commit (h : s.Wf) {s0 : State} {us : List UnitId} : (s.commit s0 us).Wf := .ite h h.rest

theorem State.Wf.logPoison (h : s.Wf) {p g source req count : Nat} : (s.logPoison p g source req count).Wf := h.log.setCtl

/-! ### Regulation -/

theorem Ctl.Wf.onDir {c : Ctl} (hc : c.Wf) {write : Bool} {f : Reg → Reg} : (c.onDir write f).Wf := by
  unfold Ctl.onDir
  split <;> exact ⟨hc.1, hc.2⟩

theorem State.Wf.book (h : s.Wf) {x pos part c : Nat} {k : Slot} {t : State} (e : s.book x pos part c = some (k, t)) : t.Wf := by
  unfold State.book at e
  split at e
  · cases e
    exact h.setPool.count
  · split at e
    · cases e
      exact .ite h.setPool.count.count h.setPool.count
    · cases e

theorem State.Wf.bookN (h : s.Wf) {x pos part c n : Nat} {l : List Slot} {t : State}
    (e : s.bookN x pos part c n = some (l, t)) : t.Wf := by
  induction n generalizing s l t with
  | zero => cases e; exact h
  | succ n ih =>
    unfold State.bookN at e
    split at e
    · cases e
    next e1 =>
      split at e
      · cases e
      next e2 => cases e; exact ih (h.book e1) e2

theorem State.Wf.freeSlot (h : s.Wf) {k : Slot} : (s.freeSlot k).Wf := .ite h h.setPool

theorem State.Wf.freeSlots (h : s.Wf) {l : List Slot} : (s.freeSlots l).Wf := h.foldl (·.freeSlot)

theorem State.Wf.poolScale (h : s.Wf) {x : Nat} : (s.poolScale x).Wf := .ite h h.setPool

theorem State.Wf.hold (h : s.Wf) {n : Nat} {hd : Hold} : (s.hold n hd).Wf := h.setPort fun _ hq => by split; exacts [hq, ⟨hq.1⟩]

theorem State.Wf.unhold (h : s.Wf) {n : Nat} {hd : Hold} : (s.unhold n hd).Wf := h.setPort

theorem State.Wf.refreshHolds (h : s.Wf) {p : Nat} : (s.refreshHolds p).Wf := by
  unfold State.refreshHolds
  split
  · exact h
  · exact h.setPort

theorem State.Wf.periodStart (h : s.Wf) {p : Nat} : (s.periodStart p).Wf := h.setCtl.refreshHolds

/-! ### Answers at the ports -/

theorem Port.Wf.mapTags {n : Nat} {q : Port} (hq : q.Wf n) {f : Req → Req} (hf : ∀ r, (f r).uid = r.uid) :
    ∀ r ∈ q.tags.map f, r.uid ≤ n :=
  List.forall_mem_map.2 fun r hr => (hf r).symm ▸ hq.uids r hr

theorem Port.Wf.filterTags {n : Nat} {q : Port} (hq : q.Wf n) {f : Req → Bool} : ∀ r ∈ q.tags.filter f, r.uid ≤ n :=
  fun r hr => hq.uids r (List.mem_filter.1 hr).1

theorem Port.Wf.addTag {n : Nat} {q : Port} (hq : q.Wf n) {r : Req} (hr : r.uid ≤ n) : ∀ r' ∈ q.tags ++ [r], r'.uid ≤ n :=
  List.forall_mem_append.2 ⟨hq.uids, List.forall_mem_singleton.2 hr⟩

/-- A request at a port or of a mover changes, its number kept. -/
theorem State.Wf.onReq (h : s.Wf) {n uid : Nat} {f : Req → Req} (hf : ∀ r, (f r).uid = r.uid := by exact fun _ => rfl) :
    (s.onReq n uid f).Wf :=
  .ite (h.setPort fun _ hq => ⟨hq.mapTags fun r => by split; exacts [hf r, rfl]⟩)
    (.ite h (h.setMov fun _ hb => ⟨(upd_length ..).trans hb.1⟩))

theorem State.Wf.misb (h : s.Wf) {n bit : Nat} : (s.misb n bit).Wf := h.setCtl

theorem State.Wf.noteBad (h : s.Wf) {n : Nat} {code : BitVec 4} : (s.noteBad n code).Wf := .ite h.misb h

theorem State.Wf.pushAck (h : s.Wf) {n : Nat} {a : Ack} : (s.pushAck n a).Wf := h.setPort.noteBad

theorem State.Wf.pushBeat (h : s.Wf) {n : Nat} {b : RspBeat} : (s.pushBeat n b).Wf := h.setPort.noteBad

theorem State.Wf.putAns (h : s.Wf) {n : Nat} {a : Ans} : (s.putAns n a).Wf := by
  unfold State.putAns
  split
  · exact h.pushBeat
  · exact h.pushAck

theorem State.Wf.sendAns (h : s.Wf) {n : Nat} {r : Req} {a : Ans} : (s.sendAns n r a).Wf := .ite h.setNet h.putAns

theorem State.Wf.noteEnd (h : s.Wf) {n uid : Nat} {code : BitVec 4} : (s.noteEnd n uid code).Wf := h.onReq

theorem State.Wf.finish (h : s.Wf) {n uid : Nat} {code : BitVec 4} {detail : Nat} : (s.finish n uid code detail).Wf := by
  unfold State.finish
  split
  · exact h
  · exact .ite h h.noteEnd.sendAns

theorem State.Wf.finishData (h : s.Wf) {n uid : Nat} {code : BitVec 4} {d : Block} : (s.finishData n uid code d).Wf := by
  unfold State.finishData
  split
  · exact h
  · exact .ite h (.ite h.finish h.onReq.sendAns)

theorem State.Wf.release (h : s.Wf) {n uid : Nat} : (s.release n uid).Wf := by
  unfold State.release
  split
  · exact h.finishData
  · exact h

theorem State.Wf.jobDone (h : s.Wf) {own uid : Nat} : (s.jobDone own uid).Wf := .ite (.ite h.rest.release h.rest) h.rest

theorem State.Wf.settleAcc (h : s.Wf) {own cls : Nat} {uid : Option Nat} : (s.settleAcc own cls uid).Wf := by
  unfold State.settleAcc
  extract_lets l s1 s2 u s3
  have h1 : s1.Wf := h.rest
  have h2 : s2.Wf := .ite (h1.rest (Nat.le_succ _)) h1
  have h3 : s3.Wf := h2.rest
  refine .ite h1 ?_
  refine h3.foldl fun h' => ?_
  split
  · extract_lets w
    exact h'.setCtl fun _ hc => by split; exacts [⟨hc.1, hc.2⟩, ⟨hc.1, hc.2⟩]

theorem State.Wf.agent (h : s.Wf) {own cls : Nat} {f : State → State} {uid : Option Nat} (hf : ∀ {t}, t.Wf → (f t).Wf) :
    (s.agent own cls f uid).Wf :=
  .ite h (.ite h (hf h.rest).settleAcc.rest)

theorem State.Wf.posted (h : s.Wf) {α : Type} {own cls : Nat} {f : State → α × State} (hf : ∀ {t}, t.Wf → (f t).2.Wf) :
    (State.posted s own cls f).2.Wf := by
  unfold State.posted
  split
  next e =>
    exact ((hf h.rest).snd_eq e).settleAcc.rest

theorem State.Wf.checkEnd (h : s.Wf) {n uid : Nat} : (s.checkEnd n uid).Wf := by
  unfold State.checkEnd
  split
  · exact h
  · exact .ite h.finish h

theorem State.Wf.blocksDone (h : s.Wf) {n uid k : Nat} : (s.blocksDone n uid k).Wf := .ite h.jobDone h.onReq.checkEnd

theorem State.Wf.blockFail (h : s.Wf) {n uid idx : Nat} {code : BitVec 4} : (s.blockFail n uid idx code).Wf := by
  unfold State.blockFail
  refine .ite h.jobDone ?_
  split
  · exact h
  · exact .ite h.finish (.ite h h.onReq.setPort.checkEnd)

theorem State.Wf.flushRead (h : s.Wf) {n uid k : Nat} : (s.flushRead n uid k).Wf := by
  induction k generalizing s with
  | zero => exact h
  | succ k ih =>
    unfold State.flushRead
    split
    · exact h
    · split
      · exact h
      · split
        · exact h
        · exact ih h.onReq.sendAns

theorem State.Wf.gotBlock (h : s.Wf) {n uid idx : Nat} {d : Block} {bad : Bool} : (s.gotBlock n uid idx d bad).Wf :=
  .ite h.jobDone h.onReq.flushRead

theorem State.Wf.recallAns (h : s.Wf) {n uid : Nat} : (s.recallAns n uid).Wf := .ite h h.mapNets.onReq

theorem State.Wf.finishHome (h : s.Wf) {n uid : Nat} {code : BitVec 4} : (s.finishHome n uid code).Wf := by
  unfold State.finishHome
  extract_lets s1
  have h1 : s1.Wf := h.recallAns
  split
  · exact h1
  · exact .ite h1 h1.noteEnd.putAns

theorem State.Wf.endWhere (h : s.Wf) {pick : Nat → Req → Bool} {code : BitVec 4} : (s.endWhere pick code).Wf :=
  h.foldl fun h' => h'.foldl (·.finishHome)

theorem State.Wf.endPort (h : s.Wf) {n : Nat} {code : BitVec 4} : (s.endPort n code).Wf := h.endWhere

theorem State.Wf.histAdd (h : s.Wf) {n op cls : Nat} {code : BitVec 4} {l : Nat} :
    (s.histAdd n op cls code l).Wf :=
  .ite h.setSec h

theorem State.Wf.flushed (h : s.Wf) {n : Nat} : (s.flushed n).Wf := h.setPort fun _ hq => by split; exacts [⟨hq.1⟩, hq]

theorem State.Wf.presentAck (h : s.Wf) {n : Nat} : (s.presentAck n).Wf := by
  unfold State.presentAck
  split
  · exact h.setPort
  · extract_lets s1
    have h1 : s1.Wf := h.setPort.flushed
    refine .ite h1 ?_
    split
    · exact h1
    · exact h1.histAdd.freeSlots.setPort fun _ hq => ⟨hq.filterTags⟩

theorem State.Wf.takeBeat (h : s.Wf) {n : Nat} : (s.takeBeat n).Wf := by
  unfold State.takeBeat
  split
  · exact h
  · extract_lets s1 s2 now
    have h2 : s2.Wf := h.setPort.flushed.unhold
    split
    · exact h2
    · exact .ite (h2.histAdd.freeSlots.setPort fun _ hq => ⟨hq.filterTags⟩) h2.freeSlots.onReq

/-! ### The walk of self-test -/

theorem State.Wf.onBist (h : s.Wf) {f : Bist → Bist} : (s.onBist f).Wf := h.rest

theorem State.Wf.walkNext (h : s.Wf) : (s.walkNext).Wf := by
  unfold State.walkNext
  extract_lets b go s1
  have h1 : s1.Wf := h.onBist
  split
  · exact h.onBist
  · exact h1.onBist

theorem State.Wf.bistLog (h : s.Wf) {result reached : Nat} : (s.bistLog result reached).Wf := by
  unfold State.bistLog
  exact h.onBist

theorem State.Wf.onBUnit (h : s.Wf) {f : BUnit → BUnit} : (s.onBUnit f).Wf := h.onBist

theorem State.Wf.sliceNext (h : s.Wf) : (s.sliceNext).Wf := .ite h.onBUnit.onBist h.onBUnit.walkNext

theorem State.Wf.sliceLost (h : s.Wf) : (s.sliceLost).Wf := .ite h.onBUnit h.onBUnit.onBUnit.onBist.walkNext

theorem State.Wf.sliceUnhold (h : s.Wf) : (s.sliceUnhold).Wf := by
  unfold State.sliceUnhold
  split
  · exact h.unhold
  · exact h

theorem State.Wf.sliceEnd (h : s.Wf) {result reached : Nat} : (s.sliceEnd result reached).Wf := by
  unfold State.sliceEnd
  extract_lets s1 ran s2
  have h1 : s1.Wf := h.sliceUnhold.onBist
  have h2 : s2.Wf := h1.bistLog.onBist.onBUnit.onBUnit
  split
  · exact h1.onBist.onBUnit.sliceNext
  · exact .ite h2.sliceNext h2.onBist
  · exact h1.bistLog.onBist.sliceLost
  · exact h1.onBist.sliceLost
  · exact h1.onBist.sliceLost

theorem State.Wf.sliceCut (h : s.Wf) : (s.sliceCut).Wf := by
  unfold State.sliceCut
  extract_lets b
  refine .ite ?_ ?_
  · split
    next e =>
      exact (h.takeFree.snd_eq e).onBist
  · exact h

theorem State.Wf.sliceBreak (h : s.Wf) {pick : UnitId → Bool} : (s.sliceBreak pick).Wf := .ite h.sliceCut.sliceEnd h

/-! ### The arbiter and admission -/

theorem Ctl.Wf.onGroup {c : Ctl} (hc : c.Wf) {key : Nat} {f : OGroup → OGroup} : (c.onGroup key f).Wf := ⟨hc.1, hc.2⟩

theorem State.Wf.onRange (h : s.Wf) {f : RangeOp → RangeOp} : (s.onRange f).Wf := h.rest

theorem State.Wf.currierRead (h : s.Wf) {p port off : Nat} : (s.currierRead p port off).Wf := .ite h.setCtl h.setCtl.count

theorem State.Wf.scrubBack (h : s.Wf) {p off n : Nat} {bad : Bool} : (s.scrubBack p off n bad).Wf := by
  unfold State.scrubBack
  split
  · exact h
  · exact h.onRange

theorem State.Wf.profBack (h : s.Wf) {p off n : Nat} {bad : Bool} : (s.profBack p off n bad).Wf :=
  h.setCur fun _ hc => by
    split
    · exact ⟨hc.1, hc.2, hc.3, hc.4, hc.5⟩
    · split
      · exact ⟨hc.1, hc.2, hc.3, hc.4, hc.5⟩
      · exact hc

theorem State.Wf.currierBack (h : s.Wf) {p : Nat} {e : Entry} {n : Nat} {bad : Bool} : (s.currierBack p e n bad).Wf :=
  .ite h.scrubBack (.ite h.profBack h)

theorem State.Wf.firstWrite (h : s.Wf) {p off : Nat} : (s.firstWrite p off).Wf := .ite h.openGran.setCtl.count h

theorem State.Wf.enterWrite (h : s.Wf) {p : Nat} {e : Entry} : (s.enterWrite p e).Wf := h.setCtl

theorem State.Wf.floorSlot (h : s.Wf) {p part : Nat} {k : Slot} {t : State} (e : s.floorSlot p part = some (k, t)) : t.Wf := by
  unfold State.floorSlot at e
  extract_lets k at e
  split at e
  · cases e
    exact h.setPool
  · cases e

theorem State.Wf.mirrorPut (h : s.Wf) {p off : Nat} {b : Block} : (s.mirrorPut p off b).Wf := by
  unfold State.mirrorPut
  split
  · exact h
  · exact (h.firstWrite.newer.getDSnd h.firstWrite.newer.floorSlot).enterWrite

theorem State.Wf.combBack (h : s.Wf) {p off : Nat} : (s.combBack p off).Wf := by
  unfold State.combBack
  split
  · refine .ite h ?_
    split
    · exact h
    next e =>
      exact (h.floorSlot e).setCtl.enterWrite
  · exact h

theorem State.Wf.runOp (h : s.Wf) {p off : Nat} {o : ROp} {old : Block} : (s.runOp p off o old).Wf :=
  .ite h.freeSlots (.ite h.setCtl.newer.mirrorPut.count.finishData h.setCtl.newer.mirrorPut.count.blocksDone)

theorem State.Wf.runPend (h : s.Wf) {p off n : Nat} : (s.runPend p off n).Wf := by
  induction n generalizing s with
  | zero => exact h
  | succ n ih =>
    unfold State.runPend
    split
    · exact ih h.setCtl.runOp
    · exact h

theorem State.Wf.resolveComb (h : s.Wf) {p off : Nat} {v : Block} : (s.resolveComb p off v).Wf := h.setCtl.runPend

theorem State.Wf.failComb (h : s.Wf) {p off : Nat} {code : BitVec 4} : (s.failComb p off code).Wf :=
  h.freeSlots.setCtl.foldl (·.blockFail)

theorem State.Wf.discardGran (h : s.Wf) {p g : Nat} : (s.discardGran p g).Wf :=
  h.freeSlots.setCtl.setCur.foldl fun h' => .ite h'.freeSlots.blocksDone h'.freeSlots

theorem State.Wf.markGran (h : s.Wf) {p g v : Nat} : (s.markGran p g v).Wf := by
  unfold State.markGran
  extract_lets s1
  have h1 : s1.Wf := h.discardGran.setFresh
  split
  · exact h1.discardGran.setFresh
  · exact h1

theorem State.Wf.clearGran (h : s.Wf) {p g : Nat} : (s.clearGran p g).Wf := h.markGran

theorem State.Wf.poisonGran (h : s.Wf) {p g : Nat} : (s.poisonGran p g).Wf := h.markGran

theorem State.Wf.enterOp (h : s.Wf) {p off : Nat} {o : ROp} : (s.enterOp p off o).Wf := by
  unfold State.enterOp
  split
  · exact .ite h.runOp h.setCtl
  · extract_lets s1 zero s2 s3
    have h1 : s1.Wf := by
      unfold s1
      split
      · exact h.combBack
      · exact h
    have h2 : s2.Wf := .ite h1.firstWrite h1
    have h3 : s3.Wf := h2.setCtl
    exact .ite h3.runPend h3.setCtl

theorem State.Wf.startDue (h : s.Wf) {p key : Nat} : (s.startDue p key).Wf := by
  unfold State.startDue
  split
  · exact h
  · split
    · exact h
    · exact h.setCtl

theorem State.Wf.contribute (h : s.Wf) {p : Nat} {w : Work} : (s.contribute p w).Wf := by
  unfold State.contribute
  extract_lets idx count
  split
  · exact .ite h.freeSlots.finish (.startDue (h.setCtl fun _ hc => hc.onGroup))
  · exact .ite h.setCtl.startDue h.setCtl

theorem State.Wf.ordNext (h : s.Wf) {p key : Nat} : (s.ordNext p key).Wf := by
  unfold State.ordNext
  split
  · exact h
  · refine .ite (.startDue (h.setCtl fun _ hc => hc.onGroup)) ?_
    extract_lets s1
    have h1 : s1.Wf := h.setCtl
    split
    · exact h1
    · exact h1.setCtl.foldl (·.contribute)

theorem State.Wf.ordStep (h : s.Wf) {p : Nat} : (s.ordStep p).Wf := by
  unfold State.ordStep
  split
  · exact h
  · extract_lets runs s1 s2
    have h1 : s1.Wf := h.setCtl
    have h2 : s2.Wf := .ite h1.freeSlots (.ite h1.freeSlots.blockFail h1.enterOp)
    exact .ite h (.ite h2.ordNext h2)

theorem State.Wf.bookFor (h : s.Wf) {p : Nat} {write : Bool} {w : Work} {l : List Slot} {t : State}
    (e : s.bookFor p write w = some (l, t)) : t.Wf := by
  unfold State.bookFor at e
  split at e
  · cases e
    exact h
  · obtain ⟨⟨k, u⟩, e1, e2⟩ := Option.map_eq_some_iff.1 e
    cases e2
    exact h.book e1

theorem State.Wf.account (h : s.Wf) {p : Nat} {write : Bool} {w : Work} : (s.account p write w).Wf :=
  .ite (h.setCtl fun _ hc => hc.onDir) (.count (h.setCtl fun _ hc => hc.onDir))

theorem State.Wf.admitRead (h : s.Wf) {p : Nat} {w : Work} : (s.admitRead p w).Wf := by
  unfold State.admitRead
  refine .ite h.setCtl ?_
  extract_lets st filling mine
  split
  · exact h
  next e =>
    extract_lets s1 s2 s3 s4
    have h1 : s1.Wf := .ite (h.bookFor e).onReq (h.bookFor e)
    have h2 : s2.Wf := h1.setCtl
    have h3 : s3.Wf := .ite h2 h2.freeSlots
    have h4 : s4.Wf := h2.account.combBack
    exact .ite (.ite h3 h3.gotBlock) h4.setCtl

theorem State.Wf.admitBack (h : s.Wf) {p : Nat} {w : Work} {k : List Slot} : (s.admitBack p w k).Wf :=
  .ite h.freeSlots (.enterWrite (.count (.ite h.setCur.account.mirrorPut.setCtl.onRange h.setCur.account.mirrorPut.setCtl)))

theorem State.Wf.admitOrd (h : s.Wf) {p : Nat} {w : Work} : (s.admitOrd p w).Wf := .ite h.account h.account.contribute

theorem State.Wf.admitPlain (h : s.Wf) {p : Nat} {w : Work} {k : List Slot} : (s.admitPlain p w k).Wf :=
  .ite h.account.combBack.firstWrite.newer.enterWrite h.account.combBack.firstWrite.newer.enterWrite.mirrorPut.blocksDone

theorem State.Wf.admitWrite (h : s.Wf) {p : Nat} {w : Work} : (s.admitWrite p w).Wf := by
  unfold State.admitWrite
  split
  · exact h
  next e =>
    extract_lets s1
    have h1 : s1.Wf := (h.bookFor e).setCtl
    refine .ite h1.admitBack (.ite h1.freeSlots (.ite h1.admitOrd ?_))
    refine .ite ?_ ?_
    · exact h1.freeSlots.blockFail
    · exact .ite h1.freeSlots.blocksDone (.ite h1.account.enterOp (.ite h1.admitPlain h1.admitPlain))

theorem State.Wf.progress (h : s.Wf) {p : Nat} {write : Bool} {w : Work} : (s.progress p write w).Wf :=
  h.setCtl fun _ hc => hc.onDir

theorem State.Wf.arbitrate (h : s.Wf) {p : Nat} {write : Bool} : (s.arbitrate p write).Wf := by
  unfold State.arbitrate
  extract_lets g vain s1
  have h1 : s1.Wf := .ite (h.setCtl fun _ hc => hc.onDir) h
  clear_value g
  split
  · exact h1
  · extract_lets s2 s3
    have h2 : s2.Wf := h1.setCtl fun _ hc => hc.onDir
    have h3 : s3.Wf := h2.setCtl fun _ hc => hc.onDir
    split
    · exact .progress (.ite h2.admitWrite h2.admitRead)
    · split
      · exact h3.setPort fun _ hq => by split; exacts [⟨hq.1⟩, ⟨hq.1⟩]
      · exact h3

theorem State.Wf.refill (h : s.Wf) {s0 : State} {p : Nat} {write : Bool} : (State.refill s0 s p write).Wf :=
  h.setCtl fun _ hc => hc.onDir

/-! ### The scheduler -/

theorem Ctl.Wf.onBk {c : Ctl} (hc : c.Wf) {k : Nat} {f : Bank → Bank} : (c.onBk k f).Wf := ⟨smSet_wf _ _ _ _ hc.1, hc.2⟩

theorem State.Wf.colMark (h : s.Wf) {p : Nat} {e : Entry} {write : Bool} : (s.colMark p e write).Wf :=
  .ite h (h.setCtl fun _ hc => by split; exacts [⟨smSet_wf _ _ _ _ hc.1, hc.2⟩, ⟨smSet_wf _ _ _ _ hc.1, hc.2⟩])

theorem State.Wf.issueRead (h : s.Wf) {p : Nat} {e : Entry} : (s.issueRead p e).Wf := by
  unfold State.issueRead
  extract_lets old s1 s2 s3 d s4 s5
  have h1 : s1.Wf := h.setCtl
  have h2 : s2.Wf := .ite h1.count h1
  have h3 : s3.Wf := h2.freeSlots
  have h4 : s4.Wf := h2.colMark
  have h5 : s5.Wf := h4.setCtl
  exact .ite (.ite h3.failComb (.ite h3.gotBlock h3)) (.ite (.ite h3.firstWrite.resolveComb (.ite h3.gotBlock h3)) h5.count)

theorem State.Wf.issueWrite (h : s.Wf) {p : Nat} {e : Entry} : (s.issueWrite p e).Wf :=
  .count (.colMark (.freeSlots (.store (.ite h.setCtl.count h.setCtl))))

theorem State.Wf.issueFill (h : s.Wf) {p : Nat} {f : Fill} : (s.issueFill p f).Wf := by
  unfold State.issueFill
  extract_lets k s1 slot s2
  have h1 : s1.Wf := by
    refine h.getDSnd fun {x t} e => ?_
    change (if f.slot.isSome = true then none else s.floorSlot p 1) = some (x, t) at e
    split at e
    · cases e
    · exact h.floorSlot e
  have h2 : s2.Wf := h1.store.colMark
  exact h2.setCtl

theorem State.Wf.sendRot (h : s.Wf) {p set grp c n : Nat} {park : Bool} : (s.sendRot p set grp c n park).Wf := by
  unfold State.sendRot
  extract_lets s1
  have h1 : s1.Wf := h.setCtl
  exact h1.setLink fun _ hl => ⟨(upd_length ..).trans hl.1, hl.2⟩

theorem State.Wf.rhThrottle (h : s.Wf) {p hide bank row data req : Nat} : (s.rhThrottle p hide bank row data req).Wf :=
  .ite h.setCur (.count (.ite h.setCur.setCtl.hold (.ite h.setCur.setCtl h.setCur.setCtl.rest)))

theorem State.Wf.doAct (h : s.Wf) {p key row : Nat} {e : Entry} : (s.doAct p key row e).Wf := by
  unfold State.doAct
  extract_lets hd b t th hot now s1 s2 s3
  have h1 : s1.Wf := h.setCtl fun _ hc => ⟨smSet_wf _ _ _ _ hc.1, hc.2⟩
  have h2 : s2.Wf := h1.setCur
  have h3 : s3.Wf := h2.count
  exact .ite h3.rhThrottle h3

theorem State.Wf.doPre (h : s.Wf) {p key : Nat} {conflict : Bool} : (s.doPre p key conflict).Wf := by
  unfold State.doPre
  extract_lets now s1 s2
  have h1 : s1.Wf := h.setCtl fun _ hc => ⟨smSet_wf _ _ _ _ hc.1, hc.2⟩
  have h2 : s2.Wf := h1.count
  exact .ite h2.count h2

theorem State.Wf.roundEnd (h : s.Wf) {p key : Nat} : (s.roundEnd p key).Wf := by
  unfold State.roundEnd
  extract_lets s1 hd fell s2
  have h1 : s1.Wf := h.setCur fun _ hc => ⟨hc.1, hc.2, hc.3, hc.4, smSet_wf _ _ _ _ hc.5⟩
  have h2 : s2.Wf := by
    unfold s2
    split
    · exact h1
    · exact .ite (h1.setCur fun _ hc => ⟨(upd_length ..).trans hc.1, hc.2, (upd_length ..).trans hc.3, hc.4, hc.5⟩) h1.setCur
  exact h2.setCtl fun _ hc => hc.onBk

theorem State.Wf.doRef (h : s.Wf) {p key : Nat} {limit : Bool} : (s.doRef p key limit).Wf := by
  unfold State.doRef
  extract_lets now s1 s2 s3 s4
  have h1 : s1.Wf := .ite h.roundEnd h
  have h2 : s2.Wf := h1.setCtl fun _ hc => ⟨smSet_wf _ _ _ _ hc.1, hc.2⟩
  have h3 : s3.Wf := h2.setCur fun _ hc => ⟨hc.1, hc.2, hc.3, hc.4, smSet_wf _ _ _ _ hc.5⟩
  have h4 : s4.Wf := h3.count
  exact .ite h4.count h4

theorem State.Wf.doTrr (h : s.Wf) {p i : Nat} : (s.doTrr p i).Wf := by
  unfold State.doTrr
  split
  · exact h
  · extract_lets key now s1 s2
    have h1 : s1.Wf := h.setCtl fun _ hc => ⟨smSet_wf _ _ _ _ hc.1, hc.2⟩
    have h2 : s2.Wf := h1.setCur fun _ hc => ⟨hc.1, hc.2, hc.3, hc.4, by split; exacts [(smSet_wf _ _ _ _ hc.5), hc.5]⟩
    exact h2.count

theorem State.Wf.doPdx (h : s.Wf) {p hide : Nat} : (s.doPdx p hide).Wf := h.setCtl

theorem State.Wf.issueRow (h : s.Wf) {p : Nat} {a : RowCmd} : (s.issueRow p a).Wf := by
  unfold State.issueRow
  split
  · exact h.doAct
  · exact h.doPre
  · exact h.doRef
  · exact h.doTrr
  · exact h.doPdx
  · exact h.setLink.sendRot
  · exact h.setCur.setLink.setCtl

theorem State.Wf.unheld (h : s.Wf) {p : Nat} : (s.unheld p).Wf := h.foldl fun h' => .ite h' h'.setCtl.mirrorPut.blocksDone

theorem State.Wf.copyNext (h : s.Wf) {p : Nat} : (s.copyNext p).Wf := h.setSec.unheld

theorem State.Wf.copyCycle (h : s.Wf) {p : Nat} : (s.copyCycle p).Wf := by
  unfold State.copyCycle
  extract_lets x e sp g st off s1 s2
  have h1 : s1.Wf := .ite h.zeroGran.setFresh h
  have h2 : s2.Wf := h1.setSec
  exact .ite h (.ite h.copyNext (.ite h.setFresh.copyNext (.ite (.ite h.copyNext h) (.ite h (.ite h1.setSec h2.setCtl)))))

theorem State.Wf.copyBlock (h : s.Wf) {p off : Nat} {d : Block} : (s.copyBlock p off d).Wf := .ite h h.setSec.mirrorPut

theorem State.Wf.shareStep (h : s.Wf) {p i : Nat} : (s.shareStep p i).Wf := by
  unfold State.shareStep
  split
  · exact h
  · extract_lets g st next adv v s1 s2
    have h1 : s1.Wf := .ite h h.markGran
    have h2 : s2.Wf := .ite h1.setCtl h1
    exact .ite (.ite h.currierRead h.onRange.onRange) h2.onRange.onRange

theorem State.Wf.rangeCycle (h : s.Wf) {p : Nat} : (s.rangeCycle p).Wf := by
  unfold State.rangeCycle
  extract_lets r
  refine .ite h ?_
  split
  · exact h
  · extract_lets g
    exact .ite h h.shareStep

theorem State.Wf.profCycle (h : s.Wf) {p : Nat} : (s.profCycle p).Wf := by
  unfold State.profCycle
  extract_lets c
  refine .ite h ?_
  split
  · exact h.setCur
  · exact h.setCur.currierRead

theorem State.Wf.slotCount (h : s.Wf) {p : Nat} {write : Bool} {k : Nat} : (s.slotCount p write k).Wf := .ite h h.setSec

theorem State.Wf.slotCycle (h : s.Wf) {p : Nat} : (s.slots p).Wf := by
  unfold State.slots
  extract_lets c0 withheld rd wr fill wr' col where_ s1 s2 s3 s4 s5 row s6
  have h1 : s1.Wf := h.slotCount.slotCount
  have h2 : s2.Wf := .ite h1.setCtl h1
  have h3 : s3.Wf := by
    unfold s3
    clear_value rd
    split
    · exact h2.issueRead
    · exact h2
  have h4 : s4.Wf := by
    unfold s4
    clear_value wr'
    clear_value fill
    split
    · exact h3.issueFill
    · exact h3.issueWrite.setCtl
    · exact h3
  have h5 : s5.Wf := .ite h4.count h4
  have h6 : s6.Wf := h5.setCtl
  refine .ite h.setCtl.slotCount.slotCount ?_
  clear_value row
  split
  · exact h6.issueRow
  · exact h6

theorem State.Wf.combIdle (h : s.Wf) {p : Nat} : (s.combIdle p).Wf := h.foldl (·.combBack)

theorem State.Wf.levels (h : s.Wf) {p : Nat} : (s.levels p).Wf := h.countL.countL.countL.countLC.countL.countL.countL.setCtl

theorem State.Wf.takeRow (h : s.Wf) {p : Nat} {w : BitVec 48} : (s.takeRow p w).Wf := h.setCtl

theorem State.Wf.ctlCycle (h : s.Wf) {p : Nat} : (s.ctlCycle p).Wf := by
  unfold State.ctlCycle
  extract_lets s1 s2 s3 s4 s5 s6 s7 s8 s9 s10 s11 s12 s13 s14
  have h2 : s2.Wf := by
    unfold s2
    split
    · exact h.presentAck
    · exact h
  have h3 : s3.Wf := h2.arbitrate
  have h4 : s4.Wf := .ite h3.arbitrate h3.ordStep
  have h5 : s5.Wf := .ite h4.combIdle h2
  have h6 : s6.Wf := h5.slotCycle
  have h7 : s7.Wf := h6.copyCycle
  have h8 : s8.Wf := h7.rangeCycle
  have h9 : s9.Wf := h8.profCycle
  have h10 : s10.Wf := h9.refill
  have h11 : s11.Wf := h10.refill
  have h12 : s12.Wf := h11.levels
  have h13 : s13.Wf := h12.refreshHolds
  have h14 : s14.Wf := by
    unfold s14
    split
    · exact h13.setPort
    · exact h13
  exact h14.setCtl

/-! ### Harness slots and nodes -/

theorem Mov.Wf.stop {m : Mov} (hm : m.Wf) {x : Nat} : (m.stop x).Wf := ⟨(List.length_map ..).trans hm.1⟩

theorem State.Wf.onSlot (h : s.Wf) {x k : Nat} {f : HSlot → HSlot} : (s.onSlot x k f).Wf :=
  h.setHar fun _ ha => ⟨(upd_length ..).trans ha.1⟩

theorem State.Wf.onNode (h : s.Wf) {x k i : Nat} {f : Node → Node} : (s.onNode x k i f).Wf := h.onSlot

theorem State.Wf.pushEnd (h : s.Wf) {x slot : Nat} {code : BitVec 4} {signal : Bool} {node : Nat} :
    (s.pushEnd x slot code signal node).Wf :=
  h.setHar fun _ ha => by split; exacts [⟨ha.1⟩, ⟨ha.1⟩]

theorem State.Wf.harEv (h : s.Wf) {x bit : Nat} : (s.harEv x bit).Wf := h.setHar

theorem State.Wf.answerSub (h : s.Wf) {x : Nat} {sub : Sub} {code : BitVec 4} {slot : Nat} :
    (s.answerSub x sub code slot).Wf := by
  unfold State.answerSub
  split
  · exact h.onReq.finish
  · exact h.setHar

theorem State.Wf.takeSlot (h : s.Wf) {x k : Nat} {sub : Sub} : (s.takeSlot x k sub).Wf := h.setHar.onSlot.answerSub.count

theorem State.Wf.serveSubs (h : s.Wf) {x n : Nat} : (s.serveSubs x n).Wf := by
  induction n generalizing s with
  | zero => exact h
  | succ n ih =>
    unfold State.serveSubs
    refine .ite h ?_
    split
    · exact .ite h (ih h.setHar.takeSlot)
    · exact h

theorem State.Wf.submit (h : s.Wf) {x : Nat} {sub : Sub} : (s.submit x sub).Wf := .ite h.answerSub h.setHar.serveSubs

theorem State.Wf.closeSlot (h : s.Wf) {x k : Nat} : (s.closeSlot x k).Wf := by
  unfold State.closeSlot
  extract_lets l
  split
  next e =>
    extract_lets ok s1 s2 s3
    have h1 : s1.Wf := by
      unfold s1
      refine .ite ?_ ?_
      · exact (State.Wf.iteSnd (h.posted (·.paWrite)) h).snd_eq e
      · exact ((State.Wf.iteSnd (h.posted (·.paWrite)) h).snd_eq e).harEv
    have h2 : s2.Wf := .ite h1.harEv h1
    have h3 : s3.Wf := .ite h2.pushEnd h2
    exact h3.onSlot.serveSubs

theorem State.Wf.putEntry (h : s.Wf) {x k i : Nat} : (s.putEntry x k i).2.Wf := .iteSnd h (h.posted (·.paPatch))

theorem State.Wf.lower (h : s.Wf) {x k i : Nat} : (s.lower x k i).Wf := h.onNode

theorem State.Wf.sweep (h : s.Wf) {x k : Nat} {all : Bool} : (s.sweep x k all).Wf :=
  ((h.foldl (·.onNode)).foldl fun h' => h'.foldl fun h'' => .ite h''.lower h'').foldl (·.putEntry)

theorem State.Wf.settleSlot (h : s.Wf) {x k : Nat} : (s.settleSlot x k).Wf := .ite h.onSlot h

theorem State.Wf.failHarness (h : s.Wf) {x k : Nat} {who : Option Nat} {code : BitVec 4} {detail : Nat} :
    (s.failHarness x k who code detail).Wf :=
  .sweep (.onSlot (.ite h h.onSlot))

theorem State.Wf.writeEntry (h : s.Wf) {x k i : Nat} : (s.writeEntry x k i).Wf := by
  unfold State.writeEntry
  split
  next e =>
    exact .ite (h.putEntry.snd_eq e) (h.putEntry.snd_eq e).failHarness

theorem State.Wf.endNode (h : s.Wf) {x k i : Nat} {st : NodeSt} {code : BitVec 4} {detail : Nat} :
    (s.endNode x k i st code detail).Wf := by
  unfold State.endNode
  extract_lets n s1 s2 s3 s4 all s5
  have h1 : s1.Wf := h.onNode
  have h2 : s2.Wf := h1.writeEntry
  have h3 : s3.Wf := .ite h2.count (.ite h2.count h2)
  have h4 : s4.Wf := .ite h3.failHarness h3
  have h5 : s5.Wf := h4.foldl fun h' => .ite h'.lower h'
  exact h5.settleSlot

theorem State.Wf.queuePart (h : s.Wf) {q : Part} {k : Nat} {t : State} (e : s.queuePart q = some (k, t)) : t.Wf := by
  unfold State.queuePart at e
  repeat' split at e
  all_goals cases e
  · exact h.setAwl
  · exact h.setAwl

theorem State.Wf.partEnded (h : s.Wf) {x k i part : Nat} {code : BitVec 4} {detail : Nat} :
    (s.partEnded x k i part code detail).Wf := by
  unfold State.partEnded
  extract_lets s1 n
  have h1 : s1.Wf := h.onNode
  refine .ite ?_ ?_
  · split
    · exact h1.endNode
    · exact h1.endNode
  · exact h1

theorem State.Wf.sendParts (h : s.Wf) {x k i : Nat} {tmpl : Part} : (s.sendParts x k i tmpl).Wf := by
  unfold State.sendParts
  extract_lets n
  refine h.foldl fun h' => ?_
  refine .ite h'.partEnded (.ite h'.partEnded ?_)
  split
  · exact h'
  next e =>
    exact (h'.queuePart e).onNode.count

theorem State.Wf.partLost (h : s.Wf) {q : Part} : (s.partLost q).Wf := .ite h.onNode.harEv.sendParts h.partEnded

theorem Awl.Wf.drop {a : Awl} (ha : a.Wf) {pick : Part → Bool} : (a.drop pick).Wf := by
  unfold Awl.drop
  extract_lets b
  split
  · split <;> exact ⟨ha.1, ha.2⟩
  · exact ⟨ha.1, ha.2⟩

theorem State.Wf.dropParts (h : s.Wf) {pick : Part → Bool} : (s.dropParts pick).Wf := h.mapAwls fun _ ha => ha.drop

theorem State.Wf.stopNode (h : s.Wf) {x k i detail : Nat} : (s.stopNode x k i detail).Wf := by
  unfold State.stopNode
  extract_lets n s1 s2
  have h1 : s1.Wf := h.dropParts
  have h2 : s2.Wf := by
    unfold s2
    split
    · exact h1.setMov fun _ hm => ⟨(upd_length ..).trans hm.1⟩
    · exact h1
  exact .ite h h2.endNode

theorem State.Wf.orphanCtx (h : s.Wf) {ctx : Nat} : (s.orphanCtx ctx).Wf := by
  unfold State.orphanCtx
  extract_lets base s1 a
  have h1 : s1.Wf := h.rest
  split
  · exact .ite (h1.posted (·.touchRd.paWrite)) h1

theorem State.Wf.orphan (h : s.Wf) {owner : Nat} : (s.orphan owner).Wf := h.foldl (·.orphanCtx)

theorem State.Wf.abortCalls (h : s.Wf) {x : Nat} : (s.abortCalls x).Wf := h.endWhere

theorem State.Wf.loseEngine (h : s.Wf) {x : Nat} : (s.loseEngine x).Wf := by
  unfold State.loseEngine
  extract_lets s1 s2 s3 s4 waiting s5 s6
  have h1 : s1.Wf := h.abortCalls
  have h2 : s2.Wf := h1.dropParts
  have h3 : s3.Wf := h2.mapMovs fun _ hm => hm.stop
  have h4 : s4.Wf := h3.orphan
  have h5 : s5.Wf := h4.setHar
  have h6 : s6.Wf := h5.foldl (·.answerSub)
  refine h6.foldl fun h' => ?_
  extract_lets l s7 s8
  have h7 : s7.Wf := h'.onSlot
  have h8 : s8.Wf := .ite h' (h7.foldl fun h'' => .ite h'' h''.putEntry)
  exact .ite h' (.ite h8.onSlot h8.closeSlot)

/-! ### Fences and the sparing of a channel -/

theorem smWf_append {α : Type} [DecidableEq α] {d : α} {m m' : SMap α} (hm : smWf d m = true) (hm' : smWf d m' = true)
    (hlt : ∀ e ∈ m, ∀ e' ∈ m', e.1 < e'.1) : smWf d (m ++ m') = true := by
  induction m with
  | nil => exact hm'
  | cons a m ih =>
    obtain ⟨hv, hk, hr⟩ := smWf_cons.1 hm
    refine smWf_cons.2 ⟨hv, fun e he => ?_, ih hr fun e he => hlt e (List.mem_cons_of_mem a he)⟩
    exact (List.mem_append.1 he).elim (hk e) (hlt a List.mem_cons_self e)

theorem smWf_map_snd {α : Type} [DecidableEq α] {d v : α} (hv : v ≠ d) {m : SMap α} (hm : smWf d m = true) :
    smWf d (m.map fun e => (e.1, v)) = true := by
  induction m with
  | nil => rfl
  | cons a m ih =>
    obtain ⟨-, hk, hr⟩ := smWf_cons.1 hm
    exact smWf_cons.2 ⟨hv, List.forall_mem_map.2 hk, ih hr⟩

theorem State.Wf.markFenced (h : s.Wf) {u : UnitId} : (s.markFenced u).Wf := h.sliceBreak.setFr

theorem State.Wf.queueRet (h : s.Wf) : (s.queueRet).Wf := h.setFlash

theorem State.Wf.keepHeld (h : s.Wf) {p : Nat} : (s.keepHeld p).Wf := by
  unfold State.keepHeld
  exact h.mapPorts fun _ hq => ⟨hq.mapTags fun _ => rfl⟩

theorem State.Wf.jobDoneN (h : s.Wf) {own uid n : Nat} : (s.jobDoneN own uid n).Wf := by
  induction n generalizing s with
  | zero => exact h
  | succ n ih => exact ih h.jobDone

theorem State.Wf.abortAt (h : s.Wf) {p : Nat} : (s.abortAt p).Wf := by
  unfold State.abortAt
  refine h.foldl fun h' => ?_
  split
  · exact .ite h'.jobDoneN (.ite h'.finish h')

theorem State.Wf.emptyCtl (h : s.Wf) {p : Nat} : (s.emptyCtl p).Wf := h.freeSlots.setCtl

theorem State.Wf.recall (h : s.Wf) {p : Nat} : (s.recall p).Wf := by
  unfold State.recall
  extract_lets lent s1 hides hit first num s2 s3 s4
  have h1 : s1.Wf := .ite h.setCtl h
  have h2 : s2.Wf := h1.foldl (·.poisonGran)
  have h3 : s3.Wf := by
    unfold s3
    split
    · exact h2.logPoison
    · exact h2
  have h4 : s4.Wf := h3.foldl (·.log)
  exact .ite h1 h4.setCtl.queueRet

theorem State.Wf.recallFor (h : s.Wf) {x p : Nat} : (s.recallFor x p).Wf := by
  unfold State.recallFor
  split
  · exact .ite h h.recall
  · exact h

theorem State.Wf.assignCarrier (h : s.Wf) {p : Nat} : (s.assignCarrier p).Wf := by
  unfold State.assignCarrier
  split
  · exact h
  · split
    · exact h.setAwl.setAwl
    · exact h.setAwl

theorem State.Wf.endCarry (h : s.Wf) {p : Nat} : (s.endCarry p).Wf := by
  unfold State.endCarry
  split
  · exact h
  next q _ =>
    extract_lets a lost s1 s2
    have h1 : s1.Wf := h.setAwl
    have h2 : s2.Wf := h1.setAwl fun w hw => (show Awl.Wf { w with carries := none } from ⟨hw.1, hw.2⟩).drop
    exact h2.foldl (·.partLost)

theorem State.Wf.dropAwl (h : s.Wf) {p : Nat} : (s.dropAwl p).Wf := by
  unfold State.dropAwl
  extract_lets a lost s1 s2
  have h1 : s1.Wf := h.setAwl fun _ ha => ⟨rfl, rfl⟩
  have h2 : s2.Wf := h1.orphan
  exact h2.foldl (·.partLost)

theorem State.Wf.fenceAwl (h : s.Wf) {p : Nat} : (s.fenceAwl p).Wf := by
  unfold State.fenceAwl
  refine .ite h ?_
  extract_lets s1 s2 other s3 s4 s5 s6
  have h2 : s2.Wf := h.markFenced
  have h3 : s3.Wf := h2.setAwl
  have h4 : s4.Wf := by
    unfold s4
    clear_value other
    split
    · exact h3.assignCarrier
    · exact h3
  have h5 : s5.Wf := h4.assignCarrier
  have h6 : s6.Wf := h5.dropAwl
  exact h6.commit

theorem State.Wf.fenceHarness (h : s.Wf) {x : Nat} : (s.fenceHarness x).Wf := .ite h h.markFenced.loseEngine.commit

theorem State.Wf.stopMovers (h : s.Wf) {x : Nat} : (s.stopMovers x).Wf := by
  unfold State.stopMovers
  extract_lets busy s1
  have h1 : s1.Wf := h.setMov fun _ hm => ⟨(List.length_map ..).trans hm.1⟩
  exact h1.foldl (·.endNode)

theorem State.Wf.fenceMovers (h : s.Wf) {x : Nat} : (s.fenceMovers x).Wf := .ite h h.markFenced.stopMovers.commit

theorem State.Wf.rehold (h : s.Wf) {l p : Nat} : (s.rehold l p).Wf := by
  unfold State.rehold
  split
  · exact h
  · exact h.setPort

theorem State.Wf.flipTo (h : s.Wf) {x k : Nat} : (s.flipTo x k).Wf := (h.setSec.foldl (·.setFr)).setCtl.endCarry.rehold

theorem State.Wf.reportFlip (h : s.Wf) {x k : Nat} : (s.reportFlip x k).Wf := h.latch.collect

/-- The granules kept lie below the ones added, so the spare's fresh map stays sorted (R114). -/
theorem State.Wf.poisonFrom (h : s.Wf) {old sp g0 : Nat} : (s.poisonFrom old sp g0).Wf := by
  unfold State.poisonFrom
  extract_lets add keep s1
  have hadd : smWf 0 (add.map fun e => (e.1, 2)) = true := smWf_map_snd (by decide) (smWf_filter _ _ _ (h.ctl old).fresh)
  have hlt : ∀ e ∈ keep, ∀ e' ∈ add.map (fun e => (e.1, 2)), e.1 < e'.1 := by
    intro e he
    refine List.forall_mem_map.2 fun e' he' => ?_
    have h1 := (List.mem_filter.1 he).2
    have h2 := (List.mem_filter.1 he').2
    simp only [Bool.and_eq_true, decide_eq_true_eq] at h1 h2
    omega
  have h1 : s1.Wf := h.setCtl fun _ hc => ⟨hc.1, smWf_append (smWf_filter _ _ _ (h.ctl sp).fresh) hadd hlt⟩
  split
  · exact h1.logPoison
  · exact h1

theorem State.Wf.loseSpare (h : s.Wf) {x : Nat} : (s.loseSpare x).Wf := by
  unfold State.loseSpare
  extract_lets e s1 s2
  have h1 : s1.Wf := by
    unfold s1
    split
    · exact h.recall
    · exact h
  have h2 : s2.Wf := h1.setSec
  split
  · exact h1.setSec
  · exact h1.setSec.unheld
  · split
    · exact h2.unhold
    · exact h2
  · exact h1.setSec
  · exact h1

theorem State.Wf.loseHome (h : s.Wf) {x k : Nat} : (s.loseHome x k).Wf := by
  unfold State.loseHome
  extract_lets e old sp s1 hole s2 s3 s4
  have h1 : s1.Wf := h.setSec
  have h2 : s2.Wf := h1.recallFor
  have h3 : s3.Wf := h2.poisonFrom
  have h4 : s4.Wf := h1.poisonFrom
  refine .ite h ?_
  split
  · exact h3.flipTo.setSec
  · exact .ite h4.flipTo.setSec h1.setSec
  · exact .ite h1.flipTo.setSec.reportFlip h1.setSec
  · exact h1.setSec

theorem State.Wf.stopLink (h : s.Wf) {p : Nat} : (s.stopLink p).Wf := by
  unfold State.stopLink
  extract_lets l s1
  have h1 : s1.Wf := by
    unfold s1
    refine .ite ?_ ?_
    · split
      · exact h.unhold
      · exact h
    · exact h
  exact h1.setLink fun _ hl => ⟨(List.length_map ..).trans hl.1, hl.2⟩

theorem State.Wf.fenceChan (h : s.Wf) {p : Nat} : (s.fenceChan p).Wf := by
  unfold State.fenceChan
  refine .ite h ?_
  extract_lets x s1 s2 frozen s3 s4 s5 s6 s7 other s8 s9
  have h1 : s1.Wf := (h.foldl (·.markFenced)).stopLink
  have h2 : s2.Wf := h1.setCtl
  have h3 : s3.Wf := .ite h2.keepHeld h2
  have h4 : s4.Wf := h3.abortAt
  have h5 : s5.Wf := .ite h4 h4.emptyCtl
  have h6 : s6.Wf := .ite h5.loseSpare h5.loseHome
  have h7 : s7.Wf := h6.markFenced
  have h8 : s8.Wf := h7.setAwl
  have h9 : s9.Wf := by
    unfold s9
    clear_value other
    split
    · exact h8.assignCarrier
    · exact h8
  exact h9.dropAwl.queueRet

theorem State.Wf.fenceChannel (h : s.Wf) {p : Nat} : (s.fenceChannel p).Wf := .ite h h.fenceChan.commit

theorem State.Wf.freeze (h : s.Wf) {p src : Nat} : (s.freeze p src).Wf := .ite h h.setCtl.setPool.fenceChannel

theorem State.Wf.ctlFault (h : s.Wf) {p src : Nat} : (s.ctlFault p src).Wf := h.report.freeze

theorem State.Wf.holeSector (h : s.Wf) {x : Nat} : (s.holeSector x).Wf := h.loseSpare.setSec.setFlash

theorem State.Wf.fenceSector (h : s.Wf) {x : Nat} : (s.fenceSector x).Wf := by
  unfold State.fenceSector
  refine .ite h ?_
  extract_lets s1 ports s2 s3 s4 s5 s6 s7 s8 s9 s10 base s11 s12 s13 s14 s15
  have h2 : s2.Wf := h.foldl (·.markFenced)
  have h3 : s3.Wf := h2.endWhere
  have h4 : s4.Wf := h3.foldl fun h' => .stopLink (.ite h'.keepHeld h'.abortAt.emptyCtl)
  have h5 : s5.Wf := h4.holeSector
  have h6 : s6.Wf := h5.freeSlots
  have h7 : s7.Wf := h6.mapNets
  have h8 : s8.Wf := h7.foldl (·.freeSlots.finishHome)
  have h9 : s9.Wf := h8.setNet
  have h10 : s10.Wf := h9.foldl (·.setPort)
  have h11 : s11.Wf := .ite h10 h10.rest
  have h12 : s12.Wf := h11.setSec
  have h13 : s13.Wf := h12.loseEngine
  have h14 : s14.Wf := h13.stopMovers
  have h15 : s15.Wf := h14.foldl (·.dropAwl)
  exact h15.commit

theorem State.Wf.fenceUnit (h : s.Wf) {u : UnitId} : (s.fenceUnit u).Wf := by
  unfold State.fenceUnit
  split
  · exact h.fenceAwl
  · exact h.fenceHarness
  · exact h.fenceMovers
  iterate 4 exact h.fenceChannel
  · exact h.fenceSector
  · exact h.fenceSector
  · exact h.fenceSector
  · exact (h.markFenced.foldl (·.fenceChan)).commit
  · exact h

theorem State.Wf.fault (h : s.Wf) {u : UnitId} {bit : Nat} : (s.fault u bit).Wf := by
  unfold State.fault
  extract_lets s1
  have h1 : s1.Wf := h.report
  split
  · exact .ite h1.freeze h1
  · exact .ite h1.fenceChannel h1
  · exact .ite h1.fenceAwl h1
  · exact .ite h1.fenceSector h1
  · exact .ite h1.fenceSector h1
  · exact .ite h1.fenceHarness h1
  · exact .ite h1.fenceMovers h1
  · exact h1

/-! ### Ports and the network -/

theorem State.Wf.offer (h : s.Wf) {n cls : Nat} {write : Bool} {addr : Nat} : (s.offer n cls write addr).Wf :=
  .refreshHolds (h.setPort fun _ hq => by split; exacts [⟨hq.1⟩, ⟨hq.1⟩])

theorem State.Wf.unask (h : s.Wf) {n : Nat} {write : Bool} : (s.unask n write).Wf :=
  h.setPort fun _ hq => by split; exacts [⟨hq.1⟩, ⟨hq.1⟩]

theorem State.Wf.dupTag (h : s.Wf) {n tag : Nat} : (s.dupTag n tag).Wf := h.pushAck.misb

theorem State.Wf.nextUid (h : s.Wf) : (s.nextUid).Wf := h.rest (Nat.le_succ _)

theorem State.Wf.hand (h : s.Wf) {n : Nat} {w : Work} : (s.hand n w).Wf := by
  unfold State.hand
  extract_lets x
  refine .ite ?_ ?_
  · split
    · exact .ite h.finish h.blockFail
    · exact .ite h.setCtl h.setCtl
  · exact h.onReq.setNet

theorem State.Wf.read (h : s.Wf) {n tag cls addr len : Nat} : (s.read n tag cls addr len).Wf := by
  unfold State.read
  extract_lets l s1 s2 uid d s3
  have h1 : s1.Wf := h.unask.setPort
  have h2 : s2.Wf := h1.nextUid
  have h3 : s3.Wf := h2.setPort fun _ hq => ⟨hq.addTag (Nat.le_refl _)⟩
  refine .ite h (.ite h.offer (.ite h1.dupTag (.ite h3.finish (.ite h3.finish ?_))))
  clear_value d
  split
  · exact h3.finish
  · exact h3.hand

theorem State.Wf.chkFail (h : s.Wf) {n : Nat} : (s.chkFail n).Wf := h.setPort.misb.count

theorem State.Wf.handBlock (h : s.Wf) {n uid : Nat} {d : Block} {be : BitVec 64} : (s.handBlock n uid d be).Wf := by
  unfold State.handBlock
  split
  · exact h
  · extract_lets x
    split
    next e =>
      extract_lets off w s1
      have h1 : s1.Wf := (h.fire.snd_eq e).onReq
      exact .ite h1.freeSlots.report.blockFail h1.hand

theorem State.Wf.flushOpen (h : s.Wf) {n : Nat} {w : OpenW} : (s.flushOpen n w).Wf := by
  unfold State.flushOpen
  split
  · exact h
  · exact .ite h (.ite h.onReq.hand (h.foldl (·.handBlock)))

theorem State.Wf.endOpen (h : s.Wf) {n : Nat} {bad : Bool} : (s.endOpen n bad).Wf := by
  unfold State.endOpen
  split
  · exact h
  · exact (h.setPort.flushOpen.onReq (fun _ => by split <;> rfl)).checkEnd

theorem State.Wf.takeWBeat (h : s.Wf) {n : Nat} {b : Beat} : (s.takeWBeat n b).Wf := by
  unfold State.takeWBeat
  split
  · exact h
  · extract_lets ok s1 len dead col s2 s3
    have h1 : s1.Wf := .ite h h.chkFail
    have h2 : s2.Wf := h1.setPort
    have h3 : s3.Wf := .ite h2.blockFail (.ite h2 h2.handBlock)
    exact .ite h3.endOpen (.ite h3.endOpen h3)

theorem State.Wf.bookFirst (h : s.Wf) {n op : Nat} {hd : WHdr} {memory : Bool} {k : List Slot} {t : State}
    (e : s.bookFirst n op hd memory = some (k, t)) : t.Wf := by
  unfold State.bookFirst at e
  extract_lets x pos at e
  split at e
  · cases e
  next j s' e' =>
    have h' : s'.Wf := by
      split at e'
      · exact h.bookN e'
      · cases e'
        exact h
    split at e
    · obtain ⟨⟨i, u⟩, eb, ei⟩ := Option.map_eq_some_iff.1 e
      cases ei
      exact h'.book eb
    · cases e
      exact h'

theorem State.Wf.lone (h : s.Wf) {n uid : Nat} {hd : WHdr} {b : Beat} {refused : Bool} {single : State → Nat → State}
    (hsingle : ∀ {t uid}, t.Wf → (single t uid).Wf) : (s.lone n uid hd b refused single).Wf := by
  unfold State.lone
  extract_lets ok s1 s2
  have h1 : s1.Wf := .ite h h.chkFail
  have h2 : s2.Wf := h1.setPort
  exact .ite h2 (.ite h2.finish (.ite h2.finish (hsingle h2)))

theorem State.Wf.first (h : s.Wf) {n op : Nat} {hd : WHdr} {b : Beat} {single : State → Nat → State}
    (hsingle : ∀ {t uid}, t.Wf → (single t uid).Wf) : (s.first n op hd b single).Wf := by
  unfold State.first
  refine .ite h ?_
  extract_lets s1 cls tag l memory addr
  have h1 : s1.Wf := .ite h.endOpen.misb h
  refine .ite h1.offer ?_
  split
  next par s' e =>
    have h' : s'.Wf := (State.Wf.iteSnd h1.fire h1).snd_eq e
    extract_lets s2 dup bad fenced
    have h2 : s2.Wf := .ite h'.fault h'
    split
    · exact h2.offer
    next slots t e2 =>
      have ht : t.Wf := by
        split at e2
        · cases e2
          exact h2
        · exact h2.bookFirst e2
      extract_lets s3 s4 s5 s6 uid d s7 s8
      have h3 : s3.Wf := ht.unask.setPort
      have h4 : s4.Wf := h3.dupTag
      have h5 : s5.Wf := .ite h4 h4.chkFail
      have h6 : s6.Wf := h3.nextUid
      have h7 : s7.Wf := h6.setPort fun _ hq => ⟨hq.addTag (Nat.le_refl _)⟩
      have h8 : s8.Wf := .ite h7.finish (.ite h7.finish h7)
      exact .ite (.ite h5 h5.setPort) (.ite (h8.lone hsingle) (.ite h8.setPort.finish h8.takeWBeat))

theorem State.Wf.laterBeat (h : s.Wf) {n : Nat} {b : Beat} : (s.laterBeat n b).Wf := by
  unfold State.laterBeat
  refine .ite h ?_
  refine .ite ?_ ?_
  · split
    · exact h.offer
    · exact h
  · extract_lets s1
    have h1 : s1.Wf := h.unask.setPort
    split
    · exact h1.takeWBeat
    · exact .ite h1 h1.setPort.misb

theorem State.Wf.failWork (h : s.Wf) {w : Work} {code : BitVec 4} : (s.failWork w code).Wf :=
  .ite h.freeSlots.finishHome (.ite h.freeSlots.finish h.freeSlots.blockFail)

theorem State.Wf.ringBook (h : s.Wf) {w : Work} {k : List Slot} {t : State} (e : s.ringBook w = some (k, t)) : t.Wf := by
  unfold State.ringBook at e
  repeat' split at e
  · cases e
    exact h
  · exact h.bookN e
  · exact h.bookN e

theorem State.Wf.deliver (h : s.Wf) {x : Nat} {w : Work} : (s.deliver x w).Wf := by
  unfold State.deliver
  extract_lets s1
  have h1 : s1.Wf := h.count
  split
  · exact .ite h1.putAns h1
  · split
    · exact h1.failWork
    · exact h1.setCtl fun _ hc => by split; exacts [⟨hc.1, hc.2⟩, ⟨hc.1, hc.2⟩]

theorem State.Wf.hop (h : s.Wf) {x : Nat} {w : Work} : (s.hop x w).Wf := by
  unfold State.hop
  extract_lets t y pos ev go
  refine .ite (.setNet (.ite h.count h)) ?_
  split
  · exact .setNet (.ite h.count h)
  next e =>
    extract_lets s1
    have h1 : s1.Wf := (h.ringBook e).setNet.count
    refine .ite ?_ ?_
    · exact .setNet (.ite h1.count h1)
    · exact .ite (.setNet (.ite h1.onReq.count h1.onReq)) (.setNet (.ite h1.freeSlots.count h1.freeSlots))

theorem State.Wf.message (h : s.Wf) {x i : Nat} : (s.message x i).Wf := by
  unfold State.message
  split
  · exact h
  · extract_lets o from'
    refine .ite h ?_
    split
    next e =>
      split
      next e2 =>
        refine .ite (((h.fire.snd_eq e).fire.snd_eq e2).fault) ?_
        extract_lets s1
        have h1 : s1.Wf := ((h.fire.snd_eq e).fire.snd_eq e2).setNet
        exact .ite h1.report.failWork (.ite h1.deliver h1.hop)

theorem execRead_keeps (s : State) {n : Nat} {tag : BitVec 8} {cls : BitVec 4} {addr : BitVec 42} {len : BitVec 5} :
    Keeps s (execRead n tag cls addr len s) :=
  .onPortN (·.read)

theorem execWrite_keeps (s : State) {n : Nat} {hd : WHdr} {b : Beat} : Keeps s (execWrite n hd b s) :=
  .onPortN fun h' => h'.first fun h'' => h''

theorem execWriteMasked_keeps (s : State) {n : Nat} {hd : WHdr} {b : Beat} : Keeps s (execWriteMasked n hd b s) :=
  .onPortN fun h' => h'.first fun h'' => h''

theorem execAtomAdd_keeps (s : State) {n : Nat} {hd : WHdr} {b : Beat} : Keeps s (execAtomAdd n hd b s) :=
  .onPortN fun h' => h'.first fun h'' => h''

theorem execAtomMax_keeps (s : State) {n : Nat} {hd : WHdr} {b : Beat} : Keeps s (execAtomMax n hd b s) :=
  .onPortN fun h' => h'.first fun h'' => h''

theorem execAtomMin_keeps (s : State) {n : Nat} {hd : WHdr} {b : Beat} : Keeps s (execAtomMin n hd b s) :=
  .onPortN fun h' => h'.first fun h'' => h''

theorem execAtomSwap_keeps (s : State) {n : Nat} {hd : WHdr} {b : Beat} : Keeps s (execAtomSwap n hd b s) :=
  .onPortN fun h' => h'.first fun h'' => h''

theorem execAtomCas_keeps (s : State) {n : Nat} {hd : WHdr} {b : Beat} : Keeps s (execAtomCas n hd b s) :=
  .onPortN fun h' => h'.first fun h'' => h''

theorem execReduceAdd_keeps (s : State) {n : Nat} {hd : WHdr} {b : Beat} : Keeps s (execReduceAdd n hd b s) :=
  .onPortN fun h' => h'.first fun h'' => h''

theorem execReduceAddOrd_keeps (s : State) {n : Nat} {hd : WHdr} {b : Beat} : Keeps s (execReduceAddOrd n hd b s) :=
  .onPortN fun h' => h'.first fun h'' => h''

theorem execDoorbell_keeps (s : State) {n : Nat} {hd : WHdr} {b : Beat} : Keeps s (execDoorbell n hd b s) :=
  .onPortN fun h' => h'.first fun h'' => .ite h''.finish h''.submit

theorem execWriteBeat_keeps (s : State) {n : Nat} {b : Beat} : Keeps s (execWriteBeat n b s) := .onPortN (·.laterBeat)

theorem execGapCut_keeps (s : State) {n : Nat} : Keeps s (execGapCut n s) := .onPortN fun h' => .ite h'.endOpen.misb h'

theorem execRspBeatTaken_keeps (s : State) {n : Nat} : Keeps s (execRspBeatTaken n s) := .onPortN (·.takeBeat)

theorem execRspStall_keeps (s : State) {n : Nat} : Keeps s (execRspStall n s) := .onPortN fun h' => .ite h' h'.setPort.misb.hold

theorem execNetworkMessage_keeps (s : State) {x i : Nat} : Keeps s (execNetworkMessage x i s) := .onSect (·.message)

theorem execRingReserve_keeps (s : State) {x : Nat} : Keeps s (execRingReserve x s) := .onSect fun h' => .ite h'.setNet.count h'

/-! ### A channel's timers, its bursts and its cut-offs -/

theorem State.Wf.check (h : s.Wf) {u : UnitId} {bit : Nat} {real : Bool} : (s.check u bit real).Wf := by
  unfold State.check
  split
  next e =>
    exact .ite (h.fire.snd_eq e).fault (h.fire.snd_eq e)

theorem State.Wf.logCoal (h : s.Wf) {p : Nat} {c : Coal} : (s.logCoal p c).Wf := h.log

theorem State.Wf.commitCoal (h : s.Wf) {p i : Nat} : (s.commitCoal p i).Wf := by
  unfold State.commitCoal
  split
  · exact h
  · exact h.setCtl.logCoal

theorem State.Wf.coalesce (h : s.Wf) {p source req off n : Nat} {syms : List Nat} : (s.coalesce p source req off n syms).Wf := by
  unfold State.coalesce
  extract_lets l c s1
  have h1 : s1.Wf := .ite h.commitCoal h
  split
  · extract_lets s2
    have h2 : s2.Wf := h.setCtl
    exact .ite h2.commitCoal h2
  · exact h1.setCtl

theorem State.Wf.corrected (h : s.Wf) {p source req off n : Nat} {syms : List Nat} : (s.corrected p source req off n syms).Wf :=
  .ite h.report.setCtl.count h.report.setCtl.count.coalesce

theorem State.Wf.uncorrectable (h : s.Wf) {p source req off : Nat} :
    (s.uncorrectable p source req off).Wf :=
  h.report.setCtl.count.log

theorem State.Wf.queueWb (h : s.Wf) {p : Nat} {e : Entry} {d : Block} : (s.queueWb p e d).Wf := .ite h h.setCur.setCtl

theorem State.Wf.copyBack (h : s.Wf) {p : Nat} {e : Entry} {d : Block} {bad : Bool} : (s.copyBack p e d bad).Wf :=
  .ite h.copyBlock (.ite h h.discardGran.setFresh.logPoison.copyNext)

theorem State.Wf.deliverRead (h : s.Wf) {p : Nat} {e : Entry} {d : Block} {n : Nat} {bad : Bool} :
    (s.deliverRead p e d n bad).Wf := by
  unfold State.deliverRead
  extract_lets s1
  have h1 : s1.Wf := h.freeSlots
  refine .ite ?_ ?_
  · exact h1.copyBack
  · exact .ite h1.currierBack (.ite h1.gotBlock (.ite h1.firstWrite.resolveComb (.ite h1.failComb h1.resolveComb)))

theorem State.Wf.decodeWord (h : s.Wf) {er w : List Nat} {b d : Block} {r : Decoded} {t : State}
    (e : s.decodeWord er w b = (r, d, t)) : t.Wf := by
  unfold State.decodeWord at e
  dsimp only at e
  repeat' split at e
  all_goals cases e
  · exact h
  · exact h
  · exact h.rest
  · exact h.rest

theorem State.Wf.burst (h : s.Wf) {p q : Nat} {e : Entry} {errs : SymErrs} : (s.burst p q e errs).Wf := by
  unfold State.burst
  extract_lets source
  split
  next r d s' e1 =>
    have h' : s'.Wf := h.decodeWord e1
    extract_lets realUe realCe syms
    split
    next ue s'' e2 =>
      have h'' : s''.Wf := h'.fire.snd_eq e2
      split
      next ce t e3 =>
        have ht : t.Wf := h''.fire.snd_eq e3
        refine .ite ?_ ?_
        · extract_lets s1 s2 run run' s3 s4
          have h1 : s1.Wf := .ite ht.markBad ht
          have h2 : s2.Wf := h1.uncorrectable
          have h3 : s3.Wf := h2.setCtl
          have h4 : s4.Wf := h3.deliverRead
          exact h4.check
        · extract_lets s5 s6 s7 s8
          have h5 : s5.Wf := ht.setCtl
          have h6 : s6.Wf := .ite h5.corrected (.ite h5.corrected h5)
          have h7 : s7.Wf := h6.deliverRead
          have h8 : s8.Wf := .ite h7.queueWb h7
          exact h8.check

theorem Link.Wf.driftAt {l : Link} (hl : l.Wf) {x g : Nat} {err : Int} : (l.driftAt x g err).Wf := by
  unfold Link.driftAt
  dsimp only
  split <;> exact ⟨hl.1, hl.2⟩

theorem Link.Wf.edges {l : Link} (hl : l.Wf) {x : Nat} {es : List (Int × Nat)} :
    (es.foldl (fun l (y, g) => if g < 9 then l.driftAt x g y else l) l).Wf :=
  List.foldlRecOn (motive := Link.Wf) _ _ hl fun l hl (y, g) _ => by
    dsimp only
    split
    · exact hl.driftAt
    · exact hl

theorem State.Wf.burstReturn (h : s.Wf) {p : Nat} {framed : Bool} {errs : BurstErrs} : (s.burstReturn p framed errs).Wf := by
  unfold State.burstReturn
  split
  · exact .ite h h.fire.ctlFault
  · extract_lets q
    split
    next hit t e =>
      have ht : t.Wf := h.fire.snd_eq e
      exact .ite ht.ctlFault (.burst (.setCtl (ht.setLink fun _ hl => hl.edges)))

theorem State.Wf.closeGroup (h : s.Wf) {p key : Nat} : (s.closeGroup p key).Wf := by
  unfold State.closeGroup
  extract_lets s1
  have h1 : s1.Wf := h.setCtl
  split
  · exact h1
  · exact h1.setCtl.foldl (·.contribute)

theorem State.Wf.timeoutGroup (h : s.Wf) {p : Nat} {g : OGroup} : (s.timeoutGroup p g).Wf :=
  (h.foldl (·.freeSlots.finish)).setCtl.closeGroup

theorem State.Wf.bankTimer (h : s.Wf) {p bank : Nat} {a b : BankSt} : (s.bankTimer p bank a b).Wf :=
  .ite (h.setCtl fun _ hc => hc.onBk) h

theorem State.Wf.withdraw (h : s.Wf) {p : Nat} {write : Bool} {pick : Work → Bool} {k : Work} {t : State}
    (e : s.withdraw p write pick = some (k, t)) : t.Wf := by
  unfold State.withdraw at e
  extract_lets l at e
  split at e
  · cases e
  · cases e
    refine h.freeSlots.setCtl fun c hc => Ctl.Wf.onDir ?_
    split <;> exact ⟨hc.1, hc.2⟩

theorem State.Wf.cutEnd (h : s.Wf) {s0 : State} {p : Nat} {w : Work} : (State.cutEnd s0 s p w).Wf :=
  .ite h.setSec (.ite h.jobDoneN (.ite h.finish h.blockFail))

theorem State.Wf.cutOff (h : s.Wf) {p : Nat} {write : Bool} {pick : Work → Bool} : (s.cutOff p write pick).Wf := by
  unfold State.cutOff
  split
  · exact h
  next e =>
    exact (h.withdraw e).cutEnd

theorem execEntryAged_keeps (s : State) {p : Nat} {write : Bool} {i : Nat} : Keeps s (execEntryAged p write i s) :=
  .onChan fun h' => h'.setCtl fun _ hc => by split; exacts [hc, by split; exacts [⟨hc.1, hc.2⟩, ⟨hc.1, hc.2⟩]]

theorem execHitLimit_keeps (s : State) {p bank : Nat} : Keeps s (execHitLimit p bank s) :=
  .onChan fun h' => .ite (h'.setCtl fun _ hc => hc.onBk) h'

theorem execIdleRowClose_keeps (s : State) {p bank : Nat} : Keeps s (execIdleRowClose p bank s) :=
  .onChan fun h' => .ite h'.doPre.setCtl h'

theorem execSchedStall_keeps (s : State) {p : Nat} : Keeps s (execSchedStall p s) := .onChan fun h' => .ite h'.check h'

theorem execBankOpeningDone_keeps (s : State) {p bank : Nat} : Keeps s (execBankOpeningDone p bank s) := .onChan (·.bankTimer)

theorem execBankClosingDone_keeps (s : State) {p bank : Nat} : Keeps s (execBankClosingDone p bank s) := .onChan (·.bankTimer)

theorem execBankRefreshDone_keeps (s : State) {p bank : Nat} : Keeps s (execBankRefreshDone p bank s) := .onChan (·.bankTimer)

theorem execZeroFillDone_keeps (s : State) {p gran : Nat} : Keeps s (execZeroFillDone p gran s) := by
  unfold execZeroFillDone
  refine .onChan fun h => ?_
  split
  · exact .ite h.freeSlots.setCtl h
  · exact h

theorem execCombineWriteback_keeps (s : State) {p i : Nat} : Keeps s (execCombineWriteback p i s) := by
  unfold execCombineWriteback
  refine .onChan fun h => ?_
  split
  · exact .ite h.combBack h
  · exact h

theorem execOrdTimeout_keeps (s : State) {p g : Nat} : Keeps s (execOrdTimeout p g s) := by
  unfold execOrdTimeout
  refine .onChan fun h => ?_
  split
  · exact .ite h h.timeoutGroup
  · exact h

theorem execPowerDownEntry_keeps (s : State) {p hide : Nat} : Keeps s (execPowerDownEntry p hide s) :=
  .onChan fun h' => .ite h'.setCtl.takeRow h'

theorem execTrrLimit_keeps (s : State) {p i : Nat} : Keeps s (execTrrLimit p i s) := .onChan fun h' => .ite h' h'.setCur

theorem execRhPenaltyEnd_keeps (s : State) {req : BitVec 9} : Keeps s (execRhPenaltyEnd req s) :=
  .ite (.next (·.unhold)) (.next (·.rest))

theorem execReadBurstReturn_keeps (s : State) {p : Nat} {framed : Bool} {errs : BurstErrs} :
    Keeps s (execReadBurstReturn p framed errs s) :=
  .onChan fun h' => .ite h' h'.burstReturn

theorem execHideAlert_keeps (s : State) {p hide : Nat} :
    Keeps s (execHideAlert p hide s) :=
  .onChan fun h' => .ite h' h'.setLink.check

theorem execRegulationPeriodStart_keeps (s : State) {p : Nat} : Keeps s (execRegulationPeriodStart p s) :=
  .onChan fun h' => .ite h'.periodStart h'

theorem execPoolScaleUpdate_keeps (s : State) {x : Nat} :
    Keeps s (execPoolScaleUpdate x s) :=
  .onSect fun h' => .ite h'.poolScale h'

theorem execTier4WaitLimit_keeps (s : State) {p : Nat} {write : Bool} {i : Nat} : Keeps s (execTier4WaitLimit p write i s) := by
  unfold execTier4WaitLimit
  refine .onChan fun h => ?_
  split
  · exact .ite (h.setCtl fun _ hc => hc.onDir) h
  · exact h

theorem execArbiterCutoff_keeps (s : State) {i : ArbInput} : Keeps s (execArbiterCutoff i s) := by
  unfold execArbiterCutoff
  split
  · exact .onPortN fun h' => .ite (.ite h'.endOpen.misb h') (.ite h'.cutOff.misb h')
  · exact .onChan fun h' => .ite h' h'.setCtl.cutOff
  · refine .onSect fun h => ?_
    refine .ite h ?_
    extract_lets s1
    have h1 : s1.Wf := h.setNet
    split
    · exact h1.setNet.failWork
    · exact h1

theorem execCeCommit_keeps (s : State) {p i : Nat} : Keeps s (execCeCommit p i s) := .onChan (·.commitCoal)

/-! ### Management writes -/

theorem State.Wf.answer (h : s.Wf) {d : Word} {code : BitVec 4} : (s.answer d code).Wf := h.setMgmt

theorem State.Wf.mgmtChecks (h : s.Wf) : s.mgmtChecks.Wf := by
  unfold State.mgmtChecks
  split
  next hit t e =>
    have ht : t.Wf := h.fire.snd_eq e
    extract_lets s1 base s2
    have h1 : s1.Wf := ht.fault
    have h2 : s2.Wf := by
      unfold s2
      refine .ite ?_ ?_
      · split
        · exact h1
        next l el =>
          have hl := h1.elog
          rw [el] at hl
          exact h1.withMgmt _ (Nat.le_of_succ_le hl)
      · exact ht
    split
    next e2 =>
      exact .ite (h2.fire.snd_eq e2).fault.rest (h2.fire.snd_eq e2)

theorem State.Wf.mgAccess (h : s.Wf) {u : UnitId} {f : State → State} (hf : ∀ {t}, t.Wf → (f t).Wf) : (s.mgAccess u f).Wf :=
  .ite h (.ite h.count.mgmtChecks.answer (.ite h.count.mgmtChecks.answer (hf h.count.mgmtChecks).answer))

theorem State.Wf.mgRead (h : s.Wf) {u : UnitId} {f : State → Word × State} (hf : ∀ {t}, t.Wf → (f t).2.Wf) :
    (s.mgRead u f).Wf := by
  unfold State.mgRead
  refine .ite h ?_
  extract_lets s1
  have h1 : s1.Wf := h.count.mgmtChecks
  refine .ite h1.answer (.ite h1.answer ?_)
  split
  next e =>
    exact ((hf h1).snd_eq e).answer

theorem State.Wf.mgWrite (h : s.Wf) {u : UnitId} {f : State → State} (hf : ∀ {t}, t.Wf → (f t).Wf) : (s.mgWrite u f).Wf :=
  h.mgAccess fun h' => .ite h' (hf h')

theorem State.Wf.reject (h : s.Wf) {u : UnitId} : (s.reject u).Wf := h.setFr

theorem Keeps.onMgmt {u : UnitId} {f : State → State} (hf : ∀ {t}, t.Wf → (f t).Wf) :
    Keeps s (onMgmt u s f) :=
  .next fun h => h.mgWrite hf

/-! ### Live migration -/

theorem State.Wf.wipeSpare (h : s.Wf) {x : Nat} : (s.wipeSpare x).Wf := h.setCtl fun _ hc => ⟨hc.1, rfl⟩

theorem State.Wf.cancelCopy (h : s.Wf) {x : Nat} : (s.cancelCopy x).Wf := .ite h h.wipeSpare.setSec.unheld

theorem State.Wf.startCopy (h : s.Wf) {x k : Nat} : (s.startCopy x k).Wf := by
  unfold State.startCopy
  extract_lets e s1 s2 s3
  have h2 : s2.Wf := h.recallFor
  have h3 : s3.Wf := h2.wipeSpare.setSec
  split
  · exact h.reject
  · exact h.reject
  · exact .ite h.setSec h3.commit
  · exact h.setSec

theorem State.Wf.wSpareCtrl (h : s.Wf) {x : Nat} {v : Word} : (s.wSpareCtrl x v).Wf :=
  .ite h.reject (.ite h.reject (.ite h.setSec.startCopy (.ite h.setSec.cancelCopy h.setSec)))

theorem State.Wf.copyDone (h : s.Wf) {x : Nat} : (s.copyDone x).Wf := by
  unfold State.copyDone
  extract_lets e p s1 s2
  have h1 : s1.Wf := h.setSec.unheld
  have h2 : s2.Wf := h1.setSec
  refine .ite h ?_
  split
  · exact h2.hold
  · exact h2

theorem State.Wf.moveParts (h : s.Wf) {p sp : Nat} : (s.moveParts p sp).Wf := h.setAwl.setAwl.foldl (·.onNode)

theorem State.Wf.flip (h : s.Wf) {x : Nat} : (s.flip x).Wf := h.setCtl.setCtl.moveParts.fenceChannel

theorem State.Wf.flipLate (h : s.Wf) {x : Nat} : (s.flipLate x).Wf := h.abortAt.emptyCtl.setFr.flip

theorem execMigrationStart_keeps (s : State) {x : Nat} {v : Word} : Keeps s (execMigrationStart x v s) := .onMgmt (·.wSpareCtrl)

theorem execMigrationCancel_keeps (s : State) {x : Nat} {v : Word} : Keeps s (execMigrationCancel x v s) := .onMgmt (·.wSpareCtrl)

theorem execMigrationCopyDone_keeps (s : State) {x pos : Nat} : Keeps s (execMigrationCopyDone x pos s) :=
  .onSect fun h' => .ite h'.copyDone h'

/-! ### The link -/

theorem State.Wf.onGrp (h : s.Wf) {p i : Nat} {f : Grp → Grp} : (s.onGrp p i f).Wf :=
  h.setLink fun _ hl => ⟨(upd_length ..).trans hl.1, hl.2⟩

theorem State.Wf.onLane (h : s.Wf) {p k : Nat} {f : Lane → Lane} : (s.onLane p k f).Wf :=
  h.setLink fun _ hl => ⟨hl.1, smSet_wf _ _ _ _ hl.2⟩

theorem State.Wf.calPass (h : s.Wf) {p key set : Nat} {phase : Int} {ref : BitVec 6} {width : Nat} :
    (s.calPass p key set phase ref width).Wf :=
  h.onLane

theorem State.Wf.park (h : s.Wf) {p set grp pos : Nat} : (s.park p set grp pos).Wf := h.onGrp.setLink.report.count.commit.queueRet

theorem State.Wf.laneDead (h : s.Wf) {p set grp pos : Nat} : (s.laneDead p set grp pos).Wf := by
  have hl := h.link p
  unfold State.laneDead
  extract_lets i g j l0 l s1
  have h1 : s1.Wf := h.setLink fun _ _ => ⟨(upd_length ..).trans hl.1, hl.2⟩
  exact .ite h.fault (.ite h (.ite h.fault h1.fault.queueRet))

theorem State.Wf.posFail (h : s.Wf) {p set grp pos : Nat} : (s.posFail p set grp pos).Wf := .ite h.park (.ite h h.laneDead)

theorem State.Wf.haltLink (h : s.Wf) {p : Nat} : (s.haltLink p).Wf :=
  h.setLink fun _ hl => by
    dsimp only
    split
    · exact hl
    · exact ⟨(List.length_map ..).trans List.length_range, hl.2⟩

theorem State.Wf.unhaltLink (h : s.Wf) {p : Nat} : (s.unhaltLink p).Wf :=
  h.setLink fun _ hl => by split; exacts [⟨(List.length_map ..).trans hl.1, hl.2⟩, hl]

theorem State.Wf.attempt (h : s.Wf) {p set grp passing : Nat} {centre : Int} {ref : BitVec 6} :
    (s.attempt p set grp passing centre ref).Wf := by
  unfold State.attempt
  extract_lets i g s1 s2 s3 key ctx code tries cs agree s4 s5 s6 s7
  have h1 : s1.Wf := h.check
  have h2 : s2.Wf := h1.check
  have h3 : s3.Wf := .ite h2 h2.setLink
  have h4 : s4.Wf := h3.onLane
  have h5 : s5.Wf := .ite h4 h4.setLink.count
  have h6 : s6.Wf := h5.calPass.count
  have h7 : s7.Wf := .ite h6.setLink h6
  exact .ite h (.ite h7.onGrp (.ite h5.onGrp (.ite h5.park h5.onGrp)))

theorem State.Wf.track (h : s.Wf) {p set : Nat} {r : TrackRes} : (s.track p set r).Wf := .ite h (.ite h.laneDead h.calPass)

theorem State.Wf.startRetrain (h : s.Wf) {p : Nat} : (s.startRetrain p).Wf := .ite h h.setLink

theorem State.Wf.wLinkCtrl (h : s.Wf) {p : Nat} {v : Word} :
    (s.wLinkCtrl p v).Wf :=
  .ite h (.ite h.reject (.ite h.startRetrain h))

theorem Link.Wf.vrefs {l : Link} (hl : l.Wf) {hides : Nat} : (l.vrefs hides).Wf := ⟨hl.1, hl.2⟩

theorem State.Wf.applyTrims (h : s.Wf) {p : Nat} {r : TrainRes} : (s.applyTrims p r).Wf := by
  unfold State.applyTrims
  extract_lets s1
  have h1 : s1.Wf := h.setLink fun _ hl => ⟨hl.1, hl.2⟩
  exact h1.foldl (·.onLane)

theorem execCalAttemptDone_keeps (s : State) {p set grp passing : Nat} {centre : Int} {ref : BitVec 6} :
    Keeps s (execCalAttemptDone p set grp passing centre ref s) :=
  .onChan (·.attempt)

theorem execCalWaitEnd_keeps (s : State) {p set grp : Nat} :
    Keeps s (execCalWaitEnd p set grp s) :=
  .onChan fun h' => .ite h'.onGrp h'

theorem execRotStep_keeps (s : State) {p set grp : Nat} : Keeps s (execRotStep p set grp s) :=
  .onChan fun h' => .ite h' h'.onGrp.sendRot.setLink.count

theorem execRotEffect_keeps (s : State) {p set grp : Nat} : Keeps s (execRotEffect p set grp s) := by
  unfold execRotEffect
  refine .onChan fun h => ?_
  split
  · exact .ite h.onGrp h
  · exact h

theorem execReadSweepStart_keeps (s : State) {p : Nat} : Keeps s (execReadSweepStart p s) :=
  .onChan fun h => .ite (h.setLink fun l hl => by
    refine ⟨?_, hl.2⟩
    have hg := hl.grps
    simp only [List.length_append, List.length_map, List.length_take, List.length_drop]
    omega) h

theorem execTrackingSlice_keeps (s : State) {p set : Nat} {res : List TrackRes} : Keeps s (execTrackingSlice p set res s) := by
  unfold execTrackingSlice
  refine .onChan fun h => ?_
  extract_lets now s1 s2
  have h1 : s1.Wf := h.foldl (·.check)
  have h2 : s2.Wf := h1.countL
  refine .ite h ?_
  split
  next e =>
    exact (h2.takeFree.snd_eq e).setLink.foldl (·.track)

theorem execLaneStale_keeps (s : State) {p : Nat} {l : LanePos} : Keeps s (execLaneStale p l s) :=
  .onChan fun h' => .ite h' h'.onLane.setLink.check.startRetrain

theorem execFullRetrain_keeps (s : State) {p : Nat} {v : Word} : Keeps s (execFullRetrain p v s) := .onMgmt (·.wLinkCtrl)

theorem execRetrainSlice_keeps (s : State) {p : Nat} : Keeps s (execRetrainSlice p s) := by
  unfold execRetrainSlice
  refine .onChan fun h => ?_
  extract_lets l now s1
  have h1 : s1.Wf := h.setLink
  refine .ite h ?_
  split
  · exact h1.hold
  · exact h1

theorem execRetrainSliceEnd_keeps (s : State) {p : Nat} {final : Bool} {r : TrainRes} :
    Keeps s (execRetrainSliceEnd p final r s) := by
  unfold execRetrainSliceEnd
  refine .onChan fun h => ?_
  refine .ite h ?_
  extract_lets s1 s2 s3 s4 s5 s6 stale
  have h1 : s1.Wf := h.setLink
  have h2 : s2.Wf := by
    unfold s2
    split
    · exact h1.unhold
    · exact h1
  have h3 : s3.Wf := h2.setLink
  have h4 : s4.Wf := h3.check
  have h5 : s5.Wf := h4.applyTrims
  have h6 : s6.Wf := h5.foldl fun h' => .ite h' h'.calPass
  exact .ite h2 (.ite h4 (h6.foldl fun h' => .ite h' h'.posFail))

theorem execLinkHaltEnd_keeps (s : State) {p : Nat} : Keeps s (execLinkHaltEnd p s) := .onChan fun h' => .ite h' h'.unhaltLink

/-! ### Refresh, profiling and sensors -/

theorem State.Wf.dueItem (h : s.Wf) {p key : Nat} {f : State → State} (hf : ∀ {t}, t.Wf → (f t).Wf) : (s.dueItem p key f).Wf :=
  .ite h (hf (h.setCur fun _ hc => ⟨hc.1, hc.2, hc.3, hc.4, smSet_wf _ _ _ _ hc.5⟩))

theorem State.Wf.rateStep (h : s.Wf) {p hd : Nat} : (s.rateStep p hd).Wf := by
  unfold State.rateStep
  extract_lets c tp r band set n low
  have hset : ∀ rate below fall, (set rate below fall).Wf := fun _ _ _ =>
    h.setCur fun _ hc => ⟨(upd_length ..).trans hc.1, (upd_length ..).trans hc.2, (upd_length ..).trans hc.3, hc.4, hc.5⟩
  exact .ite (hset ..) (.ite (hset ..) (.ite (.ite (hset ..) (hset ..)) (hset ..)))

theorem State.Wf.reading (h : s.Wf) {p hd : Nat} {raw : BitVec 16} : (s.reading p hd raw).Wf := by
  unfold State.reading
  extract_lets t v bad s1 put s2 x s3
  have hput : ∀ v valid subst, (put v valid subst).Wf := fun _ _ _ =>
    State.Wf.setCur (h.check) fun _ hc => ⟨hc.1, hc.2, hc.3, (upd_length ..).trans hc.4, hc.5⟩
  have h3 : s3.Wf := by
    refine .ite (hput ..) ?_
    split
    · exact hput ..
    · split
      · exact hput ..
      · exact hput ..
  exact h3.rateStep

theorem State.Wf.nextProf (h : s.Wf) {p : Nat} : (s.nextProf p).Wf := h.setCur

theorem State.Wf.stretchEnd (h : s.Wf) {p hd : Nat} : (s.stretchEnd p hd).Wf := .ite h.nextProf h

theorem State.Wf.binRow (h : s.Wf) {p hide bank : Nat} {f : Nat × Bool} : (s.binRow p hide bank f).Wf := by
  unfold State.binRow
  extract_lets s1 w
  have h1 : s1.Wf := h.setCur
  split
  · exact h1.setCur
  · exact .ite h1.check h1.setCur

theorem State.Wf.patrol (h : s.Wf) {p : Nat} : (s.patrol p).Wf := by
  unfold State.patrol
  extract_lets c
  split
  · exact h.setCtl
  · exact h.setCtl.currierRead

theorem execRefreshDueTick_keeps (s : State) {p bank : Nat} : Keeps s (execRefreshDueTick p bank s) :=
  .onChan fun h' => h'.dueItem fun h'' => h''

theorem execRefreshRoundEnd_keeps (s : State) {p bank : Nat} : Keeps s (execRefreshRoundEnd p bank s) :=
  .onChan fun h' => .ite h'.roundEnd h'

theorem execWeakRowRefreshDue_keeps (s : State) {p i : Nat} : Keeps s (execWeakRowRefreshDue p i s) := by
  unfold execWeakRowRefreshDue
  refine .onChan fun h => ?_
  split
  · exact h
  · extract_lets key
    split
    · exact h
    · exact .ite h (h.dueItem (·.setCur))

theorem execSensorRead_keeps (s : State) {p : Nat} : Keeps s (execSensorRead p s) := .onChan fun h' => .ite h'.setCur.setLink h'

theorem execDieSensorRead_keeps (s : State) {p count : Nat} : Keeps s (execDieSensorRead p count s) :=
  .onChan fun h' => .ite h' h'.setCur.check

theorem execProfilingStepDone_keeps (s : State) {p step : Nat} : Keeps s (execProfilingStepDone p step s) := by
  unfold execProfilingStepDone
  refine .onChan fun h => ?_
  extract_lets c hd key allRead s1 s2
  have h1 : s1.Wf := h.check
  have h2 : s2.Wf := h1.foldl (·.binRow)
  exact .ite h (.ite h.nextProf (.ite (.ite h.setCur h) (.ite h.setCur (.ite h h2.setCur.nextProf))))

theorem execWeakAgeing_keeps (s : State) {p : Nat} : Keeps s (execWeakAgeing p s) := .onChan (·.setCur)

theorem execPatrolRead_keeps (s : State) {p : Nat} : Keeps s (execPatrolRead p s) := .onChan fun h' => .ite h'.patrol h'

theorem execPatrolLate_keeps (s : State) {p : Nat} : Keeps s (execPatrolLate p s) := .onChan fun h' => .ite h'.setCtl h'

/-! ### The sideband -/

theorem State.Wf.layerReset (h : s.Wf) {hd : Nat} : (s.layerReset hd).Wf := h.mapLinks

theorem State.Wf.hideAnswers (h : s.Wf) {p : Nat} {f : BitVec 44} {held : BitVec 16} : (s.hideAnswers p f held).2.Wf := by
  unfold State.hideAnswers
  extract_lets d hide addr data key put
  refine .iteSnd ?_ ?_
  · exact h
  · refine .iteSnd ?_ ?_
    · exact h
    · split
      · exact .iteSnd h (.ite h.setLink h)
      · exact .iteSnd h h.setLink
      · exact h.setLink
      · exact h.layerReset
      · exact h

theorem State.Wf.wSbCmd (h : s.Wf) {p : Nat} {v : Word} : (s.wSbCmd p v).Wf := .ite h.setLink (.ite h h.setLink)

theorem State.Wf.sbFail (h : s.Wf) {p : Nat} : (s.sbFail p).Wf :=
  .ite (.ite h.setLink.check h.setLink.count) (.ite h (.ite h.setLink.check h.setLink.count))

theorem State.Wf.sensorDone (h : s.Wf) {p hide : Nat} {raw : BitVec 16} : (s.sensorDone p hide raw).Wf :=
  .ite h.setLink.check.check h.setLink.check.check.reading.stretchEnd

theorem State.Wf.sbEnd (h : s.Wf) {p status data : Nat} : (s.sbEnd p status data).Wf := by
  unfold State.sbEnd
  extract_lets l s1
  have h1 : s1.Wf := h.setLink
  refine .ite h1.check.check ?_
  split
  · exact h.sensorDone
  · exact h

theorem execSbResponse_keeps (s : State) {p : Nat} {reqErr respErr : BitVec 44} {held : BitVec 16} :
    Keeps s (execSbResponse p reqErr respErr held s) := by
  unfold execSbResponse
  refine .onChan fun h => ?_
  split
  · exact h
  · split
    next e =>
      exact h.hideAnswers.snd_eq e
    next e2 =>
      extract_lets r status
      exact .ite (h.hideAnswers.snd_eq e2).sbFail (h.hideAnswers.snd_eq e2).sbEnd

theorem execSbTimeout_keeps (s : State) {p : Nat} : Keeps s (execSbTimeout p s) := .onChan fun h' => .ite h'.sbFail h'

theorem execSensorResult_keeps (s : State) {p hide : Nat} {raw : BitVec 16} : Keeps s (execSensorResult p hide raw s) :=
  .onChan fun h' => .ite h' h'.setLink.sensorDone

theorem execModeRegisterRead_keeps (s : State) {p : Nat} {v : Word} : Keeps s (execModeRegisterRead p v s) := .onMgmt (·.wSbCmd)

theorem execModeRegisterWrite_keeps (s : State) {p : Nat} {v : Word} : Keeps s (execModeRegisterWrite p v s) := .onMgmt (·.wSbCmd)

theorem execStatusReadClear_keeps (s : State) {p : Nat} {v : Word} : Keeps s (execStatusReadClear p v s) := .onMgmt (·.wSbCmd)

theorem execLayerReset_keeps (s : State) {p : Nat} {v : Word} : Keeps s (execLayerReset p v s) := .onMgmt (·.wSbCmd)

/-! ### Range operations, the log's acknowledgement and retirement -/

theorem State.Wf.abortShare (h : s.Wf) {l : Nat} : (s.abortShare l).Wf := h.onRange

theorem State.Wf.startRange (h : s.Wf) {op : Nat} : (s.startRange op).Wf := by
  unfold State.startRange
  extract_lets s1 r
  have h1 : s1.Wf := h.onRange
  split
  · exact h1.onRange
  · exact h1.onRange

theorem State.Wf.wRangeCtrl (h : s.Wf) {v : Word} : (s.wRangeCtrl v).Wf :=
  .ite h (.ite h.reject (.ite h.onRange.startRange (.ite h.onRange.onRange h.onRange)))

theorem State.Wf.skipShares (h : s.Wf) : (s.skipShares).Wf := h.onRange

theorem State.Wf.rangeEnd (h : s.Wf) : (s.rangeEnd).Wf := .ite h (.ite h.skipShares (h.skipShares.agent (·.paWrite.onRange)))

theorem State.Wf.wElogAck (h : s.Wf) {v : Word} : (s.wElogAck v).Wf := by
  unfold State.wElogAck
  extract_lets m seqs
  split
  · exact h.reject
  · exact h.withMgmt _ (List.length_drop.trans_le ((Nat.sub_le ..).trans h.elog))

theorem State.Wf.advance (h : s.Wf) {s0 : State} {us : List UnitId} : (State.advance s0 s us).Wf := .ite h.commit.rest h.commit

theorem State.Wf.retEnd (h : s.Wf) {p : Nat} {code : BitVec 4} : (s.retEnd p code).Wf := h.setCtl

theorem State.Wf.putRow (h : s.Wf) {p off : Nat} {l : List Block} : (s.putRow p off l).Wf := h.foldl (·.store)

theorem State.Wf.retErr (h : s.Wf) {p : Nat} {e : BlkErr} : (s.retErr p e).Wf :=
  .ite h.uncorrectable.poisonGran.logPoison (.ite h h.corrected)

theorem State.Wf.retireRow (h : s.Wf) {p hide bank : Nat} {errs : List BlkErr} : (s.retireRow p hide bank errs).Wf := by
  unfold State.retireRow
  extract_lets c row key s1 off old data area
  refine .ite h.retEnd ?_
  split
  · exact h.retEnd
  · refine .ite h.retEnd ?_
    extract_lets s2 written s3 s4 s5 s6 s7
    have h2 : s2.Wf := by
      refine h.setCtl fun c hc => ?_
      have hb : (if (c.bk key).st = .opn && (c.bk key).row = old then
          c.onBk key fun b => { b with st := .closing, tPre := c.cyc + 1 } else c).Wf := by
        split
        · exact hc.onBk
        · exact hc
      exact ⟨hb.1, hb.2⟩
    have h3 : s3.Wf := .ite h2.putRow h2
    have h4 : s4.Wf := .ite (h3.foldl (·.retErr)) h3
    have h5 : s5.Wf := h4.setCur
    have h6 : s6.Wf := h5.log
    have h7 : s7.Wf := h6.setCtl.retEnd
    exact h7.advance.queueRet

theorem State.Wf.retireBank (h : s.Wf) {p hide bank : Nat} :
    (s.retireBank p hide bank).Wf :=
  .ite h.retEnd (.ite h.retEnd h.setCtl)

theorem State.Wf.wRetireCtrl (h : s.Wf) {p : Nat} {v : Word} {errs : List BlkErr} : (s.wRetireCtrl p v errs).Wf :=
  .ite h.reject (.ite h.setCtl.retireRow (.ite h.setCtl.retireBank h.setCtl))

theorem State.Wf.bankCopyEnd (h : s.Wf) {p key : Nat} {errs : List BlkErr} : (s.bankCopyEnd p key errs).Wf := by
  unfold State.bankCopyEnd
  extract_lets s0 hide bank gs offs data s1 s2 area s3 s4
  have h1 : s1.Wf := h.setCtl fun _ hc => ⟨smSet_wf _ _ _ _ hc.1, hc.2⟩
  have h2 : s2.Wf := h1.foldl (·.putRow)
  have h3 : s3.Wf := h2.foldl (·.retErr)
  exact h3.log.retEnd.advance.queueRet

theorem execRangeScrub_keeps (s : State) {v : Word} : Keeps s (execRangeScrub v s) := .onMgmt (·.wRangeCtrl)

theorem execRangeClear_keeps (s : State) {v : Word} : Keeps s (execRangeClear v s) := .onMgmt (·.wRangeCtrl)

theorem execRangePoison_keeps (s : State) {v : Word} : Keeps s (execRangePoison v s) := .onMgmt (·.wRangeCtrl)

theorem execRangeCancel_keeps (s : State) {v : Word} : Keeps s (execRangeCancel v s) := .onMgmt (·.wRangeCtrl)

theorem execRangeDone_keeps (s : State) {op : Nat} : Keeps s (execRangeDone op s) := .next fun h => .ite h.rangeEnd h

theorem execElogAck_keeps (s : State) {v : Word} : Keeps s (execElogAck v s) := .onMgmt (·.wElogAck)

theorem execRowRetirement_keeps (s : State) {p : Nat} {v : Word} {errs : List BlkErr} : Keeps s (execRowRetirement p v errs s) :=
  .onMgmt (·.wRetireCtrl)

theorem execBankRetirement_keeps (s : State) {p : Nat} {v : Word} : Keeps s (execBankRetirement p v s) := .onMgmt (·.wRetireCtrl)

theorem execBankCopyDone_keeps (s : State) {p : Nat} {errs : List BlkErr} : Keeps s (execBankCopyDone p errs s) := by
  unfold execBankCopyDone
  refine .onChan fun h => ?_
  split
  · exact .ite h.bankCopyEnd h
  · exact h

/-! ### Reads of stored structures -/

theorem State.Wf.ask (h : s.Wf) {α : Type} {r : Res α} : (State.ask s r).2.Wf := by
  unfold State.ask
  split
  · exact h.rest

/-! ### The page service -/

/-- Every run of `m` from a state with `I` ends in one with `I`, whether it throws or not. -/
def MKeeps {ε σ α : Type} (I : σ → Prop) (m : ExceptT ε (StateM σ) α) : Prop := ∀ t, I t → I (m.run.run t).2

section
variable {ε σ α β : Type} {I : σ → Prop}

theorem MKeeps.pure {a : α} : MKeeps I (Pure.pure a : ExceptT ε (StateM σ) α) := fun _ h => h

theorem MKeeps.throw {e : ε} : MKeeps I (MonadExcept.throw e : ExceptT ε (StateM σ) α) := fun _ h => h

theorem MKeeps.set {t : σ} (h : I t) : MKeeps I (MonadStateOf.set t : ExceptT ε (StateM σ) PUnit) := fun _ _ => h

theorem MKeeps.modify {f : σ → σ} (hf : ∀ {t}, I t → I (f t)) :
    MKeeps I (modify f : ExceptT ε (StateM σ) PUnit) :=
  fun _ h => hf h

theorem MKeeps.bind {m : ExceptT ε (StateM σ) α} {k : α → ExceptT ε (StateM σ) β} (hm : MKeeps I m) (hk : ∀ a, MKeeps I (k a)) :
    MKeeps I (m >>= k) := by
  intro t ht
  have hr := hm t ht
  change I ((m.run >>= ExceptT.bindCont k).run t).2
  rw [StateT.run_bind]
  change I ((ExceptT.bindCont k (m.run.run t).1).run (m.run.run t).2).2
  cases (m.run.run t).1 with
  | ok a => exact hk a _ hr
  | error e => exact hr

theorem MKeeps.getBind {k : σ → ExceptT ε (StateM σ) β} (hk : ∀ {t}, I t → MKeeps I (k t)) : MKeeps I (get >>= k) :=
  fun t ht => hk ht t ht

theorem MKeeps.ite {c : Prop} [Decidable c] {m n : ExceptT ε (StateM σ) α} (hm : MKeeps I m) (hn : MKeeps I n) :
    MKeeps I (if c then m else n) := by
  split <;> assumption

/-- `if c then throw e` before the rest. -/
theorem MKeeps.guard {c : Prop} [Decidable c] {e : ε} {k : PUnit → ExceptT ε (StateM σ) α} (hk : ∀ u, MKeeps I (k u)) :
    MKeeps I (if c then MonadExcept.throw e >>= k else k ⟨⟩) := .ite (.bind .throw hk) (hk ⟨⟩)

theorem MKeeps.foldlM {γ : Type} {l : List γ} {f : α → γ → ExceptT ε (StateM σ) α} (hf : ∀ a c, MKeeps I (f a c)) {a : α} :
    MKeeps I (l.foldlM f a) := by
  induction l generalizing a with
  | nil => exact .pure
  | cons c l ih => rw [List.foldlM_cons]; exact .bind (hf a c) fun _ => ih

theorem MKeeps.forM {l : List α} {f : α → ExceptT ε (StateM σ) PUnit} (hf : ∀ a, MKeeps I (f a)) : MKeeps I (l.forM f) := by
  induction l with
  | nil => exact .pure
  | cons a l ih => exact .bind (hf a) fun _ => ih

theorem MKeeps.mapM {l : List α} {f : α → ExceptT ε (StateM σ) β} (hf : ∀ a, MKeeps I (f a)) : MKeeps I (l.mapM f) := by
  induction l with
  | nil => exact .pure
  | cons a l ih => rw [List.mapM_cons]; exact .bind (hf a) fun _ => .bind ih fun _ => .pure

end
/-- A call's own state is well-formed when the block's is. -/
def PSt.Wf (t : PSt) : Prop := t.s.Wf

/-- A call's state is set anew about a well-formed state of the block. -/
theorem MKeeps.setPSt {owner cls origin ctx pick freed : Nat} {granted struck shared : List Nat}
    {child : Option (Nat × PRec)} (h : s.Wf) :
    MKeeps PSt.Wf (MonadStateOf.set (⟨s, owner, cls, origin, ctx, pick, granted, freed, struck, child, shared⟩ : PSt) : PM PUnit) :=
  .set h

theorem MKeeps.pRead {α : Type} {f : State → Res α} : MKeeps PSt.Wf (pRead f) := by
  unfold Machine.pRead
  refine .getBind fun h => ?_
  split
  next e =>
    refine .bind (.setPSt (h.ask.snd_eq e)) fun _ => ?_
    split
    · exact .pure
    · exact .throw

theorem MKeeps.pMod {f : State → State} (hf : ∀ {s}, s.Wf → (f s).Wf) : MKeeps PSt.Wf (pMod f) := .modify fun h => hf h

theorem MKeeps.pWrite {f : State → BitVec 4 × State} (hf : ∀ {s}, s.Wf → (f s).2.Wf) : MKeeps PSt.Wf (pWrite f) := by
  unfold Machine.pWrite
  refine .getBind fun h => ?_
  split
  next e =>
    exact .ite (.modify fun h2 => ((hf h).snd_eq e)) .throw

theorem State.Wf.onPd (h : s.Wf) {f : Pd → Pd} : (s.onPd f).Wf := h.rest

theorem State.Wf.pdEv (h : s.Wf) {bit : Nat} : (s.pdEv bit).Wf := h.onPd

theorem State.Wf.strikeWord (h : s.Wf) {f : Nat} : (s.strikeWord f).Wf := h.onPd.pdEv

theorem MKeeps.grantTry {chans : List Nat} {n : Nat} : MKeeps PSt.Wf (grantTry chans n) := by
  induction n with
  | zero => exact .throw
  | succ n ih =>
    refine .getBind fun h => ?_
    extract_lets -underBinder +onlyGivenNames s1 x
    refine .guard fun _ => ?_
    split
    · exact .throw
    · split
      · exact .throw
      · split
        next e =>
          have h1 := State.Wf.fire h |>.snd_eq e
          refine .ite (.bind (.setPSt h1.fault.strikeWord) fun _ => ih) ?_
          extract_lets -underBinder +onlyGivenNames s2 s3
          have h2 : s2.Wf := by
            unfold s2
            split
            · exact h1.clearGran
            · exact h1
          exact .bind (.setPSt h2.onPd.count) fun _ => .pure

theorem MKeeps.grant {chans : List Nat} : MKeeps PSt.Wf (grant chans) := .grantTry

theorem MKeeps.putHdr {f : Nat} {hd : PHdr} : MKeeps PSt.Wf (putHdr f hd) := .pWrite (·.paWriteN)

theorem MKeeps.freeFrame {f : Nat} : MKeeps PSt.Wf (freeFrame f) := .getBind fun h => .ite (.setPSt h.onPd) .pure

theorem MKeeps.zeroBlock {e : Nat} : MKeeps PSt.Wf (zeroBlock e) := .forM fun _ => .pWrite (·.memWrite)

theorem MKeeps.newBlock {chans : List Nat} : MKeeps PSt.Wf (newBlock chans) := by
  unfold Machine.newBlock
  refine .getBind fun h => ?_
  extract_lets -underBinder +onlyGivenNames s2 room
  split
  · exact .throw
  · refine .bind ?_ fun _ => .bind .zeroBlock fun _ => .pure
    split
    · exact .bind .putHdr fun _ => .pure
    · exact .bind .grant fun _ => .getBind fun _ => .bind .putHdr fun _ => .pure

theorem MKeeps.freeBlock {e : Nat} :
    MKeeps PSt.Wf (freeBlock e) :=
  .bind .pRead fun _ => .bind .putHdr fun _ => .ite .freeFrame .pure

theorem MKeeps.putFrame {f b : Nat} {bs : List Byte} : MKeeps PSt.Wf (putFrame f b bs) :=
  .getBind fun _ => .bind .pRead fun _ => .forM fun _ => .pWrite (·.memWrite)

theorem MKeeps.putWord {e i v : Nat} : MKeeps PSt.Wf (putWord e i v) := .putFrame

theorem MKeeps.level3 {r : PRec} {p : Nat} : MKeeps PSt.Wf (level3 r p) := by
  unfold Machine.level3
  refine .getBind fun h => ?_
  extract_lets -underBinder +onlyGivenNames ctx chans k
  refine .bind ?_ fun _ => ?_
  · refine .bind .pRead fun _ => ?_
    split
    · exact .pure
    · exact .bind .newBlock fun _ => .pure
  · split
    refine .bind .pRead fun w => ?_
    refine .bind .pRead fun _ => ?_
    split
    · exact .pure
    · exact .bind .newBlock fun _ => .bind .putWord fun _ => .pure

theorem MKeeps.setEntry {r : PRec} {p w : Nat} : MKeeps PSt.Wf (setEntry r p w) :=
  .bind .level3 fun (_, _) => .bind .putWord fun _ => .pure

theorem MKeeps.putRec {ctx : Nat} {r : PRec} : MKeeps PSt.Wf (putRec ctx r) := .pWrite (·.paWrite)

theorem MKeeps.dropRef {f : Nat} {hd : PHdr} : MKeeps PSt.Wf (dropRef f hd) :=
  .bind .putHdr fun _ => .ite (.ite (.bind .freeBlock fun _ => .freeFrame) .freeFrame) .pure

theorem MKeeps.removePage {r : PRec} {p : Nat} : MKeeps PSt.Wf (removePage r p) :=
  .bind .pRead fun _ => .bind .pRead fun _ => .bind .setEntry fun _ => .bind .dropRef fun _ => .pure

theorem MKeeps.removePages {r : PRec} {lo hi : Nat} : MKeeps PSt.Wf (removePages r lo hi) := .foldlM fun _ _ => .removePage

theorem MKeeps.newPage {r : PRec} {p : Nat} : MKeeps PSt.Wf (newPage r p) :=
  .getBind fun _ => .bind .grant fun _ => .ite (.getBind fun _ => .bind .newBlock fun _ => .pure) .pure

theorem MKeeps.copyPage {r : PRec} {p n f : Nat} {hd : PHdr} : MKeeps PSt.Wf (copyPage r p n f hd) := by
  unfold Machine.copyPage
  refine .bind .newPage fun _ => ?_
  split
  extract_lets -underBinder +onlyGivenNames rb
  refine .bind .pRead fun ks => ?_
  refine .bind .pRead fun vs => ?_
  refine .bind .putFrame fun _ => ?_
  refine .bind .putFrame fun _ => ?_
  extract_lets -underBinder +onlyGivenNames rest
  have hRest : ∀ u, MKeeps PSt.Wf (rest u) := fun _ =>
    .getBind fun _ => .bind .putHdr fun _ => .bind .setEntry fun _ => .bind .dropRef fun _ => .pure
  exact .ite (.bind .pRead fun _ => .bind .putFrame hRest) (hRest ())

theorem MKeeps.ownPage {r : PRec} {p : Nat} : MKeeps PSt.Wf (ownPage r p) :=
  .bind .pRead fun _ => .bind .pRead fun _ => .ite .copyPage .pure

theorem MKeeps.setTokens {f : Nat} {hd : PHdr} {n : Nat} : MKeeps PSt.Wf (setTokens f hd n) :=
  .bind .pRead fun _ => .ite (.bind .putFrame fun _ => .putHdr) .putHdr

theorem MKeeps.commitPages {r : PRec} {lo hi : Nat} : MKeeps PSt.Wf (commitPages r lo hi) :=
  .ite .pure (.foldlM fun _ _ => .bind .ownPage fun (_, _, _) => .bind .setTokens fun _ => .pure)

theorem MKeeps.dropStrays {r : PRec} : MKeeps PSt.Wf (dropStrays r) := by
  unfold Machine.dropStrays
  extract_lets -underBinder +onlyGivenNames entries
  have hEntries : ∀ a n k, MKeeps PSt.Wf (entries a n k) := fun _ _ _ =>
    .bind .pRead fun _ => .bind (.mapM fun (_, _) => .bind .pRead fun _ => .pure) fun _ => .pure
  refine .bind ?_ fun l2 => ?_
  · refine .mapM fun k => ?_
    refine .bind .pRead fun _ => ?_
    split
    · exact .pure
    · exact hEntries _ _ _
  · exact .bind (.mapM fun (_, _) => hEntries _ _ _) fun _ => .foldlM fun _ _ => .removePage

theorem MKeeps.dropTail {r : PRec} : MKeeps PSt.Wf (dropTail r) := .bind .removePages fun _ => .pure

theorem MKeeps.opCreate {c : Call} {r : PRec} : MKeeps PSt.Wf (opCreate c r) :=
  .guard fun _ => .guard fun _ => .guard fun _ => .bind .putRec fun _ => .pMod (·.onPd)

theorem MKeeps.readSource {c : Call} {r : PRec} {n : Nat} : MKeeps PSt.Wf (readSource c r n) := by
  unfold Machine.readSource
  refine .getBind fun h => ?_
  extract_lets -underBinder +onlyGivenNames origin rb sb up rd
  have hRd : ∀ a n, MKeeps PSt.Wf (rd a n) := fun _ _ => .getBind fun _ => .guard fun _ => .pRead
  exact .bind (hRd _ _) fun _ => .bind (hRd _ _) fun _ => .bind (hRd _ _) fun _ => .bind (hRd _ _) fun _ => .pure

theorem MKeeps.putToken {f : Nat} {hd : PHdr} {j : Nat} {k v ks vs : List Byte} : MKeeps PSt.Wf (putToken f hd j k v ks vs) :=
  .bind .putFrame fun _ => .bind .putFrame fun _ => .ite (.bind .putFrame fun _ => .putFrame) .pure

theorem MKeeps.putTokens {r : PRec} {t0 n : Nat} {src : List Byte × List Byte × List Byte × List Byte} :
    MKeeps PSt.Wf (putTokens r t0 n src) := by
  unfold Machine.putTokens
  extract_lets -underBinder +onlyGivenNames rb sb
  refine .foldlM fun r i => ?_
  extract_lets -underBinder +onlyGivenNames p
  refine .bind .ownPage fun _ => ?_
  split
  exact .getBind fun _ => .bind .putHdr fun _ => .bind (.forM fun _ => .putToken) fun _ => .pure

theorem MKeeps.sameScales {c : Call} {r : PRec} {lo hi : Nat} : MKeeps PSt.Wf (sameScales c r lo hi) :=
  .ite .pure (.forM fun _ => .bind .pRead fun _ => .bind .pRead fun _ => .ite .throw .pure)

theorem MKeeps.checkN {c : Call} : MKeeps PSt.Wf (checkN c) := .ite .throw .pure

theorem MKeeps.opAppend {c : Call} {r : PRec} : MKeeps PSt.Wf (opAppend c r) := by
  unfold Machine.opAppend
  refine .bind .checkN fun _ => ?_
  extract_lets -underBinder +onlyGivenNames n
  refine .guard fun _ => .bind .dropStrays fun r => ?_
  extract_lets -underBinder +onlyGivenNames last
  refine .bind .sameScales fun _ => .bind .readSource fun src => .bind ?_ fun r => ?_
  · refine .foldlM fun r i => ?_
    extract_lets -underBinder +onlyGivenNames p
    refine .bind .newPage fun _ => ?_
    split
    refine .getBind fun h => .bind .putHdr fun _ => ?_
    extract_lets -underBinder +onlyGivenNames e
    exact .setEntry
  · extract_lets -underBinder +onlyGivenNames t0
    refine .bind .putTokens fun r => ?_
    exact .ite (.bind (.bind .commitPages fun _ => .pure) fun _ => .putRec) (.bind .pure fun _ => .putRec)

theorem MKeeps.opCommit {c : Call} {r : PRec} : MKeeps PSt.Wf (opCommit c r) := .bind .commitPages fun _ => .putRec

theorem MKeeps.opPatch {c : Call} {r : PRec} : MKeeps PSt.Wf (opPatch c r) := by
  unfold Machine.opPatch
  refine .bind .checkN fun _ => ?_
  extract_lets -underBinder +onlyGivenNames n
  refine .guard fun _ => ?_
  refine .bind .dropStrays fun r => ?_
  refine .bind .sameScales fun _ => ?_
  refine .bind .readSource fun src => ?_
  refine .bind .putTokens fun r => ?_
  exact .bind (.foldlM fun _ _ => .bind .ownPage fun (_, _, _) => .bind .setTokens fun _ => .pure) fun _ => .putRec

theorem MKeeps.opFork {c : Call} {r : PRec} : MKeeps PSt.Wf (opFork c r) := by
  unfold Machine.opFork
  refine .guard fun _ => ?_
  refine .bind .pRead fun y => ?_
  refine .guard fun _ => ?_
  refine .bind .dropStrays fun r => ?_
  extract_lets -underBinder +onlyGivenNames n y
  refine .bind (.modify fun h => h) fun _ => ?_
  refine .bind (.foldlM fun _ _ => .bind .level3 fun _ => .pure) fun y => ?_
  refine .bind .putRec fun _ => ?_
  refine .bind (.modify fun h => h) fun _ => ?_
  refine .bind ?_ fun y => ?_
  · refine .foldlM fun y p => ?_
    refine .bind .pRead fun f => ?_
    exact .bind .pRead fun _ => .guard fun _ => .bind .putHdr fun _ => .bind (.modify fun h => h) fun _ => .setEntry
  · exact .bind (.modify fun h => h) fun _ => .bind .putRec fun _ => .pMod (·.onPd)

theorem MKeeps.opTrim {c : Call} {r : PRec} : MKeeps PSt.Wf (opTrim c r) := by
  unfold Machine.opTrim
  refine .guard fun _ => ?_
  refine .bind .dropStrays fun r => ?_
  extract_lets -underBinder +onlyGivenNames keep
  refine .bind .removePages fun r => ?_
  extract_lets -underBinder +onlyGivenNames r rest
  have hRest : ∀ r, MKeeps PSt.Wf (rest r) := fun _ => .putRec
  refine .ite (.bind .pure hRest) ?_
  refine .bind ?_ hRest
  extract_lets -underBinder +onlyGivenNames p
  refine .bind .pRead fun f => ?_
  exact .bind .pRead fun _ => .ite .pure (.bind .ownPage fun (_, _, _) => .bind .setTokens fun _ => .pure)

theorem MKeeps.opRelease {c : Call} {r : PRec} : MKeeps PSt.Wf (opRelease c r) := by
  unfold Machine.opRelease
  refine .bind .dropStrays fun r => ?_
  refine .bind ?_ fun q => ?_
  · refine .foldlM fun q p => ?_
    refine .bind .pRead fun f => ?_
    refine .bind .setEntry fun _ => ?_
    refine .bind .pRead fun _ => ?_
    split
    · exact .bind .dropRef fun _ => .pure
    · exact .ite (.bind (.pMod (·.onPd)) fun _ => .pure) .throw
  · refine .bind .pRead fun bs => ?_
    refine .bind (.forM fun _ => .freeBlock) fun _ => ?_
    refine .bind .putRec fun _ => ?_
    exact .bind (.pMod (·.onPd)) fun _ => .ite (.bind (.pMod (·.pdEv.report)) fun _ => .pure) .pure

theorem MKeeps.opLock {c : Call} {r : PRec} : MKeeps PSt.Wf (opLock c r) := by
  unfold Machine.opLock
  refine .getBind fun h => ?_
  refine .ite .pure (.ite .pure ?_)
  extract_lets -underBinder +onlyGivenNames broken
  extract_lets -underBinder +onlyGivenNames rest2
  have hRest2 : ∀ a, MKeeps PSt.Wf (rest2 a) := by
    intro a
    unfold rest2
    extract_lets -underBinder +onlyGivenNames gen
    refine .bind .putRec fun _ => ?_
    refine .bind (.pMod (·.onPd)) fun _ => ?_
    exact .bind (.pMod (·.count)) fun _ => .ite (.bind (.pMod (·.pdEv.count)) fun _ => .pure) .pure
  exact .ite (.bind .dropTail hRest2) (.bind .pure hRest2)

theorem MKeeps.opUnlock {c : Call} {r : PRec} : MKeeps PSt.Wf (opUnlock c r) :=
  .bind .dropStrays fun _ => .bind .dropTail fun _ => .bind .putRec fun _ => .pMod (·.onPd)

theorem MKeeps.opCold {c : Call} {r : PRec} : MKeeps PSt.Wf (opCold c r) := by
  unfold Machine.opCold
  refine .bind .checkN fun _ => ?_
  refine .guard fun _ => ?_
  refine .getBind fun h => ?_
  refine .guard fun _ => ?_
  beta_reduce
  extract_lets -underBinder +onlyGivenNames rest2
  have hRest2 : ∀ u, MKeeps PSt.Wf (rest2 u) := fun _ =>
    .guard fun _ => .bind (.forM fun (_, _) => .pWrite (·.paPatch)) fun _ => .pure
  refine .ite ?_ ?_
  · exact .bind (.foldlM fun _ _ => .bind .pRead fun _ => .bind .pRead fun _ => .pure) hRest2
  · exact .bind (.foldlM fun _ _ => .bind .pRead fun _ => .pure) hRest2

theorem MKeeps.runOpOn {c : Call} {r : PRec} : MKeeps PSt.Wf (runOpOn c r) := by
  unfold Machine.runOpOn
  refine .getBind fun h => ?_
  extract_lets -underBinder +onlyGivenNames holds rest
  have hRest : ∀ u, MKeeps PSt.Wf (rest u) := by
    intro u
    unfold rest
    extract_lets -underBinder +onlyGivenNames done
    have hDone : ∀ m, MKeeps PSt.Wf m → MKeeps PSt.Wf (done m) := fun _ hm => .bind hm fun _ => .pure
    exact .ite (hDone _ .opCreate) (.ite (hDone _ .opAppend) (.ite (hDone _ .opCommit) (.ite (hDone _ .opFork)
      (.ite (hDone _ .opTrim) (.ite (.bind .opRelease fun _ => .pure) (.ite (.bind .opLock fun (_, _) => .pure) (.ite (hDone _ .opUnlock)
      (.ite .pure (.ite (hDone _ .opPatch) (.bind .opCold fun _ => .pure))))))))))
  exact .ite (.guard fun _ => .guard hRest) (hRest ⟨⟩)

theorem MKeeps.callBody {b : Block} : MKeeps PSt.Wf (callBody b) := .guard fun _ => .bind .pRead fun _ => .guard fun _ => .runOpOn

theorem State.Wf.undo (h : s.Wf) {t : PSt} : (s.undo t).Wf := by
  unfold State.undo
  extract_lets s1 s2
  have h1 : s1.Wf := by
    unfold s1
    refine h.rest.foldl fun h'' => ?_
    split
    · exact h''.clearGran.count.count
    · exact h''
  have h2 : s2.Wf := h1.foldl (·.fire.fault.strikeWord)
  split
  · exact h2
  · extract_lets s3
    have h3 : s3.Wf := h2.paWrite
    refine h3.foldl fun h' => ?_
    split
    · exact h'.paWrite
    · exact h'

theorem State.Wf.lockParity (h : s.Wf) {ctx : Nat} : (s.lockParity ctx).Wf := by
  unfold State.lockParity
  refine .ite ?_ ?_
  · split
    next e =>
      exact .ite (h.fire.snd_eq e).fault.orphanCtx (h.fire.snd_eq e)
  · exact h

theorem State.Wf.pageCall (h : s.Wf) {owner cls origin pick : Nat} {b : Block} : (s.pageCall owner cls origin pick b).2.Wf := by
  unfold State.pageCall
  extract_lets c s1
  have h1 : s1.Wf := h.lockParity
  have hrun := (MKeeps.callBody : MKeeps PSt.Wf (callBody b))
    { s := s1, owner := owner, cls := cls, origin := origin, ctx := c.ctx, pick := pick } h1
  refine .iteSnd h ?_
  split
  next e => exact (congrArg (fun r => r.2.s) e) ▸ hrun
  next e =>
    extract_lets s2 s3
    have h2 : s2.Wf := h1.undo
    exact .ite h2.pdEv.onPd.count h2

/-! ### Nodes dispatched -/

theorem State.Wf.engCheck (h : s.Wf) {x : Nat} : (s.engCheck x).2.Wf := h.check.check

theorem State.Wf.runNode (h : s.Wf) {x k i : Nat} : (s.runNode x k i).Wf := h.onNode

theorem State.Wf.noteSent (h : s.Wf) {x k i : Nat} : (s.noteSent x k i).Wf := .ite h.writeEntry h

theorem State.Wf.startNode (h : s.Wf) {x k i : Nat} : (s.startNode x k i).Wf := h.runNode.writeEntry

theorem State.Wf.startOne (h : s.Wf) {x k i : Nat} : (s.startOne x k i).Wf := h.onNode.startNode.count

theorem State.Wf.dispatchOne (h : s.Wf) {x k i ty : Nat} {run : State → Nat → State} (hrun : ∀ {t n}, t.Wf → (run t n).Wf) :
    (s.dispatchOne x k i ty run).Wf := by
  unfold State.dispatchOne
  refine .ite h ?_
  refine h.agent fun h' => ?_
  split
  next e =>
    exact h'.engCheck.snd_eq e
  next e2 =>
    extract_lets s1
    have h1 : s1.Wf := (h'.engCheck.snd_eq e2).startOne
    split
    next e3 =>
      exact (h1.ask.snd_eq e3).endNode
    next e4 =>
      exact hrun (h1.ask.snd_eq e4).onNode

theorem State.Wf.dispatchParts (h : s.Wf) {x k i ty : Nat}
    {prep : State → Nat → Res (List Nat × Block × List (Nat × Nat) × List (Nat × BitVec 4 × Nat))} :
    (s.dispatchParts x k i ty prep).Wf := by
  unfold State.dispatchParts
  extract_lets nd
  refine .ite (h.agent fun h' => ?_) (.ite h.sendParts.noteSent h)
  split
  next e => exact h'.engCheck.snd_eq e
  next e =>
    have h1 := h'.engCheck.snd_eq e
    split
    next e2 => exact (h1.ask.snd_eq e2).startNode.endNode
    next e2 =>
      extract_lets parts s1 s2
      have h2 : s2.Wf := State.Wf.runNode (h1.ask.snd_eq e2).onNode
      exact .ite h1 h2.sendParts.noteSent

/-! ### Parts at an Awl -/

theorem State.Wf.ending (h : s.Wf) {p : Nat} {code : BitVec 4} {detail : Nat} : (s.ending p code detail).Wf := h.setAwl

theorem State.Wf.trap (h : s.Wf) {p cause : Nat} {code : BitVec 4} {pc addr : Nat} : (s.trap p cause code pc addr).Wf := by
  unfold State.trap
  split
  · exact h
  · exact h.setAwl.ending.countAwl

theorem State.Wf.reportPart (h : s.Wf) {p : Nat} {code : BitVec 4} {detail : Nat} : (s.reportPart p code detail).Wf := by
  unfold State.reportPart
  split
  · exact h
  · exact h.countAwl.setAwl.partEnded

theorem State.Wf.loadImage (h : s.Wf) {p : Nat} {q : Part} : (s.loadImage p q).Wf := by
  unfold State.loadImage
  split
  next e =>
    exact .ite (h.ask.snd_eq e).trap (h.ask.snd_eq e).trap
  next e2 =>
    extract_lets w len a go
    refine .ite ((h.ask.snd_eq e2).trap) (.ite ((h.ask.snd_eq e2).setAwl) ?_)
    split
    next e3 =>
      extract_lets s1
      have h1 : s1.Wf := .ite ((h.ask.snd_eq e2).fire.snd_eq e3).report ((h.ask.snd_eq e2).fire.snd_eq e3)
      split
      next e4 =>
        extract_lets s2
        have h2 : s2.Wf := (h1.ask.snd_eq e4).setAwl
        exact .ite h2.trap h2.trap
      next e5 =>
        exact .ite (h1.ask.snd_eq e5).setAwl.trap (h1.ask.snd_eq e5).setAwl.setAwl

theorem setS_length (l : List Dword) (i : Nat) (v : Dword) : (setS l i v).length = l.length := by
  unfold setS
  split
  · rfl
  · exact upd_length ..

theorem setS_foldl_length (regs : List (Nat × Dword)) (l : List Dword) :
    (regs.foldl (fun l e => setS l e.1 e.2) l).length = l.length :=
  List.foldlRecOn (motive := fun l' : List Dword => l'.length = l.length) _ _ rfl fun _ h _ _ => (setS_length ..).trans h

theorem State.Wf.startPart (h : s.Wf) {p : Nat} {q : Part} : (s.startPart p q).Wf := by
  unfold State.startPart
  extract_lets nd patched args ctx w
  split
  next e =>
    exact .ite (h.ask.snd_eq e).trap (h.ask.snd_eq e).trap
  next e2 =>
    extract_lets s1 rec'
    have h1 : s1.Wf := (h.ask.snd_eq e2).setAwl
    split
    next e3 =>
      exact .ite (h1.ask.snd_eq e3).trap (h1.ask.snd_eq e3).ending
    next e4 =>
      refine .ite ((h1.ask.snd_eq e4).ending) ?_
      extract_lets recb regs s2
      have h2 : s2.Wf := (h1.ask.snd_eq e4).setAwl fun _ ha => ⟨setS_foldl_length .. |>.trans rfl, ha.2⟩
      exact .ite h2.loadImage h2.setAwl

theorem State.Wf.enterPart (h : s.Wf) {p : Nat} : (s.enterPart p).Wf := by
  unfold State.enterPart
  refine .ite h ?_
  split
  · exact h
  · refine h.agent fun h' => ?_
    extract_lets s1 s2
    have h1 : s1.Wf := h'.setAwl fun _ ha => ⟨rfl, rfl⟩
    have h2 : s2.Wf := h1.countAwl
    exact .ite h2.startPart h2

/-! ### The fixed routines -/

theorem MKeeps.sRead {α : Type} {f : State → Res α} : MKeeps State.Wf (sRead f) := by
  unfold Machine.sRead
  refine .getBind fun h => ?_
  split
  next e =>
    refine .bind (.set (h.ask.snd_eq e)) fun _ => ?_
    split
    · exact .pure
    · exact .throw

theorem MKeeps.sPut {a origin : Nat} {bs : List Byte} : MKeeps State.Wf (sPut a origin bs) := by
  unfold Machine.sPut
  extract_lets -underBinder +onlyGivenNames head put
  have hPut : ∀ a l, MKeeps State.Wf (put a l) := by
    intro a l
    unfold put
    refine .getBind fun h => ?_
    split
    next e =>
      exact .ite (.set (h.paPatch.snd_eq e)) .throw
  exact .ite .pure (.bind (hPut _ _) fun _ => .forM fun _ => hPut _ _)

theorem MKeeps.readWords {a origin n : Nat} : MKeeps State.Wf (readWords a origin n) := .bind .sRead fun _ => .pure

theorem MKeeps.readQuery {a origin g d fmt : Nat} : MKeeps State.Wf (readQuery a origin g d fmt) :=
  .ite (.bind .readWords fun _ => .pure) (.bind .sRead fun _ => .pure)

theorem MKeeps.touchPage {f : Nat} {hd : PHdr} : MKeeps State.Wf (touchPage f hd) := by
  unfold Machine.touchPage
  refine .getBind fun h => ?_
  extract_lets -underBinder +onlyGivenNames h'
  refine .ite ?_ ?_
  · split
    next e =>
      exact .ite (.set (h.paWrite.snd_eq e)) .throw
  · exact .pure

theorem MKeeps.noteNan {p n : Nat} : MKeeps State.Wf (noteNan p n) := .ite .pure (.modify (·.setAwl))

theorem MKeeps.noteEmpty {p n : Nat} : MKeeps State.Wf (noteEmpty p n) := .ite .pure (.modify (·.setAwl))

theorem MKeeps.notePage {p : Nat} {q : Machine.Part} {mac : Nat} : MKeeps State.Wf (notePage p q mac) :=
  .modify (·.onNode.setAwl.countAwl)

theorem MKeeps.noSnapErr {nd : Node} {mine : Nat → Bool} : MKeeps State.Wf (noSnapErr nd mine) := by
  unfold Machine.noSnapErr
  split
  · exact .throw
  · exact .pure

theorem MKeeps.scorePart {p : Nat} {q : Machine.Part} : MKeeps State.Wf (scorePart p q) := by
  unfold Machine.scorePart
  refine .getBind fun h => ?_
  extract_lets -underBinder +onlyGivenNames nd n r first cnt
  refine .bind .noSnapErr fun _ => ?_
  refine .bind .readQuery fun rows => ?_
  refine .forM fun x => ?_
  split
  refine .bind .sRead fun hd => ?_
  exact .bind .sRead fun _ => .bind .sPut fun _ => .bind .touchPage fun _ => .bind .notePage fun _ => .noteNan

theorem MKeeps.selectPart {q : Machine.Part} : MKeeps State.Wf (selectPart q) :=
  .getBind fun _ => .bind .readWords fun _ => .bind .sPut fun _ => .modify (·.onNode)

theorem MKeeps.partialPages {n : Nat} {q : Machine.Part} {r : PRec} : MKeeps State.Wf (partialPages n q r) :=
  .ite (.bind .readWords fun _ => .bind .readWords fun _ => .pure) .pure

theorem MKeeps.partialPart {p : Nat} {q : Machine.Part} : MKeeps State.Wf (partialPart p q) := by
  unfold Machine.partialPart
  refine .getBind fun h => ?_
  extract_lets -underBinder +onlyGivenNames nd n r g d
  refine .bind .readQuery fun rows => ?_
  refine .bind .partialPages fun sel => ?_
  refine .guard fun _ => ?_
  refine .bind .noSnapErr fun _ => ?_
  extract_lets -underBinder +onlyGivenNames scale
  refine .forM fun x => ?_
  split
  split
  · exact .throw
  · refine .ite ?_ ?_
    · refine .bind .sRead fun hd => ?_
      extract_lets -underBinder +onlyGivenNames t
      refine .bind (.mapM fun _ => .sRead) fun ks => ?_
      refine .bind (.mapM fun _ => .sRead) fun vs => ?_
      exact .bind (.forM fun (_, _) => .bind .sPut fun _ => .noteNan) fun _ => .bind .touchPage fun _ => .notePage
    · exact .pure

theorem MKeeps.mergePart {p : Nat} {q : Machine.Part} : MKeeps State.Wf (mergePart p q) := by
  unfold Machine.mergePart
  refine .getBind fun h => ?_
  extract_lets -underBinder +onlyGivenNames n g d z
  refine .bind (.ite (.bind .readWords fun _ => .pure) .pure) fun cnt => ?_
  refine .forM fun hd => ?_
  refine .bind (.mapM fun _ => .bind .readWords fun _ => .pure) fun rs => ?_
  split
  extract_lets -underBinder +onlyGivenNames rest2
  have hRest2 : ∀ u, MKeeps State.Wf (rest2 u) := fun _ => .bind .noteEmpty fun _ => .noteNan
  exact .ite (.bind .sPut hRest2) (.bind .sPut hRest2)

theorem MKeeps.identPart {p : Nat} {q : Machine.Part} : MKeeps State.Wf (identPart p q) := .getBind fun _ => .guard fun _ => .sPut

theorem MKeeps.convertPart {p : Nat} {q : Machine.Part} : MKeeps State.Wf (convertPart p q) :=
  .getBind fun _ => .guard fun _ => .guard fun _ => .forM fun _ => .bind .sRead fun _ => .sPut

theorem State.Wf.runFixed (h : s.Wf) {p : Nat} {m : SM Unit} (hm : MKeeps State.Wf m) {at_ : Option Nat} :
    (s.runFixed p m at_).Wf := by
  have hrun := hm s h
  unfold State.runFixed
  split
  next e =>
    rw [e] at hrun
    exact State.Wf.ending hrun
  next c d t e =>
    rw [e] at hrun
    extract_lets trap
    have hTrap : ∀ cause, (trap cause).Wf := by
      intro cause
      unfold trap
      split
      next e2 =>
        have h2 := (State.Wf.takeFree hrun).snd_eq e2
        split
        · exact h2.trap
        · split
          next e3 => exact (h2.takeFree.snd_eq e3).trap
    exact .ite (hTrap _) (.ite (hTrap _) (.ite (State.Wf.ending hrun) (.ite (hTrap _) (State.Wf.ending hrun))))

/-! ### Page operations -/

theorem State.Wf.runCall (h : s.Wf) {n uid cls pick : Nat} {b : Block} : (s.runCall n uid cls pick b).Wf := by
  unfold State.runCall
  extract_lets s1 s2
  have h1 : s1.Wf := h.onReq
  have h2 : s2.Wf := by
    unfold s2
    refine h1.agent fun h'' => ?_
    split
    next e =>
      exact (h''.pageCall.snd_eq e).onReq
  exact .ite h2 h2.release

theorem State.Wf.portCall (h : s.Wf) {n op pick : Nat} {hd : WHdr} {b : Beat} : (s.portCall n op pick hd b).Wf := by
  unfold State.portCall
  refine .ite h ?_
  extract_lets s1 runs
  have h1 : s1.Wf := h.setPort
  split
  · exact h1.offer.setPort
  · exact .ite h1.offer (h1.first (·.runCall))

theorem State.Wf.runPageNode (h : s.Wf) {x k i pick n : Nat} : (s.runPageNode x k i pick n).Wf := by
  unfold State.runPageNode
  split
  next e => exact (h.ask.snd_eq e).endNode
  next e =>
    extract_lets nd lock
    split
    next e2 =>
      have h2 := (h.ask.snd_eq e).pageCall.snd_eq e2
      split
      next e3 =>
        have h3 := (State.Wf.iteSnd h2.paWrite h2).snd_eq e3
        exact .ite h3.endNode (.ite h3.endNode (.ite h3.endNode h3.endNode))

theorem State.Wf.wOrphan (h : s.Wf) {v : Word} : (s.wOrphan v).Wf := .ite h.orphan h.reject

theorem State.Wf.epochCheck (h : s.Wf) : s.epochCheck.Wf := by
  unfold State.epochCheck
  extract_lets e back s1
  have h1 : s1.Wf := h.onPd
  refine .ite h (h1.foldl fun h2 => State.Wf.count (h2.posted fun h3 => ?_))
  dsimp only
  split
  next e => exact (h3.ask.snd_eq e).paWrite
  next e => exact h3.ask.snd_eq e

theorem Keeps.pageOp {op pick : Nat} {src : PageSrc} : Keeps s (pageOp op src pick s) := by
  unfold Machine.pageOp
  split
  · exact .onPortN (·.portCall)
  · split
    · exact .ite .same (.ite (.next (·.dispatchOne (·.runPageNode))) .same)
    · exact .next (·.dispatchOne id)

theorem execCreate_keeps (s : State) {src : PageSrc} : Keeps s (execCreate src s) := .pageOp

theorem execAppend_keeps (s : State) {src : PageSrc} {pick : Nat} : Keeps s (execAppend src pick s) := .pageOp

theorem execCommit_keeps (s : State) {src : PageSrc} : Keeps s (execCommit src s) := .pageOp

theorem execFork_keeps (s : State) {src : PageSrc} {pick : Nat} : Keeps s (execFork src pick s) := .pageOp

theorem execTrim_keeps (s : State) {src : PageSrc} {pick : Nat} : Keeps s (execTrim src pick s) := .pageOp

theorem execRelease_keeps (s : State) {src : PageSrc} : Keeps s (execRelease src s) := .pageOp

theorem execLock_keeps (s : State) {src : PageSrc} : Keeps s (execLock src s) := .pageOp

theorem execUnlock_keeps (s : State) {src : PageSrc} : Keeps s (execUnlock src s) := .pageOp

theorem execQuery_keeps (s : State) {src : PageSrc} : Keeps s (execQuery src s) := .pageOp

theorem execPatch_keeps (s : State) {src : PageSrc} {pick : Nat} : Keeps s (execPatch src pick s) := .pageOp

theorem execCold_keeps (s : State) {src : PageSrc} : Keeps s (execCold src s) := .pageOp

theorem execPdOrphan_keeps (s : State) {v : Word} : Keeps s (execPdOrphan v s) := .onMgmt (·.wOrphan)

theorem execEpochCheck_keeps (s : State) : Keeps s (execEpochCheck s) := .next fun h => .ite h.epochCheck h

/-! ### Harness commands -/

theorem State.Wf.wHarSubmit (h : s.Wf) {x : Nat} {v : Word} : (s.wHarSubmit x v).Wf :=
  .ite h.reject (.ite h (.ite h.answerSub h.submit))

theorem State.Wf.endChecking (h : s.Wf) {x k : Nat} {code : BitVec 4} {detail : Nat} {node : Option Nat} {failed : Bool} :
    (s.endChecking x k code detail node failed).Wf :=
  .count (.ite h.onSlot.setHar.harEv h.onSlot.setHar)

theorem State.Wf.checkDone (h : s.Wf) {x k : Nat} : (s.checkDone x k).Wf := by
  unfold State.checkDone
  extract_lets l
  refine .ite h ?_
  refine h.agent fun h' => ?_
  split
  next e =>
    exact (h'.ask.snd_eq e).endChecking
  next e2 =>
    extract_lets s1
    have h1 : s1.Wf := (h'.ask.snd_eq e2).onSlot
    split
    next e3 =>
      exact (h1.ask.snd_eq e3).endChecking
    next e4 =>
      exact (h1.ask.snd_eq e4).endChecking
    next e5 =>
      extract_lets stop nodes s2 l area z
      have h2 : s2.Wf := (h1.ask.snd_eq e5).onSlot
      split
      next e6 =>
        refine .ite ?_ ?_
        · exact (h2.paWriteN.snd_eq e6).onSlot.endChecking
        · exact .ite (h2.paWriteN.snd_eq e6).endChecking (h2.paWriteN.snd_eq e6).onSlot

theorem State.Wf.runBucket (h : s.Wf) {x k i n : Nat} : (s.runBucket x k i n).Wf := by
  unfold State.runBucket
  extract_lets origin stride nb
  split
  next e =>
    exact (h.ask.snd_eq e).endNode
  next t e =>
    have ht : t.Wf := h.ask.snd_eq e
    extract_lets lists
    have hrun {f : (List (Nat × Nat × Nat) × Nat) → SM Unit} {l : List _} (hf : ∀ a, MKeeps State.Wf (f a)) :
        ((l.forM f).run.run t).2.Wf :=
      MKeeps.forM hf t ht
    split
    next e2 => exact State.Wf.endNode ((hrun fun _ => .sPut).snd_eq e2)
    next e2 =>
      extract_lets s1 s2
      have h1 : s1.Wf := State.Wf.onNode ((hrun fun _ => .sPut).snd_eq e2)
      have h2 : s2.Wf := by
        refine h1.foldl fun h3 => ?_
        split
        exact h3.foldl fun h4 => .ite h4 (.ite h4.onNode.endNode (.ite h4.onNode h4))
      exact h2.endNode

theorem State.Wf.runSignal (h : s.Wf) {x k i n : Nat} : (s.runSignal x k i n).Wf := by
  unfold State.runSignal
  extract_lets a origin v
  split
  next c t e =>
    have ht : t.Wf := by
      split at e
      · exact h.paPatch.snd_eq e
      · split at e
        exact (State.Wf.iteSnd h.touchRd.paPatch h).snd_eq e
    extract_lets s1
    have h1 : s1.Wf := .ite ht.pushEnd.harEv ht
    exact h1.endNode

theorem State.Wf.awlChecks (h : s.Wf) {p : Nat} : (s.awlChecks p).Wf := h.foldl (·.check)

theorem State.Wf.endPart (h : s.Wf) {x k i j : Nat} : (s.endPart x k i j).Wf := by
  unfold State.endPart
  split
  · exact h
  · refine .ite h ?_
    refine h.agent fun h' => ?_
    extract_lets s1
    have h1 : s1.Wf := .ite h'.awlChecks h'
    split
    · exact h1
    · extract_lets s2
      have h2 : s2.Wf := by
        unfold s2
        refine .ite h1 ?_
        refine .ite ?_ ?_
        · exact h1.runFixed .scorePart
        · exact .ite (h1.runFixed .selectPart) (.ite (h1.runFixed .partialPart) (.ite (h1.runFixed .mergePart) h1))
      split
      · exact .ite h2.reportPart h2
      · exact h2

theorem State.Wf.runCallable (h : s.Wf) {p rid : Nat} {m : Part → SM Unit} (hm : ∀ q, MKeeps State.Wf (m q)) {at_ : Option Nat} :
    (s.runCallable p rid m at_).Wf := by
  unfold State.runCallable
  split
  · refine .ite (h.agent fun h' => ?_) h
    extract_lets s1
    have h1 : s1.Wf := h'.awlChecks
    exact .ite (h1.runFixed (hm _)) h1
  · exact h

theorem State.Wf.onMovCh (h : s.Wf) {y m : Nat} {f : MovCh → MovCh} : (s.onMovCh y m f).Wf :=
  h.setMov fun _ hm => ⟨(upd_length ..).trans hm.1⟩

theorem State.Wf.endMover (h : s.Wf) {x k i y m : Nat} {code : BitVec 4} {detail : Nat} : (s.endMover x k i y m code detail).Wf :=
  h.onMovCh.endNode

theorem State.Wf.haltMover (h : s.Wf) {x k i y m : Nat} {code : BitVec 4} {addr : Nat} {dst : Bool} :
    (s.haltMover x k i y m code addr dst).Wf :=
  .ite h.endMover h.onMovCh.fault.count.endNode.commit

theorem State.Wf.moved (h : s.Wf) {x k i y m num : Nat} : (s.moved x k i y m num).Wf := h.onMovCh.onNode.count

theorem State.Wf.moveOne (h : s.Wf) {n origin j : Nat} : (s.moveOne n origin j).2.Wf := by
  unfold State.moveOne
  extract_lets src dst rd s1
  have h1 : s1.Wf := .ite h h.touchRd
  refine .iteSnd ?_ ?_
  · exact h1
  · refine .iteSnd ?_ ?_
    · split
      · refine .iteSnd ?_ ?_
        · exact h1
        · split
          next e =>
            exact h1.paWrite.snd_eq e
    · split
      next e2 =>
        exact h1.paWrite.snd_eq e2

theorem State.Wf.movChecks (h : s.Wf) {y m : Nat} : (s.movChecks y m).2.Wf := .iteSnd h.check h.check.fire

theorem State.Wf.moveBlocks (h : s.Wf) {x k i y m num : Nat} : (s.moveBlocks x k i y m num).Wf := by
  induction num generalizing s with
  | zero => exact h
  | succ num ih =>
    unfold State.moveBlocks
    extract_lets nd n j
    refine .ite h (.ite h.endMover ?_)
    split
    next e =>
      exact (h.movChecks.snd_eq e).haltMover
    next t e =>
      have ht : t.Wf := h.movChecks.snd_eq e
      refine .ite ht ?_
      split
      next e2 =>
        have h2 := ht.moveOne.snd_eq e2
        exact .ite h2.haltMover (.ite h2.moved.endMover (ih h2.moved))

theorem State.Wf.settleOrd (h : s.Wf) {x k i y m f : Nat} : (s.settleOrd x k i y m f).Wf := by
  induction f generalizing s with
  | zero => exact h
  | succ f ih =>
    unfold State.settleOrd
    split
    · exact h
    · exact .ite h (.ite (ih h.onMovCh.moved) h.moved.haltMover)

theorem State.Wf.mkSnd {α : Type} {a : α} (h : s.Wf) : (a, s).2.Wf := h

theorem State.Wf.issueOrd (h : s.Wf) {x k i y m : Nat} : (s.issueOrd x k i y m).2.Wf := by
  unfold State.issueOrd
  extract_lets nd n origin c j len arg
  refine .iteSnd h ?_
  split
  next e => exact .mkSnd (h.movChecks.snd_eq e).haltMover
  next e =>
    have h1 := h.movChecks.snd_eq e
    split
    · exact .mkSnd h1.haltMover
    · split
      · exact .mkSnd h1.haltMover
      · refine .iteSnd h1 ?_
        split
        · exact h1
        next e2 =>
          split
          · refine .iteSnd ?_ ?_
            · exact .mkSnd h1.touchRd.haltMover
            · exact .mkSnd (h1.bookN e2).touchRd.nextUid.onMovCh.setCtl

theorem State.Wf.ordBlocks (h : s.Wf) {x k i y m num : Nat} : (s.ordBlocks x k i y m num).Wf := by
  induction num generalizing s with
  | zero => exact h
  | succ num ih =>
    unfold State.ordBlocks
    split
    next e => exact ih (h.issueOrd.snd_eq e)
    next e => exact h.issueOrd.snd_eq e

theorem State.Wf.runOrd (h : s.Wf) {x k i y m num : Nat} : (s.runOrd x k i y m num).Wf :=
  .ite h.settleOrd.ordBlocks.settleOrd.endMover h.settleOrd.ordBlocks.settleOrd

theorem State.Wf.runMover (h : s.Wf) {x k i num : Nat} : (s.runMover x k i num).Wf := by
  unfold State.runMover
  split
  · exact h
  · exact h.agent fun h' => .ite h'.runOrd h'.moveBlocks

theorem State.Wf.mover (h : s.Wf) {x k i ty op num : Nat} : (s.mover x k i ty op num).Wf := by
  unfold State.mover
  refine .ite ?_ ?_
  · split
    · exact h.dispatchOne fun h' => h'
    · extract_lets y ch idle
      refine .ite (h.dispatchOne (·.endNode)) ?_
      split
      · exact h
      · exact h.dispatchOne fun h' => .runMover (.onNode (.onMovCh (.ite h'.nextUid h'.nextUid.count)))
  · exact .ite h.runMover h

theorem State.Wf.wMovCtrl (h : s.Wf) {x : Nat} {v : Word} : (s.wMovCtrl x v).Wf :=
  .ite h.reject (.commit (h.setMov fun _ hm => ⟨(List.length_map ..).trans ((List.length_zipIdx ..).trans hm.1)⟩))

theorem State.Wf.wHarCancel (h : s.Wf) {x : Nat} {v : Word} : (s.wHarCancel x v).Wf := by
  unfold State.wHarCancel
  extract_lets k s1 s2 s3 s4
  have h1 : s1.Wf := h.setHar
  have h2 : s2.Wf := h1.onSlot
  have h3 : s3.Wf := h2.sweep
  have h4 : s4.Wf := h3.foldl fun h' => .ite h'.stopNode h'
  refine .ite h1.reject (.ite h1 ?_)
  split
  · exact h1.reject
  · exact h1.reject
  · exact h1.endChecking
  · exact h1
  · exact h4.settleSlot
  · exact h4.settleSlot

theorem execHarSubmit_keeps (s : State) {x : Nat} {v : Word} : Keeps s (execHarSubmit x v s) := .onMgmt (·.wHarSubmit)

theorem execHarnessCheckDone_keeps (s : State) {x slot : Nat} :
    Keeps s (execHarnessCheckDone x slot s) :=
  .onHarness (·.checkDone)

theorem execNop_keeps (s : State) {x slot node : Nat} :
    Keeps s (execNop x slot node s) :=
  .next fun h => h.dispatchOne (·.endNode)

theorem execBucket_keeps (s : State) {x slot node : Nat} : Keeps s (execBucket x slot node s) :=
  .next fun h => h.dispatchOne (·.runBucket)

theorem execSignal_keeps (s : State) {x slot node : Nat} : Keeps s (execSignal x slot node s) :=
  .next fun h => h.dispatchOne (·.runSignal)

theorem execScore_keeps (s : State) {x slot node : Nat} : Keeps s (execScore x slot node s) := .next (·.dispatchParts)

theorem execPartialAtt_keeps (s : State) {x slot node : Nat} : Keeps s (execPartialAtt x slot node s) := .next (·.dispatchParts)

theorem execSelect_keeps (s : State) {x slot node : Nat} : Keeps s (execSelect x slot node s) := .next (·.dispatchParts)

theorem execMerge_keeps (s : State) {x slot node : Nat} : Keeps s (execMerge x slot node s) := .next (·.dispatchParts)

theorem execAwlProg_keeps (s : State) {x slot node : Nat} : Keeps s (execAwlProg x slot node s) := .next (·.dispatchParts)

theorem execPartEnd_keeps (s : State) {x slot node part : Nat} :
    Keeps s (execPartEnd x slot node part s) :=
  .onHarness (·.endPart)

theorem execPartEntry_keeps (s : State) {p : Nat} : Keeps s (execPartEntry p s) := .onChan (·.enterPart)

theorem execIdent_keeps (s : State) {p : Nat} : Keeps s (execIdent p s) := .onChan (·.runCallable fun _ => .identPart)

theorem execConvert_keeps (s : State) {p : Nat} : Keeps s (execConvert p s) := .onChan (·.runCallable fun _ => .convertPart)

theorem execReduce_keeps (s : State) {x slot node blocks : Nat} : Keeps s (execReduce x slot node blocks s) := .next (·.mover)

theorem execCopy_keeps (s : State) {x slot node blocks : Nat} : Keeps s (execCopy x slot node blocks s) := .next (·.mover)

theorem execFill_keeps (s : State) {x slot node blocks : Nat} : Keeps s (execFill x slot node blocks s) := .next (·.mover)

theorem execMoverRelease_keeps (s : State) {x : Nat} {v : Word} : Keeps s (execMoverRelease x v s) := .onMgmt (·.wMovCtrl)

theorem execNodeLimit_keeps (s : State) {x slot node : Nat} : Keeps s (execNodeLimit x slot node s) :=
  .onHarness fun h' => .ite h'.stopNode h'

theorem execCompletionRecordWritten_keeps (s : State) {x slot : Nat} : Keeps s (execCompletionRecordWritten x slot s) :=
  .onHarness fun h' => .ite h'.closeSlot h'

theorem execHarCancel_keeps (s : State) {x : Nat} {v : Word} : Keeps s (execHarCancel x v s) := .onMgmt (·.wHarCancel)

theorem execHarEndRead_keeps (s : State) {x : Nat} : Keeps s (execHarEndRead x s) :=
  .next fun h => h.mgRead fun h' => by
    split
    · exact h'
    · exact h'.setHar

theorem execEngStall_keeps (s : State) {x slot node : Nat} : Keeps s (execEngStall x slot node s) :=
  .onHarness fun h' => .ite h'.check h'

/-! ### The issue of an instruction -/

theorem State.Wf.reloadCode (h : s.Wf) {p : Nat} : (s.reloadCode p).Wf := by
  unfold State.reloadCode
  extract_lets a at'
  split
  · exact h
  · split
    next e =>
      extract_lets s1
      have h1 : s1.Wf := ((h.posted (·.ask)).snd_eq e).setAwl
      exact .ite h1.trap h1.trap
    next e2 =>
      exact .ite ((h.posted (·.ask)).snd_eq e2).setAwl.trap ((h.posted (·.ask)).snd_eq e2).setAwl

theorem State.Wf.fetchChecks (h : s.Wf) {p : Nat} : (s.fetchChecks p).Wf := by
  unfold State.fetchChecks
  extract_lets s1
  have h1 : s1.Wf := h.check
  refine .ite ?_ ?_
  · split
    next e =>
      exact .ite (h1.fire.snd_eq e).report.reloadCode (h1.fire.snd_eq e).report
    next e2 =>
      exact h1.fire.snd_eq e2
  · exact h1.check

theorem State.Wf.issue (h : s.Wf) {p : Nat} {i : Instr} {regs : List Nat} {run : Awl → State → State}
    (hrun : ∀ {a t}, t.Wf → (run a t).Wf) : (s.issue p i regs run).Wf :=
  .ite h (.ite (hrun h.fetchChecks) h.fetchChecks)

theorem State.Wf.putS (h : s.Wf) {p d : Nat} {v : Dword} :
    (s.putS p d v).Wf :=
  h.setAwl fun _ ha => ⟨(setS_length ..).trans ha.1, ha.2⟩

theorem State.Wf.putV (h : s.Wf) {p d : Nat} {v : BitVec 4096} : (s.putV p d v).Wf :=
  h.setAwl fun _ ha => ⟨ha.1, (upd_length ..).trans ha.2⟩

theorem State.Wf.trapBare (h : s.Wf) {p cause : Nat} {code : BitVec 4} {pc : Nat} : (s.trapBare p cause code pc).Wf := by
  unfold State.trapBare
  split
  next e =>
    split
    next e2 =>
      exact ((h.takeFree.snd_eq e).takeFree.snd_eq e2).trap

theorem State.Wf.illegal (h : s.Wf) {p : Nat} : (s.illegal p).Wf := h.trapBare

theorem State.Wf.goTo (h : s.Wf) {p cost : Nat} {t : Int} :
    (s.goTo p cost t).Wf :=
  .ite h.countAwl.setAwl.trapBare h.countAwl.setAwl

theorem State.Wf.goOn (h : s.Wf) {p cost : Nat} : (s.goOn p cost).Wf := h.goTo

theorem State.Wf.scrIn (h : s.Wf) {p x n al : Nat} {run : List Byte → State → State} (hrun : ∀ {a t}, t.Wf → (run a t).Wf) :
    (s.scrIn p x n al run).Wf := by
  unfold State.scrIn
  split
  · exact h.trap
  · exact .ite h (.ite (hrun h.check) h.check)

theorem State.Wf.scrOut (h : s.Wf) {p x al : Nat} {bs : List Byte} {run : State → State} (hrun : ∀ {t}, t.Wf → (run t).Wf) :
    (s.scrOut p x al bs run).Wf := by
  unfold State.scrOut
  split
  · exact h.trap
  · exact .ite h (.ite (hrun h.check.setAwl) h.check)

theorem State.Wf.illegalNext (h : s.Wf) {p : Nat} : (s.illegalNext p).Wf := .ite (.ite h.fetchChecks.illegal h.fetchChecks) h

theorem execIllegalInstruction_keeps (s : State) {p : Nat} : Keeps s (execIllegalInstruction p s) := .next (·.illegalNext)

/-! ### Scalar instructions -/

theorem State.Wf.alu (h : s.Wf) {p : Nat} {i : Instr} {rd rs1 rs2 cost : Nat} {f : Dword → Dword → Dword} :
    (s.alu p i rd rs1 rs2 cost f).Wf :=
  h.issue (·.putS.goOn)

theorem State.Wf.alu1 (h : s.Wf) {p : Nat} {i : Instr} {rd rs1 cost : Nat} {f : Dword → Dword} : (s.alu1 p i rd rs1 cost f).Wf :=
  h.issue (·.putS.goOn)

theorem State.Wf.branch (h : s.Wf) {p : Nat} {i : Instr} {rs1 rs2 : Nat} {off : BitVec 16} {c : Dword → Dword → Bool} :
    (s.branch p i rs1 rs2 off c).Wf :=
  h.issue fun h' => .ite h'.goTo h'.goOn

theorem State.Wf.loadS (h : s.Wf) {p : Nat} {i : Instr} {rd rs1 : Nat} {imm : BitVec 16} {n : Nat} :
    (s.loadS p i rd rs1 imm n).Wf :=
  h.issue fun h' => h'.scrIn (·.putS.goOn)

theorem State.Wf.storeS (h : s.Wf) {p : Nat} {i : Instr} {rd rs1 : Nat} {imm : BitVec 16} {n : Nat} :
    (s.storeS p i rd rs1 imm n).Wf :=
  h.issue fun h' => h'.scrOut (·.goOn)

theorem State.Wf.mfs (h : s.Wf) {p : Nat} {i : Instr} {rd : Nat} {v : State → Dword} : (s.mfs p i rd v).Wf :=
  h.issue (·.putS.goOn)

theorem execAAdd_keeps (s : State) {p rd rs1 rs2 : Nat} : Keeps s (execAAdd p rd rs1 rs2 s) := .next (·.alu)

theorem execASub_keeps (s : State) {p rd rs1 rs2 : Nat} : Keeps s (execASub p rd rs1 rs2 s) := .next (·.alu)

theorem execAAnd_keeps (s : State) {p rd rs1 rs2 : Nat} : Keeps s (execAAnd p rd rs1 rs2 s) := .next (·.alu)

theorem execAOr_keeps (s : State) {p rd rs1 rs2 : Nat} : Keeps s (execAOr p rd rs1 rs2 s) := .next (·.alu)

theorem execAXor_keeps (s : State) {p rd rs1 rs2 : Nat} : Keeps s (execAXor p rd rs1 rs2 s) := .next (·.alu)

theorem execASll_keeps (s : State) {p rd rs1 rs2 : Nat} : Keeps s (execASll p rd rs1 rs2 s) := .next (·.alu)

theorem execASrl_keeps (s : State) {p rd rs1 rs2 : Nat} : Keeps s (execASrl p rd rs1 rs2 s) := .next (·.alu)

theorem execASra_keeps (s : State) {p rd rs1 rs2 : Nat} : Keeps s (execASra p rd rs1 rs2 s) := .next (·.alu)

theorem execASlt_keeps (s : State) {p rd rs1 rs2 : Nat} : Keeps s (execASlt p rd rs1 rs2 s) := .next (·.alu)

theorem execASltu_keeps (s : State) {p rd rs1 rs2 : Nat} : Keeps s (execASltu p rd rs1 rs2 s) := .next (·.alu)

theorem execAMul_keeps (s : State) {p rd rs1 rs2 : Nat} : Keeps s (execAMul p rd rs1 rs2 s) := .next (·.alu)

theorem execADivu_keeps (s : State) {p rd rs1 rs2 : Nat} : Keeps s (execADivu p rd rs1 rs2 s) := .next (·.alu)

theorem execARemu_keeps (s : State) {p rd rs1 rs2 : Nat} : Keeps s (execARemu p rd rs1 rs2 s) := .next (·.alu)

theorem execAFadd_keeps (s : State) {p rd rs1 rs2 : Nat} : Keeps s (execAFadd p rd rs1 rs2 s) := .next (·.alu)

theorem execAFsub_keeps (s : State) {p rd rs1 rs2 : Nat} : Keeps s (execAFsub p rd rs1 rs2 s) := .next (·.alu)

theorem execAFmul_keeps (s : State) {p rd rs1 rs2 : Nat} : Keeps s (execAFmul p rd rs1 rs2 s) := .next (·.alu)

theorem execAFdiv_keeps (s : State) {p rd rs1 rs2 : Nat} : Keeps s (execAFdiv p rd rs1 rs2 s) := .next (·.alu)

theorem execAFmin_keeps (s : State) {p rd rs1 rs2 : Nat} : Keeps s (execAFmin p rd rs1 rs2 s) := .next (·.alu)

theorem execAFmax_keeps (s : State) {p rd rs1 rs2 : Nat} : Keeps s (execAFmax p rd rs1 rs2 s) := .next (·.alu)

theorem execAFlt_keeps (s : State) {p rd rs1 rs2 : Nat} : Keeps s (execAFlt p rd rs1 rs2 s) := .next (·.alu)

theorem execAFeq_keeps (s : State) {p rd rs1 rs2 : Nat} : Keeps s (execAFeq p rd rs1 rs2 s) := .next (·.alu)

theorem execAFtoi_keeps (s : State) {p rd rs1 : Nat} : Keeps s (execAFtoi p rd rs1 s) := .next (·.alu1)

theorem execAItof_keeps (s : State) {p rd rs1 : Nat} : Keeps s (execAItof p rd rs1 s) := .next (·.alu1)

theorem execAAddi_keeps (s : State) {p rd rs1 : Nat} {imm : BitVec 16} : Keeps s (execAAddi p rd rs1 imm s) := .next (·.alu1)

theorem execAAndi_keeps (s : State) {p rd rs1 : Nat} {imm : BitVec 16} : Keeps s (execAAndi p rd rs1 imm s) := .next (·.alu1)

theorem execAOri_keeps (s : State) {p rd rs1 : Nat} {imm : BitVec 16} : Keeps s (execAOri p rd rs1 imm s) := .next (·.alu1)

theorem execAXori_keeps (s : State) {p rd rs1 : Nat} {imm : BitVec 16} : Keeps s (execAXori p rd rs1 imm s) := .next (·.alu1)

theorem execALsh_keeps (s : State) {p rd rs1 : Nat} {imm : BitVec 16} : Keeps s (execALsh p rd rs1 imm s) := .next (·.alu1)

theorem execAShiSll_keeps (s : State) {p rd rs1 : Nat} {amt : BitVec 6} : Keeps s (execAShiSll p rd rs1 amt s) := .next (·.alu1)

theorem execAShiSrl_keeps (s : State) {p rd rs1 : Nat} {amt : BitVec 6} : Keeps s (execAShiSrl p rd rs1 amt s) := .next (·.alu1)

theorem execAShiSra_keeps (s : State) {p rd rs1 : Nat} {amt : BitVec 6} : Keeps s (execAShiSra p rd rs1 amt s) := .next (·.alu1)

theorem execALui_keeps (s : State) {p rd : Nat} {imm : BitVec 16} : Keeps s (execALui p rd imm s) := .next (·.alu1)

theorem execALw_keeps (s : State) {p rd rs1 : Nat} {imm : BitVec 16} : Keeps s (execALw p rd rs1 imm s) := .next (·.loadS)

theorem execALd_keeps (s : State) {p rd rs1 : Nat} {imm : BitVec 16} : Keeps s (execALd p rd rs1 imm s) := .next (·.loadS)

theorem execASw_keeps (s : State) {p rd rs1 : Nat} {imm : BitVec 16} : Keeps s (execASw p rd rs1 imm s) := .next (·.storeS)

theorem execASd_keeps (s : State) {p rd rs1 : Nat} {imm : BitVec 16} : Keeps s (execASd p rd rs1 imm s) := .next (·.storeS)

theorem execABeq_keeps (s : State) {p rs1 rs2 : Nat} {off : BitVec 16} : Keeps s (execABeq p rs1 rs2 off s) := .next (·.branch)

theorem execABne_keeps (s : State) {p rs1 rs2 : Nat} {off : BitVec 16} : Keeps s (execABne p rs1 rs2 off s) := .next (·.branch)

theorem execABlt_keeps (s : State) {p rs1 rs2 : Nat} {off : BitVec 16} : Keeps s (execABlt p rs1 rs2 off s) := .next (·.branch)

theorem execABge_keeps (s : State) {p rs1 rs2 : Nat} {off : BitVec 16} : Keeps s (execABge p rs1 rs2 off s) := .next (·.branch)

theorem execABltu_keeps (s : State) {p rs1 rs2 : Nat} {off : BitVec 16} : Keeps s (execABltu p rs1 rs2 off s) := .next (·.branch)

theorem execABgeu_keeps (s : State) {p rs1 rs2 : Nat} {off : BitVec 16} : Keeps s (execABgeu p rs1 rs2 off s) := .next (·.branch)

theorem execAJal_keeps (s : State) {p : Nat} {off : BitVec 26} :
    Keeps s (execAJal p off s) :=
  .next fun h => h.issue (·.putS.goTo)

theorem execAJalr_keeps (s : State) {p rd rs1 : Nat} {imm : BitVec 16} : Keeps s (execAJalr p rd rs1 imm s) :=
  .next fun h => h.issue (·.putS.goTo)

theorem execMfsCycle_keeps (s : State) {p rd : Nat} : Keeps s (execMfsCycle p rd s) := by
  unfold execMfsCycle
  refine .next fun h => ?_
  refine h.issue fun h' => ?_
  split
  next e =>
    exact (h'.takeFree.snd_eq e).setAwl.putS.goOn

theorem execMfsElapsed_keeps (s : State) {p rd : Nat} : Keeps s (execMfsElapsed p rd s) := .next (·.mfs)

theorem execMfsPhys_keeps (s : State) {p rd : Nat} : Keeps s (execMfsPhys p rd s) := .next (·.mfs)

theorem execMfsGran_keeps (s : State) {p rd : Nat} : Keeps s (execMfsGran p rd s) := .next (·.mfs)

theorem execMfsOutst_keeps (s : State) {p rd : Nat} : Keeps s (execMfsOutst p rd s) := .next (·.mfs)

theorem execMfsIsa_keeps (s : State) {p rd : Nat} : Keeps s (execMfsIsa p rd s) := .next (·.mfs)

theorem execSysHalt_keeps (s : State) {p : Nat} : Keeps s (execSysHalt p s) := .next fun h => h.issue (·.countAwl.ending)

theorem execSysFail_keeps (s : State) {p rs1 : Nat} :
    Keeps s (execSysFail p rs1 s) :=
  .next fun h => h.issue (·.countAwl.trapBare)

theorem execSysMwait_keeps (s : State) {p rs1 : Nat} : Keeps s (execSysMwait p rs1 s) :=
  .next fun h => h.issue fun h' => .ite h' h'.goOn

theorem execSysNop_keeps (s : State) {p : Nat} : Keeps s (execSysNop p s) := .next fun h => h.issue (·.goOn)

/-! ### Vector instructions -/

theorem State.Wf.vec2 (h : s.Wf) {p : Nat} {i : Instr} {vd va vb : Nat} {f : Word → Word → Word} : (s.vec2 p i vd va vb f).Wf :=
  h.issue (·.putV.goOn)

theorem State.Wf.vfold (h : s.Wf) {p : Nat} {i : Instr} {vd va sr : Nat} {f : List Word → Word} : (s.vfold p i vd va sr f).Wf :=
  h.issue fun h' => .ite h'.illegal h'.putV.goOn

theorem execVld_keeps (s : State) {p vd sr : Nat} : Keeps s (execVld p vd sr s) :=
  .next fun h => h.issue fun h' => h'.scrIn (·.putV.goOn)

theorem execVst_keeps (s : State) {p va sr : Nat} :
    Keeps s (execVst p va sr s) :=
  .next fun h => h.issue fun h' => h'.scrOut (·.goOn)

theorem execVbcast_keeps (s : State) {p vd sr fmt : Nat} :
    Keeps s (execVbcast p vd sr fmt s) :=
  .next fun h => h.issue (·.putV.goOn)

theorem execViota_keeps (s : State) {p vd sr : Nat} : Keeps s (execViota p vd sr s) := .next fun h => h.issue (·.putV.goOn)

theorem execVget_keeps (s : State) {p va sr : Nat} : Keeps s (execVget p va sr s) := .next fun h => h.issue (·.putS.goOn)

theorem execVmov_keeps (s : State) {p vd va : Nat} : Keeps s (execVmov p vd va s) := .next fun h => h.issue (·.putV.goOn)

theorem execVcvt_keeps (s : State) {p vd va sr fmt sel mode : Nat} : Keeps s (execVcvt p vd va sr fmt sel mode s) :=
  .next fun h => h.issue fun h' => .ite (h'.scrIn (·.putV.goOn)) h'.putV.goOn

theorem execVpack_keeps (s : State) {p vd va fmt sel : Nat} : Keeps s (execVpack p vd va fmt sel s) :=
  .next fun h => h.issue (·.putV.goOn)

theorem execVdot_keeps (s : State) {p vd va vb sr fmt mode : Nat} : Keeps s (execVdot p vd va vb sr fmt mode s) :=
  .next fun h => h.issue fun h' => .ite h'.illegal h'.putV.countAwl.goOn

theorem execVadd_keeps (s : State) {p vd va vb : Nat} : Keeps s (execVadd p vd va vb s) := .next (·.vec2)

theorem execVsub_keeps (s : State) {p vd va vb : Nat} : Keeps s (execVsub p vd va vb s) := .next (·.vec2)

theorem execVmul_keeps (s : State) {p vd va vb : Nat} : Keeps s (execVmul p vd va vb s) := .next (·.vec2)

theorem execVmax_keeps (s : State) {p vd va vb : Nat} : Keeps s (execVmax p vd va vb s) := .next (·.vec2)

theorem execVmin_keeps (s : State) {p vd va vb : Nat} : Keeps s (execVmin p vd va vb s) := .next (·.vec2)

theorem execVfma_keeps (s : State) {p vd va vb : Nat} :
    Keeps s (execVfma p vd va vb s) :=
  .next fun h => h.issue (·.putV.countAwl.goOn)

theorem execVexp_keeps (s : State) {p vd va : Nat} : Keeps s (execVexp p vd va s) := .next fun h => h.issue (·.putV.goOn)

theorem execVmuls_keeps (s : State) {p vd va sr : Nat} : Keeps s (execVmuls p vd va sr s) := .next fun h => h.issue (·.putV.goOn)

theorem execSacc_keeps (s : State) {p vd va vb sr : Nat} : Keeps s (execSacc p vd va vb sr s) :=
  .next fun h => h.issue (·.putV.countAwl.goOn)

theorem execVfoldSum_keeps (s : State) {p vd va sr : Nat} : Keeps s (execVfoldSum p vd va sr s) := .next (·.vfold)

theorem execVfoldMax_keeps (s : State) {p vd va sr : Nat} : Keeps s (execVfoldMax p vd va sr s) := .next (·.vfold)

/-! ### Memory instructions -/

theorem State.Wf.raise (h : s.Wf) {p : Nat} {t : Nat × Option Nat} : (s.raise p t).Wf := by
  unfold State.raise
  split
  · exact h.trap
  · exact h.trapBare

theorem State.Wf.enqueue (h : s.Wf) {p : Nat} {o : MemOp} : (s.enqueue p o).Wf :=
  .ite h (.ite (.goOn (.setAwl (.ite h h.check))) (.ite h h.check))

theorem State.Wf.blockOp (h : s.Wf) {p : Nat} {i : Instr} {func ra rb rc rn : Nat} {write : Bool} :
    (s.blockOp p i func ra rb rc rn write).Wf := by
  unfold State.blockOp
  refine h.issue fun h' => ?_
  split
  · exact h'
  · extract_lets x m n
    split
    · exact h'.raise
    · exact h'.enqueue

theorem State.Wf.frameOp (h : s.Wf) {p : Nat} {i : Instr} {func ra rb rc rn : Nat} {write : Bool} :
    (s.frameOp p i func ra rb rc rn write).Wf := by
  unfold State.frameOp
  refine h.issue fun h' => ?_
  extract_lets x f b n
  split
  · exact h'.raise
  · exact h'.enqueue

theorem State.Wf.xlatOp (h : s.Wf) {p : Nat} {i : Instr} {func ra rb : Nat} : (s.xlatOp p i func ra rb).Wf :=
  h.issue fun h' => .ite h'.raise h'.enqueue

theorem MKeeps.rTrap {α : Type} {code : BitVec 4} {a : Nat} : MKeeps State.Wf (rTrap code a : RM α) := .throw

theorem MKeeps.rRead {l x a : Nat} : MKeeps State.Wf (rRead l x a) := by
  unfold Machine.rRead
  refine .bind (.modify (·.touch)) fun _ => ?_
  refine .getBind fun h => ?_
  split
  exact .ite .pure .rTrap

theorem MKeeps.rReadPa {a origin : Nat} : MKeeps State.Wf (rReadPa a origin) := by
  unfold Machine.rReadPa
  refine .bind (.modify (·.touchRd)) fun _ => ?_
  refine .getBind fun h => ?_
  split
  exact .ite .pure .rTrap

theorem MKeeps.rWrite {f : State → BitVec 4 × State} {a : Nat} (hf : ∀ {s}, s.Wf → (f s).2.Wf) :
    MKeeps State.Wf (rWrite f a) := by
  unfold Machine.rWrite
  refine .getBind fun h => ?_
  split
  next e =>
    exact .ite (.set ((hf h).snd_eq e)) .rTrap

theorem MKeeps.rFill {p x : Nat} {b : Block} : MKeeps State.Wf (rFill p x b) := .modify (·.setAwl.countAwl)

theorem MKeeps.rTake {p x n : Nat} : MKeeps State.Wf (rTake p x n) := .getBind fun _ => .pure

theorem MKeeps.rWord {e i : Nat} : MKeeps State.Wf (rWord e i) := .getBind fun _ => .guard fun _ => .bind .rRead fun _ => .pure

theorem MKeeps.rXlat {p : Nat} {q : Machine.Part} {pg : Nat} : MKeeps State.Wf (rXlat p q pg) := by
  unfold Machine.rXlat
  refine .getBind fun h => ?_
  extract_lets -underBinder +onlyGivenNames hit
  split
  next e =>
    refine .bind ?_ fun _ => ?_
    · exact .set (.ite ((State.Wf.iteSnd h.fire h).snd_eq e).report.setAwl ((State.Wf.iteSnd h.fire h).snd_eq e))
    · split
      · exact .pure
      · refine .bind (.modify (·.countAwl)) fun _ => ?_
        extract_lets -underBinder +onlyGivenNames e1
        refine .ite .pure ?_
        refine .bind .rWord fun e2 => ?_
        exact .ite .pure (.bind .rWord fun _ => .ite (.bind (.modify (·.setAwl)) fun _ => .pure) .pure)

theorem MKeeps.rFrame {e : Nat} : MKeeps State.Wf (rFrame e) := .getBind fun _ => .ite .throw .pure

theorem MKeeps.rTry {m : RM Unit} (hm : MKeeps State.Wf m) : MKeeps State.Wf (rTry m) := by
  intro t ht
  have hr : (m t).2.Wf := hm t ht
  change (Machine.rTry m t).2.Wf
  unfold Machine.rTry
  split
  next e => exact hr.snd_eq e
  next e => exact hr.snd_eq e

theorem MKeeps.rAll {α : Type} {l : List α} {f : α → RM Unit} (hf : ∀ a, MKeeps State.Wf (f a)) :
    MKeeps State.Wf (rAll (l.map f)) := by
  unfold Machine.rAll
  rw [List.foldlM_map]
  refine .bind (.foldlM fun e a => .bind (.rTry (hf a)) fun _ => .pure) fun r => ?_
  split
  · exact .pure
  · exact .throw

theorem MKeeps.rWrote {p : Nat} : MKeeps State.Wf (rWrote p) := .modify (·.countAwl)

theorem MKeeps.rOp {p : Nat} {q : Part} {o : MemOp} : MKeeps State.Wf (rOp p q o) := by
  unfold Machine.rOp
  refine .getBind fun h => ?_
  extract_lets -underBinder +onlyGivenNames idx f l g
  split
  · exact .rAll fun i => .bind .rReadPa fun _ => .rFill
  · exact .rAll fun i => .bind .rTake fun _ => .bind (.rWrite (·.paWrite)) fun _ => .rWrote
  · exact .rAll fun i => .bind .rTake fun _ => .bind .rReadPa fun _ => .bind (.rWrite (·.paWrite)) fun _ => .rWrote
  · exact .rAll fun i => .bind .rRead fun _ => .rFill
  · exact .rAll fun i => .bind .rReadPa fun _ => .rFill
  · exact .bind (.ite .rXlat .pure) fun _ => .modify (·.putS)
  · refine .bind (.ite .rXlat .pure) fun _ => .bind (.ite ?_ .pure) fun _ => .modify (·.putS)
    exact .bind .rFrame fun _ => .bind .rReadPa fun _ => .pure
  · exact .rAll fun (_, _) => .bind .rXlat fun _ => .bind .rFrame fun _ => .rAll fun i => .bind .rRead fun _ => .rFill
  · exact .rAll fun i => .bind .rTake fun _ => .bind (.rWrite (·.memWrite)) fun _ => .rWrote
  · exact .rAll fun i => .ite (.bind .rTake fun _ => .bind (.rWrite (·.paPatch)) fun _ => .rWrote) .pure

theorem State.Wf.retireOp (h : s.Wf) {p : Nat} : (s.retireOp p).Wf := by
  unfold State.retireOp
  extract_lets a
  split
  · refine .ite h (h.agent fun {t} ht => ?_)
    split
    next e =>
      have h1 := (MKeeps.rOp t ht).snd_eq e
      extract_lets s1
      have h2 : s1.Wf := State.Wf.setAwl h1
      split
      · exact h2
      · exact .ite h2.trap h2
  · exact h

theorem execMld_keeps (s : State) {p ra rb rn : Nat} : Keeps s (execMld p ra rb rn s) := .next (·.blockOp)

theorem execMst_keeps (s : State) {p ra rb rn : Nat} : Keeps s (execMst p ra rb rn s) := .next (·.blockOp)

theorem execMred_keeps (s : State) {p ra rb rc rn : Nat} : Keeps s (execMred p ra rb rc rn s) := .next (·.blockOp)

theorem execFld_keeps (s : State) {p ra rb rc rn : Nat} : Keeps s (execFld p ra rb rc rn s) := .next (·.frameOp)

theorem execFst_keeps (s : State) {p ra rb rc rn : Nat} : Keeps s (execFst p ra rb rc rn s) := .next (·.frameOp)

theorem execHld_keeps (s : State) {p ra rb : Nat} : Keeps s (execHld p ra rb s) := by
  unfold execHld
  refine .next fun h => ?_
  refine h.issue fun h' => ?_
  extract_lets x f
  split
  · exact h'.raise
  · exact h'.enqueue

theorem execHst_keeps (s : State) {p ra rb rc : Nat} : Keeps s (execHst p ra rb rc s) := by
  unfold execHst
  refine .next fun h => ?_
  refine h.issue fun h' => ?_
  extract_lets x f b
  split
  · exact h'.raise
  · exact h'.enqueue

theorem execXlat_keeps (s : State) {p ra rb : Nat} : Keeps s (execXlat p ra rb s) := .next (·.xlatOp)

theorem execXlata_keeps (s : State) {p ra rb : Nat} : Keeps s (execXlata p ra rb s) := .next (·.xlatOp)

theorem execPgath_keeps (s : State) {p ra rb rc rn : Nat} : Keeps s (execPgath p ra rb rc rn s) := by
  unfold execPgath
  refine .next fun h => ?_
  refine h.issue fun h' => ?_
  extract_lets x y n first blocks pages top
  split
  · exact h'.raise
  · exact .ite h' (.ite h'.raise h'.enqueue)

theorem execMemOpRetire_keeps (s : State) {p : Nat} : Keeps s (execMemOpRetire p s) := .next (·.retireOp)

/-! ### Quiesce, wedge and reset -/

theorem smWf_foldl_smSet {α β : Type} [DecidableEq α] {d : α} {l : List β} {k : β → Nat} {v : β → α} {m : SMap α}
    (hm : smWf d m = true) : smWf d (l.foldl (fun m e => smSet d m (k e) (v e)) m) = true :=
  List.foldlRecOn (motive := fun m => smWf d m = true) _ _ hm fun _ hm _ _ => smSet_wf _ _ _ _ hm

theorem State.Wf.setFrame (h : s.Wf) {i : Nat} {f : Frame → Frame} : (s.onFrame i f).Wf :=
  ⟨h.cells, h.flash, (upd_length ..).trans h.frames, h.cnts, h.ports, h.ctls, h.links, h.awls, h.curs, h.sectors, h.pools, h.nets,
  h.hars, h.movs, h.elog, h.uids, h.regs, h.slots, h.movers, h.bankMaps, h.freshMaps, h.groups, h.slices, h.banks⟩

theorem Ctl.Wf.cleared {c : Ctl} (hc : c.Wf) {i : Image} {slice : Bool} : (c.cleared i slice).Wf :=
  ⟨by cases slice; exacts [rfl, hc.banks], hc.fresh⟩

theorem Link.Wf.cleared {l : Link} (hl : l.Wf) : l.cleared.Wf := ⟨(List.length_map ..).trans hl.1, smWf_foldl_smSet rfl⟩

theorem Awl.Wf.cleared {a : Awl} : a.cleared.Wf := ⟨rfl, rfl⟩

theorem Cur.Wf.cleared {c : Cur} (hc : c.Wf) : c.cleared.Wf := ⟨hc.1, hc.2, hc.3, hc.4, hc.5⟩

theorem State.Wf.enterSelf (h : s.Wf) {p : Nat} : (s.enterSelf p).Wf := by
  refine .ite h (.haltLink (h.setCtl fun _ hc => ?_))
  exact ⟨smWf_foldl_smSet rfl, hc.2⟩

theorem State.Wf.newRound (h : s.Wf) {p : Nat} {keep : Bool} : (s.newRound p keep).Wf :=
  h.setCur fun _ hc => ⟨(List.length_map ..).trans List.length_range, hc.2, rfl, hc.4, smWf_foldl_smSet rfl⟩

theorem State.Wf.leaveSelf (h : s.Wf) {p : Nat} : (s.leaveSelf p).Wf := .ite h h.setCtl

theorem State.Wf.reinit (h : s.Wf) {p : Nat} : (s.reinit p).Wf := .ite h.newRound.leaveSelf h.newRound.leaveSelf.unhaltLink

theorem State.Wf.clearLeaf (h : s.Wf) {u : UnitId} {slice : Bool} : (s.clearLeaf u slice).Wf := by
  unfold State.clearLeaf
  split
  · extract_lets s1 ended
    have h1 : s1.Wf := by
      unfold s1
      split
      · exact h.setPort
      · exact h
    exact h1.setCtl fun c hc => have k : (c.cleared s1.img slice).Wf := hc.cleared; ⟨k.1, k.2⟩
  · exact h.setLink fun _ hl => hl.cleared
  · exact h.setAwl fun _ _ => .cleared
  · exact State.Wf.setCtl (h.setCur fun _ hc => hc.cleared)
  · exact h.setPool
  · exact h.setNet
  · exact .ite h.setHar (h.setHar fun _ _ => ⟨rfl⟩)
  · exact h.setMov fun _ hm => ⟨(List.length_map ..).trans hm.1⟩
  · exact h

theorem State.Wf.ledgerCtl (h : s.Wf) {p : Nat} : (s.ledgerCtl p).Wf := by
  unfold State.ledgerCtl
  extract_lets lost s1 s2 s3 s4 held
  have h1 : s1.Wf := h.abortAt.emptyCtl
  have h2 : s2.Wf := h1.foldl (·.markGran.logPoison)
  have h3 : s3.Wf := by
    unfold s3
    split
    · exact h2.endPort.setPort.orphan
    · exact h2
  have h4 : s4.Wf := by
    unfold s4
    split
    · exact h3.abortShare
    · exact h3
  exact .ite h4.setPool h4

theorem State.Wf.ledgerPool (h : s.Wf) {x : Nat} : (s.ledgerPool x).Wf := by
  unfold State.ledgerPool
  extract_lets mine waiting ops hit s1 drop work entry
  have h1 : s1.Wf := h.endWhere
  have hUids : ∀ q ∈ s1.ports, ∀ r ∈ q.tags.map fun r => { r with slots := drop r.slots }, r.uid ≤ s1.uid :=
    fun q hq => Port.Wf.mapTags ⟨h1.uids q hq⟩ fun _ => rfl
  clear_value s1
  refine ⟨h1.cells, h1.flash, h1.frames, h1.cnts, ?_, ?_, h1.links, h1.awls, h1.curs, h1.sectors, h1.pools, ?_, h1.hars, h1.movs,
    h1.elog, ?_, h1.regs, h1.slots, h1.movers, ?_, ?_, h1.groups, h1.slices, h1.banks⟩
  · exact (List.length_map ..).trans h1.ports
  · exact (List.length_map ..).trans h1.ctls
  · exact (List.length_map ..).trans h1.nets
  · exact List.forall_mem_map.2 hUids
  · exact List.forall_mem_map.2 fun c hc => h1.bankMaps c hc
  · exact List.forall_mem_map.2 fun c hc => h1.freshMaps c hc

theorem State.Wf.ledgerNet (h : s.Wf) {x : Nat} : (s.ledgerNet x).Wf := h.setNet.foldl (·.freeSlots.finishHome)

theorem State.Wf.resetLeaf (h : s.Wf) {u : UnitId} : (s.resetLeaf u).Wf := by
  unfold State.resetLeaf
  split
  · exact h.ledgerCtl.enterSelf.clearLeaf
  · exact h.enterSelf.clearLeaf
  · exact h.clearLeaf.dropAwl
  · extract_lets s1 s2
    have h1 : s1.Wf := by
      unfold s1
      split
      · exact h.abortShare
      · exact h
    have h2 : s2.Wf := .ite h1.setCtl.retEnd h1
    exact h2.clearLeaf
  · exact h.ledgerPool.clearLeaf
  · exact h.ledgerNet.clearLeaf
  · exact h.loseEngine.clearLeaf
  · exact h.stopMovers.clearLeaf
  · exact h.setSec
  · exact h

theorem State.Wf.holdFor (h : s.Wf) {u : UnitId} {l : List Nat} : (s.holdFor u l).Wf := h.foldl (·.hold)

theorem State.Wf.endHold (h : s.Wf) {u : UnitId} : (s.endHold u).Wf := h.mapPorts

theorem State.Wf.quiesce1 (h : s.Wf) {u : UnitId} : (s.quiesce1 u).Wf := h.setFr

theorem State.Wf.quiesceUnit (h : s.Wf) {u : UnitId} : (s.quiesceUnit u).Wf := by
  unfold State.quiesceUnit
  extract_lets s1
  have h1 : s1.Wf := h.foldl (·.quiesce1)
  split
  iterate 7 exact h1
  · exact h1.holdFor

theorem State.Wf.resumeUnit (h : s.Wf) {u : UnitId} : (s.resumeUnit u).Wf := by
  unfold State.resumeUnit
  refine h.foldl fun h' => ?_
  refine .ite h' ?_
  extract_lets s1
  have h1 : s1.Wf := h'.setFr.endHold
  split
  · exact h1.serveSubs
  · exact h1

theorem State.Wf.startReset (h : s.Wf) {u : UnitId} : (s.startReset u).Wf := by
  unfold State.startReset
  refine .ite h.setFr ?_
  extract_lets us s1 s2 s3 s4
  have h1 : s1.Wf := h.sliceBreak
  have h2 : s2.Wf := h1.foldl fun h' => .ite h'.cancelCopy h'
  have h3 : s3.Wf := h2.holdFor
  have h4 : s4.Wf := h3.foldl fun h' => h'.setFr.setCnt fun _ hc => ⟨rfl, rfl, rfl, rfl⟩
  exact h4.foldl (·.resetLeaf)

theorem State.Wf.restart (h : s.Wf) {u : UnitId} : (s.restart u).Wf := by
  unfold State.restart
  split
  · extract_lets s1 s2
    have h1 : s1.Wf := h.setCtl
    have h2 : s2.Wf := h1.reinit.refreshHolds
    split
    · exact h2.setPort
    · exact h2
  · exact h.reinit
  · exact h.setMov fun _ hm => ⟨rfl⟩
  · exact h.serveSubs
  · exact h

theorem State.Wf.endReset (h : s.Wf) {u : UnitId} : (s.endReset u).Wf :=
  have h1 := (h.foldl fun h' => .ite h'.setFr h').foldl (·.restart)
  .commit (.ite h1 h1.endHold)

theorem State.Wf.resetLate (h : s.Wf) {u : UnitId} : (s.resetLate u).Wf := by
  unfold State.resetLate
  extract_lets s1 s2 s3
  have h1 : s1.Wf := h.foldl (·.setFr)
  have h2 : s2.Wf := h1.endHold.fenceUnit
  have h3 : s3.Wf := h2.foldl (·.markFenced)
  split
  · exact h3.latch.collect
  · exact h3

theorem State.Wf.wedge1 (h : s.Wf) {u : UnitId} : (s.wedge1 u).Wf := by
  unfold State.wedge1
  extract_lets s1 s2
  have h1 : s1.Wf := h.setFr
  have h2 : s2.Wf := by
    unfold s2
    split
    · exact h1.setFr.latch.collect
    · exact h1
  exact h2.startReset

theorem State.Wf.settleDrain (h : s.Wf) {u : UnitId} : (s.settleDrain u).Wf := h.foldl fun h' => .ite h'.setFr h'

theorem State.Wf.wedgeUnit (h : s.Wf) {u : UnitId} : (s.wedgeUnit u).Wf := .ite h (h.settleDrain.foldl (·.wedge1))

theorem State.Wf.runDeferred (h : s.Wf) : s.runDeferred.Wf := .ite h (h.foldl fun h' => h'.setFrame.startReset)

theorem State.Wf.wFrameCtrl (h : s.Wf) {u : UnitId} {v : Word} : (s.wFrameCtrl u v).Wf := by
  unfold State.wFrameCtrl
  extract_lets quiesce reset s1
  have h1 : s1.Wf := h.foldl fun h' => .ite (h'.setFr.setCnt fun _ hc => ⟨hc.1, rfl, rfl, rfl⟩) h'.setFr
  exact .ite h.reject (.ite h1.startReset (.ite h1.quiesceUnit h1.resumeUnit))

theorem Keeps.onCtrl {u : UnitId} {v : Word} : Keeps s (onCtrl u v s) := .next fun h => h.mgAccess (·.wFrameCtrl)

theorem execQuiesce_keeps (s : State) {u : UnitId} {v : Word} : Keeps s (execQuiesce u v s) := .onCtrl

theorem execResumeIntake_keeps (s : State) {u : UnitId} {v : Word} : Keeps s (execResumeIntake u v s) := .onCtrl

theorem execUnitReset_keeps (s : State) {u : UnitId} {v : Word} : Keeps s (execUnitReset u v s) := .onCtrl

theorem execCntFreeze_keeps (s : State) {u : UnitId} {v : Word} : Keeps s (execCntFreeze u v s) := .onCtrl

theorem execCntClear_keeps (s : State) {u : UnitId} {v : Word} : Keeps s (execCntClear u v s) := .onCtrl

theorem execDrainDone_keeps (s : State) {u : UnitId} : Keeps s (execDrainDone u s) := .onUnit fun h' => .ite h'.settleDrain h'

theorem execWedge_keeps (s : State) {u : UnitId} : Keeps s (execWedge u s) := .onUnit (·.wedgeUnit)

theorem execResetComplete_keeps (s : State) {u : UnitId} :
    Keeps s (execResetComplete u s) :=
  .onUnit fun h' => .ite h'.endReset h'

theorem execResetBound_keeps (s : State) {u : UnitId} : Keeps s (execResetBound u s) := .onUnit fun h' => .ite h'.resetLate h'

theorem execFlipDrainDone_keeps (s : State) {x : Nat} :
    Keeps s (execFlipDrainDone x s) :=
  .onSect fun h' => .ite h'.flip.runDeferred h'

theorem execFlipDrainTimeout_keeps (s : State) {x : Nat} : Keeps s (execFlipDrainTimeout x s) :=
  .onSect fun h' => .ite h'.flipLate.runDeferred h'

/-! ### Slices of self-test -/

theorem State.Wf.sliceStart (h : s.Wf) {window : Bool} : (s.sliceStart window).Wf := by
  unfold State.sliceStart
  refine .ite h ?_
  extract_lets s1 s2 u s3 s4
  have h1 : s1.Wf := .ite h h.walkNext
  have h2 : s2.Wf := h1.onBist
  have h3 : s3.Wf := h2.setFr
  have h4 : s4.Wf := h3.onBist.count
  refine .ite h1 (.ite h2.sliceEnd ?_)
  split
  · exact h4.hold
  · exact h4

theorem State.Wf.sliceClose (h : s.Wf) {ran : Nat} {misr : BitVec 48} {result reached : Nat} :
    (s.sliceClose ran misr result reached).Wf := by
  unfold State.sliceClose
  exact h.clearLeaf.onBist

theorem State.Wf.sliceRestart (h : s.Wf) : (s.sliceRestart).Wf := by
  unfold State.sliceRestart
  split
  · exact h.reinit
  · exact h

theorem State.Wf.sliceStop (h : s.Wf) : (s.sliceStop).Wf :=
  .ite h (.ite h.sliceEnd (.sliceEnd (.sliceRestart (.ite h.sliceCut.clearLeaf h))))

theorem State.Wf.wBistAck (h : s.Wf) {v : Word} : (s.wBistAck v).Wf := by
  unfold State.wBistAck
  extract_lets b seqs
  split
  · exact h.reject
  · exact h.onBist

theorem execBistSliceStart_keeps (s : State) {window : Bool} : Keeps s (execBistSliceStart window s) := .next (·.sliceStart)

theorem execSliceDrainTimeout_keeps (s : State) : Keeps s (execSliceDrainTimeout s) := .next fun h => .ite h.sliceEnd h

theorem execSliceDrained_keeps (s : State) : Keeps s (execSliceDrained s) := by
  unfold execSliceDrained
  refine .next fun h => ?_
  refine .ite h ?_
  extract_lets s1
  have h1 : s1.Wf := by
    unfold s1
    split
    · exact h.enterSelf
    · exact h
  exact h1.onBist

theorem execSliceScanDone_keeps (s : State) {misr : BitVec 48} : Keeps s (execSliceScanDone misr s) :=
  .next fun h => .ite h h.sliceClose

theorem execSliceWindowSample_keeps (s : State) {ran : Nat} {misr : BitVec 48} : Keeps s (execSliceWindowSample ran misr s) := by
  unfold execSliceWindowSample
  refine .next fun h => ?_
  split
  · exact h.sliceEnd
  · exact h.sliceClose
  · exact h.onBist
  · exact h

theorem execSliceRelease_keeps (s : State) : Keeps s (execSliceRelease s) := .next fun h => .ite h.sliceRestart.sliceEnd h

theorem execBistAck_keeps (s : State) {v : Word} : Keeps s (execBistAck v s) := .onMgmt (·.wBistAck)

/-! ### The flash port -/

/-- The flash's bytes are in canonical form. -/
structure Flash.Wf (f : Flash) : Prop where
  cells : smWf 0xFF f.cells = true

theorem flashPut_wf {m : List Host.Cell} (hm : smWf 0xFF m = true) {a : Nat} {l : List Byte} :
    smWf 0xFF (flashPut m a l) = true := by
  induction l generalizing m a with
  | nil => exact hm
  | cons b l ih => exact ih (smSet_wf _ _ _ _ hm)

theorem flashProg_wf {m : List Host.Cell} (hm : smWf 0xFF m = true) {a : Nat} {l : List Byte} :
    smWf 0xFF (flashProg m a l) = true := by
  induction l generalizing m a with
  | nil => exact hm
  | cons b l ih => exact ih (smSet_wf _ _ _ _ hm)

theorem Flash.Wf.startMbox {f : Flash} (hf : f.Wf) : f.startMbox.Wf := by
  unfold Flash.startMbox
  split
  · exact ⟨hf.1⟩
  · exact hf

theorem Flash.Wf.mboxEffect {f : Flash} (hf : f.Wf) : f.mboxEffect.Wf := by
  unfold Flash.mboxEffect
  dsimp only
  split
  · exact ⟨hf.1⟩
  · exact ⟨flashProg_wf hf.1⟩
  · exact ⟨smClear_wf _ _ _ _ hf.1⟩
  · exact hf

theorem Flash.Wf.stepEffect {f : Flash} (hf : f.Wf) {x : FStep} : (f.stepEffect x).Wf := by
  cases x with
  | erase a => exact ⟨smClear_wf _ _ _ _ hf.1⟩
  | prog a l => exact ⟨flashProg_wf hf.1⟩

theorem State.Wf.onFlash (h : s.Wf) {f : Flash → Flash} (hf : ∀ g : Flash, g.Wf → (f g).Wf := by exact fun _ hf => ⟨hf.1⟩) :
    (s.onFlash f).Wf :=
  h.withFlash _ (hf _ ⟨h.flash⟩).cells

theorem State.Wf.flashOpen (h : s.Wf) {a n : Nat} : (s.flashOpen a n).Wf :=
  State.Wf.rest (h.onFlash fun _ hf => ⟨flashPut_wf hf.1⟩)

theorem State.Wf.wFlashCmd (h : s.Wf) {op : BitVec 2} : (s.wFlashCmd op).Wf := by
  refine .ite h (.ite h.onFlash (h.onFlash fun f hf => ?_))
  have hf' : ({ f with op := op, busy := true, code := cOK, mbox := some op } : Flash).Wf := ⟨hf.1⟩
  dsimp only
  split
  · exact hf'.startMbox
  · exact hf'

theorem State.Wf.recDone (h : s.Wf) {j : RecJob} : (s.recDone j).Wf := by
  unfold State.recDone
  extract_lets s1 slot base
  have h1 : s1.Wf := h.onFlash fun _ hf => by exact .startMbox ⟨hf.1⟩
  exact h1.rest

theorem State.Wf.jobOpen (h : s.Wf) : (s.jobOpen).Wf := by
  unfold State.jobOpen
  split
  · exact .ite h.flashOpen (.ite h.flashOpen h)
  · split
    · exact h.flashOpen
    · exact h.flashOpen
    · exact h
  · exact h

theorem execFlashRead_keeps (s : State) : Keeps s (execFlashRead s) := .next fun h => h.mgAccess (·.wFlashCmd)

theorem execFlashProgram_keeps (s : State) : Keeps s (execFlashProgram s) := .next fun h => h.mgAccess (·.wFlashCmd)

theorem execFlashErase_keeps (s : State) : Keeps s (execFlashErase s) := .next fun h => h.mgAccess (·.wFlashCmd)

theorem execFlashOpDone_keeps (s : State) : Keeps s (execFlashOpDone s) := by
  unfold execFlashOpDone
  split
  · exact .same
  · refine .next fun h => .count (h.onFlash fun f hf => ?_)
    exact ⟨hf.mboxEffect.1⟩
  · split
    · exact .same
    · extract_lets s1
      have h1 : s.Wf → s1.Wf := by
        refine fun h => .count (h.onFlash fun f hf => ?_)
        exact ⟨hf.stepEffect.1⟩
      exact .ite (.next fun h => (h1 h).recDone) (.next h1)

theorem execFlashTimeout_keeps (s : State) : Keeps s (execFlashTimeout s) := by
  unfold execFlashTimeout
  split
  · exact .same
  · exact .ite .same (.next (·.jobOpen.onFlash.count))
  · exact .next fun h => .report (.count (h.jobOpen.onFlash fun _ hf => by exact .startMbox ⟨hf.1⟩))

theorem execCalRecordPeriod_keeps (s : State) : Keeps s (execCalRecordPeriod s) := .ite (.next (·.onFlash)) .same

theorem execRecordWriteStart_keeps (s : State) : Keeps s (execRecordWriteStart s) := by
  unfold execRecordWriteStart
  extract_lets f cal
  refine .ite .same ?_
  split
  · exact .next (·.onFlash)

/-! ### The governor, the stop and the safe state -/

theorem State.Wf.onSeq (h : s.Wf) {f : Seq → Seq} : (s.onSeq f).Wf := h.rest

theorem State.Wf.stepAvail (h : s.Wf) {p : Nat} {t : Int} : (s.stepAvail p t).Wf :=
  .ite h.setCtl.setCur (.ite (.ite h.setCtl.setCur h.setCtl.setCur) h.setCtl.setCur)

theorem State.Wf.stepLevel (h : s.Wf) {x : Nat} {t : Int} :
    (s.stepLevel x t).Wf :=
  .ite h.onSeq (.ite (.ite h.onSeq h.onSeq) h.onSeq)

theorem State.Wf.thermEvents (h : s.Wf) {s0 : State} : (State.thermEvents s0 s).Wf := h.onSeq

theorem State.Wf.endOpenRed (h : s.Wf) {a : Open} : (s.endOpenRed a).Wf := by
  unfold State.endOpenRed
  split
  · exact h.blockFail
  · extract_lets busy rs s1 s2 gone held s3 s4 s5 s6
    have h1 : s1.Wf := h.foldl (·.finish)
    have h2 : s2.Wf := h1.mapPorts
    have h3 : s3.Wf := h2.freeSlots
    have h4 : s4.Wf := h3.setCtl
    have h5 : s5.Wf := h4.freeSlots
    have h6 : s6.Wf := h5.mapNets
    split
    · exact h6.timeoutGroup
    · exact h6.setCtl
  · exact h.endMover

theorem State.Wf.settle (h : s.Wf) : (s.settle).2.Wf := h.foldl (·.endOpenRed)

theorem State.Wf.stopHarnesses (h : s.Wf) : (s.stopHarnesses).Wf :=
  h.foldl fun h' => h'.foldl fun h'' => .ite h'' (h''.onSlot.sweep.foldl fun h''' => .ite h'''.stopNode h''').settleSlot

/-- A calibration record is queued with the trims it will hold. -/
theorem State.Wf.queueCal (h : s.Wf) {l : Option (List (List Byte))} :
    ({ s with flash := { s.flash with calQ := true, calHeld := l } } : State).Wf := h.setFlash

theorem State.Wf.beginStop (h : s.Wf) : (s.beginStop).Wf := by
  unfold State.beginStop
  extract_lets s1 s2 s3 s4 s5
  have h2 : s2.Wf := h.sliceStop
  have h3 : s3.Wf := h2.onSeq
  have h4 : s4.Wf := h3.foldl (·.hold)
  have h5 : s5.Wf := h4.stopHarnesses
  split
  next e =>
    extract_lets s6 s7 base s8 s9
    have h6 : s6.Wf := (h5.settle.snd_eq e).foldl fun h' => h'.foldl (·.settleSlot)
    have h7 : s7.Wf := h6.foldl (·.setCtl.setCur)
    clear_value s7
    have h8 : s8.Wf := h7.queueCal
    have h9 : s9.Wf := h8.onSeq
    exact h9.thermEvents

theorem State.Wf.stopCycle (h : s.Wf) {p : Nat} : (s.stopCycle p).Wf := .ite h.enterSelf.setCtl h

theorem State.Wf.endStop (h : s.Wf) : (s.endStop).Wf := .ite h h.onSeq.report.thermEvents

theorem State.Wf.telBreak (h : s.Wf) : (s.telBreak).Wf := .ite h h.onSeq

theorem State.Wf.endAll (h : s.Wf) {code : BitVec 4} : (s.endAll code).Wf := h.endWhere.mapPorts.mapHars

theorem State.Wf.emergency (h : s.Wf) : (s.emergency).Wf :=
  .ite h ((h.sliceBreak.telBreak.endAll.foldl (·.hold)).foldl (·.enterSelf)).onSeq.report.thermEvents

theorem State.Wf.enterSafe (h : s.Wf) {u : UnitId} : (s.enterSafe u).Wf :=
  .ite h.setFr (h.setFr.sliceBreak.telBreak.endAll.foldl (·.enterSelf)).onSeq.rest.thermEvents

theorem State.Wf.stepTherm (h : s.Wf) {t : Int} : (s.stepTherm t).Wf := by
  unfold State.stepTherm
  exact h.onSeq

theorem State.Wf.governor (h : s.Wf) : (s.governor).Wf := by
  unfold State.governor
  refine .ite h ?_
  extract_lets s1 s2
  have h1 : s1.Wf := h.foldl (·.check)
  split
  · exact h1
  · extract_lets s3 s4 s5 s6 s7
    have h3 : s3.Wf := h1.onSeq
    have h4 : s4.Wf := h3.foldl (·.setCur)
    have h5 : s5.Wf := by
      unfold s5
      refine h4.foldl fun h'' => ?_
      split
      · exact h''.stepLevel
      · exact h''
    have h6 : s6.Wf := h5.onSeq
    have h7 : s7.Wf := by
      unfold s7
      refine h6.foldl fun h'' => ?_
      split
      · exact h''.stepAvail
      · exact h''
    exact .ite h3 (.ite h7.beginStop h7.stepTherm.thermEvents)

theorem State.Wf.resume (h : s.Wf) : (s.resume).Wf := by
  unfold State.resume
  extract_lets s1 s2 s3 s4 s5 s6
  have h2 : s2.Wf := h.onSeq
  have h3 : s3.Wf := h2.foldl fun h' => .ite h'.newRound.leaveSelf h'
  have h4 : s4.Wf := by
    unfold s4
    refine h3.foldl fun h'' => ?_
    split
    · exact h''.onSeq
    · exact h''
  have h5 : s5.Wf := by
    unfold s5
    split
    · exact h4.stepTherm
    · exact h4
  have h6 : s6.Wf := h5.foldl (·.unhold)
  exact (h6.foldl (·.serveSubs)).thermEvents

theorem State.Wf.wThermCtrl (h : s.Wf) {v : Word} : (s.wThermCtrl v).Wf := .ite h (.ite h.reject h.resume)

theorem execSchedulerCycle_keeps (s : State) {p : Nat} : Keeps s (execSchedulerCycle p s) :=
  .onChan fun h' => .stopCycle (.ctlCycle (.ite (h'.foldl (·.check)) h'))

theorem execStopComplete_keeps (s : State) : Keeps s (execStopComplete s) := .next (·.endStop)

theorem execStopOverrun_keeps (s : State) : Keeps s (execStopOverrun s) := .next fun h => .ite h.report.emergency h

theorem execEmergencyReread_keeps (s : State) {p hide : Nat} {raw : BitVec 16} : Keeps s (execEmergencyReread p hide raw s) :=
  .onChan fun h' => .ite h' (.ite h'.reading.emergency h'.reading)

theorem execSafeStateEntry_keeps (s : State) {u : UnitId} : Keeps s (execSafeStateEntry u s) := .onUnit (·.enterSafe)

theorem execGovernorRound_keeps (s : State) : Keeps s (execGovernorRound s) := .next (·.governor)

theorem execThermResume_keeps (s : State) {v : Word} : Keeps s (execThermResume v s) := .onMgmt (·.wThermCtrl)

/-! ### Counters and the dump -/

theorem State.Wf.wCntSel (h : s.Wf) {u : UnitId} {i : Nat} {v : Word} : (s.wCntSel u i v).Wf :=
  h.setCnt fun _ hc => ⟨(upd_length ..).trans hc.1, hc.2, hc.3, hc.4⟩

theorem State.Wf.wCnt (h : s.Wf) {u : UnitId} {i : Nat} {high : Bool} {v : Word} : (s.wCnt u i high v).Wf :=
  h.setCnt fun _ hc => by
    split
    · exact ⟨hc.1, hc.2, hc.3, (upd_length ..).trans hc.4⟩
    · exact ⟨hc.1, (upd_length ..).trans hc.2, hc.3, hc.4⟩

theorem State.Wf.rCnt (h : s.Wf) {u : UnitId} {i : Nat} {high : Bool} : (s.rCnt u i high).2.Wf :=
  .iteSnd h (h.setCnt fun _ hc => ⟨hc.1, hc.2, (upd_length ..).trans hc.3, hc.4⟩)

theorem State.Wf.clearBins (h : s.Wf) {x : Nat} : (s.clearBins x).Wf := h.setSec

theorem State.Wf.wHistCtrl (h : s.Wf) {x : Nat} {v : Word} : (s.wHistCtrl x v).Wf := .ite h (.setSec (.ite h.clearBins h))

theorem State.Wf.onTel (h : s.Wf) {f : TelSt → TelSt} : (s.onTel f).Wf := h.rest

theorem State.Wf.dumpDue (h : s.Wf) {t : Tel} {cause : Nat} : (s.dumpDue t cause).Wf :=
  .ite h.onTel.count (h.onTel.foldl fun h' => .ite h'.clearBins h')

theorem State.Wf.wTelCtrl (h : s.Wf) {v : Word} : (s.wTelCtrl v).Wf := by
  unfold State.wTelCtrl
  refine .ite h ?_
  split
  · exact h.reject
  · exact .ite h.dumpDue h

theorem State.Wf.telPut (h : s.Wf) {l : List (Nat × Block)} : (s.telPut l).2.Wf := by
  induction l generalizing s with
  | nil => exact h
  | cons e l ih =>
    unfold State.telPut
    split
    next e =>
      have h1 := h.paWrite.snd_eq e
      exact .iteSnd (ih h1) h1

theorem execCntSel_keeps (s : State) {u : UnitId} {i : Nat} {v : Word} : Keeps s (execCntSel u i v s) :=
  .ite (.onMgmt (·.wCntSel)) .same

theorem execCntWrite_keeps (s : State) {u : UnitId} {i : Nat} {high : Bool} {v : Word} : Keeps s (execCntWrite u i high v s) :=
  .ite (.onMgmt (·.wCnt)) .same

theorem execCntRead_keeps (s : State) {u : UnitId} {i : Nat} {high : Bool} : Keeps s (execCntRead u i high s) :=
  .ite (.next fun h => h.mgRead (·.rCnt)) .same

theorem execCounterOverflow_keeps (s : State) {u : UnitId} {i : Nat} {src : UnitId} {ctx0 ctx1 : Word} :
    Keeps s (execCounterOverflow u i src ctx0 ctx1 s) := .next fun h => .ite (h.setCnt fun _ hc => hc.cntAdd) h

theorem execHistClear_keeps (s : State) {x : Nat} {v : Word} : Keeps s (execHistClear x v s) := .onMgmt (·.wHistCtrl)

theorem execHistKind_keeps (s : State) {x : Nat} {v : Word} : Keeps s (execHistKind x v s) := .onMgmt (·.wHistCtrl)

theorem execDump_keeps (s : State) : Keeps s (execDump s) := by
  unfold execDump
  refine .next fun h => ?_
  split
  · exact .ite h.dumpDue h
  · exact h

theorem execTelNow_keeps (s : State) {v : Word} : Keeps s (execTelNow v s) := .onMgmt (·.wTelCtrl)

theorem execDumpWriteAck_keeps (s : State) {code : BitVec 4} : Keeps s (execDumpWriteAck code s) := by
  unfold execDumpWriteAck
  refine .next fun h => ?_
  extract_lets q n
  refine .ite h (.ite h.telBreak ?_)
  refine h.agent fun h' => ?_
  split
  next e =>
    exact .ite (h'.telPut.snd_eq e).telBreak (.ite (h'.telPut.snd_eq e).onTel (h'.telPut.snd_eq e).onTel.count)

theorem execMgmtRspTaken_keeps (s : State) : Keeps s (execMgmtRspTaken s) := .next (·.setMgmt)

/-! ### Faults, fences and clocks -/

theorem State.Wf.wFaultWord (h : s.Wf) {u : UnitId} {v : Word} : (s.wFaultWord u v).Wf := h.clearSrc.setFr

theorem State.Wf.injectGroup (h : s.Wf) {u : UnitId} {m : BitVec 16} : (s.injectGroup u m).Wf := (h.foldl (·.latch.setFr)).collect

theorem State.Wf.wFaultInj (h : s.Wf) {u : UnitId} {v : Word} : (s.wFaultInj u v).Wf := by
  unfold State.wFaultInj
  extract_lets m known s1
  have h1 : s1.Wf := h.setFr
  refine .ite h (.ite h.injectGroup ?_)
  split
  · exact h1.check
  · exact h1

theorem State.Wf.wFltFence (h : s.Wf) {u : UnitId} {v : Word} : (s.wFltFence u v).Wf := by
  unfold State.wFltFence
  refine .ite h (.ite h.setFr ?_)
  split
  · exact h.reject
  · exact .ite h.reject h.setFr.fenceUnit.latch.collect

theorem State.Wf.moveRef (h : s.Wf) : (s.moveRef).Wf := by
  unfold State.moveRef
  extract_lets m
  refine .ite h ?_
  split
  · exact h.setMgmt
  · exact h.setMgmt

theorem State.Wf.refLost (h : s.Wf) {x : Nat} : (s.refLost x).Wf := .ite h h.setMgmt.setSec.fault.moveRef

theorem State.Wf.endHoldover (h : s.Wf) {x : Nat} : (s.endHoldover x).Wf := by
  unfold State.endHoldover
  extract_lets ports s1
  have h1 : s1.Wf := h.foldl fun h' => h'.setPort fun _ hq => ⟨by simp⟩
  exact .ite h h1.setSec

theorem execFaultWordClear_keeps (s : State) {u : UnitId} {v : Word} :
    Keeps s (execFaultWordClear u v s) :=
  .onMgmt (·.wFaultWord)

theorem execFaultInj_keeps (s : State) {u : UnitId} {v : Word} : Keeps s (execFaultInj u v s) := .onMgmt (·.wFaultInj)

theorem execFltFence_keeps (s : State) {u : UnitId} {v : Word} : Keeps s (execFltFence u v s) := .onMgmt (·.wFltFence)

theorem execIslandGate_keeps (s : State) {u : UnitId} : Keeps s (execIslandGate u s) := .onUnit fun h' => .ite h'.setFr h'

theorem execIslandWake_keeps (s : State) {u : UnitId} : Keeps s (execIslandWake u s) := .onUnit fun h' => .ite h'.setFr h'

theorem execRefClkLost_keeps (s : State) {x : Nat} : Keeps s (execRefClkLost x s) := .onSect (·.refLost)

theorem execHoldoverEnd_keeps (s : State) {x : Nat} : Keeps s (execHoldoverEnd x s) := .onSect (·.endHoldover)

/-! ### The test port -/

theorem State.Wf.onTap (h : s.Wf) {f : Tap → Tap} : (s.onTap f).Wf := h.rest

theorem State.Wf.tapScan (h : s.Wf) {ir : Byte} {f : State → State} (hf : ∀ {t}, t.Wf → (f t).Wf) : (s.tapScan ir f).Wf :=
  .ite (hf h.onTap) h.onTap

theorem State.Wf.takeBits (h : s.Wf) {n : Nat} : (s.takeBits n).2.Wf := h.rest

theorem execTapReset_keeps (s : State) : Keeps s (execTapReset s) := .next (·.onTap)

theorem execExtest_keeps (s : State) {drive capture : List Bool} : Keeps s (execExtest drive capture s) :=
  .next fun h => h.tapScan fun h' => .ite h'.onTap h'.onTap

theorem execSamplePreload_keeps (s : State) {drive capture : List Bool} : Keeps s (execSamplePreload drive capture s) :=
  .next fun h => h.tapScan (·.onTap)

theorem execUnitSel_keeps (s : State) {entry : BitVec 16} : Keeps s (execUnitSel entry s) := .next fun h => h.tapScan (·.onTap)

theorem execIntscan_keeps (s : State) {chain : List Bool} : Keeps s (execIntscan chain s) := by
  unfold execIntscan
  refine .next fun h => ?_
  refine h.tapScan fun h' => ?_
  refine .ite ?_ ?_
  · split
    next e =>
      exact (h'.takeBits.snd_eq e).onTap
  · exact h'.onTap

theorem execSigread_keeps (s : State) : Keeps s (execSigread s) := .next fun h => h.tapScan (·.onTap)

theorem execSlice_keeps (s : State) {idx : BitVec 8} {pats : BitVec 16} {ran : Nat} {misr : BitVec 48} :
    Keeps s (execSlice idx pats ran misr s) := by
  unfold execSlice
  refine .next fun h => ?_
  refine h.tapScan fun h' => ?_
  refine .ite ?_ ?_
  · extract_lets i u s1 s2 p ran sig pass
    have h1 : s1.Wf := by
      unfold s1
      split
      · exact h'.enterSelf
      · exact h'
    have h2 : s2.Wf := h1.clearLeaf
    split
    next e =>
      exact (h2.takeBits.snd_eq e).onTap
  · exact h'.onTap

theorem execBypass_keeps (s : State) {tdi : Bool} : Keeps s (execBypass tdi s) := .next fun h => h.tapScan (·.onTap)

/-! ### Reset and start-up -/

theorem forall_mem_replicate_of {α : Type} {P : α → Prop} {n : Nat} {a : α} (ha : P a) : ∀ b ∈ List.replicate n a, P b :=
  fun _ hb => (List.eq_of_mem_replicate hb).symm ▸ ha

theorem resetFrames_length : resetFrames.length = 757 := by
  unfold resetFrames
  exact (List.length_map ..).trans List.length_range

theorem reset_frames : State.reset.frames = resetFrames := by
  unfold State.reset
  dsimp only

/-- The state right after reset holds every unit. -/
theorem State.Wf.reset : State.reset.Wf where
  cells := rfl
  flash := rfl
  frames := (congrArg List.length reset_frames).trans resetFrames_length
  cnts := (List.length_replicate : (List.replicate 757 ({} : Cnt)).length = 757)
  ports := (List.length_replicate : (List.replicate 128 ({} : Port)).length = 128)
  ctls := (List.length_replicate : (List.replicate 136 ({} : Ctl)).length = 136)
  links := (List.length_replicate : (List.replicate 136 ({} : Link)).length = 136)
  awls := (List.length_replicate : (List.replicate 136 ({} : Awl)).length = 136)
  curs := (List.length_replicate : (List.replicate 136 ({} : Cur)).length = 136)
  sectors := rfl
  pools := rfl
  nets := rfl
  hars := rfl
  movs := rfl
  elog := Nat.zero_le _
  uids := forall_mem_replicate_of fun _ hr => by cases hr
  regs := forall_mem_replicate_of ⟨rfl, rfl⟩
  slots := forall_mem_replicate_of rfl
  movers := forall_mem_replicate_of rfl
  bankMaps := forall_mem_replicate_of rfl
  freshMaps := forall_mem_replicate_of rfl
  groups := forall_mem_replicate_of ⟨rfl, rfl⟩
  slices := forall_mem_replicate_of ⟨rfl, rfl, rfl, rfl, rfl⟩
  banks := forall_mem_replicate_of ⟨rfl, rfl, rfl, rfl⟩

theorem State.Wf.onBoot (h : s.Wf) {f : Boot → Boot} : (s.onBoot f).Wf := h.rest

theorem State.Wf.toPhase (h : s.Wf) {ph : BitVec 4} : (s.toPhase ph).Wf := h.onBoot

theorem State.Wf.bootFail (h : s.Wf) {result : Byte} : (s.bootFail result).Wf := h.toPhase.onBoot.onFlash

theorem State.Wf.imageFail (h : s.Wf) {result : Byte} : (s.imageFail result).Wf := .ite h.bootFail h.toPhase.onBoot

theorem State.Wf.imageOk (h : s.Wf) {i : Image} : (s.imageOk i).Wf := .ite h.toPhase.onBoot.rest.report h.toPhase.onBoot.rest

theorem State.Wf.islandsUp (h : s.Wf) : (s.islandsUp).Wf := .toPhase (h.mapPorts fun _ hq => by split; exacts [hq, ⟨hq.1⟩])

theorem State.Wf.applySpare (h : s.Wf) {x : Nat} : (s.applySpare x).Wf := by
  unfold State.applySpare
  refine .ite h ?_
  split
  · exact h
  · exact h.report
  · extract_lets s1 s2
    have h1 : s1.Wf := h.foldl fun h' => .ite (h'.foldl (·.markFenced)).setLink h'
    have h2 : s2.Wf := by
      unfold s2
      split
      · exact h1.flipTo
      · exact h1
    exact h2.setSec

theorem State.Wf.applyLoss (h : s.Wf) {p : Nat} : (s.applyLoss p).Wf := .ite h (.queueRet (.ite h.loseSpare h.loseHome))

theorem State.Wf.trainOver (h : s.Wf) : (s.trainOver).Wf := .ite h ((h.foldl (·.applySpare)).foldl (·.applyLoss)).toPhase

theorem State.Wf.dropChan (h : s.Wf) {p : Nat} : (s.dropChan p).Wf := by
  unfold State.dropChan
  exact (h.foldl (·.markFenced)).setLink.onBoot

theorem State.Wf.sensConst (h : s.Wf) {e : Nat × Nat × BitVec 16 × BitVec 16} : (s.sensConst e).Wf := by
  unfold State.sensConst
  split
  next p x lo hi =>
    extract_lets bad s1 s2
    have h1 : s1.Wf := h.setCur fun c hc => by
      refine ⟨?_, hc.2, hc.3, (upd_length ..).trans hc.4, hc.5⟩
      dsimp only
      split
      · exact (upd_length ..).trans hc.1
      · exact hc.1
    have h2 : s2.Wf := h1.setLink
    exact .ite h2.report h2

theorem State.Wf.dieFit (h : s.Wf) {e : Nat × Nat × BitVec 16} : (s.dieFit e).Wf := by
  unfold State.dieFit
  split
  · exact h.setCur

theorem State.Wf.trainRegs (h : s.Wf) {p : Nat} : (s.trainRegs p).Wf := by
  unfold State.trainRegs
  split
  next e =>
    extract_lets seed
    refine (h.takeFree.snd_eq e).setLink fun _ hl => .vrefs ?_
    exact ⟨hl.1, hl.2⟩

theorem Link.Wf.fromRec {l : Link} (hl : l.Wf) {e : List Byte} : (l.fromRec e).Wf := by
  unfold Link.fromRec
  generalize List.range 332 = ks
  exact ⟨(List.length_map ..).trans (List.length_zipIdx.trans hl.grps), smWf_foldl_smSet hl.lanes⟩

theorem Link.Wf.rewound {l : Link} (hl : l.Wf) :
    l.rewound.Wf :=
  ⟨(List.length_map ..).trans (List.length_zipIdx.trans hl.1), hl.2⟩

theorem Link.Wf.started {l : Link} (hl : l.Wf) : l.started.Wf := ⟨(List.length_map ..).trans hl.1, hl.2⟩

theorem Link.Wf.trainFails {l : Link} (hl : l.Wf) {bad : List LanePos} {l' : Link} {n : Nat × Nat} (e : l.trainFails bad = some (l', n)) :
    l'.Wf := by
  induction bad generalizing l l' n with
  | nil => cases e; exact hl
  | cons x rest ih =>
    rw [Link.trainFails] at e
    dsimp only at e
    split at e
    · obtain ⟨r, er, e'⟩ := Option.map_eq_some_iff.1 e
      cases e'
      refine ih ?_ er
      exact ⟨(upd_length ..).trans hl.1, hl.2⟩
    · split at e
      · exact ih hl e
      · split at e
        · cases e
        · split at e
          · cases e
          · obtain ⟨r, er, e'⟩ := Option.map_eq_some_iff.1 e
            cases e'
            refine ih ?_ er
            exact ⟨(upd_length ..).trans hl.1, hl.2⟩

theorem State.Wf.trainEnd (h : s.Wf) {p : Nat} {r : TrainRes} : (s.trainEnd p r).Wf := by
  unfold State.trainEnd
  extract_lets s1 l
  have h1 : s1.Wf := h.onBoot
  have hl : l.Wf := by
    unfold l
    split
    · exact (h1.link p).fromRec
    · exact h1.link p
  split
  · exact h1.dropChan
  next l' parks deads e =>
    have hl' : l'.Wf := hl.rewound.trainFails e
    refine .ite h1.dropChan ?_
    extract_lets s2 s3 s4 s5
    have h2 : s2.Wf := by
      refine State.Wf.setLink (State.Wf.trainRegs (.applyTrims (h1.setLink fun _ _ => hl'))) fun l hl => ?_
      exact ⟨hl.started.1, hl.started.2⟩
    have h3 : s3.Wf := .ite h2 h2.report
    have h4 : s4.Wf := .ite h3 h3.report
    have h5 : s5.Wf := h4.onFlash
    exact .ite h5 h5.onBoot

theorem State.Wf.applyBanks (h : s.Wf) {x : Nat} : (s.applyBanks x).Wf :=
  .ite h (.ite (.foldl (.ite h h.report) (·.setCtl)) (.ite h h.report))

theorem State.Wf.applyRow (h : s.Wf) {e : List Byte} : (s.applyRow e).Wf := .ite h.report (.ite h h.setCtl)

theorem State.Wf.applyLane (h : s.Wf) {done : List (List Byte)} {e : List Byte} : (s.applyLane done e).1.Wf := by
  unfold State.applyLane
  extract_lets p mine
  split
  · exact h.report
  · split
    · exact h.report
    · split
      · exact h
      · exact .ite h.onGrp.setLink.fault h.onGrp.setLink

theorem State.Wf.openPorts (h : s.Wf) : s.openPorts.Wf := by
  unfold State.openPorts
  extract_lets s1 i
  have h1 : s1.Wf := h.toPhase.onBoot
  clear_value s1
  refine ⟨h1.cells, h1.flash, (List.length_map ..).trans h1.frames, h1.cnts, (List.length_map ..).trans h1.ports,
    (List.length_map ..).trans (List.length_zipIdx.trans h1.ctls), h1.links, h1.awls,
    (List.length_map ..).trans (List.length_zipIdx.trans h1.curs), h1.sectors, h1.pools, h1.nets, h1.hars, h1.movs, h1.elog, ?_, h1.regs,
    h1.slots, h1.movers, ?_, ?_, h1.groups, ?_, h1.banks⟩
  · refine List.forall_mem_map.2 fun q hq => ?_
    split <;> exact h1.uids q hq
  · exact List.forall_mem_map.2 fun a ha => h1.bankMaps a.1 (List.fst_mem_of_mem_zipIdx ha)
  · exact List.forall_mem_map.2 fun a ha => h1.freshMaps a.1 (List.fst_mem_of_mem_zipIdx ha)
  · exact List.forall_mem_map.2 fun a ha => h1.slices a.1 (List.fst_mem_of_mem_zipIdx ha)

theorem State.Wf.reload (h : s.Wf) : s.reload.Wf := by
  unfold State.reload
  extract_lets b lost
  refine ⟨h.cells, h.flash, ?_, h.cnts, h.ports, List.length_replicate, (List.length_map ..).trans List.length_range,
    List.length_replicate, List.length_replicate, (List.length_map ..).trans h.sectors, h.pools, h.nets, h.hars, h.movs, h.elog,
    h.uids, ?_, h.slots, h.movers, ?_, ?_, ?_, ?_, h.banks⟩
  · exact (List.length_map ..).trans (List.length_zip.trans (by rw [h.frames, resetFrames_length, Nat.min_self]))
  · exact forall_mem_replicate_of ⟨rfl, rfl⟩
  · exact forall_mem_replicate_of rfl
  · exact forall_mem_replicate_of rfl
  · refine List.forall_mem_map.2 fun p _ => ?_
    split
    · exact ⟨rfl, rfl⟩
    · exact ⟨(List.length_map ..).trans List.length_range, rfl⟩
  · exact forall_mem_replicate_of ⟨rfl, rfl, rfl, rfl, rfl⟩

theorem State.Wf.wBootCtrl (h : s.Wf) {v : Word} : (s.wBootCtrl v).Wf := .ite h (.ite h.reload h.reject)

theorem State.Wf.idle (h : s.Wf) : (s.idle).Wf := .ite h h.mgmtCycle.runDeferred

/-- What reset leaves of a state: the flash's bytes, and what is no part of the block. -/
theorem State.Wf.resetTo {r : State} (hr : r.Wf) {pending : List Instr} {free uid hides : Nat} {build : Word} {dieSlope dieIcpt : Int}
    {expSig : SMap Dword} {cells : List Host.Cell} {tap : Tap} {boot : Boot} (hu : r.uid ≤ uid) (hf : Memory.flashWf cells = true) :
    ({ r with pending := pending, free := free, uid := uid, hides := hides, build := build, dieSlope := dieSlope, dieIcpt := dieIcpt
              expSig := expSig, flash := { cells := cells }, tap := tap, boot := boot } : State).Wf :=
  (hr.withFlash { cells := cells } hf).rest hu

theorem execBlockResetAssert_keeps (s : State) : Keeps s (execBlockResetAssert s) :=
  .next fun h => State.Wf.reset.resetTo (Nat.zero_le _) h.jobOpen.flash

theorem execBlockResetRelease_keeps (s : State) : Keeps s (execBlockResetRelease true s) := by
  unfold execBlockResetRelease
  exact .ite .same (.next (·.onBoot))

theorem execClockEnd_keeps (s : State) {lcState : BitVec 3} {key : BitVec 256} {flSlow awlLowv : Bool} :
    Keeps s (execClockEnd lcState key flSlow awlLowv s) :=
  .onPhase fun h' => .ite h'.onBoot.toPhase h'.onBoot.toPhase.onBoot

theorem execLcInputChange_keeps (s : State) : Keeps s (execLcInputChange s) := .ite .same (.next (·.onBoot))

theorem execStrapChange_keeps (s : State) : Keeps s (execStrapChange s) := .ite .same (.next (·.onBoot))

theorem execDiscoverEnd_keeps (s : State) {sfdp : Option Sfdp} : Keeps s (execDiscoverEnd sfdp s) := by
  unfold execDiscoverEnd
  refine .onPhase fun h => ?_
  split
  · exact h.bootFail
  · extract_lets dw d1
    exact .ite h.toPhase.onBoot h.bootFail

theorem execLoadEnd_keeps (s : State) : Keeps s (execLoadEnd s) := by
  unfold execLoadEnd
  refine .onPhase fun h => ?_
  extract_lets base
  split
  · exact h.imageFail
  · split
    · exact h.imageFail
    · exact h.onBoot.imageFail
    · exact .ite h.imageOk h.toPhase.onBoot

theorem execVerifyEnd_keeps (s : State) : Keeps s (execVerifyEnd s) := by
  unfold execVerifyEnd
  refine .onPhase fun h => ?_
  split
  · exact h
  · split
    · exact h
    · exact .ite h.imageFail (.ite h.imageFail h.imageOk.onBoot)

theorem execSlotsEnd_keeps (s : State) : Keeps s (execSlotsEnd s) := by
  unfold execSlotsEnd
  refine .onPhase fun h => ?_
  split
  · split
    · extract_lets rets s1 s2 s3 s4 s5
      have h1 : s1.Wf := h.onBoot
      have h2 : s2.Wf := h1.rest
      have h3 : s3.Wf := .ite h2.report h2
      have h4 : s4.Wf := .ite h3.report h3
      have h5 : s5.Wf := .ite h4.report h4
      exact (h5.foldl fun h' => .ite h'.setCtl h').toPhase

theorem execIslandsEnd_keeps (s : State) : Keeps s (execIslandsEnd s) := .onPhase (·.islandsUp)

theorem execIslandsLockTimeout_keeps (s : State) {unlocked : List Nat} : Keeps s (execIslandsLockTimeout unlocked s) :=
  .onPhase fun h' => (h'.foldl fun h'' => .ite h''.fenceSector h'').islandsUp

theorem execHideUpEnd_keeps (s : State) {hd : HideUp} : Keeps s (execHideUpEnd hd s) :=
  .onPhase fun h' =>
    .ite h'.bootFail ((((h'.foldl (·.dropChan)).foldl (·.sensConst)).foldl (·.dieFit)).foldl (·.setLink)).toPhase.trainOver

theorem execChannelTrained_keeps (s : State) {p : Nat} {r : TrainRes} : Keeps s (execChannelTrained p r s) :=
  .onPhase fun h' => .ite h' h'.trainEnd.trainOver

theorem execApplyEnd_keeps (s : State) : Keeps s (execApplyEnd s) := by
  unfold execApplyEnd
  refine .onPhase fun h => ?_
  extract_lets ty s1 s2 s3 s4 s5
  have h1 : s1.Wf := h.foldl (·.applyBanks)
  have h2 : s2.Wf := .ite h1.report h1
  have h3 : s3.Wf := h2.foldl (·.applyRow)
  have h4 : s4.Wf :=
    List.foldlRecOn (motive := fun x : State × List (List Byte) => x.1.Wf) _ _ h3 fun _ hx _ _ => State.Wf.applyLane hx
  have h5 : s5.Wf := .ite h4.report h4
  exact h5.mapAwls.toPhase

theorem execBuildEnd_keeps (s : State) : Keeps s (execBuildEnd s) := .onPhase fun h' => .ite h' h'.openPorts

theorem execStartupTimeout_keeps (s : State) : Keeps s (execStartupTimeout s) :=
  .ite .same (.next fun h => .bootFail (.ite (h.foldl (·.enterSelf)) h))

theorem execBootReload_keeps (s : State) {v : Word} : Keeps s (execBootReload v s) := .onMgmt (·.wBootCtrl)

/-! ### The register map -/

theorem State.Wf.wCommon (h : s.Wf) {u : UnitId} {o : Nat} {v : Word} {t : State}
    (e : s.wCommon u o v = some t) : t.Wf := by
  unfold State.wCommon at e
  split at e
  · cases e; exact h.wCntSel
  split at e
  · cases e; exact h.wCnt
  split at e
  · cases e; exact h
  extract_lets mask at e
  split at e
  · cases e; exact h.wFaultWord
  · cases e; exact (h.setFr.foldl (·.latchUp)).collect
  · cases e; exact h.wFaultInj
  · cases e; exact h.setCnt
  · cases e; exact h.setCnt
  · cases e; exact .ite h h.setFr
  · cases e; exact h.wFltFence
  · cases e; exact h.setFr
  · cases e; exact .ite h.setFr h
  · cases e

theorem State.Wf.wArray (h : s.Wf) {o : Nat} {v : Word} : (s.wArray o v).Wf := by
  unfold State.wArray
  refine .ite (.ite h h.onFlash) ?_
  split
  · exact h.rest
  · exact h.rest
  · exact h.rest
  · exact h.wBootCtrl
  · exact h.onBoot
  · exact h.wFlashCmd
  · exact .ite h h.onFlash
  · exact h

theorem State.Wf.wMgmt (h : s.Wf) {o : Nat} {v : Word} : (s.wMgmt o v).Wf := by
  unfold State.wMgmt
  extract_lets on
  split
  · exact h.wElogAck
  iterate 6 exact h.setMgmt
  · exact h.onBoot
  · exact h

theorem State.Wf.wPd (h : s.Wf) {o : Nat} {v : Word} : (s.wPd o v).Wf := by
  unfold State.wPd
  extract_lets on
  split
  · exact h.rest
  · exact h.wOrphan
  · exact h.rest
  · exact h.rest
  · exact h.rest
  · exact h

theorem State.Wf.wSeq (h : s.Wf) {o : Nat} {v : Word} : (s.wSeq o v).Wf := by
  unfold State.wSeq
  split
  · exact h.wThermCtrl
  · exact h.onSeq
  · exact h.onSeq
  · exact h.wRangeCtrl
  iterate 6 exact h.onRange
  iterate 4 exact h.onBist
  · exact h.wBistAck
  · exact h.onBist
  · exact h.wTelCtrl
  iterate 4 exact h.onTel
  · exact h

theorem State.Wf.wSector (h : s.Wf) {x o : Nat} {v : Word} : (s.wSector x o v).Wf := by
  unfold State.wSector
  split
  · exact h.wSpareCtrl
  · exact h.setSec
  · exact h.wHistCtrl
  · exact .ite h.setSec h
  · exact h

theorem State.Wf.wPool (h : s.Wf) {x o : Nat} {v : Word} : (s.wPool x o v).Wf := by
  unfold State.wPool
  split
  · exact h.setPool
  · exact h.setPool
  · exact h.setPool
  · exact h

theorem State.Wf.wHar (h : s.Wf) {x o : Nat} {v : Word} : (s.wHar x o v).Wf := by
  unfold State.wHar
  split
  · exact h.setHar
  · exact h.setHar
  · exact h.wHarSubmit
  · exact h.setHar
  · exact h.setHar
  · exact h.wHarCancel
  · exact h.setHar
  · exact h

theorem State.Wf.wCtl (h : s.Wf) {p o : Nat} {v : Word} : (s.wCtl p o v).Wf := by
  unfold State.wCtl
  extract_lets on
  split
  iterate 18 exact h.setCtl
  · exact h.wRetireCtrl
  iterate 5 exact h.setCtl
  · split
    · exact h.setPort
    · exact h
  · exact h

theorem State.Wf.wLink (h : s.Wf) {p o : Nat} {v : Word} : (s.wLink p o v).Wf := by
  unfold State.wLink
  split
  · exact h.wLinkCtrl
  · exact h.setLink
  · exact h.setLink
  · exact h.setLink
  · exact h.wSbCmd
  · exact h.setLink
  · exact h

theorem State.Wf.wAwl (h : s.Wf) {p o : Nat} {v : Word} : (s.wAwl p o v).Wf := by
  unfold State.wAwl
  extract_lets on
  split
  iterate 11 exact h.setAwl
  · exact h

theorem State.Wf.wCur (h : s.Wf) {p o : Nat} {v : Word} : (s.wCur p o v).Wf := by
  unfold State.wCur
  split
  · exact h.setCur
  · exact h.setCur
  · exact h

theorem State.Wf.wUnit (h : s.Wf) {u : UnitId} {o : Nat} {v : Word} : (s.wUnit u o v).Wf := by
  unfold State.wUnit
  split
  · exact h.wArray
  · exact h.wMgmt
  · exact h
  · exact h
  · exact h
  · exact h.wPd
  · exact h.wSeq
  · exact h.wSector
  · exact h.wPool
  · exact .ite h.setNet h
  · exact h.wHar
  · exact .ite h.wMovCtrl h
  · exact h.wCtl
  · exact h.wLink
  · exact h.wAwl
  · exact h.wCur

theorem State.Wf.regWrite (h : s.Wf) {u : UnitId} {o : Nat} {v : Word} : (s.regWrite u o v).Wf := by
  unfold State.regWrite
  refine .ite h.wFrameCtrl (.ite h.setFr (.ite h ?_))
  cases e : s.wCommon u o v with
  | none => exact h.wUnit
  | some t => exact h.wCommon e

theorem execRegisterWrite_keeps (s : State) {addr v : Word} : Keeps s (execRegisterWrite addr v s) :=
  .ite (.next fun h => .ite h.count.mgmtChecks.answer h) (.next fun h => h.mgAccess (·.regWrite))

/-! ### Every command, and the obligations -/

/-- Every command answers a next state, well formed where the state before it is, but the release of block reset out of sequence. -/
theorem exec_keeps (c : Instr) (s : State) (hc : c ≠ .blockResetRelease false) : Keeps s (exec c s) := by
  cases c with
  | blockResetAssert => exact execBlockResetAssert_keeps s
  | blockResetRelease sequenced =>
    cases sequenced with
    | false => exact absurd rfl hc
    | true => exact execBlockResetRelease_keeps s
  | clockEnd => exact execClockEnd_keeps s
  | discoverEnd => exact execDiscoverEnd_keeps s
  | loadEnd => exact execLoadEnd_keeps s
  | verifyEnd => exact execVerifyEnd_keeps s
  | slotsEnd => exact execSlotsEnd_keeps s
  | islandsEnd => exact execIslandsEnd_keeps s
  | islandsLockTimeout => exact execIslandsLockTimeout_keeps s
  | hideUpEnd => exact execHideUpEnd_keeps s
  | channelTrained => exact execChannelTrained_keeps s
  | applyEnd => exact execApplyEnd_keeps s
  | buildEnd => exact execBuildEnd_keeps s
  | startupTimeout => exact execStartupTimeout_keeps s
  | bootReload => exact execBootReload_keeps s
  | lcInputChange => exact execLcInputChange_keeps s
  | strapChange => exact execStrapChange_keeps s
  | flashRead => exact execFlashRead_keeps s
  | flashProgram => exact execFlashProgram_keeps s
  | flashErase => exact execFlashErase_keeps s
  | flashOpDone => exact execFlashOpDone_keeps s
  | flashTimeout => exact execFlashTimeout_keeps s
  | calRecordPeriod => exact execCalRecordPeriod_keeps s
  | recordWriteStart => exact execRecordWriteStart_keeps s
  | registerWrite => exact execRegisterWrite_keeps s
  | read => exact execRead_keeps s
  | write => exact execWrite_keeps s
  | writeMasked => exact execWriteMasked_keeps s
  | atomAdd => exact execAtomAdd_keeps s
  | atomMax => exact execAtomMax_keeps s
  | atomMin => exact execAtomMin_keeps s
  | atomSwap => exact execAtomSwap_keeps s
  | atomCas => exact execAtomCas_keeps s
  | reduceAdd => exact execReduceAdd_keeps s
  | reduceAddOrd => exact execReduceAddOrd_keeps s
  | doorbell => exact execDoorbell_keeps s
  | writeBeat => exact execWriteBeat_keeps s
  | gapCut => exact execGapCut_keeps s
  | rspBeatTaken => exact execRspBeatTaken_keeps s
  | rspStall => exact execRspStall_keeps s
  | networkMessage => exact execNetworkMessage_keeps s
  | ringReserve => exact execRingReserve_keeps s
  | schedulerCycle => exact execSchedulerCycle_keeps s
  | entryAged => exact execEntryAged_keeps s
  | hitLimit => exact execHitLimit_keeps s
  | idleRowClose => exact execIdleRowClose_keeps s
  | schedStall => exact execSchedStall_keeps s
  | bankOpeningDone => exact execBankOpeningDone_keeps s
  | bankClosingDone => exact execBankClosingDone_keeps s
  | bankRefreshDone => exact execBankRefreshDone_keeps s
  | zeroFillDone => exact execZeroFillDone_keeps s
  | combineWriteback => exact execCombineWriteback_keeps s
  | ordTimeout => exact execOrdTimeout_keeps s
  | powerDownEntry => exact execPowerDownEntry_keeps s
  | trrLimit => exact execTrrLimit_keeps s
  | rhPenaltyEnd => exact execRhPenaltyEnd_keeps s
  | readBurstReturn => exact execReadBurstReturn_keeps s
  | hideAlert => exact execHideAlert_keeps s
  | regulationPeriodStart => exact execRegulationPeriodStart_keeps s
  | poolScaleUpdate => exact execPoolScaleUpdate_keeps s
  | tier4WaitLimit => exact execTier4WaitLimit_keeps s
  | arbiterCutoff => exact execArbiterCutoff_keeps s
  | migrationStart => exact execMigrationStart_keeps s
  | migrationCancel => exact execMigrationCancel_keeps s
  | migrationCopyDone => exact execMigrationCopyDone_keeps s
  | flipDrainDone => exact execFlipDrainDone_keeps s
  | flipDrainTimeout => exact execFlipDrainTimeout_keeps s
  | calAttemptDone => exact execCalAttemptDone_keeps s
  | calWaitEnd => exact execCalWaitEnd_keeps s
  | rotStep => exact execRotStep_keeps s
  | rotEffect => exact execRotEffect_keeps s
  | readSweepStart => exact execReadSweepStart_keeps s
  | trackingSlice => exact execTrackingSlice_keeps s
  | laneStale => exact execLaneStale_keeps s
  | fullRetrain => exact execFullRetrain_keeps s
  | retrainSlice => exact execRetrainSlice_keeps s
  | linkHaltEnd => exact execLinkHaltEnd_keeps s
  | modeRegisterRead => exact execModeRegisterRead_keeps s
  | modeRegisterWrite => exact execModeRegisterWrite_keeps s
  | statusReadClear => exact execStatusReadClear_keeps s
  | layerReset => exact execLayerReset_keeps s
  | sbResponse => exact execSbResponse_keeps s
  | sbTimeout => exact execSbTimeout_keeps s
  | refreshDueTick => exact execRefreshDueTick_keeps s
  | refreshRoundEnd => exact execRefreshRoundEnd_keeps s
  | weakRowRefreshDue => exact execWeakRowRefreshDue_keeps s
  | sensorRead => exact execSensorRead_keeps s
  | sensorResult => exact execSensorResult_keeps s
  | dieSensorRead => exact execDieSensorRead_keeps s
  | governorRound => exact execGovernorRound_keeps s
  | emergencyReread => exact execEmergencyReread_keeps s
  | stopComplete => exact execStopComplete_keeps s
  | stopOverrun => exact execStopOverrun_keeps s
  | thermResume => exact execThermResume_keeps s
  | profilingStepDone => exact execProfilingStepDone_keeps s
  | weakAgeing => exact execWeakAgeing_keeps s
  | patrolRead => exact execPatrolRead_keeps s
  | patrolLate => exact execPatrolLate_keeps s
  | rangeScrub => exact execRangeScrub_keeps s
  | rangeClear => exact execRangeClear_keeps s
  | rangePoison => exact execRangePoison_keeps s
  | rangeCancel => exact execRangeCancel_keeps s
  | rangeDone => exact execRangeDone_keeps s
  | ceCommit => exact execCeCommit_keeps s
  | elogAck => exact execElogAck_keeps s
  | rowRetirement => exact execRowRetirement_keeps s
  | bankRetirement => exact execBankRetirement_keeps s
  | bankCopyDone => exact execBankCopyDone_keeps s
  | create => exact execCreate_keeps s
  | append => exact execAppend_keeps s
  | commit => exact execCommit_keeps s
  | fork => exact execFork_keeps s
  | trim => exact execTrim_keeps s
  | release => exact execRelease_keeps s
  | lock => exact execLock_keeps s
  | unlock => exact execUnlock_keeps s
  | query => exact execQuery_keeps s
  | patch => exact execPatch_keeps s
  | cold => exact execCold_keeps s
  | pdOrphan => exact execPdOrphan_keeps s
  | epochCheck => exact execEpochCheck_keeps s
  | harSubmit => exact execHarSubmit_keeps s
  | harnessCheckDone => exact execHarnessCheckDone_keeps s
  | nop => exact execNop_keeps s
  | score => exact execScore_keeps s
  | select => exact execSelect_keeps s
  | partialAtt => exact execPartialAtt_keeps s
  | merge => exact execMerge_keeps s
  | reduce => exact execReduce_keeps s
  | copy => exact execCopy_keeps s
  | fill => exact execFill_keeps s
  | bucket => exact execBucket_keeps s
  | awlProg => exact execAwlProg_keeps s
  | signal => exact execSignal_keeps s
  | partEnd => exact execPartEnd_keeps s
  | nodeLimit => exact execNodeLimit_keeps s
  | completionRecordWritten => exact execCompletionRecordWritten_keeps s
  | harCancel => exact execHarCancel_keeps s
  | harEndRead => exact execHarEndRead_keeps s
  | moverRelease => exact execMoverRelease_keeps s
  | engStall => exact execEngStall_keeps s
  | partEntry => exact execPartEntry_keeps s
  | ident => exact execIdent_keeps s
  | convert => exact execConvert_keeps s
  | aAdd => exact execAAdd_keeps s
  | aSub => exact execASub_keeps s
  | aAnd => exact execAAnd_keeps s
  | aOr => exact execAOr_keeps s
  | aXor => exact execAXor_keeps s
  | aSll => exact execASll_keeps s
  | aSrl => exact execASrl_keeps s
  | aSra => exact execASra_keeps s
  | aSlt => exact execASlt_keeps s
  | aSltu => exact execASltu_keeps s
  | aMul => exact execAMul_keeps s
  | aDivu => exact execADivu_keeps s
  | aRemu => exact execARemu_keeps s
  | aFadd => exact execAFadd_keeps s
  | aFsub => exact execAFsub_keeps s
  | aFmul => exact execAFmul_keeps s
  | aFdiv => exact execAFdiv_keeps s
  | aFmin => exact execAFmin_keeps s
  | aFmax => exact execAFmax_keeps s
  | aFlt => exact execAFlt_keeps s
  | aFeq => exact execAFeq_keeps s
  | aFtoi => exact execAFtoi_keeps s
  | aItof => exact execAItof_keeps s
  | aAddi => exact execAAddi_keeps s
  | aAndi => exact execAAndi_keeps s
  | aOri => exact execAOri_keeps s
  | aXori => exact execAXori_keeps s
  | aShiSll => exact execAShiSll_keeps s
  | aShiSrl => exact execAShiSrl_keeps s
  | aShiSra => exact execAShiSra_keeps s
  | aLui => exact execALui_keeps s
  | aLsh => exact execALsh_keeps s
  | aLw => exact execALw_keeps s
  | aLd => exact execALd_keeps s
  | aSw => exact execASw_keeps s
  | aSd => exact execASd_keeps s
  | aBeq => exact execABeq_keeps s
  | aBne => exact execABne_keeps s
  | aBlt => exact execABlt_keeps s
  | aBge => exact execABge_keeps s
  | aBltu => exact execABltu_keeps s
  | aBgeu => exact execABgeu_keeps s
  | aJal => exact execAJal_keeps s
  | aJalr => exact execAJalr_keeps s
  | mfsCycle => exact execMfsCycle_keeps s
  | mfsElapsed => exact execMfsElapsed_keeps s
  | mfsPhys => exact execMfsPhys_keeps s
  | mfsGran => exact execMfsGran_keeps s
  | mfsOutst => exact execMfsOutst_keeps s
  | mfsIsa => exact execMfsIsa_keeps s
  | sysHalt => exact execSysHalt_keeps s
  | sysFail => exact execSysFail_keeps s
  | sysMwait => exact execSysMwait_keeps s
  | sysNop => exact execSysNop_keeps s
  | vld => exact execVld_keeps s
  | vst => exact execVst_keeps s
  | vbcast => exact execVbcast_keeps s
  | viota => exact execViota_keeps s
  | vcvt => exact execVcvt_keeps s
  | vpack => exact execVpack_keeps s
  | vdot => exact execVdot_keeps s
  | vadd => exact execVadd_keeps s
  | vsub => exact execVsub_keeps s
  | vmul => exact execVmul_keeps s
  | vfma => exact execVfma_keeps s
  | vmax => exact execVmax_keeps s
  | vmin => exact execVmin_keeps s
  | vexp => exact execVexp_keeps s
  | vmuls => exact execVmuls_keeps s
  | sacc => exact execSacc_keeps s
  | vfoldSum => exact execVfoldSum_keeps s
  | vfoldMax => exact execVfoldMax_keeps s
  | vget => exact execVget_keeps s
  | vmov => exact execVmov_keeps s
  | mld => exact execMld_keeps s
  | mst => exact execMst_keeps s
  | mred => exact execMred_keeps s
  | fld => exact execFld_keeps s
  | hld => exact execHld_keeps s
  | xlat => exact execXlat_keeps s
  | xlata => exact execXlata_keeps s
  | pgath => exact execPgath_keeps s
  | fst => exact execFst_keeps s
  | hst => exact execHst_keeps s
  | memOpRetire => exact execMemOpRetire_keeps s
  | islandGate => exact execIslandGate_keeps s
  | islandWake => exact execIslandWake_keeps s
  | faultWordClear => exact execFaultWordClear_keeps s
  | faultInj => exact execFaultInj_keeps s
  | fltFence => exact execFltFence_keeps s
  | quiesce => exact execQuiesce_keeps s
  | resumeIntake => exact execResumeIntake_keeps s
  | unitReset => exact execUnitReset_keeps s
  | cntFreeze => exact execCntFreeze_keeps s
  | cntClear => exact execCntClear_keeps s
  | drainDone => exact execDrainDone_keeps s
  | wedge => exact execWedge_keeps s
  | resetComplete => exact execResetComplete_keeps s
  | resetBound => exact execResetBound_keeps s
  | safeStateEntry => exact execSafeStateEntry_keeps s
  | refClkLost => exact execRefClkLost_keeps s
  | holdoverEnd => exact execHoldoverEnd_keeps s
  | bistSliceStart => exact execBistSliceStart_keeps s
  | sliceDrainTimeout => exact execSliceDrainTimeout_keeps s
  | sliceDrained => exact execSliceDrained_keeps s
  | sliceScanDone => exact execSliceScanDone_keeps s
  | sliceWindowSample => exact execSliceWindowSample_keeps s
  | sliceRelease => exact execSliceRelease_keeps s
  | bistAck => exact execBistAck_keeps s
  | tapReset => exact execTapReset_keeps s
  | extest => exact execExtest_keeps s
  | samplePreload => exact execSamplePreload_keeps s
  | unitSel => exact execUnitSel_keeps s
  | intscan => exact execIntscan_keeps s
  | sigread => exact execSigread_keeps s
  | slice => exact execSlice_keeps s
  | bypass => exact execBypass_keeps s
  | cntSel => exact execCntSel_keeps s
  | cntWrite => exact execCntWrite_keeps s
  | cntRead => exact execCntRead_keeps s
  | counterOverflow => exact execCounterOverflow_keeps s
  | histClear => exact execHistClear_keeps s
  | histKind => exact execHistKind_keeps s
  | dump => exact execDump_keeps s
  | telNow => exact execTelNow_keeps s
  | dumpWriteAck => exact execDumpWriteAck_keeps s
  | illegalInstruction => exact execIllegalInstruction_keeps s
  | retrainSliceEnd => exact execRetrainSliceEnd_keeps s
  | mgmtRspTaken => exact execMgmtRspTaken_keeps s

/-- Out of the sequence of R453 the release faults while reset is held, and changes nothing where it is not (R1). -/
theorem exec_blockResetRelease_false (s : State) :
    exec (.blockResetRelease false) s = if s.boot.rstLow then .fault .undefinedR1 else .next s := by
  change execBlockResetRelease false s = _
  unfold execBlockResetRelease
  cases s.boot.rstLow <;> rfl

/-- A command that answers a next state keeps the state well formed. -/
theorem State.Wf.exec {c : Instr} {t : State} (h : s.Wf) (e : exec c s = .next t) : t.Wf := by
  by_cases hc : c = .blockResetRelease false
  · rw [hc, exec_blockResetRelease_false] at e
    split at e
    · cases e
    · cases e
      exact h
  · obtain ⟨t', e', hw⟩ := exec_keeps c s hc
    cases e'.symm.trans e
    exact hw h

/-- Opening the flash leaves the state as it is where no operation is under way. -/
theorem State.jobOpen_of_none (h : s.flash.job = none) : s.jobOpen = s := by
  unfold State.jobOpen
  rw [h]

/-- What an operation under way leaves open lies in the flash's bytes; nothing else but the unit's free choices moves. -/
theorem State.jobOpen_eq (s : State) :
    ∃ cells free, s.jobOpen = { s with flash := { s.flash with cells := cells }, free := free } := by
  have hopen (a n : Nat) : ∃ cells free, s.flashOpen a n = { s with flash := { s.flash with cells := cells }, free := free } :=
    ⟨_, _, rfl⟩
  unfold State.jobOpen
  split
  · split
    · exact hopen ..
    · split
      · exact hopen ..
      · exact ⟨_, _, rfl⟩
  · split
    · exact hopen ..
    · exact hopen ..
    · exact ⟨_, _, rfl⟩
  · exact ⟨_, _, rfl⟩

/-- Settles O5: an empty queue keeps the form through a cycle of MGMT, a command through its own lemma. -/
theorem stepKeepsWf : Obligations.StepKeepsWf := by
  unfold Obligations.StepKeepsWf
  intro s t h e
  unfold step at e
  split at e
  · cases e
    exact h.idle
  · exact State.Wf.exec h.rest e

/-- Settles O2: each command but one answers by its own lemma; the one left is computed. -/
theorem everyCommandCompletes : Obligations.EveryCommandCompletes := by
  unfold Obligations.EveryCommandCompletes
  refine ⟨fun c s hc => ?_, exec_blockResetRelease_false⟩
  obtain ⟨t, e, -⟩ := exec_keeps c s hc
  exact ⟨t, e⟩

/-- Settles O6: the assertion builds its state from the one with the open operation's bytes, which agrees with the state before it
in all that block reset leaves. -/
theorem blockReset : Obligations.BlockReset := by
  unfold Obligations.BlockReset
  refine ⟨fun s => ⟨_, rfl, fun hj => ?_, ?_⟩, fun s hr => ?_, fun s hr => ?_⟩
  · change s.jobOpen.flash.cells = s.flash.cells
    rw [State.jobOpen_of_none hj]
  · obtain ⟨cells, free, e⟩ := s.jobOpen_eq
    rw [e]
    rfl
  · change execBlockResetRelease true s = _
    unfold execBlockResetRelease
    rw [hr]
    rfl
  · rw [exec_blockResetRelease_false, if_pos hr]

end Sys2Proof.Machine
end

section
/-! SUPPORT. Tables changed at one place, and the places of the units' frames. -/
namespace Sys2Proof.Machine

/-! ### Lists changed at one place -/

/-- What a change of an element leaves of it, every element keeps. -/
theorem upd_getD_proj {α β : Type} (g : α → β) {f : α → α} {l : List α} {i j : Nat} {d : α}
    (hf : ∀ a, g (f a) = g a := by exact fun _ => rfl) : g ((upd l i f).getD j d) = g (l.getD j d) := by
  simp only [List.getD_eq_getElem?_getD, upd_getElem?]
  split
  · cases l[j]? <;> simp [hf]
  · rfl

/-- Two changes that agree on the element at a place change the list the same way. -/
theorem upd_congr {α : Type} {f g : α → α} {l : List α} {i : Nat} {d : α} (h : f (l.getD i d) = g (l.getD i d)) : upd l i f = upd l i g := by
  refine List.ext_getElem? fun j => ?_
  rw [upd_getElem?, upd_getElem?]
  split
  next e =>
    subst e
    cases e : l[i]? with
    | none => rfl
    | some a => simpa [List.getD_eq_getElem?_getD, e] using h
  · rfl

theorem upd_id {α : Type} (l : List α) (i : Nat) : upd l i id = l := by
  refine List.ext_getElem? fun j => ?_
  rw [upd_getElem?]
  split <;> simp

/-- A change that leaves the element at its place leaves the list. -/
theorem upd_of_getD {α : Type} {f : α → α} {l : List α} {i : Nat} {d : α} (h : f (l.getD i d) = l.getD i d) : upd l i f = l :=
  (upd_congr (g := id) h).trans (upd_id l i)

theorem upd_upd {α : Type} (f g : α → α) (l : List α) (i : Nat) : upd (upd l i f) i g = upd l i fun a => g (f a) := by
  induction l generalizing i with
  | nil => rfl
  | cons a l ih => cases i <;> simp [upd, ih]

section
variable {σ α β : Type} {tab : σ → List α} {step : σ → β → σ} {ix : β → Nat} {f : α → α} 
  (hs : ∀ s b, tab (step s b) = upd (tab s) (ix b) f)
include hs

/-- Steps that each change a table at a place of their own leave every other place. -/
theorem foldl_upd_not_mem {l : List β} {i : Nat} (h : i ∉ l.map ix) (s : σ) (d : α) : (tab (l.foldl step s)).getD i d = (tab s).getD i d := by
  induction l generalizing s with
  | nil => rfl
  | cons b l ih =>
    obtain ⟨hb, hl⟩ := not_or.1 (mt List.mem_cons.2 h)
    rw [List.foldl_cons, ih hl, hs, upd_getD_ne _ _ _ _ _ hb]

/-- Steps that each change a table at a place of their own, a place changed twice being as after once, change the places they name. -/
theorem foldl_upd_mem (hf : ∀ a, f (f a) = f a) {l : List β} {i : Nat} (h : i ∈ l.map ix) (s : σ) (hi : i < (tab s).length) (d : α) :
    (tab (l.foldl step s)).getD i d = f ((tab s).getD i d) := by
  induction l generalizing s with
  | nil => cases h
  | cons b l ih =>
    have hl : i < (tab (step s b)).length := by rwa [hs, upd_length]
    rw [List.foldl_cons]
    by_cases e : i = ix b
    · have hb : (tab (step s b)).getD i d = f ((tab s).getD i d) := by rw [hs, ← e, upd_getD_self _ _ _ _ hi]
      by_cases h' : i ∈ l.map ix
      · rw [ih h' _ hl, hb, hf]
      · rw [foldl_upd_not_mem hs h', hb]
    · rw [ih ((List.mem_cons.1 h).resolve_left e) _ hl, hs, upd_getD_ne _ _ _ _ _ e]

end

/-! ### Units and their frames -/

theorem unitAt_idx {u : UnitId} (h : u.ok = true) : unitAt u.idx = u := by
  have hsec : ∀ x < 8, unitAt (UnitId.sector x).idx = .sector x ∧ unitAt (UnitId.pool x).idx = .pool x ∧
      unitAt (UnitId.network x).idx = .network x ∧ unitAt (UnitId.harness x).idx = .harness x ∧
      unitAt (UnitId.movers x).idx = .movers x ∧ ∀ q < 4, unitAt (UnitId.quad x q).idx = .quad x q := by decide
  have hchan : ∀ p < 136, unitAt (UnitId.channel p).idx = .channel p ∧ unitAt (UnitId.ctl p).idx = .ctl p ∧
      unitAt (UnitId.link p).idx = .link p ∧ unitAt (UnitId.awl p).idx = .awl p ∧
      unitAt (UnitId.currier p).idx = .currier p := by decide +kernel
  cases u <;> simp only [UnitId.ok, Bool.and_eq_true, decide_eq_true_eq] at h
  case array | mgmt | loader | pageDir | currierSeq => rfl
  case sector x => exact (hsec x h).1
  case quad x q => exact (hsec x h.1).2.2.2.2.2 q h.2
  case pool x => exact (hsec x h).2.1
  case network x => exact (hsec x h).2.2.1
  case harness x => exact (hsec x h).2.2.2.1
  case movers x => exact (hsec x h).2.2.2.2.1
  case channel p => exact (hchan p h).1
  case ctl p => exact (hchan p h).2.1
  case link p => exact (hchan p h).2.2.1
  case awl p => exact (hchan p h).2.2.2.1
  case currier p => exact (hchan p h).2.2.2.2

theorem idx_inj {u w : UnitId} (hu : u.ok = true) (hw : w.ok = true) (h : w.idx = u.idx) : w = u := by
  rw [← unitAt_idx hw, h, unitAt_idx hu]

theorem chanIdx_lt {p : Nat} (h : p < 136) : chanIdx p < 757 := by
  unfold chanIdx posOf secOf
  split <;> omega

theorem leafIdx_lt {p k : Nat} (h : p < 136) (hk : k < 4) : leafIdx p k < 757 := by
  unfold leafIdx posOf secOf
  split <;> omega

theorem idx_lt {u : UnitId} (h : u.ok = true) : u.idx < 757 := by
  cases u <;> simp only [UnitId.ok, Bool.and_eq_true, decide_eq_true_eq] at h
  case channel p => exact chanIdx_lt h
  case ctl p | link p | awl p | currier p => exact leafIdx_lt h (by decide)
  all_goals simp only [UnitId.idx]; omega

theorem ok_of_mem_kids {u w : UnitId} (h : u.ok = true) (hw : w ∈ u.kids) : w.ok = true := by
  cases u <;> simp only [UnitId.ok, Bool.and_eq_true, decide_eq_true_eq] at h <;>
    simp only [UnitId.kids, List.mem_append, List.mem_map, List.mem_range, List.mem_cons, List.not_mem_nil, or_false] at hw
  case array => rcases hw with ⟨x, hx, rfl⟩ | rfl | rfl | rfl | rfl <;> simp [UnitId.ok, *]
  case sector x =>
    rcases hw with ⟨q, hq, rfl⟩ | rfl | rfl | rfl | rfl | rfl <;> simp [UnitId.ok, *]
    simp only [spareOf]; omega
  case quad x q => obtain ⟨c, hc, rfl⟩ := hw; simp only [UnitId.ok, decide_eq_true_eq]; omega
  case channel p => rcases hw with rfl | rfl | rfl | rfl <;> simp [UnitId.ok, h]

theorem ok_of_mem_subtree {u w : UnitId} (h : u.ok = true) (hw : w ∈ u.subtree) : w.ok = true := by
  have step : ∀ {l : List UnitId}, (∀ v ∈ l, v.ok = true) → ∀ v ∈ l.flatMap UnitId.kids, v.ok = true := by
    intro l hl v hv
    obtain ⟨k, hk, hv⟩ := List.mem_flatMap.1 hv
    exact ok_of_mem_kids (hl k hk) hv
  have h1 : ∀ v ∈ u.kids, v.ok = true := fun v hv => ok_of_mem_kids h hv
  have h2 := step h1
  have h3 := step h2
  have h4 := step h3
  simp only [UnitId.subtree, List.mem_cons, List.mem_append] at hw
  rcases hw with rfl | ((hw | hw) | hw) | hw
  · exact h
  · exact h1 w hw
  · exact h2 w hw
  · exact h3 w hw
  · exact h4 w hw

theorem self_mem_subtree (u : UnitId) : u ∈ u.subtree := List.mem_cons_self

variable {s : State}

theorem State.Wf.idx_lt (h : s.Wf) {u : UnitId} (hu : u.ok = true) : u.idx < s.frames.length := by
  rw [h.frames]
  exact Machine.idx_lt hu

/-- Two units of the build have frames of their own. -/
theorem State.fr_onFr_other {u w : UnitId} (hu : u.ok = true) (hw : w.ok = true) (h : w ≠ u) (f : Frame → Frame) :
    (s.onFr u f).fr w = s.fr w :=
  s.fr_onFr_ne u w f fun e => h (idx_inj hu hw e)

/-! ### A frame changed for each unit of a list -/

theorem State.fr_of_frames {t : State} (h : t.frames = s.frames) (w : UnitId) : t.fr w = s.fr w := by
  simp only [State.fr, State.frame, h]

theorem map_idx_not_mem {l : List UnitId} (hl : ∀ v ∈ l, v.ok = true) {w : UnitId} (hw : w.ok = true) (h : w ∉ l) :
    w.idx ∉ l.map UnitId.idx := by
  intro hm
  obtain ⟨v, hv, e⟩ := List.mem_map.1 hm
  exact h (idx_inj (hl v hv) hw e.symm ▸ hv)

section
variable {step : State → UnitId → State} {f : Frame → Frame} (hs : ∀ s v, (step s v).frames = upd s.frames v.idx f)
include hs

/-- Steps that each change the frame of their unit by f change it for every unit of the list. -/
theorem State.foldl_fr_mem (hf : ∀ a, f (f a) = f a) {l : List UnitId} {w : UnitId} (hw : w.idx < s.frames.length) (h : w ∈ l) :
    (l.foldl step s).fr w = f (s.fr w) :=
  foldl_upd_mem hs hf (List.mem_map_of_mem h) s hw {}

theorem State.foldl_fr_not_mem {l : List UnitId} (hl : ∀ v ∈ l, v.ok = true) {w : UnitId} (hw : w.ok = true) (h : w ∉ l) :
    (l.foldl step s).fr w = s.fr w :=
  foldl_upd_not_mem hs (map_idx_not_mem hl hw h) s {}

end

end Sys2Proof.Machine
end

section
/-! SUPPORT. One cycle of MGMT with no command waiting. -/
namespace Sys2Proof.Machine
variable {s : State}

/-! ### One MGMT cycle -/

theorem mgmtCycle_pend_nil (h : s.tack.pend = []) :
    mgmtCycle s = if s.mgmt.sub + 1 < 400 then { s with mgmt := { s.mgmt with sub := s.mgmt.sub + 1 } }
      else { s with mgmt := { s.mgmt with sub := 0, elapsed := s.mgmt.elapsed + 1 } } := by
  unfold mgmtCycle State.tackStep
  rw [h]

theorem mgmtCycle_eq (s : State) : mgmtCycle s = { s.tackStep with mgmt := (mgmtCycle s).mgmt } := by
  unfold mgmtCycle
  dsimp only
  split <;> rfl

theorem State.runDeferred_of_none (h : ∀ f ∈ s.frames, f.deferRst = false) : s.runDeferred = s := by
  unfold State.runDeferred
  rw [if_pos (List.all_eq_true.2 fun f hf => by simp [h f hf])]

theorem State.foldl_onFr_eq (f : Frame → Frame) (us : List UnitId) (s : State) :
    us.foldl (fun s u => s.onFr u f) s = { s with frames := us.foldl (fun r u => upd r u.idx f) s.frames } := by
  induction us generalizing s with
  | nil => rfl
  | cons u us ih => rw [List.foldl_cons, ih]; rfl

/-- A change that waits is committed in one generation (R36). -/
theorem State.tackStep_cons {us : List UnitId} {rest : List (List UnitId)} (h : s.tack.pend = us :: rest) :
    s.tackStep = { s with
      frames := us.foldl (fun r u => upd r u.idx fun f => { f with egen := s.tack.gen + 1 }) s.frames
      tack := { s.tack with gen := s.tack.gen + 1, changed := true, pend := rest, busy := !rest.isEmpty } } := by
  unfold State.tackStep
  rw [h]
  dsimp only
  rw [State.foldl_onFr_eq]

theorem State.tackStep_deferRst (h : ∀ f ∈ s.frames, f.deferRst = false) : ∀ f ∈ s.tackStep.frames, f.deferRst = false := by
  cases hp : s.tack.pend with
  | nil => rwa [State.tackStep, hp]
  | cons us rest =>
    rw [State.tackStep_cons hp]
    refine List.foldlRecOn (motive := fun r => ∀ f ∈ r, Frame.deferRst f = false) us _ h fun r hr u _ => ?_
    exact upd_all r _ _ {} hr (getD_of_forall (motive := fun f => Frame.deferRst f = false) hr rfl _)

theorem State.tackStep_egen {us : List UnitId} {rest : List (List UnitId)} (h : s.tack.pend = us :: rest) {u : UnitId} (hu : u ∈ us)
    (hi : u.idx < s.frames.length) : (s.tackStep.fr u).egen = s.tack.gen + 1 := by
  have hf := State.foldl_fr_mem (step := fun t v => t.onFr v fun f => { f with egen := s.tack.gen + 1 }) (fun _ _ => rfl) (fun _ => rfl) hi hu
  rw [State.foldl_onFr_eq] at hf
  rw [State.tackStep_cons h]
  exact congrArg Frame.egen hf

/-- Settles O3: a cycle of MGMT is the commit of what waits and the counter's advance, and no reset waits for a flip. -/
theorem idleStepTicks : Obligations.IdleStepTicks := by
  unfold Obligations.IdleStepTicks
  intro s hp
  have hstep : step s = .next s.idle := by rw [step, hp]
  rw [hstep]
  refine ⟨fun hr => by rw [State.idle, if_pos hr], fun hr hd => ?_⟩
  have hidle : s.idle = mgmtCycle s := by
    rw [State.idle, if_neg (by simp [hr])]
    refine State.runDeferred_of_none ?_
    rw [mgmtCycle_eq]
    exact State.tackStep_deferRst hd
  rw [hidle]
  refine ⟨fun hn hs => ?_, fun hn hs => ?_, fun us rest hc => ⟨_, rfl, ?_⟩⟩
  · rw [mgmtCycle_pend_nil hn, if_pos hs]
  · rw [mgmtCycle_pend_nil hn, if_neg (by omega)]
  · rw [mgmtCycle_eq, State.tackStep_cons hc]
    exact ⟨rfl, rfl, rfl, rfl, rfl, fun u hu hi => State.tackStep_cons hc ▸ State.tackStep_egen hc hu hi⟩
end Sys2Proof.Machine
end

section
/-! SUPPORT. Page calls, at a port and as a node. -/
namespace Sys2Proof.Machine
variable {s : State} {n op pick : Nat} {hd : WHdr} {b : Beat}

/-- What stands before a page call that port n takes: its header, its beat and its tag are in order, and its result has a slot. -/
structure State.TakesCall (s : State) (n op : Nat) (hd : WHdr) (b : Beat) : Prop where
  wf : s.Wf
  offers : s.Offers n hd.cls.toNat true (2 ^ 42)
  idle : (s.port n).openW = none
  pool : s.PoolFree n
  tag : s.tagUsed n hd.tag.toNat = false
  last : b.last = true
  hdr : s.hdrBad (s.portLch n) opPage hd = false
  chk : chkOk hd.chkEn b = true
  names : blkGet b.data 0 1 = op

/-- s1 is s with the page call taken at port n: it has its tag and a slot for its result, and is request s.uid + 1. -/
structure State.CallTaken (s : State) (n : Nat) (hd : WHdr) (s1 : State) : Prop where
  rest : s1 = { s with ports := s1.ports, pools := s1.pools, cnts := s1.cnts, free := s1.free, uid := s.uid + 1 }
  others : ∀ m, m ≠ n → s1.port m = s.port m
  rsp : (s1.port n).rsp = (s.port n).rsp
  idle : (s1.port n).openW = none
  tags : ∃ r, (s1.port n).tags = (s.port n).tags ++ [r] ∧ r.tag = hd.tag.toNat ∧ r.op = opPage ∧ r.uid = s.uid + 1 ∧ r.cls = hd.cls.toNat

/-- The request of a page call. -/
def WHdr.request (hd : WHdr) (uid lch t0 : Nat) (k : List Slot) : Req :=
  { tag := hd.tag.toNat, uid := uid, op := opPage, cls := hd.cls.toNat, len := hd.len.toNat, arg := hd.arg.toNat,
    addr := hd.addr.toNat * 64, lch := lch, t0 := t0, slots := k }

/-- The port with the call's request among its own. -/
def Port.takeCall (q : Port) (hd : WHdr) (uid lch : Nat) (k : List Slot) : Port :=
  { q with
    askWr := none, wrFree := q.cyc + 1, orphan := false, openW := none
    tags := q.tags ++ [WHdr.request hd uid lch q.cyc k] }

theorem State.book_response (h : s.PoolFree n) (c : Nat) :
    ∃ k t, s.book (secOf (s.portPhys n)) (posOf (s.portPhys n)) 0 c = some (k, t) ∧
      ∃ pools cnts free, t = { s with pools := pools, cnts := cnts, free := free } := by
  refine ⟨_, _, by rw [State.book, if_pos (by simp [floorCap, h.response])], ?_⟩
  rw [State.count_eq]
  exact ⟨_, _, _, rfl⟩

theorem State.bookFirst_page (h : s.PoolFree n) : ∃ k t, s.bookFirst n opPage hd false = some (k, t) ∧
    ∃ pools cnts free, t = { s with pools := pools, cnts := cnts, free := free } := by
  obtain ⟨k, t, hk, ht⟩ := s.book_response h hd.cls.toNat
  exact ⟨[k], t, by simp [State.bookFirst, hk, onData], ht⟩

/-- The call's request has its tag, its number and its slots. -/
def State.withCall (s : State) (n : Nat) (hd : WHdr) (lch : Nat) (k : List Slot) (pools : List Pool) (cnts : List Cnt) (free : Nat) : State :=
  { s.onPort n (·.takeCall hd (s.uid + 1) lch k) with pools := pools, cnts := cnts, free := free, uid := s.uid + 1 }

/-- A call that is taken runs as the port's newest request (R78, R465). -/
theorem State.TakesCall.first (h : s.TakesCall n op hd b) : ∃ lch k pools cnts free, ∀ single, s.first n opPage hd b single =
    single (s.withCall n hd lch k pools cnts free) (s.uid + 1) := by
  obtain ⟨k, t, hb, pools, cnts, free, rfl⟩ := State.bookFirst_page (hd := hd) h.pool
  have htakes := h.offers.takes
  have hready : s.wqReady n = true := h.offers.ready
  refine ⟨((s.decode (hd.addr.toNat * 64) (s.portLch n)).getD (0, 0)).1, k, pools, cnts, free, fun single => ?_⟩
  have hmem : (opPage != opPage && opPage != opBell) = false := rfl
  unfold State.first
  simp only [htakes, hready, hmem, h.idle, h.offers.unheld, h.offers.served, h.tag, h.hdr, hb, h.chk, h.last, State.lone,
    Option.isSome_none, Bool.not_true, Bool.not_false, Bool.or_self, Bool.false_eq_true, reduceIte, Bool.true_or]
  simp only [State.unask, State.onPort, State.nextUid, upd_upd, reduceIte]
  rfl


/-- The port with no page call waiting for an engine. -/
def State.uncall (s : State) (n : Nat) : State := s.onPort n fun q => { q with callTo := none }

theorem State.creditWaits_uncall (s : State) (n p : Nat) (write : Bool) : (s.uncall n).creditWaits p write = s.creditWaits p write := by
  have hask : ∀ m, ((s.uncall n).port m).ask write = (s.port m).ask write := fun m =>
    upd_getD_proj fun q : Port => q.ask write
  simp only [State.creditWaits, hask]
  rfl

theorem State.clsReason_uncall (s : State) (n p : Nat) (write : Bool) (c : Nat) : (s.uncall n).clsReason p write c = s.clsReason p write c := by
  simp only [State.clsReason, State.clsState, State.creditWaits_uncall]
  rfl

theorem State.offerReason_uncall (s : State) (n m c : Nat) (write : Bool) (addr : Nat) :
    (s.uncall n).offerReason m c write addr = s.offerReason m c write addr := by
  simp only [State.offerReason, State.clsReason_uncall]
  rfl

theorem State.TakesCall.uncall (h : s.TakesCall n op hd b) : (s.uncall n).TakesCall n op hd b := by
  have hp : (s.uncall n).port n = { s.port n with callTo := none } :=
    s.port_onPort n _ (by rw [h.wf.ports]; exact h.offers.isPort)
  have hfen : (s.uncall n).allFenced n = s.allFenced n := by simp only [State.allFenced, hp]; rfl
  have htakes : (s.uncall n).portTakes n = s.portTakes n := by simp only [State.portTakes, hp]; rfl
  exact {
    wf := h.wf.setPort
    offers := {
      isPort := h.offers.isPort
      takes := htakes.trans h.offers.takes
      ready := by
        have e : (s.uncall n).wqReady n = s.wqReady n := by simp only [State.wqReady, htakes, hfen, hp]; rfl
        exact e.trans h.offers.ready
      unheld := by
        have e : (s.uncall n).freeToOffer n hd.cls.toNat true (2 ^ 42) = s.freeToOffer n hd.cls.toNat true (2 ^ 42) := by
          simp only [State.freeToOffer, State.holdBits, hfen, hp, State.offerReason_uncall]; rfl
        exact e.trans h.offers.unheld
      served := hfen.trans h.offers.served }
    idle := by rw [hp]; exact h.idle
    pool := { h.pool with }
    tag := by simp only [State.tagUsed, hp]; exact h.tag
    last := h.last
    hdr := h.hdr
    chk := h.chk
    names := h.names }

theorem State.agent_open {own cls : Nat} {uid : Option Nat} (f : State → State) (hw : (uid.isNone && s.working own) = false)
    (ho : ∀ l, s.shutAt l = false) :
    s.agent own cls f uid = { (f { s with acc := [] }).settleAcc own cls uid with acc := s.acc } := by
  simp only [State.agent, hw, ho, List.any_eq_true, Bool.false_eq_true, and_false, exists_false, if_false]

/-- The port keeps a call for a gated engine offered, and the engine wakes (R17). -/
theorem State.TakesCall.portCall_gated (h : s.TakesCall n op hd b) {y : Nat} (hg : s.callGated b.data = some y) :
    s.portCall n op pick hd b = ((s.uncall n).offer n hd.cls.toNat true (2 ^ 42)).onPort n fun q => { q with callTo := some y } := by
  have k := h.uncall
  have hgate : (s.uncall n).callGated b.data = some y := hg
  have hready : (s.uncall n).wqReady n = true := k.offers.ready
  have hcall : callIs op b.data = true := by simp [callIs, h.names]
  have e : (s.onPort n fun q => { q with callTo := none }) = s.uncall n := rfl
  unfold State.portCall
  simp only [e, hcall, hready, hgate, k.offers.unheld, k.offers.served, k.hdr, k.tag, k.chk, k.last, Bool.not_true, Bool.not_false,
    Bool.and_self, Bool.true_or, Bool.false_eq_true, reduceIte]

/-- A call for an engine that is awake, with no channel shut, is a first beat that runs it. -/
theorem State.TakesCall.portCall_awake (h : s.TakesCall n op hd b) (hg : s.callGated b.data = none) (ho : ∀ l, s.shutAt l = false) :
    s.portCall n op pick hd b = (s.uncall n).first n opPage hd b fun s uid => s.runCall n uid hd.cls.toNat pick b.data := by
  have k := h.uncall
  have hgate : (s.uncall n).callGated b.data = none := hg
  have hopen : ∀ l, (s.uncall n).shutAt l = false := ho
  have hcall : callIs op b.data = true := by simp [callIs, h.names]
  have e : (s.onPort n fun q => { q with callTo := none }) = s.uncall n := rfl
  unfold State.portCall
  simp only [e, hcall, hgate, hopen, ite_self, List.any_eq_true, Bool.not_true, Bool.and_eq_true, Bool.false_eq_true, and_false, exists_false,
    reduceIte]

/-- The holds of a port follow its requests; nothing else changes (R126). -/
theorem State.refreshHolds_eq (s : State) (p : Nat) : ∃ ports, s.refreshHolds p = { s with ports := ports } ∧
    ports.length = s.ports.length ∧ ∀ m, (ports.getD m {}).tags = (s.port m).tags := by
  unfold State.refreshHolds
  split
  · exact ⟨s.ports, rfl, rfl, fun _ => rfl⟩
  · exact ⟨_, rfl, upd_length .., fun m => upd_getD_proj Port.tags⟩

theorem State.offer_eq (s : State) (n c : Nat) (write : Bool) (addr : Nat) : ∃ ports, s.offer n c write addr = { s with ports := ports } ∧
    ports.length = s.ports.length ∧ ∀ m, (ports.getD m {}).tags = (s.port m).tags := by
  obtain ⟨ports, e, hl, ht⟩ := (s.onPort n fun q => if write then { q with askWr := some (c, addr) } else
    { q with askRd := some (c, addr) }).refreshHolds_eq (s.portPhys n)
  refine ⟨ports, e, hl.trans (upd_length ..), fun m => (ht m).trans (upd_getD_proj Port.tags fun q => ?_)⟩
  split <;> rfl

/-- A call offered for engine y changes its port alone. -/
theorem State.TakesCall.offered (h : s.TakesCall n op hd b) (y : Nat) :
    let t := ((s.uncall n).offer n hd.cls.toNat true (2 ^ 42)).onPort n fun q => { q with callTo := some y }
    t = { s with ports := t.ports } ∧ (t.port n).tags = (s.port n).tags ∧ (t.port n).callTo = some y := by
  obtain ⟨ports, e, hl, ht⟩ := (s.uncall n).offer_eq n hd.cls.toNat true (2 ^ 42)
  rw [e]
  have hn : n < ports.length := by rw [hl, h.uncall.wf.ports]; exact h.offers.isPort
  have hp : (State.onPort { s.uncall n with ports := ports } n fun q => { q with callTo := some y }).port n =
      { ports.getD n {} with callTo := some y } := upd_getD_self _ _ _ _ hn
  refine ⟨rfl, ?_, ?_⟩
  · rw [hp]
    exact (ht n).trans (upd_getD_proj Port.tags)
  · rw [hp]

theorem Port.Wf.onTag_new {m : Nat} {q : Port} (hq : q.Wf m) (f : Req → Req) :
    q.tags.map (fun r => if r.uid = m + 1 then f r else r) = q.tags := by
  refine (List.map_congr_left fun r hr => ?_).trans (List.map_id _)
  have := hq.uids r hr
  exact if_neg (by omega)

/-- The call taken and given its executor. -/
theorem State.TakesCall.taken (h : s.TakesCall n op hd b) (lch : Nat) (k : List Slot) (pools : List Pool) (cnts : List Cnt) (free : Nat)
    (y : Option Nat) :
    s.CallTaken n hd ((s.withCall n hd lch k pools cnts free).onReq n (s.uid + 1) fun q => { q with eng := y }) := by
  have hn : n < s.ports.length := by rw [h.wf.ports]; exact h.offers.isPort
  have h512 : n < 512 := Nat.lt_trans h.offers.isPort (by decide)
  simp only [State.onReq, if_pos h512]
  have e : (s.withCall n hd lch k pools cnts free).port n = (s.port n).takeCall hd (s.uid + 1) lch k := upd_getD_self _ _ _ _ hn
  have hn' : n < (s.withCall n hd lch k pools cnts free).ports.length := by simpa [State.withCall] using hn
  exact {
    rest := rfl
    others := fun m hm => (State.port_onPort_ne _ _ _ _ hm).trans (s.port_onPort_ne _ _ _ hm)
    rsp := by rw [State.port_onPort _ _ _ hn', e]; rfl
    idle := by rw [State.port_onPort _ _ _ hn', e]; rfl
    tags := by
      rw [State.port_onPort _ _ _ hn', e]
      refine ⟨{ WHdr.request hd (s.uid + 1) lch (s.port n).cyc k with eng := y }, ?_, rfl, rfl, rfl, rfl⟩
      change ((s.port n).tags ++ [WHdr.request hd (s.uid + 1) lch (s.port n).cyc k]).map _ = _
      rw [List.map_append, (h.wf.port n).onTag_new]
      simp [WHdr.request] }

theorem State.onReq_shutAt (s : State) (n uid : Nat) (f : Req → Req) (l : Nat) : (s.onReq n uid f).shutAt l = s.shutAt l := by
  unfold State.onReq
  split
  · rfl
  · split <;> rfl

theorem State.onReq_portLch (s : State) (n uid : Nat) (f : Req → Req) (m : Nat) : (s.onReq n uid f).portLch m = s.portLch m := by
  unfold State.onReq
  split
  · rfl
  · split <;> rfl

/-- What a page call that runs leaves: its effect on memory, its result and its channel work (R125, R282; log 13). -/
def State.callLeft (s : State) (n uid cls l pick : Nat) (b : Block) : State :=
  let r := ({ s with acc := [] } : State).pageCall n cls l pick b
  let s2 := r.2.onReq n uid fun q => { q with res := some (r.1.1, r.1.2.2) }
  { s2.settleAcc (ownCall n) cls (some uid) with acc := s.acc }

/-- An accepted call with no channel shut: what it leaves, and its answer where it has no channel work (R125). -/
theorem State.runCall_open (ho : ∀ l, s.shutAt l = false) (n uid cls pick : Nat) (b : Block) :
    let s1 := s.onReq n uid fun q => { q with eng := s.executor ((callDec b).ctx / 262144) }
    let s3 := s1.callLeft n uid cls (s.portLch n) pick b
    s.runCall n uid cls pick b = if s3.jobs.any fun j => j.own == ownCall n && j.uid == uid then s3 else s3.release n uid := by
  have ho1 l := (s.onReq_shutAt n uid (fun q => { q with eng := s.executor ((callDec b).ctx / 262144) }) l).trans (ho l)
  simp only [State.runCall, State.agent_open _ (show ((some uid).isNone && _) = false from rfl) ho1]
  rw [← s.onReq_portLch n uid (fun q => { q with eng := s.executor ((callDec b).ctx / 262144) }) n]
  rfl

theorem State.CallTaken.of_uncall {s1 : State} (h : (s.uncall n).CallTaken n hd s1) : s.CallTaken n hd s1 where
  rest := h.rest
  others m hm := (h.others m hm).trans (s.port_onPort_ne _ _ _ hm)
  rsp := h.rsp.trans (upd_getD_proj Port.rsp)
  idle := h.idle
  tags := by
    have e : ((s.uncall n).port n).tags = (s.port n).tags := upd_getD_proj Port.tags
    exact e ▸ h.tags

/-- A call at a port whose engine is awake: taken, it runs whole. -/
theorem State.TakesCall.runs (h : s.TakesCall n op hd b) (hg : s.callGated b.data = none) (ho : ∀ l, s.shutAt l = false) :
    ∃ s1, s.CallTaken n hd s1 ∧
      let s3 := s1.callLeft n (s.uid + 1) hd.cls.toNat (s.portLch n) pick b.data
      s.portCall n op pick hd b = if s3.jobs.any fun j => j.own == ownCall n && j.uid == s.uid + 1 then s3 else s3.release n (s.uid + 1) := by
  obtain ⟨lch, k, pools, cnts, free, hf⟩ := h.uncall.first
  have ho1 : ∀ l, ((s.uncall n).withCall n hd lch k pools cnts free).shutAt l = false := ho
  refine ⟨_, (h.uncall.taken lch k pools cnts free
    (((s.uncall n).withCall n hd lch k pools cnts free).executor ((callDec b.data).ctx / 262144))).of_uncall, ?_⟩
  rw [h.portCall_awake hg ho, hf, State.runCall_open ho1]
  rfl


/-! ### A call as a node -/

variable {x k i : Nat}

/-- The checks of an engine with no source armed find nothing. -/
theorem State.engCheck_unarmed (hu : s.unarmed (.harness x)) (hl : s.engLost x = false) : s.engCheck x = (true, s) := by
  have h0 := s.check_unarmed (.harness x) 0 hu
  have h1 := s.check_unarmed (.harness x) 1 hu
  simp only [State.engCheck, h0, h1, hl, Bool.not_false]

theorem State.readyNode_engLost {ty : Nat} (h : s.readyNode x k i ty = true) : s.engLost x = false := by
  simp only [State.readyNode, Bool.and_eq_true, Bool.not_eq_true'] at h
  exact h.1.1.1.1.1.2

/-- A READY node of an engine that dispatches now runs from its checked parameters (R321). -/
theorem State.dispatchOne_ready {ty m : Nat} {s2 : State} {run : State → Nat → State} (hr : s.readyNode x k i ty = true)
    (he : s.EngineFree x) :
    let s1 := ({ s with acc := [] } : State).startOne x k i
    s1.ask (s1.params x k i) = (.ok m, s2) →
    s.dispatchOne x k i ty run =
      { (run (s2.onNode x k i fun nd => { nd with par := BitVec.ofNat 1024 m }) m).settleAcc (ownHar x) (s.node x k i).cls none with acc := s.acc } := by
  intro s1 ha
  have hw : ((none : Option Nat).isNone && s.working (ownHar x)) = false := by rw [he.done]; rfl
  have hc : State.engCheck { s with acc := [] } x = (true, { s with acc := [] }) :=
    State.engCheck_unarmed (s := { s with acc := [] }) he.unarmed (State.readyNode_engLost hr)
  have hs1 : State.startOne { s with acc := [] } x k i = s1 := rfl
  simp only [State.dispatchOne, hr, Bool.not_true, Bool.false_eq_true, if_false, State.agent_open _ hw he.opened, hc, hs1, ha]

/-- How a PAGE node without a result address ends (R313). -/
theorem State.runPageNode_eq {pick m : Nat} {b : Block} {s4 : State} (hn : s.ask (s.nodeCall x k m) = (.ok b, s4)) (hm : nf m 0x68 0 1 = 0) :
    let r := s4.pageCall (0x200 + x) (s4.node x k i).cls (callDec b).origin pick b
    let held := (callDec b).op = 7 ∧ r.1.1 = cOK ∧ r.1.2.1 ≠ 0
    let done := (r.1.1 = cOK ∧ ¬ held) ∨ ((callDec b).op = 7 ∧ r.1.1 = cBROKEN)
    s.runPageNode x k i pick m = r.2.endNode x k i (if done then .done else .failed) (if held then cBAD else r.1.1) r.1.2.1 := by
  intro r held done
  have e : s.runPageNode x k i pick m =
      if (callDec b).op == 7 && r.1.1 = cOK && r.1.2.1 != 0 then r.2.endNode x k i .failed cBAD r.1.2.1
      else if r.1.1 = cOK || ((callDec b).op == 7 && r.1.1 = cBROKEN) then r.2.endNode x k i .done r.1.1 r.1.2.1
      else r.2.endNode x k i .failed r.1.1 r.1.2.1 := by
    simp only [State.runPageNode, hn, hm]
    rfl
  rw [e]
  by_cases hheld : held
  · have hd : ¬ done := by
      rintro (⟨-, hh⟩ | ⟨-, hb⟩)
      · exact hh hheld
      · exact absurd (hheld.2.1.symm.trans hb) (by decide)
    obtain ⟨h7, hok, hd0⟩ := hheld
    rw [if_pos (by simp [h7, hok, hd0]), if_neg hd, if_pos ⟨h7, hok, hd0⟩]
  · rw [if_neg (by simpa [held, and_assoc] using hheld), if_neg hheld]
    by_cases hdone : done
    · rw [if_pos (by
        rcases hdone with ⟨hok, -⟩ | ⟨h7, hb⟩
        · simp [hok]
        · simp [h7, hb]), if_pos hdone]
    · rw [if_neg (by simpa [done, hheld] using hdone), if_neg hdone]

/-! ### The eleven operations -/

/-- The rows of the page operations: the command, the operation it names and its free choice (R281). -/
def pageRows (src : PageSrc) (pick : Nat) : List (Instr × Nat × Nat) :=
  [(.create src, 1, 0), (.append src pick, 2, pick), (.commit src, 3, 0), (.fork src pick, 4, pick), (.trim src pick, 5, pick),
    (.release src, 6, 0), (.lock src, 7, 0), (.unlock src, 8, 0), (.query src, 9, 0), (.patch src pick, 0x0A, pick), (.cold src, 0x0B, 0)]

theorem exec_pageRow (s : State) {src : PageSrc} {c : Instr} (h : (c, op, pick) ∈ pageRows src pick) : exec c s = pageOp op src pick s := by
  simp only [pageRows, List.mem_cons, Prod.mk.injEq, List.not_mem_nil, or_false, and_true] at h
  rcases h with ⟨rfl, rfl, rfl⟩ | ⟨rfl, rfl⟩ | ⟨rfl, rfl, rfl⟩ | ⟨rfl, rfl⟩ | ⟨rfl, rfl⟩ | ⟨rfl, rfl, rfl⟩ | ⟨rfl, rfl, rfl⟩ | ⟨rfl, rfl, rfl⟩ |
    ⟨rfl, rfl, rfl⟩ | ⟨rfl, rfl⟩ | ⟨rfl, rfl, rfl⟩ <;> rfl

theorem exec_portCall {c : Instr} (hc : (c, op, pick) ∈ pageRows (.port n hd b) pick) (hn : n < 128) :
    exec c s = .next (s.portCall n op pick hd b) :=
  (exec_pageRow s hc).trans (if_pos hn)

theorem exec_nodeCall {c : Instr} {m : Nat} (hc : (c, op, pick) ∈ pageRows (.node x k i) pick) (hm : resGet (s.params x k i) = .ok m)
    (hop : nf m 0x20 0 8 = op) (hg : s.callGated (BitVec.ofNat 512 (nf m 0x20 0 512)) = none) :
    exec c s = .next (s.dispatchOne x k i tPAGE fun s n => s.runPageNode x k i pick n) := by
  rw [exec_pageRow s hc]
  simp only [pageOp, hm, hg, hop, Option.isSome_none, Bool.false_eq_true, if_false, if_true]

/-- Settles O47: at a port the call is taken and runs, or waits for its gated engine; as a node it runs with the engine as owner. -/
theorem pageCalls : Obligations.PageCalls := by
  unfold Obligations.PageCalls
  refine ⟨fun s n op pick hd b c hwf hc hoff hidle hpool htag hlast hhdr hchk hop => ?_,
    fun s x k i op pick m m' s2 s4 c b hwf hc hr he hm hop hg ha hz hn => ?_⟩
  · have h : s.TakesCall n op hd b := ⟨hwf, hoff, hidle, hpool, htag, hlast, hhdr, hchk, hop⟩
    have hexec := exec_portCall (s := s) hc hoff.isPort
    refine ⟨fun hg ho => ?_, fun y hg => ⟨_, hexec.trans (congrArg _ (h.portCall_gated hg)), h.offered y⟩⟩
    obtain ⟨s1, ⟨hrest, hothers, hrsp, hidle1, htags⟩, hrun⟩ := h.runs (pick := pick) hg ho
    have hacc : s1.acc = s.acc := by rw [hrest]
    refine ⟨s1, hrest, hothers, hrsp, hidle1, htags, ?_⟩
    rw [hexec, hrun, State.callLeft, hacc]
  · rw [exec_nodeCall hc hm hop hg, State.dispatchOne_ready hr he ha, State.runPageNode_eq hn hz]

end Sys2Proof.Machine
end

section
/-! SUPPORT. What the ledger of a fence or a reset leaves unchanged. -/
namespace Sys2Proof.Machine

/-! ### What work on requests, parts, nodes and slices leaves unchanged

The ledger of a fence or a reset answers, frees and aborts what its unit held. None of it touches a frame, the lost clocks or a
sector's holdover. -/

/-- t's frames, lost clocks and holdovers are those of s. -/
structure Kept (s t : State) : Prop where
  frames : t.frames = s.frames
  clkLost : t.mgmt.clkLost = s.mgmt.clkLost
  holdover : ∀ x, (t.sec x).holdover = (s.sec x).holdover

variable {s₀ s : State}

theorem Kept.refl (s : State) : Kept s s := ⟨rfl, rfl, fun _ => rfl⟩

/-- Every field but the frames, the management's and the sectors' may change. -/
theorem Kept.rest (h : Kept s₀ s)
    {pending : List Instr} {free uid hides : Nat} {build : Word} {dieSlope dieIcpt : Int} {expSig : SMap Dword} {image : Option Image}
    {cells : List Host.Cell} {bad : List (Nat × Nat)} {boot : Boot} {flash : Flash} {calRec retRec : List (List Byte)} {tack : Tack}
    {cnts : List Cnt} {ports : List Port} {ctls : List Ctl} {links : List Link} {awls : List Awl} {curs : List Cur}
    {pools : List Pool} {nets : List Net} {hars : List Har} {movs : List Mov} {jobs : List Job} {rhHeld : List Nat} {acc : List Acc}
    {pd : Pd} {seq : Seq} {safe : Safe} {tap : Tap} :
    Kept s₀ { s with
      pending := pending, free := free, uid := uid, hides := hides, build := build, dieSlope := dieSlope, dieIcpt := dieIcpt,
      expSig := expSig, image := image, cells := cells, bad := bad, boot := boot, flash := flash, calRec := calRec, retRec := retRec,
      tack := tack, cnts := cnts, ports := ports, ctls := ctls, links := links, awls := awls, curs := curs, pools := pools,
      nets := nets, hars := hars, movs := movs, jobs := jobs, rhHeld := rhHeld, acc := acc, pd := pd, seq := seq, safe := safe,
      tap := tap } :=
  ⟨h.frames, h.clkLost, h.holdover⟩

/-- The management's registers change, its lost clocks kept. -/
theorem Kept.setMgmt (h : Kept s₀ s) {m : Mgmt} (hm : m.clkLost = s.mgmt.clkLost := by rfl) : Kept s₀ { s with mgmt := m } :=
  ⟨h.frames, hm.trans h.clkLost, h.holdover⟩

/-- A sector's registers change, its holdover kept. -/
theorem Kept.setSec (h : Kept s₀ s) {x : Nat} {f : Sector → Sector}
    (hf : ∀ e, (f e).holdover = e.holdover := by exact fun _ => rfl) : Kept s₀ (s.onSec x f) :=
  ⟨h.frames, h.clkLost, fun y => (upd_getD_proj Sector.holdover hf).trans (h.holdover y)⟩

theorem Kept.ite {a b : State} {c : Prop} [Decidable c] (h : Kept s₀ a) (k : Kept s₀ b) : Kept s₀ (if c then a else b) := by
  split <;> assumption

theorem Kept.iteSnd {α : Type} {a b : α × State} {c : Prop} [Decidable c] (h : Kept s₀ a.2) (k : Kept s₀ b.2) :
    Kept s₀ (if c then a else b).2 := by
  split <;> assumption

/-- The state of an answer, or s where there is none. -/
theorem Kept.getDSnd {α : Type} (h : Kept s₀ s) {o : Option (α × State)} (ho : ∀ {k t}, o = some (k, t) → Kept s₀ t) :
    Kept s₀ ((o.map (·.2)).getD s) := by
  cases o with
  | none => exact h
  | some r => exact ho rfl

theorem Kept.foldl {α : Type} (h : Kept s₀ s) {l : List α} {f : State → α → State} (hf : ∀ {t a}, Kept s₀ t → Kept s₀ (f t a)) :
    Kept s₀ (l.foldl f s) :=
  List.foldlRecOn _ _ h fun _ ht _ _ => hf ht

/-- The state a call answers with, once its answer is taken apart by e. -/
theorem Kept.snd_eq {α : Type} {x y : α × State} (h : Kept s₀ x.2) (e : x = y) : Kept s₀ y.2 := e ▸ h

theorem Kept.openGran (h : Kept s₀ s) {p g : Nat} : Kept s₀ (s.openGran p g) := .ite h.rest.rest h

theorem Kept.poke1 (h : Kept s₀ s) {p x : Nat} {b : Block} : Kept s₀ (s.poke1 p x b) := h.openGran.rest.rest.rest

theorem Kept.poke (h : Kept s₀ s) {p x : Nat} {b : Block} : Kept s₀ (s.poke p x b) := by
  unfold State.poke
  split
  · exact h.poke1.poke1
  · exact h.poke1

theorem Kept.touchRd (h : Kept s₀ s) {a origin n : Nat} : Kept s₀ (s.touchRd a origin n) := by
  induction n generalizing s a with
  | zero => exact h
  | succ n ih =>
    refine ih ?_
    split
    · exact h
    · exact h.rest

theorem Kept.memWrite (h : Kept s₀ s) {l x : Nat} {b : Block} : Kept s₀ (s.memWrite l x b).2 := by
  unfold State.memWrite
  split
  · exact h
  · exact .iteSnd h h.poke.rest

theorem Kept.paWrite (h : Kept s₀ s) {a origin : Nat} {b : Block} : Kept s₀ (s.paWrite a origin b).2 := by
  unfold State.paWrite
  split
  · exact h
  · exact h.memWrite

theorem Kept.paPatch (h : Kept s₀ s) {a origin : Nat} {bs : List Byte} : Kept s₀ (s.paPatch a origin bs).2 := by
  unfold State.paPatch
  split
  · exact .iteSnd h.paWrite h

theorem Kept.countX (h : Kept s₀ s) {u : UnitId} {code : Nat} {amt : Option Nat → Nat × Nat} {x0 x1 : Word} :
    Kept s₀ (s.countX u code amt x0 x1) :=
  .ite (h.foldl fun h' => .ite h' h'.rest) h

theorem Kept.count (h : Kept s₀ s) {u : UnitId} {code : Nat} {cls : Option Nat} {n : Nat} {x0 x1 : Option Word} :
    Kept s₀ (s.count u code cls n x0 x1) :=
  .ite h (.countX (.ite h.rest h))

theorem Kept.log (h : Kept s₀ s) {r : LogRec} : Kept s₀ (s.log r) := by
  unfold State.log
  exact .ite h.setMgmt.count (.ite h.setMgmt h.setMgmt)

theorem Kept.commit (h : Kept s₀ s) {s0 : State} {us : List UnitId} : Kept s₀ (s.commit s0 us) := .ite h h.rest

theorem Kept.logPoison (h : Kept s₀ s) {p g source req count : Nat} : Kept s₀ (s.logPoison p g source req count) := h.log.rest

theorem Kept.freeSlot (h : Kept s₀ s) {k : Slot} : Kept s₀ (s.freeSlot k) := .ite h h.rest

theorem Kept.freeSlots (h : Kept s₀ s) {l : List Slot} : Kept s₀ (s.freeSlots l) := h.foldl (·.freeSlot)

theorem Kept.onReq (h : Kept s₀ s) {n uid : Nat} {f : Req → Req} : Kept s₀ (s.onReq n uid f) := .ite h.rest (.ite h h.rest)

theorem Kept.noteBad (h : Kept s₀ s) {n : Nat} {code : BitVec 4} : Kept s₀ (s.noteBad n code) := .ite h.rest h

theorem Kept.pushAck (h : Kept s₀ s) {n : Nat} {a : Ack} : Kept s₀ (s.pushAck n a) := h.rest.noteBad

theorem Kept.pushBeat (h : Kept s₀ s) {n : Nat} {b : RspBeat} : Kept s₀ (s.pushBeat n b) := h.rest.noteBad

theorem Kept.putAns (h : Kept s₀ s) {n : Nat} {a : Ans} : Kept s₀ (s.putAns n a) := by
  unfold State.putAns
  split
  · exact h.pushBeat
  · exact h.pushAck

theorem Kept.sendAns (h : Kept s₀ s) {n : Nat} {r : Req} {a : Ans} : Kept s₀ (s.sendAns n r a) := .ite h.rest h.putAns

theorem Kept.noteEnd (h : Kept s₀ s) {n uid : Nat} {code : BitVec 4} : Kept s₀ (s.noteEnd n uid code) := h.onReq

theorem Kept.finish (h : Kept s₀ s) {n uid : Nat} {code : BitVec 4} {detail : Nat} : Kept s₀ (s.finish n uid code detail) := by
  unfold State.finish
  split
  · exact h
  · exact .ite h h.noteEnd.sendAns

theorem Kept.finishData (h : Kept s₀ s) {n uid : Nat} {code : BitVec 4} {d : Block} : Kept s₀ (s.finishData n uid code d) := by
  unfold State.finishData
  split
  · exact h
  · exact .ite h (.ite h.finish h.onReq.sendAns)

theorem Kept.release (h : Kept s₀ s) {n uid : Nat} : Kept s₀ (s.release n uid) := by
  unfold State.release
  split
  · exact h.finishData
  · exact h

theorem Kept.jobDone (h : Kept s₀ s) {own uid : Nat} : Kept s₀ (s.jobDone own uid) := .ite (.ite h.rest.release h.rest) h.rest

theorem Kept.settleAcc (h : Kept s₀ s) {own cls : Nat} {uid : Option Nat} : Kept s₀ (s.settleAcc own cls uid) := by
  unfold State.settleAcc
  extract_lets l s1 s2 u s3
  have h1 : Kept s₀ s1 := h.rest
  have h2 : Kept s₀ s2 := .ite h1.rest h1
  have h3 : Kept s₀ s3 := h2.rest
  refine .ite h1 ?_
  refine h3.foldl fun h' => ?_
  split
  · extract_lets w
    exact h'.rest

theorem Kept.posted (h : Kept s₀ s) {α : Type} {own cls : Nat} {f : State → α × State} (hf : ∀ {t}, Kept s₀ t → Kept s₀ (f t).2) :
    Kept s₀ (State.posted s own cls f).2 := by
  unfold State.posted
  split
  next e =>
    exact ((hf h.rest).snd_eq e).settleAcc.rest

theorem Kept.checkEnd (h : Kept s₀ s) {n uid : Nat} : Kept s₀ (s.checkEnd n uid) := by
  unfold State.checkEnd
  split
  · exact h
  · exact .ite h.finish h

theorem Kept.blocksDone (h : Kept s₀ s) {n uid k : Nat} : Kept s₀ (s.blocksDone n uid k) := .ite h.jobDone h.onReq.checkEnd

theorem Kept.recallAns (h : Kept s₀ s) {n uid : Nat} : Kept s₀ (s.recallAns n uid) := .ite h h.rest.onReq

theorem Kept.finishHome (h : Kept s₀ s) {n uid : Nat} {code : BitVec 4} : Kept s₀ (s.finishHome n uid code) := by
  unfold State.finishHome
  extract_lets s1
  have h1 : Kept s₀ s1 := h.recallAns
  split
  · exact h1
  · exact .ite h1 h1.noteEnd.putAns

theorem Kept.endWhere (h : Kept s₀ s) {pick : Nat → Req → Bool} {code : BitVec 4} : Kept s₀ (s.endWhere pick code) :=
  h.foldl fun h' => h'.foldl (·.finishHome)

theorem Kept.endPort (h : Kept s₀ s) {n : Nat} {code : BitVec 4} : Kept s₀ (s.endPort n code) := h.endWhere

theorem Kept.walkNext (h : Kept s₀ s) : Kept s₀ (s.walkNext) := by
  unfold State.walkNext
  extract_lets b go s1
  have h1 : Kept s₀ s1 := h.rest
  split
  · exact h.rest
  · exact h1.rest

theorem Kept.sliceNext (h : Kept s₀ s) : Kept s₀ (s.sliceNext) := .ite h.rest.rest h.rest.walkNext

theorem Kept.sliceLost (h : Kept s₀ s) : Kept s₀ (s.sliceLost) := .ite h.rest h.rest.rest.rest.walkNext

theorem Kept.sliceUnhold (h : Kept s₀ s) : Kept s₀ (s.sliceUnhold) := by
  unfold State.sliceUnhold
  split
  · exact h.rest
  · exact h

theorem Kept.sliceEnd (h : Kept s₀ s) {result reached : Nat} : Kept s₀ (s.sliceEnd result reached) := by
  unfold State.sliceEnd
  extract_lets s1 ran s2
  have h1 : Kept s₀ s1 := h.sliceUnhold.rest
  have h2 : Kept s₀ s2 := h1.rest.rest.rest.rest
  split
  · exact h1.rest.rest.sliceNext
  · exact .ite h2.sliceNext h2.rest
  · exact h1.rest.rest.sliceLost
  · exact h1.rest.sliceLost
  · exact h1.rest.sliceLost

theorem Kept.sliceCut (h : Kept s₀ s) : Kept s₀ (s.sliceCut) := by
  unfold State.sliceCut
  extract_lets b
  refine .ite ?_ ?_
  · split
    next e =>
      exact (h.rest.snd_eq e).rest
  · exact h

theorem Kept.sliceBreak (h : Kept s₀ s) {pick : UnitId → Bool} : Kept s₀ (s.sliceBreak pick) := .ite h.sliceCut.sliceEnd h

theorem Kept.firstWrite (h : Kept s₀ s) {p off : Nat} : Kept s₀ (s.firstWrite p off) := .ite h.openGran.rest.count h

theorem Kept.floorSlot (h : Kept s₀ s) {p part : Nat} {k : Slot} {t : State} (e : s.floorSlot p part = some (k, t)) : Kept s₀ t := by
  unfold State.floorSlot at e
  extract_lets k at e
  split at e
  · cases e
    exact h.rest
  · cases e

theorem Kept.mirrorPut (h : Kept s₀ s) {p off : Nat} {b : Block} : Kept s₀ (s.mirrorPut p off b) := by
  unfold State.mirrorPut
  split
  · exact h
  · exact (h.firstWrite.rest.getDSnd h.firstWrite.rest.floorSlot).rest

theorem Kept.discardGran (h : Kept s₀ s) {p g : Nat} : Kept s₀ (s.discardGran p g) :=
  h.freeSlots.rest.rest.foldl fun h' => .ite h'.freeSlots.blocksDone h'.freeSlots

theorem Kept.markGran (h : Kept s₀ s) {p g v : Nat} : Kept s₀ (s.markGran p g v) := by
  unfold State.markGran
  extract_lets s1
  have h1 : Kept s₀ s1 := h.discardGran.rest
  split
  · exact h1.discardGran.rest
  · exact h1

theorem Kept.poisonGran (h : Kept s₀ s) {p g : Nat} : Kept s₀ (s.poisonGran p g) := h.markGran

theorem Kept.unheld (h : Kept s₀ s) {p : Nat} : Kept s₀ (s.unheld p) := h.foldl fun h' => .ite h' h'.rest.mirrorPut.blocksDone

theorem Kept.answerSub (h : Kept s₀ s) {x : Nat} {sub : Sub} {code : BitVec 4} {slot : Nat} :
    Kept s₀ (s.answerSub x sub code slot) := by
  unfold State.answerSub
  split
  · exact h.onReq.finish
  · exact h.rest

theorem Kept.takeSlot (h : Kept s₀ s) {x k : Nat} {sub : Sub} : Kept s₀ (s.takeSlot x k sub) := h.rest.rest.answerSub.count

theorem Kept.serveSubs (h : Kept s₀ s) {x n : Nat} : Kept s₀ (s.serveSubs x n) := by
  induction n generalizing s with
  | zero => exact h
  | succ n ih =>
    unfold State.serveSubs
    refine .ite h ?_
    split
    · exact .ite h (ih h.rest.takeSlot)
    · exact h

theorem Kept.closeSlot (h : Kept s₀ s) {x k : Nat} : Kept s₀ (s.closeSlot x k) := by
  unfold State.closeSlot
  extract_lets l
  split
  next e =>
    extract_lets ok s1 s2 s3
    have h1 : Kept s₀ s1 := by
      unfold s1
      refine .ite ?_ ?_
      · exact (Kept.iteSnd (h.posted (·.paWrite)) h).snd_eq e
      · exact ((Kept.iteSnd (h.posted (·.paWrite)) h).snd_eq e).rest
    have h2 : Kept s₀ s2 := .ite h1.rest h1
    have h3 : Kept s₀ s3 := .ite h2.rest h2
    exact h3.rest.serveSubs

theorem Kept.putEntry (h : Kept s₀ s) {x k i : Nat} : Kept s₀ (s.putEntry x k i).2 := .iteSnd h (h.posted (·.paPatch))

theorem Kept.sweep (h : Kept s₀ s) {x k : Nat} {all : Bool} : Kept s₀ (s.sweep x k all) :=
  ((h.foldl (·.rest)).foldl fun h' => h'.foldl fun h'' => .ite h''.rest h'').foldl (·.putEntry)

theorem Kept.settleSlot (h : Kept s₀ s) {x k : Nat} : Kept s₀ (s.settleSlot x k) := .ite h.rest h

theorem Kept.failHarness (h : Kept s₀ s) {x k : Nat} {who : Option Nat} {code : BitVec 4} {detail : Nat} :
    Kept s₀ (s.failHarness x k who code detail) :=
  .sweep (.rest (.ite h h.rest))

theorem Kept.writeEntry (h : Kept s₀ s) {x k i : Nat} : Kept s₀ (s.writeEntry x k i) := by
  unfold State.writeEntry
  split
  next e =>
    exact .ite (h.putEntry.snd_eq e) (h.putEntry.snd_eq e).failHarness

theorem Kept.endNode (h : Kept s₀ s) {x k i : Nat} {st : NodeSt} {code : BitVec 4} {detail : Nat} :
    Kept s₀ (s.endNode x k i st code detail) := by
  unfold State.endNode
  extract_lets n s1 s2 s3 s4 all s5
  have h1 : Kept s₀ s1 := h.rest
  have h2 : Kept s₀ s2 := h1.writeEntry
  have h3 : Kept s₀ s3 := .ite h2.count (.ite h2.count h2)
  have h4 : Kept s₀ s4 := .ite h3.failHarness h3
  have h5 : Kept s₀ s5 := h4.foldl fun h' => .ite h'.rest h'
  exact h5.settleSlot

theorem Kept.queuePart (h : Kept s₀ s) {q : Part} {k : Nat} {t : State} (e : s.queuePart q = some (k, t)) : Kept s₀ t := by
  unfold State.queuePart at e
  repeat' split at e
  all_goals cases e
  · exact h.rest
  · exact h.rest

theorem Kept.partEnded (h : Kept s₀ s) {x k i part : Nat} {code : BitVec 4} {detail : Nat} :
    Kept s₀ (s.partEnded x k i part code detail) := by
  unfold State.partEnded
  extract_lets s1 n
  have h1 : Kept s₀ s1 := h.rest
  refine .ite ?_ ?_
  · split
    · exact h1.endNode
    · exact h1.endNode
  · exact h1

theorem Kept.sendParts (h : Kept s₀ s) {x k i : Nat} {tmpl : Part} : Kept s₀ (s.sendParts x k i tmpl) := by
  unfold State.sendParts
  extract_lets n
  refine h.foldl fun h' => ?_
  refine .ite h'.partEnded (.ite h'.partEnded ?_)
  split
  · exact h'
  next e =>
    exact (h'.queuePart e).rest.count

theorem Kept.partLost (h : Kept s₀ s) {q : Part} : Kept s₀ (s.partLost q) := .ite h.rest.rest.sendParts h.partEnded

theorem Kept.orphanCtx (h : Kept s₀ s) {ctx : Nat} : Kept s₀ (s.orphanCtx ctx) := by
  unfold State.orphanCtx
  extract_lets base s1 a
  have h1 : Kept s₀ s1 := h.rest
  split
  · exact .ite (h1.posted (·.touchRd.paWrite)) h1

theorem Kept.orphan (h : Kept s₀ s) {owner : Nat} : Kept s₀ (s.orphan owner) := h.foldl (·.orphanCtx)

theorem Kept.abortCalls (h : Kept s₀ s) {x : Nat} : Kept s₀ (s.abortCalls x) := h.endWhere

theorem Kept.loseEngine (h : Kept s₀ s) {x : Nat} : Kept s₀ (s.loseEngine x) := by
  unfold State.loseEngine
  extract_lets s1 s2 s3 s4 waiting s5 s6
  have h1 : Kept s₀ s1 := h.abortCalls
  have h2 : Kept s₀ s2 := h1.rest
  have h3 : Kept s₀ s3 := h2.rest
  have h4 : Kept s₀ s4 := h3.orphan
  have h5 : Kept s₀ s5 := h4.rest
  have h6 : Kept s₀ s6 := h5.foldl (·.answerSub)
  refine h6.foldl fun h' => ?_
  extract_lets l s7 s8
  have h7 : Kept s₀ s7 := h'.rest
  have h8 : Kept s₀ s8 := .ite h' (h7.foldl fun h'' => .ite h'' h''.putEntry)
  exact .ite h' (.ite h8.rest h8.closeSlot)

theorem Kept.jobDoneN (h : Kept s₀ s) {own uid n : Nat} : Kept s₀ (s.jobDoneN own uid n) := by
  induction n generalizing s with
  | zero => exact h
  | succ n ih => exact ih h.jobDone

theorem Kept.abortAt (h : Kept s₀ s) {p : Nat} : Kept s₀ (s.abortAt p) := by
  unfold State.abortAt
  refine h.foldl fun h' => ?_
  split
  · exact .ite h'.jobDoneN (.ite h'.finish h')

theorem Kept.emptyCtl (h : Kept s₀ s) {p : Nat} : Kept s₀ (s.emptyCtl p) := h.freeSlots.rest

theorem Kept.recall (h : Kept s₀ s) {p : Nat} : Kept s₀ (s.recall p) := by
  unfold State.recall
  extract_lets lent s1 hides hit first num s2 s3 s4
  have h1 : Kept s₀ s1 := .ite h.rest h
  have h2 : Kept s₀ s2 := h1.foldl (·.poisonGran)
  have h3 : Kept s₀ s3 := by
    unfold s3
    split
    · exact h2.logPoison
    · exact h2
  have h4 : Kept s₀ s4 := h3.foldl (·.log)
  exact .ite h1 h4.rest.rest

theorem Kept.dropAwl (h : Kept s₀ s) {p : Nat} : Kept s₀ (s.dropAwl p) := by
  unfold State.dropAwl
  extract_lets a lost s1 s2
  have h1 : Kept s₀ s1 := h.rest
  have h2 : Kept s₀ s2 := h1.orphan
  exact h2.foldl (·.partLost)

theorem Kept.stopMovers (h : Kept s₀ s) {x : Nat} : Kept s₀ (s.stopMovers x) := by
  unfold State.stopMovers
  extract_lets busy s1
  have h1 : Kept s₀ s1 := h.rest
  exact h1.foldl (·.endNode)

theorem Kept.loseSpare (h : Kept s₀ s) {x : Nat} : Kept s₀ (s.loseSpare x) := by
  unfold State.loseSpare
  extract_lets e s1 s2
  have h1 : Kept s₀ s1 := by
    unfold s1
    split
    · exact h.recall
    · exact h
  have h2 : Kept s₀ s2 := h1.setSec
  split
  · exact h1.setSec
  · exact h1.setSec.unheld
  · split
    · exact h2.rest
    · exact h2
  · exact h1.setSec
  · exact h1

theorem Kept.stopLink (h : Kept s₀ s) {p : Nat} : Kept s₀ (s.stopLink p) := by
  unfold State.stopLink
  extract_lets l s1
  have h1 : Kept s₀ s1 := by
    unfold s1
    refine .ite ?_ ?_
    · split
      · exact h.rest
      · exact h
    · exact h
  exact h1.rest

theorem Kept.holeSector (h : Kept s₀ s) {x : Nat} : Kept s₀ (s.holeSector x) := h.loseSpare.setSec.rest

theorem Kept.cancelCopy (h : Kept s₀ s) {x : Nat} : Kept s₀ (s.cancelCopy x) := .ite h h.rest.setSec.unheld

theorem Kept.enterSelf (h : Kept s₀ s) {p : Nat} : Kept s₀ (s.enterSelf p) := .ite h h.rest

theorem Kept.clearLeaf (h : Kept s₀ s) {u : UnitId} {slice : Bool} : Kept s₀ (s.clearLeaf u slice) := by
  unfold State.clearLeaf
  split
  · extract_lets s1 ended
    have h1 : Kept s₀ s1 := by
      unfold s1
      split
      · exact h.rest
      · exact h
    exact h1.rest
  · exact h.rest
  · exact h.rest
  · exact h.rest
  · exact h.rest
  · exact h.rest
  · exact .ite h.rest h.rest
  · exact h.rest
  · exact h

theorem Kept.ledgerCtl (h : Kept s₀ s) {p : Nat} : Kept s₀ (s.ledgerCtl p) := by
  unfold State.ledgerCtl
  extract_lets lost s1 s2 s3 s4 held
  have h1 : Kept s₀ s1 := h.abortAt.emptyCtl
  have h2 : Kept s₀ s2 := h1.foldl (·.markGran.logPoison)
  have h3 : Kept s₀ s3 := by
    unfold s3
    split
    · exact h2.endPort.rest.orphan
    · exact h2
  have h4 : Kept s₀ s4 := by
    unfold s4
    split
    · exact h3.rest
    · exact h3
  exact .ite h4.rest h4

theorem Kept.ledgerPool (h : Kept s₀ s) {x : Nat} : Kept s₀ (s.ledgerPool x) := by
  unfold State.ledgerPool
  extract_lets mine waiting ops hit s1 drop work entry
  have h1 : Kept s₀ s1 := h.endWhere
  exact h1.rest

theorem Kept.ledgerNet (h : Kept s₀ s) {x : Nat} : Kept s₀ (s.ledgerNet x) := h.rest.foldl (·.freeSlots.finishHome)
end Sys2Proof.Machine
end

section
/-! SUPPORT. Islands that gate and wake, a sector fenced, a reference clock lost, the end of a holdover. -/
namespace Sys2Proof.Machine

variable {s : State}

/-! ### Gating of islands (R17) -/

theorem islandGate_idle {u : UnitId} (hu : u.ok = true) (hr : s.isRunning = true) (hg : s.img.policy.gateUs ≠ 0)
    (hst : (s.fr u).st = .running) (hi : s.islandIdle u = true) :
    exec (.islandGate u) s = .next (s.onFr u fun f => { f with st := .gated }) := by
  show execIslandGate u s = _
  simp [execIslandGate, onUnit, hu, hr, hg, hst, hi]

theorem islandGate_off {u : UnitId} (hg : s.img.policy.gateUs = 0) : exec (.islandGate u) s = .next s := by
  show execIslandGate u s = _
  simp [execIslandGate, onUnit, hg]

theorem islandWake_work {u : UnitId} (hu : u.ok = true) (hst : (s.fr u).st = .gated) (hi : s.islandIdle u = false) :
    exec (.islandWake u) s = .next (s.onFr u fun f => { f with st := .running }) := by
  show execIslandWake u s = _
  simp [execIslandWake, onUnit, hu, hst, hi]

/-! ### A sector fenced (R391) -/

/-- The frame of a unit marked fenced. -/
def Frame.fence (f : Frame) : Frame := { f with fenced := true, st := if f.st = .resetting then .resetting else .fenced }

theorem Frame.fence_fence (f : Frame) : f.fence.fence = f.fence := by
  by_cases h : f.st = .resetting <;> simp [Frame.fence, h]

theorem State.markFenced_frames (s : State) (u : UnitId) : (s.markFenced u).frames = upd s.frames u.idx Frame.fence := by
  show upd (s.sliceBreak (· == u)).frames u.idx Frame.fence = _
  rw [(Kept.refl s).sliceBreak.frames]

/-- Marking units fenced keeps the lost clocks and the holdovers. -/
theorem State.foldl_markFenced (l : List UnitId) (s : State) :
    (l.foldl State.markFenced s).mgmt.clkLost = s.mgmt.clkLost ∧
      ∀ y, ((l.foldl State.markFenced s).sec y).holdover = (s.sec y).holdover := by
  induction l generalizing s with
  | nil => exact ⟨rfl, fun _ => rfl⟩
  | cons u l ih =>
    have k : Kept s (s.sliceBreak (· == u)) := (Kept.refl s).sliceBreak
    obtain ⟨hc, hh⟩ := ih (s.markFenced u)
    exact ⟨hc.trans k.clkLost, fun y => (hh y).trans (k.holdover y)⟩

/-- After its units are marked, what fencing a sector still does keeps the frames. -/
theorem State.fenceSector_kept {x : Nat} (hx : s.isFenced (.sector x) = false) :
    Kept ((UnitId.sector x).subtree.foldl State.markFenced s) (s.fenceSector x) := by
  unfold State.fenceSector
  rw [if_neg (by simp [hx])]
  extract_lets s1 ports s2 s3 s4 s5 s6 s7 s8 s9 s10 base s11 s12 s13 s14 s15
  have h3 : Kept s2 s3 := (Kept.refl s2).endWhere
  have h4 : Kept s2 s4 := h3.foldl fun h' => .stopLink (.ite h'.rest h'.abortAt.emptyCtl)
  have h5 : Kept s2 s5 := h4.holeSector
  have h6 : Kept s2 s6 := h5.freeSlots
  have h7 : Kept s2 s7 := h6.rest
  have h8 : Kept s2 s8 := h7.foldl (·.freeSlots.finishHome)
  have h9 : Kept s2 s9 := h8.rest
  have h10 : Kept s2 s10 := h9.foldl (·.rest)
  have h11 : Kept s2 s11 := .ite h10 h10.rest
  have h12 : Kept s2 s12 := h11.setSec
  have h13 : Kept s2 s13 := h12.loseEngine
  have h14 : Kept s2 s14 := h13.stopMovers
  have h15 : Kept s2 s15 := h14.foldl (·.dropAwl)
  exact h15.commit

/-- Fencing a sector keeps the lost clocks and the holdovers. -/
theorem State.fenceSector_clocks (s : State) (x : Nat) :
    (s.fenceSector x).mgmt.clkLost = s.mgmt.clkLost ∧ ∀ y, ((s.fenceSector x).sec y).holdover = (s.sec y).holdover := by
  by_cases hx : s.isFenced (.sector x) = true
  · rw [State.fenceSector, if_pos hx]
    exact ⟨rfl, fun _ => rfl⟩
  · have k := State.fenceSector_kept (x := x) (by simpa using hx)
    obtain ⟨hc, hh⟩ := State.foldl_markFenced (UnitId.sector x).subtree s
    exact ⟨k.clkLost.trans hc, fun y => (k.holdover y).trans (hh y)⟩

theorem State.fenceSector_src (s : State) (x : Nat) {u : UnitId} (hu : u.idx < s.frames.length) :
    ((s.fenceSector x).fr u).src = (s.fr u).src := by
  by_cases hx : s.isFenced (.sector x) = true
  · rw [State.fenceSector, if_pos hx]
  · rw [State.fr_of_frames (State.fenceSector_kept (by simpa using hx)).frames]
    by_cases hm : u.idx ∈ (UnitId.sector x).subtree.map UnitId.idx
    · exact (congrArg Frame.src (foldl_upd_mem State.markFenced_frames Frame.fence_fence hm s hu {})).trans rfl
    · exact congrArg Frame.src (foldl_upd_not_mem State.markFenced_frames hm s {})

theorem State.fenceSector_isFenced (s : State) {x : Nat} (hu : (UnitId.sector x).idx < s.frames.length) :
    (s.fenceSector x).isFenced (.sector x) = true := by
  by_cases hx : s.isFenced (.sector x) = true
  · rwa [State.fenceSector, if_pos hx]
  · rw [State.isFenced, State.fr_of_frames (State.fenceSector_kept (by simpa using hx)).frames,
      State.foldl_fr_mem State.markFenced_frames Frame.fence_fence hu (self_mem_subtree _)]
    rfl

/-! ### A reference clock lost (R394, R450) -/

/-- The state in which REF_LOST is found: clock x is noted lost, its sector holds over. -/
def clkNoted (s : State) (x : Nat) : State :=
  ({ s with mgmt := { s.mgmt with clkLost := s.mgmt.clkLost ||| ((1 : BitVec 8) <<< x) } } : State).onSec x fun e => { e with holdover := true }

theorem State.refLost_eq {x : Nat} (hx : s.mgmt.clkLost.getLsbD x = false) :
    s.refLost x = (((clkNoted s x).report (.network x) 1).fenceSector x).moveRef := by
  simp [State.refLost, hx, State.fault, clkNoted]

theorem State.moveRef_clkLost (s : State) : s.moveRef.mgmt.clkLost = s.mgmt.clkLost := by
  unfold State.moveRef
  dsimp only
  split
  · rfl
  · split <;> rfl

theorem State.moveRef_eq (s : State) : s.moveRef = { s with mgmt := s.moveRef.mgmt } := by
  unfold State.moveRef
  dsimp only
  split
  · rfl
  · split <;> rfl

theorem refClkLost_eq {x : Nat} (hx : x < 8) : exec (.refClkLost x) s = .next (s.refLost x) := by
  show execRefClkLost x s = _
  simp [execRefClkLost, onSect, hx]

/-- A clock found lost: it is noted, its sector holds over and is fenced, and REF_LOST latches unless masked or in reset. -/
theorem State.Wf.refLost_effect (h : s.Wf) {x : Nat} (hx : x < 8) (hl : s.mgmt.clkLost.getLsbD x = false) :
    (s.refLost x).mgmt.clkLost = s.mgmt.clkLost ||| ((1 : BitVec 8) <<< x) ∧ ((s.refLost x).sec x).holdover = true ∧
      (s.refLost x).isFenced (.sector x) = true ∧
      ((s.fr (.network x)).mask.getLsbD 1 = false → (s.fr (.network x)).st ≠ .resetting →
        ((s.refLost x).fr (.network x)).src.getLsbD 1 = true) := by
  set r := (clkNoted s x).report (.network x) 1 with hr
  obtain ⟨fs, cs, n, er, hlen, -⟩ := (clkNoted s x).report_rptOnly (.network x) 1
  have hfr : ∀ u : UnitId, u.ok = true → u.idx < r.frames.length := fun u hu => by
    rw [hr, er]
    exact hlen ▸ h.idx_lt hu
  have hsec : (UnitId.sector x).ok = true := by simp [UnitId.ok, hx]
  have hnet : (UnitId.network x).ok = true := by simp [UnitId.ok, hx]
  obtain ⟨hclk, hhold⟩ := r.fenceSector_clocks x
  rw [State.refLost_eq hl, ← hr]
  refine ⟨?_, ?_, ?_, fun hm hst => ?_⟩
  · rw [State.moveRef_clkLost, hclk, hr, er]
    rfl
  · rw [State.moveRef_eq]
    refine (hhold x).trans ?_
    rw [hr, er]
    exact congrArg Sector.holdover (upd_getD_self _ _ _ _ (by simpa [h.sectors] using hx))
  · rw [State.moveRef_eq]
    exact r.fenceSector_isFenced (hfr _ hsec)
  · rw [State.moveRef_eq]
    refine (congrArg (·.getLsbD 1) (r.fenceSector_src x (hfr _ hnet))).trans ?_
    exact (clkNoted s x).report_latches _ _ (h.idx_lt hnet) (by decide) hm hst

/-! ### The end of the holdover (R100) -/

/-- A port whose clocks have stopped. -/
def Port.down (q : Port) : Port :=
  { q with up := false, clkOn := false, tags := [], rsp := [], ackQ := [], ackPin := none, openW := none, stalled := false }

theorem State.foldl_onPort_mem {f : Port → Port} (hf : ∀ q, f (f q) = f q) {l : List Nat} {n : Nat} (hn : n < s.ports.length) (h : n ∈ l) :
    (l.foldl (fun s n => s.onPort n f) s).port n = f (s.port n) :=
  foldl_upd_mem (tab := State.ports) (step := fun s n => s.onPort n f) (ix := id) (fun _ _ => rfl) hf (by simpa using h) s hn {}

theorem State.foldl_onPort_not_mem {f : Port → Port} {l : List Nat} {n : Nat} (h : n ∉ l) :
    (l.foldl (fun s n => s.onPort n f) s).port n = s.port n :=
  foldl_upd_not_mem (tab := State.ports) (step := fun s n => s.onPort n f) (ix := id) (fun _ _ => rfl) (by simpa using h) s {}

theorem State.foldl_onPort_eq (f : Port → Port) (l : List Nat) (s : State) :
    l.foldl (fun s n => s.onPort n f) s = { s with ports := (l.foldl (fun s n => s.onPort n f) s).ports } := by
  induction l generalizing s with
  | nil => rfl
  | cons n l ih => exact ih _

/-- The ports of sector x. -/
def State.portsOf (s : State) (x : Nat) : List Nat := (List.range 128).filter fun n => secOf (s.portPhys n) == x

theorem State.mem_portsOf {x n : Nat} : n ∈ s.portsOf x ↔ n < 128 ∧ secOf (s.portPhys n) = x := by
  simp [State.portsOf]

theorem State.all_portsOf {x : Nat} : (s.portsOf x).all (fun n => (s.port n).answered) = true ↔
    ∀ n < 128, secOf (s.portPhys n) = x → (s.port n).answered = true := by
  simp only [List.all_eq_true, State.mem_portsOf, and_imp]

theorem State.endHoldover_of_answered {x : Nat} (hh : (s.sec x).holdover = true)
    (ha : ∀ n < 128, secOf (s.portPhys n) = x → (s.port n).answered = true) :
    s.endHoldover x =
      ((s.portsOf x).foldl (fun s n => s.onPort n Port.down) s).onSec x fun e => { e with holdover := false, clkStop := true } := by
  show (if !((s.sec x).holdover && (s.portsOf x).all fun n => (s.port n).answered) then s else _) = _
  rw [if_neg (by simpa [hh] using State.all_portsOf.2 ha)]
  rfl

theorem State.endHoldover_of_waiting {x : Nat}
    (h : (s.sec x).holdover = false ∨ ∃ n < 128, secOf (s.portPhys n) = x ∧ (s.port n).answered = false) : s.endHoldover x = s := by
  have hall : ((s.sec x).holdover && (s.portsOf x).all fun n => (s.port n).answered) = false := by
    rcases h with h | ⟨n, hn, hx, ha⟩
    · simp [h]
    · rw [Bool.and_eq_false_iff, List.all_eq_false]
      exact .inr ⟨n, State.mem_portsOf.2 ⟨hn, hx⟩, by simp [ha]⟩
  show (if !((s.sec x).holdover && (s.portsOf x).all fun n => (s.port n).answered) then s else _) = s
  rw [if_pos (by simp [hall])]

theorem holdoverEnd_eq {x : Nat} (hx : x < 8) : exec (.holdoverEnd x) s = .next (s.endHoldover x) := by
  show execHoldoverEnd x s = _
  simp [execHoldoverEnd, onSect, hx]

theorem State.Wf.endHoldover_effect (h : s.Wf) {x : Nat} (hx : x < 8) (hh : (s.sec x).holdover = true)
    (ha : ∀ n < 128, secOf (s.portPhys n) = x → (s.port n).answered = true) :
    let t := s.endHoldover x
    t = { s with ports := t.ports, sectors := t.sectors } ∧ (t.sec x).holdover = false ∧ (t.sec x).clkStop = true ∧
      (∀ n < 128, secOf (s.portPhys n) = x → (t.port n).up = false ∧ (t.port n).clkOn = false ∧
        (t.port n).tags = [] ∧ (t.port n).rsp = []) ∧
      (∀ n, secOf (s.portPhys n) ≠ x → t.port n = s.port n) ∧ ∀ y, y ≠ x → t.sec y = s.sec y := by
  intro t
  have ht : t = _ := State.endHoldover_of_answered hh ha
  have e := State.foldl_onPort_eq Port.down (s.portsOf x) s
  have hsec : t.sec x = { s.sec x with holdover := false, clkStop := true } := by
    rw [ht, e]
    exact upd_getD_self _ _ _ _ (by simpa [h.sectors] using hx)
  refine ⟨?_, ?_, ?_, fun n hn hp => ?_, fun n hp => ?_, fun y hy => ?_⟩
  · rw [ht, e]
    rfl
  · rw [hsec]
  · rw [hsec]
  · have hd : t.port n = (s.port n).down := by
      rw [ht, State.port_onSec]
      exact State.foldl_onPort_mem (f := Port.down) (fun _ => rfl) (by simpa [h.ports] using hn) (State.mem_portsOf.2 ⟨hn, hp⟩)
    rw [hd]
    exact ⟨rfl, rfl, rfl, rfl⟩
  · rw [ht, State.port_onSec]
    exact State.foldl_onPort_not_mem fun hm => hp (State.mem_portsOf.1 hm).2
  · rw [ht, State.sec_onSec_ne _ _ _ _ hy, e]
    rfl

/-- Settles O55: gating and waking each change one frame; a lost clock notes itself before its sector is fenced; the holdover ends in one
pass over the sector's ports. -/
theorem islandsAndClocks : Obligations.IslandsAndClocks := by
  unfold Obligations.IslandsAndClocks
  refine ⟨fun s u h hu _ => ⟨fun hr hg hst hi => ?_, fun hst hi => ?_, islandGate_off⟩,
    fun s x h hx => ⟨fun hl => ?_, fun hl => ?_, fun hh ha => ?_, fun hw => ?_⟩⟩
  · exact ⟨_, islandGate_idle hu hr hg hst hi, rfl, s.fr_onFr u _ (h.idx_lt hu), fun w hw hne => State.fr_onFr_other hu hw hne _⟩
  · exact ⟨_, islandWake_work hu hst hi, rfl, s.fr_onFr u _ (h.idx_lt hu), fun w hw hne => State.fr_onFr_other hu hw hne _⟩
  · exact ⟨_, refClkLost_eq hx, h.refLost_effect hx hl⟩
  · rw [refClkLost_eq hx, State.refLost, if_pos hl]
  · exact ⟨_, holdoverEnd_eq hx, h.endHoldover_effect hx hh ha⟩
  · rw [holdoverEnd_eq hx, State.endHoldover_of_waiting hw]

end Sys2Proof.Machine
end

section
/-! SUPPORT. What a submission served leaves unchanged. -/
namespace Sys2Proof.Machine

variable {s₀ s : State}

/-! ### What a submission served leaves unchanged

Slots are taken and submissions answered without a byte of memory, the management's registers or a port's holds. -/

/-- t's memory, management and holds are those of s. -/
structure Served (s t : State) : Prop where
  cells : t.cells = s.cells
  mgmt : t.mgmt = s.mgmt
  holds : ∀ n, (t.port n).holds = (s.port n).holds

theorem Served.refl (s : State) : Served s s := ⟨rfl, rfl, fun _ => rfl⟩

/-- The controllers', networks', engines', movers' and counters' registers may change. -/
theorem Served.rest (h : Served s₀ s) {free : Nat} {cnts : List Cnt} {ctls : List Ctl} {nets : List Net} {hars : List Har} {movs : List Mov} :
    Served s₀ { s with free := free, cnts := cnts, ctls := ctls, nets := nets, hars := hars, movs := movs } :=
  ⟨h.cells, h.mgmt, h.holds⟩

/-- A port changes, its holds kept. -/
theorem Served.setPort (h : Served s₀ s) {n : Nat} {f : Port → Port} (hf : ∀ q, (f q).holds = q.holds := by exact fun _ => rfl) :
    Served s₀ (s.onPort n f) :=
  ⟨h.cells, h.mgmt, fun m => (upd_getD_proj Port.holds hf).trans (h.holds m)⟩

theorem Served.ite {a b : State} {c : Prop} [Decidable c] (h : Served s₀ a) (k : Served s₀ b) : Served s₀ (if c then a else b) := by
  split <;> assumption

theorem Served.count (h : Served s₀ s) {u : UnitId} {code : Nat} {cl : Option Nat} {n : Nat} {x0 x1 : Option Word} :
    Served s₀ (s.count u code cl n x0 x1) := by
  rw [State.count_eq]
  exact h.rest

theorem Served.onReq (h : Served s₀ s) {n uid : Nat} {f : Req → Req} : Served s₀ (s.onReq n uid f) := .ite h.setPort (.ite h h.rest)

theorem Served.noteBad (h : Served s₀ s) {n : Nat} {code : BitVec 4} : Served s₀ (s.noteBad n code) := .ite h.rest h

theorem Served.putAns (h : Served s₀ s) {n : Nat} {a : Ans} : Served s₀ (s.putAns n a) := by
  cases a with
  | beat b => exact h.setPort.noteBad
  | ack a => exact h.setPort.noteBad

theorem Served.sendAns (h : Served s₀ s) {n : Nat} {r : Req} {a : Ans} : Served s₀ (s.sendAns n r a) := .ite h.rest h.putAns

theorem Served.finish (h : Served s₀ s) {n uid : Nat} {code : BitVec 4} {detail : Nat} : Served s₀ (s.finish n uid code detail) := by
  unfold State.finish
  split
  · exact h
  · exact .ite h h.onReq.sendAns

theorem Served.answerSub (h : Served s₀ s) {x : Nat} {sub : Sub} {code : BitVec 4} {slot : Nat} : Served s₀ (s.answerSub x sub code slot) := by
  unfold State.answerSub
  split
  · exact h.onReq.finish
  · exact h.rest

theorem Served.takeSlot (h : Served s₀ s) {x k : Nat} {sub : Sub} : Served s₀ (s.takeSlot x k sub) :=
  .count (.answerSub (.rest h.rest))

theorem Served.serveSubs (h : Served s₀ s) {x n : Nat} : Served s₀ (s.serveSubs x n) := by
  induction n generalizing s with
  | zero => exact h
  | succ n ih =>
    unfold State.serveSubs
    refine .ite h ?_
    split
    · exact .ite h (ih (.takeSlot h.rest))
    · exact h

/-- An engine with no submission waiting serves none. -/
theorem State.serveSubs_none {x : Nat} (h : (s.har x).waitQ = []) (n : Nat) : s.serveSubs x n = s := by
  cases n with
  | zero => rfl
  | succ n =>
    unfold State.serveSubs
    simp [h]

end Sys2Proof.Machine
end

section
/-! SUPPORT. A write of FRAME_CTRL: what its counters' part, a quiesce, a resume and a reset each make of the frames. -/
namespace Sys2Proof.Machine

variable {s : State} {u w : UnitId} {v : Word}

/-! ### What every FRAME_CTRL write does: the counters of the unit and of everything beneath it -/

/-- The frame as cnt_freeze of a written word leaves it. -/
def Frame.cntCtrl (v : Word) (f : Frame) : Frame := { f with cntFreeze := v.getLsbD 4 }

/-- The counters of a frame cleared. -/
def Cnt.clear (c : Cnt) : Cnt :=
  { c with val := List.replicate 8 0, rsh := List.replicate 8 0, wsh := List.replicate 8 0 }

/-- The counters of unit w as the written word leaves them. -/
def State.cntCtrl1 (v : Word) (s : State) (w : UnitId) : State :=
  let s := s.onFr w (Frame.cntCtrl v)
  if v.getLsbD 5 then s.onCnt w.idx Cnt.clear else s

def State.cntCtrl (s : State) (u : UnitId) (v : Word) : State := u.subtree.foldl (State.cntCtrl1 v) s

theorem State.cntCtrl1_frames (v : Word) (s : State) (w : UnitId) :
    (s.cntCtrl1 v w).frames = upd s.frames w.idx (Frame.cntCtrl v) := by
  unfold State.cntCtrl1
  dsimp only
  split <;> rfl

theorem State.cntCtrl1_cnts (hv : v.getLsbD 5 = true) (s : State) (w : UnitId) : (s.cntCtrl1 v w).cnts = upd s.cnts w.idx Cnt.clear := by
  unfold State.cntCtrl1
  dsimp only
  rw [if_pos hv]
  rfl

/-- It changes frames and counters. -/
theorem State.cntCtrl_eq (s : State) (u : UnitId) (v : Word) :
    ∃ r c, s.cntCtrl u v = { s with frames := r, cnts := c } ∧ r.length = s.frames.length ∧ c.length = s.cnts.length := by
  unfold State.cntCtrl
  refine List.foldlRecOn (motive := fun t => ∃ r c, t = { s with frames := r, cnts := c } ∧ r.length = s.frames.length ∧
      c.length = s.cnts.length)
    _ _ ⟨_, _, rfl, rfl, rfl⟩ ?_
  rintro t ⟨r, c, rfl, hr, hc⟩ w -
  unfold State.cntCtrl1
  dsimp only
  split
  · exact ⟨_, _, rfl, (upd_length ..).trans hr, (upd_length ..).trans hc⟩
  · exact ⟨_, _, rfl, (upd_length ..).trans hr, hc⟩

theorem State.cntCtrl_fr (hw : w.idx < s.frames.length) (h : w ∈ u.subtree) : (s.cntCtrl u v).fr w = (s.fr w).cntCtrl v :=
  State.foldl_fr_mem (State.cntCtrl1_frames v) (fun _ => rfl) hw h

theorem State.cntCtrl_fr_other (hu : u.ok = true) (hw : w.ok = true) (h : w ∉ u.subtree) : (s.cntCtrl u v).fr w = s.fr w :=
  State.foldl_fr_not_mem (State.cntCtrl1_frames v) (fun _ hv => ok_of_mem_subtree hu hv) hw h

theorem State.cntCtrl_cnt (hv : v.getLsbD 5 = true) (hw : w.idx < s.cnts.length) (h : w ∈ u.subtree) :
    ((s.cntCtrl u v).cnt w.idx).val = List.replicate 8 0 :=
  congrArg Cnt.val (foldl_upd_mem (State.cntCtrl1_cnts hv) (fun _ => rfl) (List.mem_map_of_mem h) s hw {})

/-! ### Which write it is -/

/-- The unit is in reset, the reset is not keyed, or its type does not permit what is written (R28, R39, R398). -/
def State.ctrlRefused (s : State) (u : UnitId) (v : Word) : Bool :=
  (s.fr u).st = .resetting || (v.getLsbD 1 && !keyed v) || (v.getLsbD 1 && !u.canReset) || (v.getLsbD 0 && !u.canQuiesce)

theorem State.wFrameCtrl_eq (s : State) (u : UnitId) (v : Word) :
    s.wFrameCtrl u v =
      if s.ctrlRefused u v then s.reject u
      else if v.getLsbD 1 then (s.cntCtrl u v).startReset u
      else if v.getLsbD 0 then (s.cntCtrl u v).quiesceUnit u
      else (s.cntCtrl u v).resumeUnit u := rfl

theorem State.wFrameCtrl_quiesce (hst : (s.fr u).st ≠ .resetting) (hq : u.canQuiesce = true) (h0 : v.getLsbD 0 = true)
    (h1 : v.getLsbD 1 = false) : s.wFrameCtrl u v = (s.cntCtrl u v).quiesceUnit u := by
  have hr : s.ctrlRefused u v = false := by simp [State.ctrlRefused, hst, hq, h1, -BitVec.getLsbD_eq_getElem]
  simp only [State.wFrameCtrl_eq, hr, h0, h1, Bool.false_eq_true, if_true, if_false]

theorem State.wFrameCtrl_resume (hst : (s.fr u).st ≠ .resetting) (h0 : v.getLsbD 0 = false) (h1 : v.getLsbD 1 = false) :
    s.wFrameCtrl u v = (s.cntCtrl u v).resumeUnit u := by
  have hr : s.ctrlRefused u v = false := by simp [State.ctrlRefused, hst, h0, h1, -BitVec.getLsbD_eq_getElem]
  simp only [State.wFrameCtrl_eq, hr, h0, h1, Bool.false_eq_true, if_false]

theorem State.wFrameCtrl_reset (hst : (s.fr u).st ≠ .resetting) (hc : u.canReset = true) (h0 : v.getLsbD 0 = false)
    (h1 : v.getLsbD 1 = true) (hk : keyed v = true) : s.wFrameCtrl u v = (s.cntCtrl u v).startReset u := by
  have hr : s.ctrlRefused u v = false := by simp [State.ctrlRefused, hst, hc, h0, hk, -BitVec.getLsbD_eq_getElem]
  simp only [State.wFrameCtrl_eq, hr, h1, Bool.false_eq_true, if_true, if_false]

theorem State.wFrameCtrl_refused
    (h : (v.getLsbD 1 = true ∧ (keyed v = false ∨ u.canReset = false)) ∨ (v.getLsbD 0 = true ∧ u.canQuiesce = false)) :
    s.wFrameCtrl u v = s.reject u := by
  have hr : s.ctrlRefused u v = true := by
    unfold State.ctrlRefused
    rcases h with ⟨h1, h | h⟩ | ⟨h0, h⟩
    · rw [h1, h]; simp
    · rw [h1, h]; simp
    · rw [h0, h]; simp
  rw [State.wFrameCtrl_eq, if_pos hr]

/-! ### Quiesce -/

/-- The frame of a unit whose intake stops. -/
def Frame.stopIntake (f : Frame) : Frame :=
  if f.st = .resetting then f else { f with
    quiesce := true
    st := match f.st with
      | .running => .quiescing
      | .gated => .quiesced
      | t => t }

theorem Frame.stopIntake_stopIntake (f : Frame) : f.stopIntake.stopIntake = f.stopIntake := by
  cases h : f.st <;> simp [Frame.stopIntake, h]

theorem Frame.stopIntake_of_not_resetting {f : Frame} (h : f.st ≠ .resetting) : f.stopIntake.quiesce = true ∧
    f.stopIntake.st = (if f.st = .running then .quiescing else if f.st = .gated then .quiesced else f.st) := by
  cases e : f.st <;> simp_all [Frame.stopIntake]

theorem Frame.stopIntake_cntFreeze (f : Frame) : f.stopIntake.cntFreeze = f.cntFreeze := by
  unfold Frame.stopIntake
  split <;> rfl

/-- Every unit that takes quiesces stops its intake. -/
def State.stopIntake (s : State) (u : UnitId) : State := (u.subtree.filter quiescable).foldl State.quiesce1 s

theorem State.stopIntake_frames (s : State) (u : UnitId) : (s.quiesce1 u).frames = upd s.frames u.idx Frame.stopIntake := rfl

theorem State.foldl_quiesce1_eq (l : List UnitId) (s : State) :
    l.foldl State.quiesce1 s = { s with frames := (l.foldl State.quiesce1 s).frames } := by
  induction l generalizing s with
  | nil => rfl
  | cons u l ih => exact ih _

theorem State.stopIntake_eq (s : State) (u : UnitId) : s.stopIntake u = { s with frames := (s.stopIntake u).frames } :=
  State.foldl_quiesce1_eq _ s

theorem State.stopIntake_fr (hw : w.idx < s.frames.length) (h : w ∈ u.subtree) (hq : quiescable w = true) :
    (s.stopIntake u).fr w = (s.fr w).stopIntake :=
  State.foldl_fr_mem State.stopIntake_frames Frame.stopIntake_stopIntake hw (List.mem_filter.2 ⟨h, hq⟩)

theorem State.stopIntake_fr_other (hu : u.ok = true) (hw : w.ok = true) (h : w ∉ u.subtree ∨ quiescable w = false) :
    (s.stopIntake u).fr w = s.fr w := by
  refine State.foldl_fr_not_mem State.stopIntake_frames (fun v hv => ok_of_mem_subtree hu (List.mem_filter.1 hv).1) hw fun hm => ?_
  obtain ⟨hm, hq⟩ := List.mem_filter.1 hm
  rcases h with h | h
  · exact h hm
  · rw [hq] at h
    cases h

/-- The port with a hold among its own. -/
def Port.held (a : Hold) (q : Port) : Port := if q.holds.contains a then q else { q with holds := q.holds ++ [a] }

theorem Port.mem_held (a : Hold) (q : Port) : a ∈ (q.held a).holds := by
  unfold Port.held
  split
  next h => simpa using h
  next => simp

theorem Port.held_held (a : Hold) (q : Port) : (q.held a).held a = q.held a :=
  if_pos (List.contains_iff_mem.2 (q.mem_held a))

theorem State.holdFor_eq (s : State) (u : UnitId) (l : List Nat) :
    ∃ ports, s.holdFor u l = { s with ports := ports } ∧ ports.length = s.ports.length := by
  unfold State.holdFor
  refine List.foldlRecOn (motive := fun t => ∃ ports, t = { s with ports := ports } ∧ ports.length = s.ports.length) _ _ ⟨_, rfl, rfl⟩ ?_
  rintro t ⟨ports, rfl, hl⟩ n -
  exact ⟨_, rfl, (upd_length ..).trans hl⟩

theorem State.mem_holdFor (s : State) (u : UnitId) {l : List Nat} {n : Nat} (hn : n < s.ports.length) (h : n ∈ l) :
    Hold.unit u.idx ∈ ((s.holdFor u l).port n).holds := by
  have e : (s.holdFor u l).port n = (s.port n).held (.unit u.idx) :=
    foldl_upd_mem (tab := State.ports) (ix := id) (fun _ _ => rfl) (Port.held_held _) (by simpa using h) s hn {}
  rw [e]
  exact Port.mem_held _ _

/-- Quiesce changes frames and holds ports. -/
theorem State.quiesceUnit_eq (s : State) (u : UnitId) : ∃ ports, s.quiesceUnit u = { s.stopIntake u with ports := ports } := by
  unfold State.quiesceUnit
  extract_lets t
  change ∃ ports, _ = { t with ports := ports }
  clear_value t
  split
  case h_8 => exact (State.holdFor_eq _ _ _).imp fun _ h => h.1
  all_goals exact ⟨_, rfl⟩

/-- A CTL unit's or a channel's port is held. -/
theorem State.quiesceUnit_holds {p : Nat} (hu : u = .ctl p ∨ u = .channel p) :
    s.quiesceUnit u = (s.stopIntake u).holdFor u ((s.stopIntake u).portsUnder u) := by
  unfold State.quiesceUnit
  extract_lets t
  change _ = t.holdFor u (t.portsUnder u)
  clear_value t
  rcases hu with rfl | rfl <;> rfl

theorem State.portAt_lt {p n : Nat} (h : s.portAt p = some n) : n < 128 := by
  have ho : ∀ l, s.portOf l = some n → n < 128 := fun l h => List.mem_range.1 (List.mem_of_find?_eq_some h)
  unfold State.portAt at h
  split at h
  · exact ho _ h
  · split at h
    · exact ho _ h
    · cases h

theorem ctl_mem_subtree {p : Nat} (hu : u = .ctl p ∨ u = .channel p) : UnitId.ctl p ∈ u.subtree := by
  rcases hu with rfl | rfl
  · exact self_mem_subtree _
  · simp [UnitId.subtree, UnitId.kids]

theorem State.mem_quiesceUnit {p n : Nat} (hl : s.ports.length = 128) (hu : u = .ctl p ∨ u = .channel p) (hp : s.portAt p = some n) :
    Hold.unit u.idx ∈ ((s.quiesceUnit u).port n).holds := by
  have hp' : (s.stopIntake u).portAt p = some n := by
    rw [State.stopIntake_eq]
    exact hp
  have hn : n < (s.stopIntake u).ports.length := by
    rw [State.stopIntake_eq]
    exact hl ▸ State.portAt_lt hp
  rw [State.quiesceUnit_holds hu]
  exact State.mem_holdFor _ _ hn (List.mem_filterMap.2 ⟨_, ctl_mem_subtree hu, hp'⟩)

/-! ### Resume -/

/-- The frame of a unit whose intake resumes. -/
def Frame.openIntake (f : Frame) : Frame :=
  { f with quiesce := false, st := if f.st = .quiescing || f.st = .quiesced then .running else f.st }

/-- The same for a unit that may be in reset, which a resume passes by. -/
def Frame.resumed (f : Frame) : Frame := if f.st = .resetting then f else f.openIntake

theorem Frame.openIntake_st {f : Frame} : f.openIntake.st = .resetting ↔ f.st = .resetting := by
  cases h : f.st <;> simp [Frame.openIntake, h]

theorem Frame.resumed_st {f : Frame} : f.resumed.st = .resetting ↔ f.st = .resetting := by
  unfold Frame.resumed
  split
  · rfl
  · exact Frame.openIntake_st

theorem Frame.resumed_resumed (f : Frame) : f.resumed.resumed = f.resumed := by
  cases h : f.st <;> simp [Frame.resumed, Frame.openIntake, h]

theorem Frame.resumed_cntFreeze (f : Frame) : f.resumed.cntFreeze = f.cntFreeze := by
  unfold Frame.resumed
  split <;> rfl

theorem Frame.resumed_of_not_resetting {f : Frame} (h : f.st ≠ .resetting) :
    f.resumed.quiesce = false ∧ f.resumed.st = (if f.st = .quiescing ∨ f.st = .quiesced then .running else f.st) := by
  rw [Frame.resumed, if_neg h]
  exact ⟨rfl, by simp [Frame.openIntake]⟩

/-- An engine that resumes serves the submissions that waited. -/
def State.serveOf (s : State) : UnitId → State
  | .harness x => s.serveSubs x 64
  | _ => s

theorem State.serveOf_frames (s : State) (v : UnitId) : (s.serveOf v).frames = s.frames := by
  cases v
  case harness x => exact (Kept.refl s).serveSubs.frames
  all_goals rfl

theorem State.serveOf_served (s : State) (v : UnitId) : Served s (s.serveOf v) := by
  cases v
  case harness x => exact (Served.refl s).serveSubs
  all_goals exact .refl s

theorem State.serveOf_none (h : ∀ x, (s.har x).waitQ = []) (v : UnitId) : s.serveOf v = s := by
  cases v
  case harness x => exact State.serveSubs_none (h x) _
  all_goals rfl

/-- One unit resumes. -/
def State.resume1 (s : State) (v : UnitId) : State :=
  if (s.fr v).st = .resetting then s else ((s.onFr v Frame.openIntake).endHold v).serveOf v

theorem State.resumeUnit_eq (s : State) (u : UnitId) : s.resumeUnit u = u.subtree.foldl State.resume1 s := rfl

theorem State.resume1_frames (s : State) (v : UnitId) : (s.resume1 v).frames = upd s.frames v.idx Frame.resumed := by
  unfold State.resume1
  split
  next h => exact (upd_of_getD (f := Frame.resumed) (d := {}) (if_pos h)).symm
  next h =>
    rw [State.serveOf_frames]
    exact upd_congr (if_neg h).symm

theorem State.endHold_holds (s : State) (v : UnitId) (n : Nat) :
    ((s.endHold v).port n).holds = (s.port n).holds.filter (· != Hold.unit v.idx) := by
  simp only [State.endHold, State.port, List.getD_eq_getElem?_getD, List.getElem?_map]
  cases s.ports[n]? <;> rfl

theorem State.resume1_holds (s : State) (v : UnitId) (n : Nat) : ((s.resume1 v).port n).holds =
    if (s.fr v).st = .resetting then (s.port n).holds else (s.port n).holds.filter (· != Hold.unit v.idx) := by
  unfold State.resume1
  split
  · rfl
  · rw [(State.serveOf_served _ v).holds, State.endHold_holds]
    rfl

theorem State.resume1_cells_mgmt (s : State) (v : UnitId) : (s.resume1 v).cells = s.cells ∧ (s.resume1 v).mgmt = s.mgmt := by
  unfold State.resume1
  split
  · exact ⟨rfl, rfl⟩
  · have h := State.serveOf_served ((s.onFr v Frame.openIntake).endHold v) v
    exact ⟨h.cells, h.mgmt⟩

theorem State.resumeUnit_cells_mgmt (s : State) (u : UnitId) : (s.resumeUnit u).cells = s.cells ∧ (s.resumeUnit u).mgmt = s.mgmt := by
  rw [State.resumeUnit_eq]
  refine List.foldlRecOn (motive := fun t => t.cells = s.cells ∧ t.mgmt = s.mgmt) _ _ ⟨rfl, rfl⟩ fun (t : State) ht v _ => ?_
  obtain ⟨hc, hm⟩ := t.resume1_cells_mgmt v
  exact ⟨hc.trans ht.1, hm.trans ht.2⟩

theorem State.resumeUnit_fr (hw : w.idx < s.frames.length) (h : w ∈ u.subtree) : (s.resumeUnit u).fr w = (s.fr w).resumed := by
  rw [State.resumeUnit_eq]
  exact State.foldl_fr_mem State.resume1_frames Frame.resumed_resumed hw h

theorem State.resumeUnit_fr_other (hu : u.ok = true) (hw : w.ok = true) (h : w ∉ u.subtree) : (s.resumeUnit u).fr w = s.fr w := by
  rw [State.resumeUnit_eq]
  exact State.foldl_fr_not_mem State.resume1_frames (fun _ hv => ok_of_mem_subtree hu hv) hw h

/-- A resume takes no unit out of reset and puts none into it. -/
theorem State.resume1_resetting (s : State) (v w : UnitId) : ((s.resume1 v).fr w).st = .resetting ↔ (s.fr w).st = .resetting := by
  have e := upd_getD_proj (fun f : Frame => f.st = .resetting) (l := s.frames) (i := v.idx) (j := w.idx) (d := {})
    fun _ => propext Frame.resumed_st
  rw [← State.resume1_frames] at e
  exact iff_of_eq e

theorem State.mem_foldl_resume1 {l : List UnitId} {n : Nat} {a : Hold} (h : a ∈ ((l.foldl State.resume1 s).port n).holds) :
    a ∈ (s.port n).holds := by
  induction l generalizing s with
  | nil => exact h
  | cons v l ih =>
    have h1 := ih h
    rw [State.resume1_holds] at h1
    split at h1
    · exact h1
    · exact List.mem_of_mem_filter h1

/-- The holds of every unit that resumes end, at whatever port. -/
theorem State.not_mem_foldl_resume1 {l : List UnitId} (h : w ∈ l) (hst : (s.fr w).st ≠ .resetting) (n : Nat) :
    Hold.unit w.idx ∉ ((l.foldl State.resume1 s).port n).holds := by
  induction l generalizing s with
  | nil => cases h
  | cons v l ih =>
    rcases List.mem_cons.1 h with rfl | h
    · intro hm
      have h1 := State.mem_foldl_resume1 (s := s.resume1 w) (l := l) hm
      rw [State.resume1_holds, if_neg hst] at h1
      simp at h1
    · exact ih h (mt (s.resume1_resetting v w).1 hst)

theorem State.resume1_none (h : ∀ x, (s.har x).waitQ = []) (v : UnitId) : (s.resume1 v).cnts = s.cnts ∧ (s.resume1 v).hars = s.hars := by
  unfold State.resume1
  split
  · exact ⟨rfl, rfl⟩
  · rw [State.serveOf_none (s := (s.onFr v Frame.openIntake).endHold v) h]
    exact ⟨rfl, rfl⟩

/-- Where no submission waits a resume counts nothing. -/
theorem State.resumeUnit_none (h : ∀ a ∈ s.hars, a.waitQ = []) (u : UnitId) : (s.resumeUnit u).cnts = s.cnts := by
  have hq : ∀ x, (s.har x).waitQ = [] := getD_of_forall (motive := fun a : Har => a.waitQ = []) h rfl
  rw [State.resumeUnit_eq]
  refine (List.foldlRecOn (motive := fun t => t.cnts = s.cnts ∧ t.hars = s.hars) _ _ ⟨rfl, rfl⟩ fun (t : State) ht v _ => ?_).1
  obtain ⟨hc, hh⟩ := State.resume1_none (s := t) (fun x => by rw [State.har, ht.2]; exact hq x) v
  exact ⟨hc.trans ht.1, hh.trans ht.2⟩

/-! ### Reset -/

/-- One unit enters reset, its counters clear. -/
def State.enterReset1 (s : State) (v : UnitId) : State := (s.onFr v Frame.enterReset).onCnt v.idx fun _ => {}

theorem Kept.resetLeaf {s₀ : State} (h : Kept s₀ s) {v : UnitId} : Kept s₀ (s.resetLeaf v) := by
  unfold State.resetLeaf
  split
  · exact h.ledgerCtl.enterSelf.clearLeaf
  · exact h.enterSelf.clearLeaf
  · exact h.clearLeaf.dropAwl
  · extract_lets s1 s2
    have h1 : Kept s₀ s1 := by
      unfold s1
      split
      · exact h.rest
      · exact h
    have h2 : Kept s₀ s2 := .ite h1.rest h1
    exact h2.clearLeaf
  · exact h.ledgerPool.clearLeaf
  · exact h.ledgerNet.clearLeaf
  · exact h.loseEngine.clearLeaf
  · exact h.stopMovers.clearLeaf
  · exact h.setSec
  · exact h

/-- A reset that need not wait puts the unit and everything beneath it into RESETTING. -/
theorem State.startReset_fr (hr : s.resetWaits u = false) (hw : w.idx < s.frames.length) (h : w ∈ u.subtree) :
    ((s.startReset u).fr w) = (s.fr w).enterReset := by
  unfold State.startReset
  rw [if_neg (by simp [hr])]
  extract_lets us s1 s2 s3 s4
  have h1 : Kept s s1 := (Kept.refl s).sliceBreak
  have h2 : Kept s s2 := h1.foldl fun h' => .ite h'.cancelCopy h'
  have h3 : Kept s s3 := h2.foldl (·.rest)
  have h5 : Kept s4 (us.foldl State.resetLeaf s4) := (Kept.refl s4).foldl (·.resetLeaf)
  have e : s4.fr w = (s3.fr w).enterReset :=
    State.foldl_fr_mem (step := State.enterReset1) (fun _ _ => rfl) (fun _ => rfl) (h3.frames ▸ hw) h
  rw [State.fr_of_frames h5.frames, e, State.fr_of_frames h3.frames]

/-- During a flip the reset waits for its end. -/
theorem State.startReset_waits (hr : s.resetWaits u = true) : s.startReset u = s.onFr u fun f => { f with deferRst := true } := by
  rw [State.startReset, if_pos hr]

/-! ### The obligation -/

/-- A FRAME_CTRL write, by whichever name, runs its rule with one access counted and answers OK. -/
theorem answers_frameCtrl {c : Instr} {P : State → Prop} (hw : s.Wf) (h : s.mgReady u)
    (hc : c ∈ [Instr.quiesce u v, .resumeIntake u v, .unitReset u v, .cntFreeze u v, .cntClear u v])
    (hP : ∀ cs n, cs.length = 757 → P ((({ s with cnts := cs, free := n } : State).wFrameCtrl u v).answer 0 cOK)) : Answers c s P := by
  obtain ⟨cs, n, hl, e⟩ := State.mgAccess_ready h fun s => s.wFrameCtrl u v
  have hx : exec c s = .next (s.mgAccess u fun s => s.wFrameCtrl u v) := by
    simp only [List.mem_cons, List.not_mem_nil, or_false] at hc
    rcases hc with rfl | rfl | rfl | rfl | rfl <;> rfl
  exact ⟨_, hx.trans (e ▸ rfl), hP cs n (hl.trans hw.cnts)⟩

theorem State.mgReady.not_resetting (h : s.mgReady u) : (s.fr u).st ≠ .resetting := by
  obtain ⟨-, -, -, -, hs, -⟩ := h
  intro e
  simp [State.shut, e] at hs

theorem State.answer_granted {r t : State} (h : t.mgmt = r.mgmt) : r.granted (t.answer 0 cOK) := by
  simp [State.granted, h]

section
variable (hf : s.frames.length = 757) (hu : u.ok = true)
include hf hu

theorem idx_lt_of_mem (h : w ∈ u.subtree) : w.idx < s.frames.length :=
  hf ▸ idx_lt (ok_of_mem_subtree hu h)

theorem cntCtrl_idx_lt (h : w ∈ u.subtree) : w.idx < (s.cntCtrl u v).frames.length := by
  obtain ⟨r, c, e, hr, -⟩ := s.cntCtrl_eq u v
  rw [e]
  exact hr ▸ idx_lt_of_mem hf hu h

theorem State.quiesce_fr (h : w ∈ u.subtree) :
    ((s.cntCtrl u v).quiesceUnit u).fr w =
      if quiescable w then ((s.fr w).cntCtrl v).stopIntake else (s.fr w).cntCtrl v := by
  obtain ⟨ports, e⟩ := (s.cntCtrl u v).quiesceUnit_eq u
  have ef : ((s.cntCtrl u v).quiesceUnit u).fr w = ((s.cntCtrl u v).stopIntake u).fr w := by rw [e]; rfl
  rw [ef, ← State.cntCtrl_fr (idx_lt_of_mem hf hu h) h]
  split
  next hq => exact State.stopIntake_fr (cntCtrl_idx_lt hf hu h) h hq
  next hq => exact State.stopIntake_fr_other hu (ok_of_mem_subtree hu h) (.inr (by simpa using hq))

theorem State.resume_fr (h : w ∈ u.subtree) : ((s.cntCtrl u v).resumeUnit u).fr w = ((s.fr w).cntCtrl v).resumed := by
  rw [State.resumeUnit_fr (cntCtrl_idx_lt hf hu h) h, State.cntCtrl_fr (idx_lt_of_mem hf hu h) h]

end

theorem State.quiesce_fr_other (hu : u.ok = true) (hw : w.ok = true) (h : w ∉ u.subtree) :
    ((s.cntCtrl u v).quiesceUnit u).fr w = s.fr w := by
  obtain ⟨ports, e⟩ := (s.cntCtrl u v).quiesceUnit_eq u
  have ef : ((s.cntCtrl u v).quiesceUnit u).fr w = ((s.cntCtrl u v).stopIntake u).fr w := by rw [e]; rfl
  rw [ef, State.stopIntake_fr_other hu hw (.inl h), State.cntCtrl_fr_other hu hw h]

/-- Quiesce changes frames, counters and the ports' holds. -/
theorem State.quiesce_eq (s : State) (u : UnitId) (v : Word) :
    ∃ r ports, (s.cntCtrl u v).quiesceUnit u = { s with frames := r, cnts := (s.cntCtrl u v).cnts, ports := ports } := by
  obtain ⟨ports, e⟩ := (s.cntCtrl u v).quiesceUnit_eq u
  obtain ⟨r, c, e1, -, -⟩ := s.cntCtrl_eq u v
  rw [e, State.stopIntake_eq, e1]
  exact ⟨_, _, rfl⟩

section
variable (hf : s.frames.length = 757) (hc : s.cnts.length = 757) (hu : u.ok = true)
include hf hc hu

theorem State.quiesce_effect (hp : s.ports.length = 128) (hst : (s.fr u).st ≠ .resetting) (hq : u.canQuiesce = true)
    (h0 : v.getLsbD 0 = true) (h1 : v.getLsbD 1 = false) :
    let t := s.wFrameCtrl u v
    (∀ w ∈ u.subtree, quiescable w = true → (s.fr w).st ≠ .resetting → (t.fr w).quiesce = true ∧
      (t.fr w).st = (if (s.fr w).st = .running then .quiescing else if (s.fr w).st = .gated then .quiesced else (s.fr w).st)) ∧
    (∀ w ∈ u.subtree, (t.fr w).cntFreeze = v.getLsbD 4) ∧ (∀ w, w.ok = true → w ∉ u.subtree → t.fr w = s.fr w) ∧
    (∀ p n, u = .ctl p ∨ u = .channel p → s.portAt p = some n → Hold.unit u.idx ∈ (t.port n).holds) ∧
    (v.getLsbD 5 = true → ∀ w ∈ u.subtree, (t.cnt w.idx).val = List.replicate 8 0) ∧
    t.cells = s.cells ∧ t.hars = s.hars ∧ t.mgmt = s.mgmt := by
  intro t
  have ht : t = (s.cntCtrl u v).quiesceUnit u := State.wFrameCtrl_quiesce hst hq h0 h1
  obtain ⟨r, ports, e⟩ := s.quiesce_eq u v
  refine ⟨fun w hw hqw hsw => ?_, fun w hw => ?_, fun w hok hw => ?_, fun p n hup hpn => ?_, fun h5 w hw => ?_, ?_⟩
  · rw [ht, State.quiesce_fr hf hu hw, if_pos hqw]
    exact Frame.stopIntake_of_not_resetting (f := (s.fr w).cntCtrl v) hsw
  · rw [ht, State.quiesce_fr hf hu hw]
    split
    · exact Frame.stopIntake_cntFreeze _
    · rfl
  · rw [ht, State.quiesce_fr_other hu hok hw]
  · obtain ⟨r', c, e', -, -⟩ := s.cntCtrl_eq u v
    rw [ht]
    refine State.mem_quiesceUnit ?_ hup (n := n) ?_
    · rw [e']
      exact hp
    · rw [e']
      exact hpn
  · rw [ht, e]
    exact State.cntCtrl_cnt h5 (hc ▸ idx_lt (ok_of_mem_subtree hu hw)) hw
  · rw [ht, e]
    exact ⟨rfl, rfl, rfl⟩

theorem State.resume_effect (hst : (s.fr u).st ≠ .resetting) (h0 : v.getLsbD 0 = false) (h1 : v.getLsbD 1 = false) :
    let t := s.wFrameCtrl u v
    (∀ w ∈ u.subtree, (s.fr w).st ≠ .resetting → (t.fr w).quiesce = false ∧
      (t.fr w).st = (if (s.fr w).st = .quiescing ∨ (s.fr w).st = .quiesced then .running else (s.fr w).st) ∧
      ∀ n, Hold.unit w.idx ∉ (t.port n).holds) ∧
    (∀ w ∈ u.subtree, (t.fr w).cntFreeze = v.getLsbD 4) ∧ (∀ w, w.ok = true → w ∉ u.subtree → t.fr w = s.fr w) ∧
    (v.getLsbD 5 = true → (∀ h ∈ s.hars, h.waitQ = []) → ∀ w ∈ u.subtree, (t.cnt w.idx).val = List.replicate 8 0) ∧
    t.cells = s.cells ∧ t.mgmt = s.mgmt := by
  intro t
  have ht : t = (s.cntCtrl u v).resumeUnit u := State.wFrameCtrl_resume hst h0 h1
  obtain ⟨r, c, e, -, -⟩ := s.cntCtrl_eq u v
  refine ⟨fun w hw hsw => ?_, fun w hw => ?_, fun w hok hw => ?_, fun h5 hq w hw => ?_, ?_⟩
  · have hc' : ((s.cntCtrl u v).fr w).st ≠ .resetting := by
      rw [State.cntCtrl_fr (idx_lt_of_mem hf hu hw) hw]
      exact hsw
    obtain ⟨hqu, hse⟩ := Frame.resumed_of_not_resetting (f := (s.fr w).cntCtrl v) hsw
    rw [ht, State.resume_fr hf hu hw]
    exact ⟨hqu, hse, State.not_mem_foldl_resume1 hw hc'⟩
  · rw [ht, State.resume_fr hf hu hw]
    exact Frame.resumed_cntFreeze _
  · rw [ht, State.resumeUnit_fr_other hu hok hw, State.cntCtrl_fr_other hu hok hw]
  · have hcn : t.cnts = (s.cntCtrl u v).cnts := by
      rw [ht]
      refine State.resumeUnit_none ?_ u
      rw [e]
      exact hq
    rw [State.cnt, hcn]
    exact State.cntCtrl_cnt h5 (hc ▸ idx_lt (ok_of_mem_subtree hu hw)) hw
  · obtain ⟨hce, hmg⟩ := (s.cntCtrl u v).resumeUnit_cells_mgmt u
    rw [ht, hce, hmg, e]
    exact ⟨rfl, rfl⟩

omit hc

theorem State.reset_effect (hst : (s.fr u).st ≠ .resetting) (hr : u.canReset = true) (h0 : v.getLsbD 0 = false)
    (h1 : v.getLsbD 1 = true) (hk : keyed v = true) :
    let t := s.wFrameCtrl u v
    (s.resetWaits u = false → ∀ w ∈ u.subtree, (t.fr w).st = .resetting ∧ (t.fr w).mask = 0 ∧ (t.fr w).inj = 0) ∧
    (s.resetWaits u = true → (t.fr u).deferRst = true ∧ (t.fr u).st = (s.fr u).st ∧ t.cells = s.cells ∧ t.mgmt = s.mgmt) := by
  intro t
  have ht : t = (s.cntCtrl u v).startReset u := State.wFrameCtrl_reset hst hr h0 h1 hk
  obtain ⟨r, c, e, -, -⟩ := s.cntCtrl_eq u v
  have hwait : (s.cntCtrl u v).resetWaits u = s.resetWaits u := by
    rw [e]
    rfl
  refine ⟨fun hwt w hw => ?_, fun hwt => ?_⟩
  · rw [ht, State.startReset_fr (hwait.trans hwt) (cntCtrl_idx_lt hf hu hw) hw]
    exact ⟨rfl, rfl, rfl⟩
  · have hself := self_mem_subtree u
    rw [ht, State.startReset_waits (hwait.trans hwt), State.fr_onFr _ _ _ (cntCtrl_idx_lt hf hu hself),
      State.cntCtrl_fr (idx_lt_of_mem hf hu hself) hself, State.onFr_cells, State.onFr_mgmt, e]
    exact ⟨rfl, rfl, rfl, rfl⟩

theorem State.refused_effect
    (h : (v.getLsbD 1 = true ∧ (keyed v = false ∨ u.canReset = false)) ∨ (v.getLsbD 0 = true ∧ u.canQuiesce = false)) :
    let t := s.wFrameCtrl u v
    t.fr u = { s.fr u with ctrlRej := true } ∧ (∀ w, w.ok = true → w ≠ u → t.fr w = s.fr w) ∧ t.cells = s.cells ∧ t.hars = s.hars ∧
      t.ports = s.ports ∧ t.mgmt = s.mgmt := by
  intro t
  have ht : t = s.reject u := State.wFrameCtrl_refused h
  rw [ht]
  exact ⟨s.fr_onFr u _ (hf ▸ idx_lt hu), fun w hw hne => State.fr_onFr_other hu hw hne _, rfl, rfl, rfl, rfl⟩

end

/-- Settles O53: one write freezes or clears the counters of the subtree, then quiesces, resumes or resets it, each unit's frame changed by
one function of it; holds end only at a resume, and serving what waited sets none. -/
theorem unitControl : Obligations.UnitControl := by
  unfold Obligations.UnitControl
  intro s u v c hw h hc
  have hst := h.not_resetting
  obtain ⟨-, hu, -⟩ := id h
  refine ⟨fun hq h0 h1 => ?_, fun h0 h1 => ?_, fun hr h1 h0 hk => ⟨fun hwt => ?_, fun hwt => ?_⟩, fun hrf => ?_⟩ <;>
    refine answers_frameCtrl hw h hc fun cs n hl => ?_
  · obtain ⟨hstop, hfreeze, hother, hheld, hclear, hcells, hhars, hm⟩ :=
      State.quiesce_effect (s := { s with cnts := cs, free := n }) hw.frames hl hu hw.ports hst hq h0 h1
    exact ⟨hstop, hfreeze, hother, hheld, hclear, hcells, hhars, State.answer_granted hm⟩
  · obtain ⟨hopen, hfreeze, hother, hclear, hcells, hm⟩ :=
      State.resume_effect (s := { s with cnts := cs, free := n }) hw.frames hl hu hst h0 h1
    exact ⟨hopen, hfreeze, hother, hclear, hcells, State.answer_granted hm⟩
  · exact (State.reset_effect (s := { s with cnts := cs, free := n }) hw.frames hu hst hr h0 h1 hk).1 hwt
  · obtain ⟨hdefer, hkept, hcells, hm⟩ := (State.reset_effect (s := { s with cnts := cs, free := n }) hw.frames hu hst hr h0 h1 hk).2 hwt
    exact ⟨hdefer, hkept, hcells, State.answer_granted hm⟩
  · obtain ⟨hrej, hother, hcells, hhars, hports, hm⟩ :=
      State.refused_effect (s := { s with cnts := cs, free := n }) hw.frames hu hrf
    exact ⟨hrej, hother, hcells, hhars, hports, State.answer_granted hm⟩

end Sys2Proof.Machine
end

section
/-! SUPPORT. Reads of a counter: counting an event leaves every read shadow, and a read of the low word sets one. -/
namespace Sys2Proof.Machine

variable {s : State} {u : UnitId} {i : Nat}

/-! ### What counting leaves of the read shadows -/

theorem cntAdd_rsh (c : Cnt) (n amt : Nat) (t : Dword) (src : Nat) (x0 x1 : Word) : (cntAdd c n amt t src x0 x1).rsh = c.rsh := by
  unfold cntAdd
  extract_lets v c1 c2
  split
  · rfl
  · split
    · split <;> rfl
    · rfl

theorem cntFrame_rsh (c : Cnt) (f u : UnitId) (code : Nat) (amt : Option Nat → Nat × Nat) (t : Dword) (x0 x1 : Word) :
    (cntFrame c f u code amt t x0 x1).rsh = c.rsh := by
  unfold cntFrame
  refine List.foldlRecOn (motive := fun d => Cnt.rsh d = c.rsh) _ _ rfl fun d hd n _ => ?_
  extract_lets w a k
  split
  · split
    · exact hd
    · exact (cntAdd_rsh ..).trans hd
  · exact hd

theorem State.countX_rsh (s : State) (u : UnitId) (code : Nat) (amt : Option Nat → Nat × Nat) (x0 x1 : Word) (j : Nat) :
    ((s.countX u code amt x0 x1).cnt j).rsh = (s.cnt j).rsh := by
  unfold State.countX
  split
  · refine List.foldlRecOn (motive := fun t => (State.cnt t j).rsh = (s.cnt j).rsh) _ _ rfl fun t ht f _ => ?_
    split
    · exact ht
    · exact (upd_getD_proj Cnt.rsh fun c => cntFrame_rsh c ..).trans ht
  · rfl

theorem State.count_rsh (s : State) (u : UnitId) (code : Nat) (cl : Option Nat) (n : Nat) (x0 x1 : Option Word) (j : Nat) :
    ((s.count u code cl n x0 x1).cnt j).rsh = (s.cnt j).rsh := by
  unfold State.count
  split
  · rfl
  · refine (State.countX_rsh ..).trans ?_
    split <;> rfl

/-! ### The read -/

/-- A read whose register is reached runs the register's rule on the state with the access counted. -/
theorem State.mgRead_counted (h : s.mgReady u) (f : State → Word × State) :
    s.mgRead u f = (f (s.count .mgmt 1)).2.answer (f (s.count .mgmt 1)).1 cOK := by
  obtain ⟨hopen, hu, hrun, -, hshut, hinj⟩ := h
  have hc : (s.count .mgmt 1).mgmtChecks = s.count .mgmt 1 := State.mgmtChecks_unarmed _ (by rwa [State.count_eq])
  have hr : (s.count .mgmt 1).isRunning = s.isRunning := by rw [State.count_eq]; rfl
  have hs : (s.count .mgmt 1).shut u = false := by rw [State.count_eq]; exact hshut
  have hrun' : (!s.isRunning && u != .array) = false := by rcases hrun with h | h <;> simp [h]
  unfold State.mgRead
  rw [if_neg (by simp [hopen])]
  dsimp only
  rw [hc, hr, if_neg (by simp [hu, hrun']), if_neg (by simp [hs])]

/-- The state a counter's read leaves before its answer: one access counted, and of a low word the shadow set. -/
theorem cntRead_eq (h : s.mgReady u) (hi : i < 8) (high : Bool) :
    exec (.cntRead u i high) s =
      .next (((s.count .mgmt 1).rCnt u i high).2.answer ((s.count .mgmt 1).rCnt u i high).1 cOK) := by
  obtain ⟨-, hu, -⟩ := id h
  show execCntRead u i high s = _
  rw [execCntRead, if_pos (by simp [hi, hu]), State.mgRead_counted h]

/-- What a read of the low word leaves: its shadow holds the counter's high word, every other shadow and every value are as counting
the access left them. -/
theorem State.rCnt_low_cnt (hu : u.idx < s.cnts.length) : ((s.rCnt u i false).2.cnt u.idx) =
    { s.cnt u.idx with rsh := upd (s.cnt u.idx).rsh i fun _ => (((s.cnt u.idx).val.getD i 0) >>> 32).truncate 32 } :=
  s.cnt_onCnt u.idx _ hu

/-- A read of a low word answers the low half of the counter and keeps the high half in the shadow (R25). -/
theorem cntRead_low (hw : s.Wf) (h : s.mgReady u) (hi : i < 8) : Answers (.cntRead u i false) s fun t => ∃ x : Dword,
    t.mgmt.rsp = s.mgmt.rsp ++ [(x.truncate 32, cOK)] ∧ (t.cnt u.idx).rsh.getD i 0 = (x >>> 32).truncate 32 ∧
    (t.cnt u.idx).val.getD i 0 = x ∧ (∀ j, j ≠ i → (t.cnt u.idx).rsh.getD j 0 = (s.cnt u.idx).rsh.getD j 0) ∧
    t = { s with cnts := t.cnts, free := t.free, mgmt := t.mgmt } := by
  obtain ⟨-, hu, -⟩ := id h
  set r := s.count .mgmt 1 with hr
  have er : r = { s with cnts := r.cnts, free := r.free } := State.count_eq ..
  have hlen : u.idx < r.cnts.length := by
    obtain ⟨c, n, e, hc⟩ := s.count_cntOnly .mgmt 1 none 1 none none
    rw [hr, e]
    exact hc.trans hw.cnts ▸ idx_lt hu
  have hrsh : (r.cnt u.idx).rsh = (s.cnt u.idx).rsh := State.count_rsh ..
  have hl : i < (r.cnt u.idx).rsh.length := by
    rw [hrsh, (hw.cnt u.idx).rsh]
    exact hi
  refine ⟨_, cntRead_eq h hi false, (r.cnt u.idx).val.getD i 0, ?_, ?_, ?_, fun j hj => ?_, ?_⟩
  · rw [← hr, State.answer_mgmt]
    show r.mgmt.rsp ++ _ = _
    rw [er]
    rfl
  · show (((r.rCnt u i false).2.cnt u.idx).rsh).getD i 0 = _
    rw [State.rCnt_low_cnt hlen]
    exact upd_getD_self _ _ _ _ hl
  · show (((r.rCnt u i false).2.cnt u.idx).val).getD i 0 = _
    rw [State.rCnt_low_cnt hlen]
  · show (((r.rCnt u i false).2.cnt u.idx).rsh).getD j 0 = _
    rw [State.rCnt_low_cnt hlen, ← hrsh]
    exact upd_getD_ne _ _ _ _ _ hj
  · rw [← hr, er]
    rfl

/-- A read of a high word answers the shadow and leaves every shadow (R25). -/
theorem cntRead_high (h : s.mgReady u) (hi : i < 8) : Answers (.cntRead u i true) s fun t =>
    t.mgmt.rsp = s.mgmt.rsp ++ [((s.cnt u.idx).rsh.getD i 0, cOK)] ∧ (∀ j, (t.cnt u.idx).rsh.getD j 0 = (s.cnt u.idx).rsh.getD j 0) ∧
    t = { s with cnts := t.cnts, free := t.free, mgmt := t.mgmt } := by
  have hrsh : ((s.count .mgmt 1).cnt u.idx).rsh = (s.cnt u.idx).rsh := State.count_rsh ..
  refine ⟨_, cntRead_eq h hi true, ?_, fun j => congrArg (·.getD j 0) hrsh, ?_⟩
  · show (s.count .mgmt 1).mgmt.rsp ++ [(((s.count .mgmt 1).cnt u.idx).rsh.getD i 0, cOK)] = _
    rw [hrsh, State.count_eq]
  · rw [State.count_eq]
    rfl

/-- Settles O59: the low read leaves in the shadow the high half of the very value whose low half it answers, and counting the next
access leaves it there for the high read. -/
theorem counterShadows : Obligations.CounterShadows := by
  unfold Obligations.CounterShadows
  intro s u i hw h hi
  refine ⟨cntRead_low hw h hi, cntRead_high h hi, fun t t' hlow ht hhigh => ?_⟩
  obtain ⟨_, elow, x, hrsp, hshadow, -⟩ := cntRead_low hw h hi
  obtain rfl := Host.Outcome.next.inj (hlow.symm.trans elow)
  obtain ⟨_, ehigh, hrsp', -⟩ := cntRead_high ht hi
  obtain rfl := Host.Outcome.next.inj (hhigh.symm.trans ehigh)
  refine ⟨x, ?_⟩
  rw [hrsp', hrsp, hshadow, List.append_assoc]
  rfl

end Sys2Proof.Machine
end

section
/-! SUPPORT. FAULT_WORD, FAULT_INJ and FLT_FENCE: when a source of a group frame latches, what latching leaves of the other frames, and
what fencing a child leaves of all of them. -/
namespace Sys2Proof.Machine

variable {s t : State} {u g k w : UnitId} {v : Word} {i : Nat}

/-! ### A group frame and its children -/

theorem parent_of_mem_kids (hu : u.ok = true) (hk : k ∈ u.kids) : k.parent = some u := by
  cases u <;> simp only [UnitId.ok, Bool.and_eq_true, decide_eq_true_eq] at hu <;>
    simp only [UnitId.kids, List.mem_append, List.mem_map, List.mem_range, List.mem_cons, List.not_mem_nil, or_false] at hk
  case array => rcases hk with ⟨x, hx, rfl⟩ | rfl | rfl | rfl | rfl <;> rfl
  case sector x =>
    rcases hk with ⟨q, hq, rfl⟩ | rfl | rfl | rfl | rfl | rfl
    case inr.inl =>
      have hp : posOf (spareOf x) = 16 := by simp only [posOf, spareOf]; omega
      have hs : secOf (spareOf x) = x := by simp only [secOf, spareOf]; omega
      rw [UnitId.parent, if_pos hp, hs]
    all_goals rfl
  case quad x q =>
    obtain ⟨c, hc, rfl⟩ := hk
    have hp : posOf (17 * x + 4 * q + c) = 4 * q + c := by simp only [posOf]; omega
    have hs : secOf (17 * x + 4 * q + c) = x := by simp only [secOf]; omega
    rw [UnitId.parent, hp, hs, if_neg (by omega)]
    congr 2
    omega
  case channel p => rcases hk with rfl | rfl | rfl | rfl <;> rfl

theorem isGroup_of_mem_kids (hk : k ∈ u.kids) : u.isGroup = true := by
  cases u <;> simp_all [UnitId.kids, UnitId.isGroup]

theorem ne_of_mem_kids (hu : u.ok = true) (hk : k ∈ u.kids) : k ≠ u := by
  rintro rfl
  have hp := parent_of_mem_kids hu hk
  cases k <;> simp only [UnitId.parent, reduceCtorEq, Option.some.injEq] at hp
  case channel p => split at hp <;> cases hp

theorem idx_ne_of_mem_kids (hu : u.ok = true) (hk : k ∈ u.kids) : k.idx ≠ u.idx :=
  fun e => ne_of_mem_kids hu hk (idx_inj hu (ok_of_mem_kids hu hk) e)

/-- A child the driver may fence is an Awl, a Harness or a set of movers. -/
theorem fenceable_cases (h : fenceable u k = true) : (∃ p, k = .awl p) ∨ (∃ x, k = .harness x) ∨ ∃ x, k = .movers x := by
  unfold fenceable at h
  split at h
  · exact .inl ⟨_, rfl⟩
  · exact .inr (.inl ⟨_, rfl⟩)
  · exact .inr (.inr ⟨_, rfl⟩)
  · cases h

theorem ordinal_lt_of_fenceable (h : fenceable u k = true) : k.ordinal < 16 := by
  rcases fenceable_cases h with ⟨_, rfl⟩ | ⟨_, rfl⟩ | ⟨_, rfl⟩ <;> simp [UnitId.ordinal]

/-! ### What reports leave of a frame -/

theorem SrcUp.fr (h : SrcUp s t) (w : UnitId) : ∃ a b c d,
    t.fr w = { s.fr w with src := (s.fr w).src ||| a, clsCorr := b, clsCont := c, clsFatal := d } := h w.idx

theorem SrcUp.fenced (h : SrcUp s t) (w : UnitId) : t.isFenced w = s.isFenced w := by
  obtain ⟨a, b, c, d, e⟩ := h.fr w
  rw [State.isFenced, e]
  rfl

theorem SrcUp.src (h : SrcUp s t) (hs : (s.fr w).src.getLsbD i = true) : (t.fr w).src.getLsbD i = true := by
  obtain ⟨a, b, c, d, e⟩ := h.fr w
  rw [e]
  simp [hs, -BitVec.getLsbD_eq_getElem]

theorem SrcUp.fired (h : SrcUp s t) (w : UnitId) : (t.fr w).fired = (s.fr w).fired := by
  obtain ⟨a, b, c, d, e⟩ := h.fr w
  rw [e]

/-- A unit's error line follows its own frame. -/
theorem State.line_congr (h : t.fr u = s.fr u) (c : Cls3) : t.line u c = s.line u c := by
  simp only [State.line, State.srcOf, h]

theorem State.latch_fr_other (h : w.idx ≠ g.idx) (i : Nat) (c : Cls3) : (s.latch g i c).fr w = s.fr w := by
  unfold State.latch
  extract_lets f m s'
  have hs' : s'.fr w = s.fr w := State.fr_onFr_ne _ _ _ _ h
  split
  · rfl
  · split
    · exact hs'
    · rw [State.fr_of_frames (State.count_frames ..)]
      exact hs'

theorem State.latchUp_fr_other (hp : k.parent = some g) (h : w.idx ≠ g.idx) : (s.latchUp k).fr w = s.fr w := by
  unfold State.latchUp
  rw [hp]
  refine List.foldlRecOn (motive := fun t => State.fr t w = s.fr w) _ _ rfl fun t ht c _ => ?_
  split
  · exact (State.latch_fr_other h _ _).trans ht
  · exact ht

/-- A unit whose line is low has its parent latch nothing. -/
theorem State.latchUp_of_line_low (h : ∀ c, s.line k c = false) : s.latchUp k = s := by
  unfold State.latchUp
  split
  · rfl
  · exact List.foldlRecOn (motive := fun t => t = s) _ _ rfl fun t ht c _ => by rw [ht, h c]; rfl

/-! ### When a source of a group frame latches (R31, R32, R386) -/

/-- Source i of group frame g latches when its line rises: it is not masked, and the unit not in reset. -/
structure State.CanLatch (s : State) (g : UnitId) (i : Nat) : Prop where
  frame : g.idx < s.frames.length
  bit : i < 16
  unmasked : (s.fr g).mask.getLsbD i = false
  out : (s.fr g).st ≠ .resetting

theorem State.CanLatch.up (h : s.CanLatch g i) (r : RptOnly s t) (k : SrcUp s t) : t.CanLatch g i := by
  obtain ⟨fs, cs, n, rfl, hl, -⟩ := r
  obtain ⟨a, b, c, d, e⟩ := k.fr g
  exact ⟨hl ▸ h.frame, h.bit, e ▸ h.unmasked, e ▸ h.out⟩

/-- What a change of a frame leaves of it, every frame keeps. -/
theorem State.fr_onFr_proj {β : Type} (p : Frame → β) {f : Frame → Frame} (hf : ∀ a, p (f a) = p a := by exact fun _ => rfl) :
    p ((s.onFr w f).fr u) = p (s.fr u) := by
  show p ((upd s.frames w.idx f).getD u.idx {}) = p (s.frames.getD u.idx {})
  exact upd_getD_proj p hf

theorem State.CanLatch.of_fr (h : s.CanLatch g i) (hl : t.frames.length = s.frames.length) (e : t.fr g = s.fr g) : t.CanLatch g i :=
  ⟨hl ▸ h.frame, h.bit, e ▸ h.unmasked, e ▸ h.out⟩

theorem State.CanLatch.onFr (h : s.CanLatch g i) {f : Frame → Frame} (hm : ∀ a, (f a).mask = a.mask := by exact fun _ => rfl)
    (hs : ∀ a, (f a).st = a.st := by exact fun _ => rfl) : (s.onFr w f).CanLatch g i :=
  ⟨by simpa using h.frame, h.bit, (congrArg (·.getLsbD i) (State.fr_onFr_proj Frame.mask hm)).trans h.unmasked,
    (State.fr_onFr_proj Frame.st hs).trans_ne h.out⟩

theorem State.CanLatch.latch (h : s.CanLatch g i) (w : UnitId) (j : Nat) (c : Cls3) : (s.latch w j c).CanLatch g i :=
  h.up (s.latch_rptOnly _ _ _) (s.latch_srcUp _ _ _)

theorem State.CanLatch.latchUp (h : s.CanLatch g i) (w : UnitId) : (s.latchUp w).CanLatch g i :=
  h.up (s.latchUp_rptOnly _) (s.latchUp_srcUp _)

theorem State.CanLatch.latches (h : s.CanLatch g i) (c : Cls3) : ((s.latch g i c).fr g).src.getLsbD i = true := by
  have hb := h.bit
  have hst : ((s.fr g).st == UState.resetting) = false := by simpa using h.out
  unfold State.latch
  extract_lets f m s'
  have hm : m.getLsbD i = true := by
    show (BitVec.ofNat 16 (1 <<< i)).getLsbD i = true
    rw [BitVec.getLsbD_ofNat, Nat.one_shiftLeft, Nat.testBit_two_pow_self, decide_eq_true hb]
    rfl
  have hs' : (s'.fr g).src.getLsbD i = true := by
    rw [show s'.fr g = _ from State.fr_onFr _ _ _ h.frame]
    simp [hm, -BitVec.getLsbD_eq_getElem]
  rw [h.unmasked, hst, if_neg (by simp)]
  split
  · exact hs'
  · rw [State.fr_of_frames (State.count_frames ..)]
    exact hs'

/-- Steps that keep P, one of which brings Q about where P holds, and that keep Q: Q holds at the end. -/
theorem foldl_reaches {σ α : Type} {P Q : σ → Prop} {f : σ → α → σ} {l : List α} {a : α} {s : σ} (ha : a ∈ l) (h : P s)
    (keepP : ∀ s, ∀ b ∈ l, P s → P (f s b)) (hit : ∀ s, P s → Q (f s a)) (keepQ : ∀ s b, Q s → Q (f s b)) : Q (l.foldl f s) := by
  obtain ⟨l₁, l₂, rfl⟩ := List.append_of_mem ha
  rw [List.foldl_append, List.foldl_cons]
  have hP : P (l₁.foldl f s) := List.foldlRecOn _ _ h fun s hs b hb => keepP s b (List.mem_append_left _ hb) hs
  exact List.foldlRecOn _ _ (hit _ hP) fun s hs b _ => keepQ s b hs

/-- A child's line that is high has its parent latch the child's bit. -/
theorem State.CanLatch.latchUp_latches (hp : k.parent = some g) (hne : k.idx ≠ g.idx) {c : Cls3} (hl : s.line k c = true)
    (h : s.CanLatch g k.ordinal) : ((s.latchUp k).fr g).src.getLsbD k.ordinal = true := by
  unfold State.latchUp
  rw [hp]
  refine foldl_reaches (P := fun t => State.line t k c = true ∧ State.CanLatch t g k.ordinal)
    (Q := fun t => (State.fr t g).src.getLsbD k.ordinal = true) (a := c) (by cases c <;> simp) ⟨hl, h⟩ ?_ ?_ ?_
  · rintro t d - ⟨htl, ht⟩
    split
    · exact ⟨(State.line_congr (State.latch_fr_other hne _ _) c).trans htl, ht.latch ..⟩
    · exact ⟨htl, ht⟩
  · rintro t ⟨htl, ht⟩
    rw [if_pos htl]
    exact ht.latches c
  · intro t d ht
    split
    · exact (t.latch_srcUp _ _ _).src ht
    · exact ht

/-! ### FAULT_WORD -/

/-- The source bits that a written word names. -/
def srcBits (v : Word) : BitVec 16 := BitVec.ofNat 16 (fld v 0 16)

theorem srcBits_getLsbD (hi : i < 16) : (srcBits v).getLsbD i = v.getLsbD i := by
  simp only [srcBits, fld, bits, Nat.pow_zero, Nat.div_one, BitVec.getLsbD_ofNat, Nat.testBit_mod_two_pow, hi, decide_true, Bool.true_and]
  rfl

/-- The frame with its sources m clear. -/
def Frame.clearSrc (m : BitVec 16) (f : Frame) : Frame :=
  { f with src := f.src &&& ~~~m, clsCorr := f.clsCorr &&& ~~~m, clsCont := f.clsCont &&& ~~~m, clsFatal := f.clsFatal &&& ~~~m }

/-- The frame with fault_ambig cleared where the written word has bit 31. -/
def Frame.clearAmbig (v : Word) (f : Frame) : Frame := { f with ambig := f.ambig && !v.getLsbD 31 }

/-- Frame u latches again the lines of the children that m names. -/
def State.relatch (s : State) (u : UnitId) (m : BitVec 16) : State :=
  u.kids.foldl (fun s k => if m.getLsbD k.ordinal then s.latchUp k else s) s

theorem State.wFaultWord_eq (s : State) (u : UnitId) (v : Word) :
    s.wFaultWord u v = ((s.onFr u (Frame.clearSrc (srcBits v))).relatch u (srcBits v)).onFr u (Frame.clearAmbig v) := rfl

theorem State.relatch_of_lines_low {m : BitVec 16} (h : ∀ k ∈ u.kids, ∀ c, s.line k c = false) : s.relatch u m = s := by
  refine List.foldlRecOn (motive := fun t => t = s) _ _ rfl fun t ht k hk => ?_
  rw [ht, State.latchUp_of_line_low (h k hk), ite_self]

/-- A source cleared while its child's line is high latches again (R31, R386). -/
theorem State.CanLatch.relatch {m : BitVec 16} {c : Cls3} (hu : u.ok = true) (hk : k ∈ u.kids) (hm : m.getLsbD k.ordinal = true)
    (hl : s.line k c = true) (h : s.CanLatch u k.ordinal) : ((s.relatch u m).fr u).src.getLsbD k.ordinal = true := by
  have hne := idx_ne_of_mem_kids hu hk
  refine foldl_reaches (P := fun t => State.line t k c = true ∧ State.CanLatch t u k.ordinal)
    (Q := fun t => (State.fr t u).src.getLsbD k.ordinal = true) hk ⟨hl, h⟩ ?_ ?_ ?_
  · rintro t b hb ⟨htl, ht⟩
    split
    · exact ⟨(State.line_congr (State.latchUp_fr_other (parent_of_mem_kids hu hb) hne) c).trans htl, ht.latchUp b⟩
    · exact ⟨htl, ht⟩
  · rintro t ⟨htl, ht⟩
    rw [if_pos hm]
    exact State.CanLatch.latchUp_latches (parent_of_mem_kids hu hk) hne htl ht
  · intro t b ht
    split
    · exact (t.latchUp_srcUp b).src ht
    · exact ht

/-- A unit out of reset with source i unmasked can latch it. -/
theorem State.mgReady.canLatch (hw : s.Wf) (h : s.mgReady u) (hi : i < 16) (hm : (s.fr u).mask.getLsbD i = false) : s.CanLatch u i :=
  ⟨hw.idx_lt h.2.1, hi, hm, h.not_resetting⟩

/-- Where no child's line is high, a write clears the bits it names and nothing else (R31). -/
theorem State.wFaultWord_clears (hf : u.idx < s.frames.length) (hu : u.ok = true) (h : ∀ k ∈ u.kids, ∀ c, s.line k c = false) :
    let m := srcBits v
    let t := s.wFaultWord u v
    t.fr u = ((s.fr u).clearSrc m).clearAmbig v ∧ (∀ w, w.ok = true → w ≠ u → t.fr w = s.fr w) ∧ t = { s with frames := t.frames } := by
  intro m t
  have hlow : ∀ k ∈ u.kids, ∀ c, (s.onFr u (Frame.clearSrc m)).line k c = false := fun k hk c =>
    (State.line_congr (State.fr_onFr_ne _ _ _ _ (idx_ne_of_mem_kids hu hk)) c).trans (h k hk c)
  have ht : t = (s.onFr u (Frame.clearSrc m)).onFr u (Frame.clearAmbig v) := by
    rw [← State.relatch_of_lines_low (m := m) hlow]
    exact State.wFaultWord_eq s u v
  refine ⟨?_, fun w hw hne => ?_, ?_⟩
  · rw [ht, State.fr_onFr _ _ _ (by simpa using hf), State.fr_onFr _ _ _ hf]
  · rw [ht, State.fr_onFr_other hu hw hne, State.fr_onFr_other hu hw hne]
  · rw [ht]
    rfl

/-- A named bit whose child's line is high is set again by the end of the write (R31, R386). -/
theorem State.wFaultWord_relatches {c : Cls3} (hu : u.ok = true) (hk : k ∈ u.kids) (hl : s.line k c = true)
    (hm : (srcBits v).getLsbD k.ordinal = true) (h : s.CanLatch u k.ordinal) : ((s.wFaultWord u v).fr u).src.getLsbD k.ordinal = true := by
  have hl' : (s.onFr u (Frame.clearSrc (srcBits v))).line k c = true :=
    (State.line_congr (State.fr_onFr_ne _ _ _ _ (idx_ne_of_mem_kids hu hk)) c).trans hl
  rw [State.wFaultWord_eq, State.fr_onFr_proj Frame.src]
  exact State.CanLatch.relatch hu hk hm hl' h.onFr

/-! ### FAULT_INJ -/

/-- The sources a leaf type has. -/
def knownSrc (ty : Nat) : BitVec 16 :=
  (List.range 16).foldl (fun (a : BitVec 16) i => if (srcClass ty i).isSome then a ||| ((1 : BitVec 16) <<< i) else a) 0

theorem getLsbD_foldl_bits (p : Nat → Bool) (hi : i < 16) (l : List Nat) (a : BitVec 16) :
    (l.foldl (fun (a : BitVec 16) j => if p j then a ||| ((1 : BitVec 16) <<< j) else a) a).getLsbD i =
      (a.getLsbD i || (decide (i ∈ l) && p i)) := by
  induction l generalizing a with
  | nil => simp
  | cons j l ih =>
    have hj : (if p j then a ||| ((1 : BitVec 16) <<< j) else a).getLsbD i = (a.getLsbD i || (decide (i = j) && p i)) := by
      by_cases e : i = j
      · subst e
        cases p i <;> simp [hi, -BitVec.getLsbD_eq_getElem]
      · have hne : j ≤ i → i - j ≠ 0 := by omega
        cases p j <;> simp +contextual [e, hne, -BitVec.getLsbD_eq_getElem]
    rw [List.foldl_cons, ih, hj]
    cases p i <;> simp [Bool.or_assoc, List.mem_cons, -BitVec.getLsbD_eq_getElem]

theorem knownSrc_getLsbD (hi : i < 16) (ty : Nat) : (knownSrc ty).getLsbD i = (srcClass ty i).isSome := by
  rw [knownSrc, getLsbD_foldl_bits (fun j => (srcClass ty j).isSome) hi]
  simp [hi]

/-- The frame of a leaf unit with the sources a written word names armed, of those it has. -/
def Frame.arm (u : UnitId) (v : Word) (f : Frame) : Frame := { f with inj := srcBits v &&& knownSrc u.ty }

theorem State.check_disarmed (h : (s.fr u).inj.getLsbD i = false) : s.check u i false = s := by
  simp [State.check, State.fire, h, -BitVec.getLsbD_eq_getElem]

theorem State.wFaultInj_denied (h : s.has 1 = false) : s.wFaultInj u v = s := by
  simp [State.wFaultInj, h]

theorem State.wFaultInj_leaf (hf : u.idx < s.frames.length) (hp : s.has 1 = true) (hg : u.isGroup = false)
    (hn : ∀ x, u = .network x → v.getLsbD 1 = false) :
    s.wFaultInj u v = s.onFr u (Frame.arm u v) := by
  have hoff : ∀ x, u = .network x → ((s.onFr u (Frame.arm u v)).fr u).inj.getLsbD 1 = false := by
    intro x hx
    rw [State.fr_onFr _ _ _ hf]
    simp [Frame.arm, srcBits_getLsbD, hn x hx, -BitVec.getLsbD_eq_getElem]
  unfold State.wFaultInj
  extract_lets m known s1
  rw [hp, hg, if_neg (by simp), if_neg (by simp)]
  split
  · exact State.check_disarmed (hoff _ rfl)
  · rfl

/-- With the privilege, a leaf's arms are the named sources it has, and nothing else changes (R405). -/
theorem State.wFaultInj_arms (hf : u.idx < s.frames.length) (hu : u.ok = true) (hp : s.has 1 = true) (hg : u.isGroup = false)
    (hn : ∀ x, u = .network x → v.getLsbD 1 = false) :
    let t := s.wFaultInj u v
    (∀ i < 16, (t.fr u).inj.getLsbD i = (v.getLsbD i && (srcClass u.ty i).isSome)) ∧ t.fr u = { s.fr u with inj := (t.fr u).inj } ∧
    (∀ w, w.ok = true → w ≠ u → t.fr w = s.fr w) ∧ t.cells = s.cells ∧ t.mgmt = s.mgmt := by
  intro t
  have ht : t = s.onFr u (Frame.arm u v) := State.wFaultInj_leaf hf hp hg hn
  have hfr : t.fr u = Frame.arm u v (s.fr u) := ht ▸ s.fr_onFr u _ hf
  refine ⟨fun i hi => ?_, by rw [hfr]; rfl, fun w hw hne => ht ▸ State.fr_onFr_other hu hw hne _, by rw [ht]; rfl, by rw [ht]; rfl⟩
  rw [hfr, Frame.arm, BitVec.getLsbD_and, srcBits_getLsbD hi, knownSrc_getLsbD hi]

/-- The class that FLT_INJ_CLS gives an injected bit of a group frame (R408). -/
def Frame.injClass (f : Frame) : Cls3 :=
  match f.injCls.toNat with
  | 0 => .corr
  | 1 => .cont
  | _ => .fatal

/-- The armed bit of child k of group frame u fires with class c (R407). -/
def State.inject1 (u : UnitId) (c : Cls3) (s : State) (k : UnitId) : State :=
  (s.latch u k.ordinal c).onFr u fun f => { f with fired := f.fired ||| ((1 : BitVec 16) <<< k.ordinal) }

theorem State.wFaultInj_group (hp : s.has 1 = true) (hg : u.isGroup = true) :
    s.wFaultInj u v =
      ((u.kids.filter fun k => (srcBits v).getLsbD k.ordinal).foldl (State.inject1 u (s.fr u).injClass) s).collect u := by
  simp only [State.wFaultInj, hp, hg, Bool.not_true, Bool.false_eq_true, if_true, if_false]
  rfl

theorem State.inject1_rptOnly (s : State) (u : UnitId) (c : Cls3) (k : UnitId) : RptOnly s (s.inject1 u c k) :=
  (s.latch_rptOnly _ _ _).trans (State.onFr_rptOnly _ _ _)

/-- An injected bit of a group frame latches and shows in INJ_FIRED (R407). -/
theorem State.inject_fires (hk : k ∈ u.kids) (hv : v.getLsbD k.ordinal = true) (hp : s.has 1 = true) (h : s.CanLatch u k.ordinal) :
    ((s.wFaultInj u v).fr u).src.getLsbD k.ordinal = true ∧ ((s.wFaultInj u v).fr u).fired.getLsbD k.ordinal = true := by
  rw [State.wFaultInj_group hp (isGroup_of_mem_kids hk)]
  set c := (s.fr u).injClass
  have hmem : k ∈ u.kids.filter fun k => (srcBits v).getLsbD k.ordinal :=
    List.mem_filter.2 ⟨hk, (srcBits_getLsbD h.bit).trans hv⟩
  have hfold := foldl_reaches (P := fun t => State.CanLatch t u k.ordinal) (f := State.inject1 u c)
    (Q := fun t => (State.fr t u).src.getLsbD k.ordinal = true ∧ (State.fr t u).fired.getLsbD k.ordinal = true ∧
      u.idx < t.frames.length) hmem h
    (fun t b _ ht => (ht.latch u b.ordinal c).onFr) ?_ ?_
  · obtain ⟨hsrc, hfired, -⟩ := hfold
    exact ⟨(State.collect_srcUp _ u).src hsrc, (congrArg (·.getLsbD k.ordinal) ((State.collect_srcUp _ u).fired u)).trans hfired⟩
  · intro t ht
    have hl := (ht.latch u k.ordinal c).frame
    rw [State.inject1, State.fr_onFr _ _ _ hl]
    refine ⟨ht.latches c, ?_, by simpa using hl⟩
    simp [ht.bit]
  · rintro t b ⟨hsrc, hfired, hlen⟩
    obtain ⟨_, _, _, e, hl, -⟩ := t.latch_rptOnly u b.ordinal c
    have hl' : u.idx < (t.latch u b.ordinal c).frames.length := by rw [e]; exact hl ▸ hlen
    rw [State.inject1, State.fr_onFr _ _ _ hl']
    refine ⟨(t.latch_srcUp _ _ _).src hsrc, ?_, by simpa using hl'⟩
    rw [(t.latch_srcUp u b.ordinal c).fired u]
    simp [hfired, -BitVec.getLsbD_eq_getElem]

theorem State.inject_rptOnly (hp : s.has 1 = true) (hg : u.isGroup = true) : RptOnly s (s.wFaultInj u v) := by
  rw [State.wFaultInj_group hp hg]
  exact (RptOnly.foldl _ _ (fun t b => t.inject1_rptOnly u _ b) s).trans (State.collect_rptOnly _ _)

/-! ### FLT_FENCE -/

theorem Kept.assignCarrier {s₀ : State} (h : Kept s₀ s) {p : Nat} : Kept s₀ (s.assignCarrier p) := by
  unfold State.assignCarrier
  split
  · exact h
  · split
    · exact h.rest.rest
    · exact h.rest

/-- After it is marked, what fencing an Awl, a Harness or a set of movers still does keeps the frames. -/
theorem State.fenceUnit_kept (hf : fenceable u k = true) (hn : s.isFenced k = false) : Kept (s.markFenced k) (s.fenceUnit k) := by
  have h0 := Kept.refl (s.markFenced k)
  rcases fenceable_cases hf with ⟨p, rfl⟩ | ⟨x, rfl⟩ | ⟨x, rfl⟩
  · show Kept _ (s.fenceAwl p)
    rw [State.fenceAwl, if_neg (by simp [hn])]
    extract_lets s0 s1 other s2 s3 s4 s5
    have h2 : Kept s1 s2 := h0.rest
    have h3 : Kept s1 s3 := by
      unfold s3
      clear_value other
      cases other with
      | none => exact h2
      | some r => exact h2.assignCarrier
    exact h3.assignCarrier.dropAwl.commit
  · show Kept _ (s.fenceHarness x)
    rw [State.fenceHarness, if_neg (by simp [hn])]
    exact h0.loseEngine.commit
  · show Kept _ (s.fenceMovers x)
    rw [State.fenceMovers, if_neg (by simp [hn])]
    exact h0.stopMovers.commit

theorem State.fenceUnit_frames (hf : fenceable u k = true) (hn : s.isFenced k = false) :
    (s.fenceUnit k).frames = upd s.frames k.idx Frame.fence :=
  (State.fenceUnit_kept hf hn).frames.trans (s.markFenced_frames k)

theorem State.fenceUnit_fr_other (hf : fenceable u k = true) (hn : s.isFenced k = false) (h : w.idx ≠ k.idx) :
    (s.fenceUnit k).fr w = s.fr w := by
  rw [State.fr, State.frame, State.fenceUnit_frames hf hn]
  exact upd_getD_ne _ _ _ _ _ h

theorem State.fenceUnit_isFenced (hf : fenceable u k = true) (hn : s.isFenced k = false) (h : k.idx < s.frames.length) :
    (s.fenceUnit k).isFenced k = true := by
  rw [State.isFenced, State.fr, State.frame, State.fenceUnit_frames hf hn, upd_getD_self _ _ _ _ h]
  rfl

/-- The frame with the written word's ordinal as its child to fence. -/
def Frame.fenceSel (v : Word) (f : Frame) : Frame := { f with fenceOrd := BitVec.ofNat 4 (fld v 0 4) }

section
variable (hg : u.isGroup = true) (h8 : v.getLsbD 8 = true)
include hg h8

theorem State.wFltFence_eq (hk : u.kids[fld v 0 4]? = some k) (hkey : keyed v = true) (hfe : fenceable u k = true)
    (hn : s.isFenced k = false) :
    s.wFltFence u v = (((s.onFr u (Frame.fenceSel v)).fenceUnit k).latch u k.ordinal .cont).collect u := by
  simp only [State.wFltFence, hg, h8, hk, hkey, hfe, hn, Bool.not_true, Bool.or_self, Bool.false_eq_true, if_false]
  rfl

/-- A write with the key for a child that may be fenced fences it, and the parent latches its bit (R392). -/
theorem State.wFltFence_fences (hf : s.frames.length = 757) (hu : u.ok = true)
    (hk : u.kids[fld v 0 4]? = some k) (hkey : keyed v = true) (hfe : fenceable u k = true) (hn : s.isFenced k = false) :
    (s.wFltFence u v).isFenced k = true ∧
      (s.CanLatch u k.ordinal → ((s.wFltFence u v).fr u).src.getLsbD k.ordinal = true) := by
  have hmem : k ∈ u.kids := List.mem_of_getElem? hk
  have hne := idx_ne_of_mem_kids hu hmem
  set r := s.onFr u (Frame.fenceSel v) with hr
  have hlen : k.idx < r.frames.length := by simpa [hr, hf] using idx_lt (ok_of_mem_kids hu hmem)
  have hnr : r.isFenced k = false := (congrArg Frame.fenced (State.fr_onFr_ne _ _ _ _ hne)).trans hn
  have hup : SrcUp ((r.fenceUnit k).latch u k.ordinal .cont) (s.wFltFence u v) :=
    State.wFltFence_eq hg h8 hk hkey hfe hn ▸ State.collect_srcUp _ u
  refine ⟨?_, fun hc => ?_⟩
  · rw [hup.fenced, SrcUp.fenced (State.latch_srcUp _ _ _ _)]
    exact State.fenceUnit_isFenced hfe hnr hlen
  · have hcr : r.CanLatch u k.ordinal := hc.onFr
    have hcf : (r.fenceUnit k).CanLatch u k.ordinal :=
      hcr.of_fr (by rw [State.fenceUnit_frames hfe hnr, upd_length]) (State.fenceUnit_fr_other hfe hnr (Ne.symm hne))
    exact hup.src (hcf.latches _)

/-- Without the key, or for a child that may not be fenced, the write is refused (R392). -/
theorem State.wFltFence_refused
    (h : keyed v = false ∨ ∀ k, u.kids[fld v 0 4]? = some k → fenceable u k = false) : s.wFltFence u v = s.reject u := by
  unfold State.wFltFence
  rw [hg, h8, if_neg (by simp), if_neg (by simp)]
  split
  · rfl
  next k hk =>
    refine if_pos ?_
    rcases h with h | h
    · simp [h]
    · simp [h k hk]

end

/-! ### The obligation -/

/-- A write whose register is reached runs its rule with one access counted and answers OK. -/
theorem answers_mgWrite {c : Instr} {f : State → State} {P : State → Prop} (hc : exec c s = onMgmt u s f) (hw : s.Wf) (h : s.mgReady u)
    (hP : ∀ cs n, cs.length = 757 → P ((f { s with cnts := cs, free := n }).answer 0 cOK)) : Answers c s P := by
  obtain ⟨cs, n, hl, e⟩ := State.mgWrite_ready h f
  exact ⟨_, hc.trans (congrArg Host.Outcome.next e), hP cs n (hl.trans hw.cnts)⟩

/-- Settles O54: a write changes its own frame, and what it latches there are bits of a frame out of reset; a child's line is read from
the child's frame, which neither the write nor the latches before it touch; a fence marks the child and keeps every other frame. -/
theorem faultRegisters : Obligations.FaultRegisters := by
  unfold Obligations.FaultRegisters
  refine ⟨fun s u v hw h => ⟨fun hlow => ?_, fun k hk c hl hm hmask => ?_⟩,
    fun s u v hw h => ⟨fun hp => ?_, fun hp hg hn => ?_, fun k hp hk hv hi hmask => ?_⟩,
    fun s u v hw h hg h8 => ⟨fun k hk hkey hfe hn => ?_, fun hrf => ?_⟩⟩ <;>
    obtain ⟨-, hu, -⟩ := id h <;>
    refine answers_mgWrite rfl hw h fun cs n hcs => ?_ <;>
    have hf : u.idx < s.frames.length := hw.idx_lt hu
  · obtain ⟨hfr, hother, heq⟩ := State.wFaultWord_clears (s := { s with cnts := cs, free := n }) (v := v) hf hu hlow
    exact ⟨hfr, hother, by rw [heq]; rfl, State.answer_granted (by rw [heq])⟩
  · have hc := (h.canLatch hw (BitVec.lt_of_getLsbD hm) hmask).of_fr (t := { s with cnts := cs, free := n }) rfl rfl
    exact State.wFaultWord_relatches (s := { s with cnts := cs, free := n }) (v := v) hu hk hl hm hc
  · rw [State.wFaultInj_denied (s := { s with cnts := cs, free := n }) hp]
    exact ⟨rfl, rfl, State.answer_granted rfl⟩
  · obtain ⟨hinj, hfr, hother, hcells, hm⟩ := State.wFaultInj_arms (s := { s with cnts := cs, free := n }) hf hu hp hg hn
    exact ⟨hinj, hfr, hother, hcells, State.answer_granted hm⟩
  · have hc := (h.canLatch hw hi hmask).of_fr (t := { s with cnts := cs, free := n }) rfl rfl
    obtain ⟨hsrc, hfired⟩ := State.inject_fires (s := { s with cnts := cs, free := n }) hk hv hp hc
    obtain ⟨_, _, _, e, -, -⟩ := State.inject_rptOnly (s := { s with cnts := cs, free := n }) (v := v) hp (isGroup_of_mem_kids hk)
    exact ⟨hsrc, hfired, by rw [e]; rfl, State.answer_granted (by rw [e])⟩
  · obtain ⟨hfenced, hlatch⟩ := State.wFltFence_fences (s := { s with cnts := cs, free := n }) hg h8 hw.frames hu hk hkey hfe hn
    exact ⟨hfenced, fun hmask => hlatch ((h.canLatch hw (ordinal_lt_of_fenceable hfe) hmask).of_fr rfl rfl)⟩
  · rw [State.wFltFence_refused hg h8 hrf]
    exact ⟨State.fr_onFr _ _ _ hf, fun w hok hne => State.fr_onFr_other hu hok hne _, rfl, State.answer_granted rfl⟩

end Sys2Proof.Machine
end

section
/-! SUPPORT. Start-up from CLOCK to the accepted image. -/
namespace Sys2Proof.Machine

variable {s t : State} {i : Image}

/-- A command that ends the phase the block is in has its effect. -/
theorem answers_onPhase {c : Instr} {ph : BitVec 4} {f : State → State} {P : State → Prop} (hc : exec c s = onPhase ph s f)
    (h : s.inPhase ph = true) (hP : P (f s)) : Answers c s P :=
  ⟨_, hc.trans (if_pos h), hP⟩

/-- Settles O1: the queue of the state the step begins in is not empty. -/
theorem stepRunsFrontCommand : Obligations.StepRunsFrontCommand := by
  unfold Obligations.StepRunsFrontCommand
  intro c rest s
  rw [step]

/-! ### CLOCK -/

/-- The block is out of reset and past CLOCK: a change of an input or a strap only latches its flag. -/
theorem not_clock (hr : s.boot.rstLow = false) (hp : s.boot.phase ≠ 0) : ¬ (s.boot.rstLow || s.boot.phase = 0) = true := by
  simpa [hr] using hp

/-- Settles O7: the inputs are latched whatever they are, and the value alone decides the phase that follows. -/
theorem clockEnd : Obligations.ClockEnd := by
  unfold Obligations.ClockEnd
  refine ⟨fun s lc key fs lv h => ?_, fun s hr hp => ⟨if_neg (not_clock hr hp), if_neg (not_clock hr hp)⟩⟩
  refine answers_onPhase (show execClockEnd lc key fs lv s = _ by rw [execClockEnd]) h ?_
  by_cases hok : within lc.toNat 1 5 = true ∧ lc ≠ 5
  · rw [if_pos (by simpa using hok), if_pos hok]
    exact ⟨rfl, rfl, rfl, rfl, rfl, rfl, rfl⟩
  · rw [if_neg (by simpa using hok), if_neg hok]
    exact ⟨rfl, rfl, rfl, rfl, rfl, rfl, rfl⟩

/-! ### The image accepted -/

/-- A report leaves the start-up registers. -/
theorem RptOnly.boot (h : RptOnly s t) : t.boot = s.boot := by
  obtain ⟨_, _, _, rfl, -⟩ := h
  rfl

theorem RptOnly.image (h : RptOnly s t) : t.image = s.image := by
  obtain ⟨_, _, _, rfl, -⟩ := h
  rfl

/-- The state in SLOTS with image i running. -/
def State.runImage (s : State) (i : Image) : State :=
  { (s.toPhase 4).onBoot fun b => { b with fallback := s.boot.onFallback, imgSeq := i.imgSeq, cand := none } with image := some i }

/-- An accepted image is running in SLOTS; that it is the fallback is reported. -/
theorem State.imageOk_rptOnly (s : State) (i : Image) : RptOnly (s.runImage i) (s.imageOk i) :=
  .ite (State.report_rptOnly _ _ _) (.refl _)

/-- LOAD_END on an image that passes checks 1 to 7 (R58). -/
theorem loadEnd_passed {len : Nat} (h : s.inPhase 2 = true)
    (hh : headerLen (flashRead s.flash.cells (if s.boot.onFallback then 0x200000 else 0) 64) = some len)
    (hc : checkImage (flashRead s.flash.cells (if s.boot.onFallback then 0x200000 else 0) len) len s.hides s.build.toNat (s.boot.lcKey != 0) =
      .pass i) :
    exec .loadEnd s = .next (if s.boot.lcKey = 0 then s.imageOk i else (s.toPhase 3).onBoot fun b => { b with cand := some i }) := by
  show execLoadEnd s = _
  rw [execLoadEnd, onPhase, if_pos h]
  dsimp only
  rw [hh]
  dsimp only
  rw [hc]

/-- VERIFY_END on an image whose key and signature pass checks 8 and 9 (R58). -/
theorem verifyEnd_passed {qx qy r u : Nat} (h : s.inPhase 3 = true) (hi : s.boot.cand = some i) (hs : i.sig = some (qx, qy, r, u))
    (hk : sha256 ((leBytes qx 32).reverse ++ (leBytes qy 32).reverse) = s.boot.lcKey.toNat) (he : ecdsaOk qx qy r u i.digest = true) :
    exec .verifyEnd s = .next ((s.imageOk i).onBoot fun b => { b with signed := true }) := by
  show execVerifyEnd s = _
  rw [execVerifyEnd, onPhase, if_pos h, hi]
  dsimp only
  rw [hs]
  dsimp only
  rw [hk, he, bne_self_eq_false, if_neg (by simp), if_neg (by simp)]

/-- DISCOVER_END on a flash whose parameters R53 accepts. -/
theorem discoverEnd_accepted {x : Sfdp} (h : s.inPhase 1 = true) (hm : x.major = 1) (h0 : bits (x.dwords.getD 0 0).toNat 0 2 = 1)
    (h17 : bits (x.dwords.getD 0 0).toNat 17 2 ≠ 3) (h21 : bitN (x.dwords.getD 0 0).toNat 21 = true)
    (hd : 2 ^ 26 ≤ sfdpBits (x.dwords.getD 1 0)) :
    exec (.discoverEnd (some x)) s = .next ((s.toPhase 2).onBoot fun b => { b with
      onFallback := false, flAddr4 := bits (x.dwords.getD 0 0).toNat 17 2 == 2
      flErase := BitVec.ofNat 8 ((x.dwords.getD 0 0).toNat / 256), flBytes := sfdpBits (x.dwords.getD 1 0) / 8
      flQuad := (x.dwords.getD 2 0).setWidth 16, flQe := BitVec.ofNat 3 (bits (x.dwords.getD 14 0).toNat 20 3)
      flPage := 2 ^ bits (x.dwords.getD 10 0).toNat 4 4 }) := by
  show execDiscoverEnd (some x) s = _
  rw [execDiscoverEnd, onPhase, if_pos h]
  exact congrArg Host.Outcome.next (if_pos (by simp only [hm, h0, h21, hd, bne_iff_ne.2 h17, decide_true, beq_self_eq_true, Bool.and_self]))

/-- Settles O8: each end of a phase has the effect of the checks it passes, and failing leaves the phase FAILED with its result. -/
theorem imageLoading : Obligations.ImageLoading := by
  unfold Obligations.ImageLoading
  refine ⟨⟨fun s h => ?_, fun s x h hm h0 h17 h21 hd => ?_, fun s hr hp => ?_⟩,
    fun s len i h hh hc => ?_, fun s i qx qy r u h hi hs hk he => ?_⟩
  · refine answers_onPhase (show execDiscoverEnd none s = _ by rw [execDiscoverEnd]) h ?_
    exact ⟨rfl, rfl⟩
  · exact ⟨_, discoverEnd_accepted h hm h0 h17 h21 hd, rfl, rfl, rfl, rfl, rfl, rfl⟩
  · refine ⟨_, if_neg (by simp [hr]; omega), rfl, rfl⟩
  · have hr := s.imageOk_rptOnly i
    refine ⟨_, loadEnd_passed h hh hc, fun hk => ?_, fun hk => ?_⟩
    · rw [if_pos hk, hr.boot, hr.image]
      exact ⟨rfl, rfl, rfl, rfl⟩
    · rw [if_neg hk]
      exact ⟨rfl, rfl, rfl⟩
  · have hr := s.imageOk_rptOnly i
    refine ⟨_, verifyEnd_passed h hi hs hk he, ?_, rfl, hr.image, ?_⟩
    · exact congrArg Boot.phase hr.boot
    · exact congrArg Boot.fallback hr.boot

end Sys2Proof.Machine
end

section
/-! SUPPORT. Start-up from the record slots to the open ports. -/
namespace Sys2Proof.Machine

variable {s : State}

/-! ### SLOTS -/

/-- The winners of both pairs of slots held (R62): what a pair resolves to is its slot, its number, its body and whether a slot is
damaged. -/
def State.holdRecords (s : State) (cal ret : BitVec 2 × Word × List Byte × Bool) : State :=
  { s.onBoot fun b => { b with slotCal := cal.1, slotRet := ret.1, calSeq := cal.2.1, retSeq := ret.2.1 } with
    calRec := cutEntries 896 (half16 cal.2.2.1 2) (cal.2.2.1.drop 16), retRec := cutEntries 8 (half16 ret.2.2.1 2) (ret.2.2.1.drop 16) }

/-- The reports on the slots: one damaged, a calibration record missing, a retirement record missing (R62). -/
def State.reportSlots (s : State) (cal ret : BitVec 2 × Word × List Byte × Bool) : State :=
  let s := if cal.2.2.2 || ret.2.2.2 then s.report .loader 1 else s
  let s := if cal.1 = 3 then s.report .loader 2 else s
  if ret.1 = 3 then s.report .loader 3 else s

theorem State.reportSlots_rptOnly (s : State) (cal ret : BitVec 2 × Word × List Byte × Bool) : RptOnly s (s.reportSlots cal ret) := by
  have hr : ∀ (t : State) (c : Prop) [Decidable c] (i : Nat), RptOnly t (if c then t.report .loader i else t) :=
    fun t _ _ i => .ite (t.report_rptOnly _ i) (.refl t)
  exact ((hr _ _ 1).trans (hr _ _ 2)).trans (hr _ _ 3)

/-- The controller of a channel that stays unpowered. -/
def Ctl.unpower (c : Ctl) : Ctl := { c with unpowered := true }

/-- The channels that the record fences stay unpowered (R109). -/
def State.unpower (s : State) (rets : List (List Byte)) : State :=
  ((List.range 136).filter (recFenced rets)).foldl (fun s p => s.onCtl p Ctl.unpower) s

theorem State.unpower_eq (s : State) (rets : List (List Byte)) : ∃ ctls, s.unpower rets = { s with ctls := ctls } := by
  unfold State.unpower
  refine List.foldlRecOn (motive := fun t : State => ∃ ctls, t = { s with ctls := ctls }) _ _ ⟨_, rfl⟩ ?_
  rintro t ⟨ctls, rfl⟩ p -
  exact ⟨_, rfl⟩

theorem State.unpower_ctl (h : s.ctls.length = 136) (rets : List (List Byte)) {p : Nat} (hp : p < 136) :
    (((s.unpower rets).ctl p).unpowered) = ((s.ctl p).unpowered || recFenced rets p) := by
  have hs : ∀ (t : State) (p : Nat), (t.onCtl p Ctl.unpower).ctls = upd t.ctls (id p) Ctl.unpower := fun _ _ => rfl
  cases hf : recFenced rets p with
  | true =>
    have hm : p ∈ ((List.range 136).filter (recFenced rets)).map id := by simp [hp, hf]
    have e := foldl_upd_mem hs (fun _ => rfl) hm s (h ▸ hp) {}
    rw [Bool.or_true]
    exact congrArg Ctl.unpowered e
  | false =>
    have hm : p ∉ ((List.range 136).filter (recFenced rets)).map id := by simp [hf]
    have e := foldl_upd_not_mem hs hm s {}
    rw [Bool.or_false]
    exact congrArg Ctl.unpowered e

theorem execSlotsEnd_eq (h : s.inPhase 4 = true) :
    let cal := resolvePair (s.readSlot true false) (s.readSlot true true)
    let ret := resolvePair (s.readSlot false false) (s.readSlot false true)
    exec .slotsEnd s =
      .next ((((s.holdRecords cal ret).reportSlots cal ret).unpower (s.holdRecords cal ret).retRec).toPhase 5) := by
  show execSlotsEnd s = _
  rw [execSlotsEnd, onPhase, if_pos h]
  generalize resolvePair (s.readSlot true false) (s.readSlot true true) = cal
  generalize resolvePair (s.readSlot false false) (s.readSlot false true) = ret
  simp only [State.unpower, List.foldl_filter]
  rfl

theorem slotsEnd_effect (hw : s.Wf) (h : s.inPhase 4 = true) : Answers .slotsEnd s fun t =>
    let cal := resolvePair (s.readSlot true false) (s.readSlot true true)
    let ret := resolvePair (s.readSlot false false) (s.readSlot false true)
    t.boot.phase = 5 ∧ t.boot.slotCal = cal.1 ∧ t.boot.slotRet = ret.1 ∧ t.boot.calSeq = cal.2.1 ∧ t.boot.retSeq = ret.2.1 ∧
    t.calRec = cutEntries 896 (half16 cal.2.2.1 2) (cal.2.2.1.drop 16) ∧ t.retRec = cutEntries 8 (half16 ret.2.2.1 2) (ret.2.2.1.drop 16) ∧
    (∀ p < 136, (t.ctl p).unpowered = ((s.ctl p).unpowered || recFenced t.retRec p)) ∧ t.flash = s.flash ∧ t.cells = s.cells := by
  refine ⟨_, execSlotsEnd_eq h, ?_⟩
  generalize resolvePair (s.readSlot true false) (s.readSlot true true) = cal
  generalize resolvePair (s.readSlot false false) (s.readSlot false true) = ret
  intro cal ret
  obtain ⟨fs, cs, n, e, -, -⟩ := (s.holdRecords cal ret).reportSlots_rptOnly cal ret
  have hl : ((s.holdRecords cal ret).reportSlots cal ret).ctls.length = 136 := by
    rw [e]
    exact hw.ctls
  have hctl := fun p hp => State.unpower_ctl hl (s.holdRecords cal ret).retRec (p := p) hp
  obtain ⟨ctls, ec⟩ := ((s.holdRecords cal ret).reportSlots cal ret).unpower_eq (s.holdRecords cal ret).retRec
  rw [ec, e] at hctl ⊢
  exact ⟨rfl, rfl, rfl, rfl, rfl, rfl, rfl, hctl, rfl, rfl⟩

/-! ### ISLANDS -/

/-- Every port that is not answered FENCED has its clock. -/
theorem State.islandsUp_clkOn (s : State) : ∀ q ∈ s.islandsUp.ports, q.fencedAll = false → q.clkOn = true := by
  refine List.forall_mem_map.2 fun q _ hq => ?_
  split at hq
  next hf => rw [hf] at hq; cases hq
  next hf => rw [if_neg hf]

/-- Fencing a sector takes no fence away. -/
theorem State.fenceSector_keeps_fence (x : Nat) {u : UnitId} (hu : u.idx < s.frames.length) (h : s.isFenced u = true) :
    (s.fenceSector x).isFenced u = true := by
  by_cases hx : s.isFenced (.sector x) = true
  · rwa [State.fenceSector, if_pos hx]
  · rw [State.isFenced, State.fr_of_frames (State.fenceSector_kept (by simpa using hx)).frames]
    by_cases hm : u.idx ∈ (UnitId.sector x).subtree.map UnitId.idx
    · exact congrArg Frame.fenced (foldl_upd_mem State.markFenced_frames Frame.fence_fence hm s hu {})
    · exact (congrArg Frame.fenced (foldl_upd_not_mem State.markFenced_frames hm s {})).trans h

/-- The sectors that have not locked are fenced. -/
theorem State.Wf.fenceUnlocked (hw : s.Wf) {l : List Nat} {x : Nat} (hx : x < 8) (hl : x ∈ l) :
    ((List.range 8).foldl (fun s x => if l.contains x then s.fenceSector x else s) s).isFenced (.sector x) = true := by
  have hok : (UnitId.sector x).ok = true := by simp [UnitId.ok, hx]
  have keep : ∀ (t : State) (y : Nat), t.Wf → (if l.contains y then t.fenceSector y else t).Wf :=
    fun t y ht => .ite ht.fenceSector ht
  refine And.right (a := State.Wf _) (foldl_reaches (P := State.Wf) (Q := fun t => t.Wf ∧ t.isFenced (.sector x) = true)
    (List.mem_range.2 hx) hw (fun t y _ => keep t y) (fun t ht => ⟨keep t x ht, ?_⟩) fun t y ht => ⟨keep t y ht.1, ?_⟩)
  · rw [if_pos (by simpa using hl)]
    exact t.fenceSector_isFenced (ht.idx_lt hok)
  · obtain ⟨htw, htf⟩ := ht
    split
    · exact State.fenceSector_keeps_fence y (htw.idx_lt hok) htf
    · exact htf

/-! ### BUILD -/

/-- Generation 1 is committed, and every port that is not answered FENCED is open (R46). -/
theorem State.openPorts_effect (s : State) :
    let t := s.openPorts
    t.boot.phase = 0xA ∧ t.boot.result = rsOK ∧ t.tack.busy = false ∧ t.tack.gen = 1 ∧ t.tackGen = 2 ∧ t.image = s.image ∧ t.cells = s.cells ∧
    (∀ f ∈ t.frames, f.egen = 1) ∧ ∀ q ∈ t.ports, q.fencedAll = false → q.up = true ∧ q.clkOn = true := by
  refine ⟨rfl, rfl, rfl, rfl, rfl, rfl, rfl, List.forall_mem_map.2 fun _ _ => rfl, List.forall_mem_map.2 fun q _ hq => ?_⟩
  split at hq
  next hf => rw [hf] at hq; cases hq
  next hf => rw [if_neg hf]; exact ⟨rfl, rfl⟩

/-- Settles O9: reports leave the registers that SLOTS sets, a fence stays through the fences after it, and the rest is what each phase's
end writes. -/
theorem startupPhases : Obligations.StartupPhases := by
  unfold Obligations.StartupPhases
  refine ⟨fun s hw h => slotsEnd_effect hw h, fun s h => ?_, fun s l hw h => ?_, fun s h => ?_, fun s h hp => ?_, fun s h hp => ?_⟩
  · refine answers_onPhase (show execIslandsEnd s = _ by rw [execIslandsEnd]) h ?_
    exact ⟨rfl, rfl⟩
  · refine answers_onPhase (show execIslandsLockTimeout l s = _ by rw [execIslandsLockTimeout]) h ?_
    exact ⟨rfl, fun x hl hx => hw.fenceUnlocked hx hl, State.islandsUp_clkOn _⟩
  · refine answers_onPhase (show execApplyEnd s = _ by rw [execApplyEnd]) h ?_
    exact ⟨rfl, List.forall_mem_map.2 fun _ _ => rfl⟩
  · refine answers_onPhase (show execBuildEnd s = _ by rw [execBuildEnd]) h ?_
    rw [if_neg (by simp [hp])]
    exact s.openPorts_effect
  · show execBuildEnd s = _
    rw [execBuildEnd, onPhase, if_pos h, if_pos hp]

end Sys2Proof.Machine
end

section
/-! SUPPORT. Start-up at the Hides: the end of HIDE_UP, and a channel trained. -/
namespace Sys2Proof.Machine

variable {s t : State} {p q : Nat} {r : TrainRes} {h : HideUp}

/-! ### HIDE_UP -/

/-- What start-up tries is the same in t as in s, and so are the start-up registers and the number of links. -/
structure SameTried (s t : State) : Prop where
  tried : ∀ p, t.tried p = s.tried p
  boot : t.boot = s.boot
  links : t.links.length = s.links.length

theorem SameTried.refl (s : State) : SameTried s s := ⟨fun _ => rfl, rfl, rfl⟩

theorem SameTried.trans {u : State} (h : SameTried s t) (k : SameTried t u) : SameTried s u :=
  ⟨fun p => (k.tried p).trans (h.tried p), k.boot.trans h.boot, k.links.trans h.links⟩

theorem SameTried.foldl {α : Type} {f : State → α → State} (hf : ∀ s a, SameTried s (f s a)) (l : List α) (s : State) :
    SameTried s (l.foldl f s) :=
  List.foldlRecOn (motive := SameTried s) _ _ (.refl s) fun t ht a _ => ht.trans (hf t a)

theorem State.onCur_sameTried (s : State) (p : Nat) (f : Cur → Cur) : SameTried s (s.onCur p f) := ⟨fun _ => rfl, rfl, rfl⟩

theorem State.onLink_sameTried (s : State) (p : Nat) (f : Link → Link) : SameTried s (s.onLink p f) :=
  ⟨fun _ => rfl, rfl, upd_length ..⟩

theorem State.report_sameTried (s : State) (u : UnitId) (bit : Nat) : SameTried s (s.report u bit) := by
  have hf : ∀ p, (s.report u bit).chFenced p = s.chFenced p := fun p => (s.report_srcUp u bit).fenced _
  refine ⟨fun p => ?_, ?_, ?_⟩
  · rw [State.tried, hf]
    rw [State.report_eq]
    rfl
  all_goals rw [State.report_eq]

theorem State.sensConst_sameTried (s : State) (e : Nat × Nat × BitVec 16 × BitVec 16) : SameTried s (s.sensConst e) := by
  obtain ⟨p, x, lo, hi⟩ := e
  have h (f : Cur → Cur) (g : Link → Link) : SameTried s ((s.onCur p f).onLink p g) :=
    (s.onCur_sameTried p f).trans (State.onLink_sameTried _ p g)
  rw [State.sensConst]
  split
  · exact (h _ _).trans (State.report_sameTried _ _ _)
  · exact h _ _

theorem State.dieFit_sameTried (s : State) (e : Nat × Nat × BitVec 16) : SameTried s (s.dieFit e) := s.onCur_sameTried _ _

/-- The channels tried. -/
def State.triedList (s : State) : List Nat := (List.range 136).filter s.tried

theorem State.mem_triedList : p ∈ s.triedList ↔ p < 136 ∧ s.tried p = true := by simp [State.triedList]

/-- A channel is in training. -/
def Link.train (l : Link) : Link := { l with st := .training }

/-- What HIDE_UP_END does where every Hide answers at some channel: the channels where one does not, `dead`, are dropped, and the others
begin to train. -/
def State.hidesUp (s : State) (h : HideUp) (dead : List Nat) : State :=
  let live := s.triedList.filter fun p => !dead.contains p
  let s := (dead.filter (posOf · == 16) ++ dead.filter (posOf · != 16)).foldl State.dropChan s
  let s := (h.sensK.filter fun e => live.contains e.1 && e.2.1 < s.hides).foldl State.sensConst s
  let s := (h.die.filter fun e => live.contains e.1).foldl State.dieFit s
  ((live.foldl (fun s p => s.onLink p Link.train) s).toPhase 7).trainOver

theorem hideUpEnd_eq (hp : s.inPhase 6 = true) :
    exec (.hideUpEnd h) s = .next (
      if (List.range s.hides).any fun k => s.triedList.all fun p => h.silent.contains (p, k) then s.bootFail rsHIDE
      else s.hidesUp h (s.triedList.filter fun p => (List.range s.hides).any fun k => h.silent.contains (p, k))) := by
  show execHideUpEnd h s = _
  rw [execHideUpEnd, onPhase, if_pos hp]
  rfl

theorem any_silent {k : Nat} (hk : k < s.hides) (hs : ∀ p < 136, s.tried p = true → (p, k) ∈ h.silent) :
    ((List.range s.hides).any fun k => s.triedList.all fun p => h.silent.contains (p, k)) = true := by
  refine List.any_eq_true.2 ⟨k, List.mem_range.2 hk, List.all_eq_true.2 fun p hm => ?_⟩
  obtain ⟨hp, ht⟩ := State.mem_triedList.1 hm
  simpa using hs p hp ht

theorem none_silent (hs : h.silent = []) (hp : p < 136) (ht : s.tried p = true) :
    ((List.range s.hides).any fun k => s.triedList.all fun p => h.silent.contains (p, k)) = false := by
  refine List.any_eq_false.2 fun k _ hall => ?_
  have hc := List.all_eq_true.1 hall p (State.mem_triedList.2 ⟨hp, ht⟩)
  rw [hs] at hc
  cases hc

/-- Where no channel is dropped, what is held of the Hides changes nothing that start-up tries. -/
theorem State.hidesUp_nil (s : State) (h : HideUp) :
    ∃ u, SameTried s u ∧ s.hidesUp h [] = ((s.triedList.foldl (fun s p => s.onLink p Link.train) u).toPhase 7).trainOver := by
  have hl : (s.triedList.filter fun p => !([] : List Nat).contains p) = s.triedList := by simp
  unfold State.hidesUp
  rw [hl]
  exact ⟨_, (SameTried.foldl State.sensConst_sameTried _ s).trans (SameTried.foldl State.dieFit_sameTried _ _), rfl⟩

/-- While a channel is still to be trained, start-up stays in TRAIN (R51). -/
theorem State.trainOver_waits (hp : p < 136) (ht : s.tried p = true) (hn : s.boot.trained.contains p = false) : s.trainOver = s := by
  have ha : s.allTrained = false := by
    refine List.all_eq_false.2 ⟨p, List.mem_range.2 hp, ?_⟩
    rw [ht, hn]
    decide
  rw [State.trainOver, ha]
  rfl

theorem hideUpEnd_trains (hw : s.Wf) (hp : s.inPhase 6 = true) (ht : s.boot.trained = []) (hs : h.silent = [])
    (hex : ∃ p < 136, s.tried p = true) :
    Answers (.hideUpEnd h) s fun t => t.boot.phase = 7 ∧ ∀ p < 136, s.tried p = true → (t.link p).st = .training := by
  obtain ⟨p, hlt, htp⟩ := hex
  refine ⟨_, hideUpEnd_eq hp, ?_⟩
  have hdead : (s.triedList.filter fun p => (List.range s.hides).any fun k => h.silent.contains (p, k)) = [] := by simp [hs]
  rw [none_silent hs hlt htp, if_neg (by simp), hdead]
  obtain ⟨u, hu, e⟩ := s.hidesUp_nil h
  have hl : SameTried u (s.triedList.foldl (fun s p => s.onLink p Link.train) u) := .foldl (fun s p => s.onLink_sameTried p _) _ u
  rw [e, State.trainOver_waits (p := p) hlt]
  · refine ⟨rfl, fun q hq htq => ?_⟩
    have hm : q ∈ s.triedList.map id := by simpa using State.mem_triedList.2 ⟨hq, htq⟩
    have hlen : q < u.links.length := by rw [hu.links, hw.links]; exact hq
    exact congrArg Link.st (foldl_upd_mem (tab := State.links) (step := fun s p => s.onLink p Link.train) (ix := id) (fun _ _ => rfl)
      (fun _ => rfl) hm u hlen {})
  · exact ((hu.trans hl).tried p).trans htp
  · show (List.foldl _ u _).boot.trained.contains p = false
    rw [(hu.trans hl).boot, ht]
    rfl

/-! ### TRAIN -/

/-- t is s with link p changed by f last, and free values used. -/
def LinkOnly (p : Nat) (f : Link → Link) (s t : State) : Prop := ∃ (g : Link → Link) (n : Nat), t = { s.onLink p (fun l => f (g l)) with free := n }

theorem LinkOnly.onLink {f : Link → Link} (h : LinkOnly p f s t) (k : Link → Link) : LinkOnly p k s (t.onLink p k) := by
  obtain ⟨g, n, rfl⟩ := h
  refine ⟨fun l => f (g l), n, ?_⟩
  show ({ s with links := upd (upd s.links p _) p k, free := n } : State) = _
  rw [upd_upd]
  rfl

/-- Without the record of the last change. -/
theorem LinkOnly.any {f : Link → Link} (h : LinkOnly p f s t) : LinkOnly p id s t := by
  obtain ⟨g, n, rfl⟩ := h
  exact ⟨fun l => f (g l), n, rfl⟩

theorem State.onLink_linkOnly (s : State) (p : Nat) (f : Link → Link) : LinkOnly p f s (s.onLink p f) := ⟨id, s.free, rfl⟩

theorem LinkOnly.applyTrims (h : LinkOnly p id s t) : LinkOnly p id s (t.applyTrims p r) := by
  unfold State.applyTrims
  refine List.foldlRecOn (motive := LinkOnly p id s) _ _ (h.onLink _).any fun u hu _ _ => ?_
  exact (hu.onLink _).any

theorem LinkOnly.trainRegs (h : LinkOnly p id s t) : LinkOnly p id s (t.trainRegs p) := by
  obtain ⟨g, n, rfl⟩ := h
  have hf : LinkOnly p id s { s.onLink p (fun l => id (g l)) with free := n + 1 } := ⟨g, n + 1, rfl⟩
  exact (hf.onLink _).any

/-- Training without a failing position leaves the link RUNNING (R188, R193). -/
theorem State.trainEnd_clean (s : State) (p : Nat) (hf : r.fails = []) (he : r.noEye = false) (hv : r.badVerify = false) :
    ∃ f, (∀ l, (f l).st = LinkSt.running) ∧ LinkOnly p f (s.onBoot fun b => { b with trained := b.trained ++ [p] }) (s.trainEnd p r) := by
  unfold State.trainEnd
  extract_lets s1 l
  rw [hf, he, hv]
  exact ⟨_, fun _ => rfl, LinkOnly.onLink (State.onLink_linkOnly _ _ _).any.applyTrims.trainRegs _⟩

/-- What training a channel without a failing position leaves (R188). -/
structure State.Trained (s : State) (p : Nat) (t : State) : Prop where
  frame : t = { s with boot := { s.boot with trained := s.boot.trained ++ [p] }, links := t.links, free := t.free }
  running : (t.link p).st = .running
  others : ∀ j, j ≠ p → t.link j = s.link j

theorem State.Wf.trainEnd_trained (hw : s.Wf) (hp : p < 136) (hf : r.fails = []) (he : r.noEye = false) (hv : r.badVerify = false) :
    s.Trained p (s.trainEnd p r) := by
  obtain ⟨f, hst, g, n, e⟩ := s.trainEnd_clean p hf he hv
  rw [e]
  refine ⟨rfl, ?_, fun j hj => upd_getD_ne _ _ _ _ _ hj⟩
  have hl := (s.onBoot fun b => { b with trained := b.trained ++ [p] }).link_onLink p (fun l => f (g l)) (hw.links ▸ hp)
  exact (congrArg Link.st hl).trans (hst _)

theorem State.Trained.tried (h : s.Trained p t) (q : Nat) : t.tried q = s.tried q := by
  rw [h.frame]
  rfl

theorem State.Trained.trained (h : s.Trained p t) : t.boot.trained = s.boot.trained ++ [p] := by
  rw [h.frame]

/-- CHANNEL_TRAINED of a channel still to be trained, within the search around its record (R188). -/
theorem channelTrained_eq (h : s.inPhase 7 = true) (hp : p < 136) (ht : s.tried p = true) (hn : s.boot.trained.contains p = false)
    (hs : s.inSearch p r = true) : exec (.channelTrained p r) s = .next (s.trainEnd p r).trainOver := by
  show execChannelTrained p r s = _
  rw [execChannelTrained, onPhase, if_pos h, if_neg]
  rw [ht, hn, hs]
  simpa using hp

/-- Settles O10: what HIDE_UP holds of the Hides and what training writes leave what start-up tries, so that the channels still to be
trained decide the phase. -/
theorem hideUpAndTrain : Obligations.HideUpAndTrain := by
  unfold Obligations.HideUpAndTrain
  refine ⟨fun s h k hp hk hs => ?_, fun s h hw hp ht hs hex => hideUpEnd_trains hw hp ht hs hex,
    fun s p q r hw h hp hq hne htp htq hnp hnq hs hf he hv => ?_, fun s p r hw h hp htp hnp hall hs hf he hv => ?_⟩
  · refine ⟨_, hideUpEnd_eq hp, ?_⟩
    rw [any_silent hk hs, if_pos rfl]
    exact ⟨rfl, rfl⟩
  · have ht := hw.trainEnd_trained hp hf he hv
    have hnq' : (s.trainEnd p r).boot.trained.contains q = false := by
      rw [ht.trained]
      simpa [hne] using hnq
    refine ⟨_, channelTrained_eq h hp htp hnp hs, ?_⟩
    rw [State.trainOver_waits hq ((ht.tried q).trans htq) hnq']
    obtain ⟨-, hph⟩ := Bool.and_eq_true_iff.1 h
    refine ⟨?_, ht.trained, ht.running, ht.others, ?_⟩
    · rw [ht.frame]
      exact eq_of_beq hph
    · rw [ht.frame]
  · have ht := hw.trainEnd_trained hp hf he hv
    have ha : (s.trainEnd p r).allTrained = true := by
      refine List.all_eq_true.2 fun q hq => ?_
      rw [ht.tried, ht.trained]
      cases htq : s.tried q with
      | false => rfl
      | true => simpa using Or.symm (hall q (List.mem_range.1 hq) htq)
    refine ⟨_, channelTrained_eq h hp htp hnp hs, ?_⟩
    rw [State.trainOver, ha]
    rfl

end Sys2Proof.Machine
end

section
/-! SUPPORT. BOOT_RELOAD. -/
namespace Sys2Proof.Machine

variable {s : State} {v : Word}

/-- Start-up that begins again leaves every fence (R110). -/
theorem State.reload_fenced (h : s.frames.length = 757) (i : Nat) : (s.reload.frame i).fenced = (s.frame i).fenced := by
  have hz : s.reload.frames.map Frame.fenced = s.frames.map Frame.fenced := by
    calc s.reload.frames.map Frame.fenced = ((s.frames.zip resetFrames).map Prod.fst).map Frame.fenced := by
          rw [State.reload, List.map_map, List.map_map]
          rfl
      _ = s.frames.map Frame.fenced := by rw [List.map_fst_zip (by rw [h, resetFrames_length])]
  have hd (l : List Frame) : (l.getD i {}).fenced = (l.map Frame.fenced).getD i false := (List.getD_map l ({} : Frame) Frame.fenced).symm
  rw [State.frame, State.frame, hd, hd, hz]

theorem State.wBootCtrl_reload (h0 : bitN v.toNat 0 = true) (hk : keyed v = true) (hp : s.boot.phase = 0xB) : s.wBootCtrl v = s.reload := by
  rw [State.wBootCtrl, h0, hk, hp]
  rfl

theorem State.wBootCtrl_ignored (h0 : bitN v.toNat 0 = true) (h : (keyed v && s.boot.phase == 0xB) = false) :
    s.wBootCtrl v = s.reject .array := by
  rw [State.wBootCtrl, h0, h]
  rfl

/-- Settles O11: start-up that begins again keeps the lifecycle inputs and every fence; a write refused changes the array's frame only. -/
theorem bootReload : Obligations.BootReload := by
  unfold Obligations.BootReload
  intro s v hw h h0
  have hc : exec (.bootReload v) s = onMgmt .array s fun s => s.wBootCtrl v := rfl
  refine ⟨fun hk hp => answers_mgWrite hc hw h fun cs n _ => ?_, fun hr => answers_mgWrite hc hw h fun cs n _ => ?_⟩
  · rw [State.wBootCtrl_reload (s := { s with cnts := cs, free := n }) h0 hk hp]
    exact ⟨rfl, rfl, rfl, rfl, rfl, rfl, State.reload_fenced (s := { s with cnts := cs, free := n }) hw.frames, State.answer_granted rfl⟩
  · rw [State.wBootCtrl_ignored (s := { s with cnts := cs, free := n }) h0 hr]
    have hf := State.fr_onFr { s with cnts := cs, free := n } .array (fun f => { f with ctrlRej := true }) (hw.idx_lt rfl)
    exact ⟨rfl, congrArg Frame.ctrlRej hf, rfl, State.answer_granted rfl⟩

end Sys2Proof.Machine
end

section
/-! SUPPORT. The flash: its mailbox and the writing of records. -/
namespace Sys2Proof.Machine

variable {s : State} {op : BitVec 2} {j : RecJob} {x y : FStep} {r : List FStep}

/-! ### Bytes of the flash -/

/-- A key read after a range of keys was dropped. -/
theorem smGet_smClear {α : Type} (d : α) (m : SMap α) (lo n a : Nat) :
    smGet d (smClear m lo n) a = if lo ≤ a ∧ a < lo + n then d else smGet d m a := by
  induction m with
  | nil => simp [smClear, smGet]
  | cons e m ih =>
    obtain ⟨k, v⟩ := e
    rw [smClear] at ih
    rw [smClear, List.filter_cons, smGet]
    by_cases hk : lo ≤ k ∧ k < lo + n
    · rw [if_neg (by simp; omega), ih]
      by_cases ha : a = k
      · rw [if_pos (ha ▸ hk), if_pos (ha ▸ hk)]
      · rw [if_neg ha]
    · rw [if_pos (by simp; omega), smGet, ih]
      by_cases ha : a = k
      · rw [if_pos ha, if_pos ha, if_neg (ha ▸ hk)]
      · rw [if_neg ha, if_neg ha]

/-- A byte read after a program from `a`: the bits that were one in it and in the byte programmed there (log 9). -/
theorem smGet_flashProg {m : List Host.Cell} (h : smWf 0xFF m = true) (a : Nat) (l : List Byte) (k : Nat) :
    smGet 0xFF (flashProg m a l) k = if a ≤ k ∧ k < a + l.length then smGet 0xFF m k &&& l.getD (k - a) 0xFF else smGet 0xFF m k := by
  induction l generalizing m a with
  | nil => rw [flashProg, if_neg (by simp)]
  | cons b l ih =>
    rw [flashProg, ih (smSet_wf _ _ _ _ h), smGet_smSet 0xFF m a _ k h, List.length_cons]
    by_cases hk : k = a
    · subst hk
      rw [if_neg (by omega), if_pos rfl, if_pos (by omega), Nat.sub_self]
      rfl
    · rw [if_neg hk]
      by_cases hr : a + 1 ≤ k ∧ k < a + 1 + l.length
      · rw [if_pos hr, if_pos (by omega), show k - a = k - (a + 1) + 1 by omega]
        rfl
      · rw [if_neg hr, if_neg (by omega)]

/-! ### The mailbox -/

/-- The flash with mailbox operation `op` begun (R65). -/
def Flash.begin (f : Flash) (op : BitVec 2) : Flash :=
  { f with
    op := op, busy := true, code := cOK, mbox := some op
    job := if f.job.isNone && !f.calQ && f.retQ == 0 then some .mbox else f.job }

/-- An operation with the flash free begins at once unless a record is queued (R65). -/
theorem Flash.begin_eq (f : Flash) (op : BitVec 2) :
    (let f : Flash := { f with op := op, busy := true, code := cOK, mbox := some op }
     if f.job.isNone && !f.pending then f.startMbox else f) = f.begin op := by
  cases hj : f.job with
  | none => cases hc : f.calQ <;> cases hq : f.retQ == 0 <;> simp_all [Flash.begin, Flash.pending, Flash.startMbox]
  | some j => simp [Flash.begin, hj]

/-- With the mailbox idle, a command written begins or is refused (R65, R69). -/
theorem State.wFlashCmd_idle (hb : s.flash.busy = false) (hop : op ≠ 0) :
    s.wFlashCmd op = { s with flash := if s.mboxOk op then s.flash.begin op else { s.flash with op := op, code := cBAD } } := by
  rw [State.wFlashCmd, if_neg (by simpa [hb] using hop)]
  cases hm : s.mboxOk op with
  | false => rfl
  | true => rw [if_neg (by simp), if_pos rfl, ← Flash.begin_eq]; rfl

/-- A written command, by whichever name, runs its rule with one access counted and answers OK. -/
theorem flashCmd_eq {c : Instr} (h : s.mgReady .array)
    (hc : c = .flashRead ∧ op = 1 ∨ c = .flashProgram ∧ op = 2 ∨ c = .flashErase ∧ op = 3) :
    ∃ cs n, exec c s = .next ((({ s with cnts := cs, free := n } : State).wFlashCmd op).answer 0 cOK) := by
  obtain ⟨cs, n, -, e⟩ := State.mgAccess_ready h fun s => s.wFlashCmd op
  refine ⟨cs, n, ?_⟩
  rw [← e]
  rcases hc with ⟨rfl, rfl⟩ | ⟨rfl, rfl⟩ | ⟨rfl, rfl⟩ <;> rfl

/-- The flash after the mailbox operation in progress has ended. -/
def Flash.mboxDone (f : Flash) : Flash := { f.mboxEffect.endMbox cOK with job := none }

theorem flashOpDone_mbox (h : s.flash.job = some .mbox) : exec .flashOpDone s = .next ((s.onFlash Flash.mboxDone).count .loader 1) := by
  show execFlashOpDone s = _
  rw [execFlashOpDone, h]
  rfl

theorem flashTimeout_mbox (h : s.flash.job = some .mbox) (hm : s.flash.mbox = some 2 ∨ s.flash.mbox = some 3) :
    exec .flashTimeout s = .next ((s.jobOpen.onFlash fun f => { f.endMbox cABORTED with job := none }).count .loader 1) := by
  have hr : s.flash.mbox ≠ some 1 := by rcases hm with h | h <;> simp [h]
  show execFlashTimeout s = _
  rw [execFlashTimeout, h]
  exact if_neg hr

/-- Settles O12: a command begins or is refused by the mailbox's own rule; what ends one leaves the bytes that its effect gives. -/
theorem flashMailbox : Obligations.FlashMailbox := by
  unfold Obligations.FlashMailbox
  refine ⟨fun s c op h hb hc => ?_, fun s hw hj => ?_, fun s hj hm => ?_⟩
  · obtain ⟨cs, n, e⟩ := flashCmd_eq h hc
    have hop : op ≠ 0 := by rcases hc with ⟨-, rfl⟩ | ⟨-, rfl⟩ | ⟨-, rfl⟩ <;> decide
    rw [State.wFlashCmd_idle (s := { s with cnts := cs, free := n }) hb hop] at e
    have hok : ({ s with cnts := cs, free := n } : State).mboxOk op = s.mboxOk op := rfl
    rw [hok] at e
    refine ⟨_, e, rfl, State.answer_granted rfl, ?_, fun hok => ?_, fun hok => ?_⟩
    · show (if s.mboxOk op then s.flash.begin op else _).cells = _
      split <;> rfl
    · exact if_pos hok
    · exact if_neg (by simp [hok])
  · refine ⟨_, flashOpDone_mbox hj, ?_⟩
    rw [State.count_eq]
    refine ⟨rfl, rfl, rfl, rfl, rfl, fun hm => ?_, fun hm a => ?_, fun hm a => ?_⟩
    · show s.flash.mboxDone.cells = _ ∧ s.flash.mboxDone.buf = _
      rw [Flash.mboxDone, Flash.mboxEffect, hm]
      exact ⟨rfl, rfl⟩
    · show smGet 0xFF s.flash.mboxDone.cells a = _
      rw [Flash.mboxDone, Flash.mboxEffect, hm]
      exact smGet_flashProg hw.flash _ _ _
    · show smGet 0xFF s.flash.mboxDone.cells a = _
      rw [Flash.mboxDone, Flash.mboxEffect, hm]
      exact smGet_smClear _ _ _ _ _
  · obtain ⟨cells, n, e⟩ := s.jobOpen_eq
    refine ⟨_, flashTimeout_mbox hj hm, ?_⟩
    rw [State.count_eq, e]
    exact ⟨rfl, rfl, rfl, rfl⟩

/-! ### Records -/

theorem nextSlot_fst (cur : BitVec 2) (seq : Word) : (nextSlot cur seq).1 = (cur == 0) := by
  unfold nextSlot
  by_cases h0 : cur = 0
  · rw [if_pos h0, h0]
    rfl
  · rw [if_neg h0, beq_false_of_ne h0]
    split <;> rfl

theorem nextSlot_snd (cur : BitVec 2) (seq : Word) : (nextSlot cur seq).2 = if cur = 0 ∨ cur = 1 then seq + 1 else 1 := by
  unfold nextSlot
  by_cases h0 : cur = 0
  · rw [if_pos h0, if_pos (.inl h0)]
  · by_cases h1 : cur = 1
    · rw [if_neg h0, if_pos h1, if_pos (.inr h1)]
    · rw [if_neg h0, if_neg h1, if_neg (not_or.2 ⟨h0, h1⟩)]

/-- The slot that does not hold the current record of a kind, and the number of the next record (R64). -/
def State.nextRec (s : State) (cal : Bool) : Bool × Word :=
  if cal then nextSlot s.boot.slotCal s.boot.calSeq else nextSlot s.boot.slotRet s.boot.retSeq

/-- The job that writes the next record of a kind. -/
def State.recJob (s : State) (cal : Bool) : RecJob :=
  { cal := cal, slotB := (s.nextRec cal).1, seq := (s.nextRec cal).2, steps := s.recSteps cal (s.nextRec cal).1 (s.nextRec cal).2 }

/-- RECORD_WRITE_START with a record queued and the flash free: a retirement record goes first (R65). -/
theorem recordWriteStart_eq (hr : s.isRunning = true) (hl : s.boot.rstLow = false) (hj : s.flash.job = none)
    (hq : ¬ (s.flash.retQ = 0 ∧ s.flash.calQ = false)) :
    exec .recordWriteStart s = .next { s with flash := { s.flash with
      calQ := s.flash.calQ && !(s.flash.retQ == 0), calHeld := if s.flash.retQ == 0 then none else s.flash.calHeld
      retQ := s.flash.retQ - 1, job := some (.record (s.recJob (s.flash.retQ == 0))) } } := by
  show execRecordWriteStart s = _
  unfold execRecordWriteStart
  exact if_neg (by simpa [hr, hl, hj] using hq)

/-- The flash after a step of a record write, `rest` still to be done. -/
def Flash.stepped (f : Flash) (j : RecJob) (x : FStep) (rest : List FStep) : Flash :=
  { f.stepEffect x with job := some (.record { j with steps := rest }) }

theorem flashOpDone_step (h : s.flash.job = some (.record j)) (hs : j.steps = x :: r) :
    exec .flashOpDone s = .next (
      if r.isEmpty then State.recDone ((s.onFlash fun f => f.stepped j x r).count .loader 1) j
      else (s.onFlash fun f => f.stepped j x r).count .loader 1) := by
  show execFlashOpDone s = _
  rw [execFlashOpDone, h]
  dsimp only
  rw [hs]
  exact (apply_ite Host.Outcome.next _ _ _).symm

theorem flashTimeout_record (h : s.flash.job = some (.record j)) :
    exec .flashTimeout s =
      .next (((s.jobOpen.onFlash fun f => { f with job := none }.startMbox).count .loader 1).report .loader 4) := by
  show execFlashTimeout s = _
  rw [execFlashTimeout, h]

/-- A flash free for its mailbox has its waiting operation as its job. -/
theorem Flash.startMbox_job (f : Flash) : ({ f with job := none } : Flash).startMbox.job = if f.mbox.isSome then some .mbox else none :=
  apply_ite Flash.job _ _ _

theorem Flash.startMbox_cells (f : Flash) : f.startMbox.cells = f.cells := by
  unfold Flash.startMbox
  split <;> rfl

theorem Flash.stepEffect_mbox (f : Flash) (x : FStep) : (f.stepEffect x).mbox = f.mbox := by
  cases x <;> rfl

/-- The last step of a record makes its slot the current one, and the mailbox goes on (R62, R64). -/
theorem flashOpDone_last (h : s.flash.job = some (.record j)) (hs : j.steps = [x]) : Answers .flashOpDone s fun t =>
    t = { s with flash := t.flash, boot := t.boot, cnts := t.cnts, free := t.free } ∧ t.flash.cells = (s.flash.stepEffect x).cells ∧
    t.flash.job = (if s.flash.mbox.isSome then some .mbox else none) ∧
    t.boot = if j.cal then { s.boot with slotCal := if j.slotB then 1 else 0, calSeq := j.seq }
      else { s.boot with slotRet := if j.slotB then 1 else 0, retSeq := j.seq } := by
  refine ⟨_, flashOpDone_step h hs, ?_⟩
  rw [if_pos List.isEmpty_nil, State.count_eq]
  refine ⟨rfl, ?_, ?_, rfl⟩
  · exact Flash.startMbox_cells _
  · refine (Flash.startMbox_job _).trans ?_
    show (if (s.flash.stepEffect x).mbox.isSome then some FJob.mbox else none) = _
    rw [Flash.stepEffect_mbox]

/-- A record given up leaves the current one, and REC_WRITE latches (R64, R71). -/
theorem flashTimeout_gives_up (hw : s.Wf) (h : s.flash.job = some (.record j)) (hm : (s.fr .loader).mask = 0)
    (hst : (s.fr .loader).st ≠ .resetting) : Answers .flashTimeout s fun t =>
      t.boot = s.boot ∧ (t.fr .loader).src.getLsbD 4 = true ∧ t.cells = s.cells ∧
      t.flash.job = (if s.flash.mbox.isSome then some .mbox else none) := by
  refine ⟨_, flashTimeout_record h, ?_⟩
  obtain ⟨cells, n, e⟩ := s.jobOpen_eq
  rw [e, State.count_eq]
  set u := (State.onFlash _ _).count .loader 1 with hu
  refine ⟨?_, ?_, ?_, ?_⟩
  · rw [State.report_eq]
    rfl
  · refine State.report_latches _ _ _ (hw.idx_lt rfl) (by decide) ?_ hst
    show (s.fr .loader).mask.getLsbD 4 = false
    rw [hm]
    rfl
  · rw [State.report_eq]
    rfl
  · rw [State.report_eq]
    exact Flash.startMbox_job _

/-- Settles O13: the queue decides the kind, the kind's current slot the other slot; the last step alone changes the registers. -/
theorem recordWrites : Obligations.RecordWrites := by
  unfold Obligations.RecordWrites
  refine ⟨fun s hr => if_pos hr, fun s hr hl hj hq => ?_, fun s hr hl hj hq hc => ?_, fun s j x y r h hs => ?_,
    fun s j x h hs => flashOpDone_last h hs, fun s j hw h hm hst => flashTimeout_gives_up hw h hm hst⟩
  · have hk : (s.flash.retQ == 0) = false := by simp; omega
    refine ⟨_, recordWriteStart_eq hr hl hj (by omega), ?_⟩
    rw [hk]
    exact ⟨rfl, by simp, rfl, _, rfl, rfl, nextSlot_fst _ _, nextSlot_snd _ _, rfl⟩
  · have hk : (s.flash.retQ == 0) = true := by simp [hq]
    refine ⟨_, recordWriteStart_eq hr hl hj (by simp [hc]), ?_⟩
    rw [hk]
    exact ⟨rfl, by simp, _, rfl, rfl, nextSlot_fst _ _, nextSlot_snd _ _, rfl⟩
  · refine ⟨_, flashOpDone_step h hs, ?_⟩
    rw [if_neg (by simp), State.count_eq]
    exact ⟨rfl, rfl⟩

end Sys2Proof.Machine
end

section
/-! SUPPORT. The test access port. -/
namespace Sys2Proof.Machine

variable {s t : State} {ir : Byte} {f : State → State}

/-! ### A scan -/

/-- The TAP as a scan of the register that instruction `ir` selects begins. -/
def Tap.select (ir : Byte) (t : Tap) : Tap := { t with ir := ir, drive := if ir = 0 then t.drive else [] }

theorem State.tapScan_open (h : s.has 0 = true) : s.tapScan ir f = f (s.onTap (Tap.select ir)) := if_pos h

theorem State.tapScan_denied (h : s.has 0 = false) : s.tapScan ir f = s.onTap Tap.reset := if_neg (by simp [h])

/-- A scan without the privilege. -/
theorem scan_denied {c : Instr} (h : s.has 0 = false) (hc : exec c s = .next (s.tapScan ir f)) :
    exec c s = .next { s with tap := { s.tap with ir := 0xFF, drive := [] } } := by
  rw [hc, State.tapScan_denied h]
  rfl

/-- A scan with the privilege. -/
theorem scan_open {c : Instr} {g : State → State} (h : s.has 0 = true) (hc : exec c s = .next (s.tapScan ir g))
    (hg : g (s.onTap (Tap.select ir)) = t) : exec c s = .next t := by
  rw [hc, State.tapScan_open h, hg]

/-- EXTEST takes its effect where its condition holds, and captures zero elsewhere (R421). -/
theorem extest_eq (h : s.has 0 = true) (d e : List Bool) :
    exec (.extest d e) s = .next (if s.extestOk then { s with tap := { s.tap with ir := 0, dr := e, boundary := d, drive := d } }
      else { s with tap := { s.tap with ir := 0, dr := zeros e.length, drive := [] } }) :=
  scan_open h rfl rfl

/-! ### INTSCAN and SLICE -/

/-- INTSCAN replaces the chains of a QUIESCED unit by what is shifted in, and what it captures is as long (R421). -/
theorem intscan_quiesced (h : s.has 0 = true) (hq : s.tapQuiesced = true) (d : List Bool) :
    ∃ dr n, dr.length = d.length ∧
      exec (.intscan d) s = .next { s with tap := { s.tap with ir := 0x11, drive := [], dr := dr, chain := d }, free := n } :=
  ⟨_, _, (List.length_map ..).trans List.length_range, scan_open h rfl (if_pos hq)⟩

theorem intscan_busy (h : s.has 0 = true) (hq : s.tapQuiesced = false) (d : List Bool) :
    exec (.intscan d) s = .next { s with tap := { s.tap with ir := 0x11, drive := [], dr := List.replicate d.length false } } :=
  scan_open h rfl (if_neg (ne_true_of_eq_false hq))

/-- t's bytes, frames and TAP are those of s. -/
structure SliceKept (s t : State) : Prop where
  cells : t.cells = s.cells
  frames : t.frames = s.frames
  tap : t.tap = s.tap

theorem SliceKept.refl (s : State) : SliceKept s s := ⟨rfl, rfl, rfl⟩

/-- A channel in self-refresh (R410). -/
theorem SliceKept.enterSelf (h : SliceKept s t) (p : Nat) : SliceKept s (t.enterSelf p) := by
  unfold State.enterSelf
  split
  · exact h
  · exact ⟨h.cells, h.frames, h.tap⟩

/-- What a slice clears of a unit (R416). -/
theorem SliceKept.clearLeaf (h : SliceKept s t) (u : UnitId) (slice : Bool) : SliceKept s (t.clearLeaf u slice) := by
  obtain ⟨hc, hf, ht⟩ := h
  cases u
  case ctl p =>
    rw [State.clearLeaf]
    cases t.portAt p <;> exact ⟨hc, hf, ht⟩
  case harness x =>
    rw [State.clearLeaf]
    cases slice <;> exact ⟨hc, hf, ht⟩
  all_goals exact ⟨hc, hf, ht⟩

/-- The status a slice leaves: done, passed, and whether the window failed (R422). -/
def sliceStatus (pass failed : Bool) : BitVec 16 := (fields [(1, 0), (b2n pass, 1), (b2n failed, 2)]).truncate 16

theorem sliceStatus_bits (pass failed : Bool) : (sliceStatus pass failed).getLsbD 0 = true ∧ (sliceStatus pass failed).getLsbD 1 = pass ∧
    (sliceStatus pass failed).getLsbD 2 = failed := by
  revert pass failed
  decide

/-- The state in which a slice of the selected unit runs: a channel's Hides in self-refresh, the unit's state cleared (R410, R416). -/
def State.sliceRun (s : State) : State :=
  let u := unitAt s.tap.unit.toNat
  State.clearLeaf (match heldChan u with
    | some p => s.enterSelf p
    | none => s) u true

theorem State.sliceRun_kept (s : State) : SliceKept s s.sliceRun := by
  unfold State.sliceRun
  extract_lets u
  cases heldChan u with
  | none => exact (SliceKept.refl s).clearLeaf _ _
  | some p => exact ((SliceKept.refl s).enterSelf p).clearLeaf _ _

/-- SLICE on a QUIESCED unit: of `pats` patterns at most `r` ran; it passes only where all ran and they are the unit's number (R422). -/
theorem slice_quiesced (h : s.has 0 = true) (hq : s.tapQuiesced = true) (i : BitVec 8) (pats : BitVec 16) (r : Nat) (m : BitVec 48) :
    ∃ dr n pass, (pass = true → min r pats.toNat = pats.toNat ∧ pats.toNat = slicePats (unitAt s.tap.unit.toNat).ty) ∧
      exec (.slice i pats r m) s = .next (({ (s.onTap (Tap.select 0x13)).sliceRun with free := n } : State).onTap fun t => { t with
        dr := dr, sig := BitVec.ofNat 64 (m.toNat * 65536 + (pats.toNat - min r pats.toNat))
        status := sliceStatus pass (min r pats.toNat != pats.toNat) }) := by
  refine ⟨_, _, _, fun hp => ?_, scan_open h rfl (if_pos hq)⟩
  simp only [Bool.and_eq_true, beq_iff_eq] at hp
  obtain ⟨⟨⟨hran, hpats⟩, -⟩, -⟩ := hp
  exact ⟨hran, hpats⟩

/-- Settles O58: a scan without the privilege resets the TAP whatever it is; with it each changes the TAP by its own rule, and a slice
keeps the bytes, the frames and the rest of the TAP. -/
theorem testAccessPort : Obligations.TestAccessPort := by
  unfold Obligations.TestAccessPort
  refine ⟨fun s => rfl, fun s c d e w pats i r m b hc h => ?_, fun s d e w b h => ⟨fun hok => ?_, fun hok => ?_, ?_, ?_, ?_, ?_⟩,
    fun s d h => ⟨fun hq => ?_, fun hq => intscan_busy h hq d⟩, fun s i pats r m hw h => ⟨fun hq => ?_, fun hq => ?_⟩⟩
  · simp only [List.mem_cons, List.not_mem_nil, or_false] at hc
    rcases hc with rfl | rfl | rfl | rfl | rfl | rfl | rfl <;> exact scan_denied h rfl
  · rw [extest_eq h, if_pos hok]
  · rw [extest_eq h, if_neg (ne_true_of_eq_false hok)]
    rfl
  · exact scan_open h rfl rfl
  · exact scan_open h rfl rfl
  · exact scan_open h rfl rfl
  · exact scan_open h rfl rfl
  · obtain ⟨dr, n, hl, e⟩ := intscan_quiesced h hq d
    exact ⟨_, e, rfl, rfl, hl⟩
  · obtain ⟨dr, n, pass, hpass, e⟩ := slice_quiesced h hq i pats r m
    have hk := (s.onTap (Tap.select 0x13)).sliceRun_kept
    obtain ⟨h0, h1, h2⟩ := sliceStatus_bits pass (min r pats.toNat != pats.toNat)
    refine ⟨_, e, hk.cells, hk.frames, congrArg Tap.ir hk.tap, rfl, h0, h2.trans ?_, fun hp => ?_⟩
    · rw [Bool.eq_iff_iff]
      simp
    · obtain ⟨hran, hpats⟩ := hpass (h1.symm.trans hp)
      exact ⟨by omega, hpats⟩
  · exact ⟨_, scan_open h rfl (if_neg (ne_true_of_eq_false hq)), rfl, rfl, rfl, rfl⟩

end Sys2Proof.Machine
end

section
/-! SUPPORT. The sideband: its frames, what a Hide does on a request, and the transaction that ends. -/
namespace Sys2Proof.Machine

variable {s t : State} {p h a op data start payload : Nat} {held : BitVec 16}

/-! ### Frames (R180) -/

theorem crc8Bit_lt (c : Nat) (b : Bool) : crc8Bit c b < 256 := by
  have h7 : (if bitN c 7 != b then 7 else 0) < 2 ^ 8 := by split <;> decide
  exact Nat.xor_lt_two_pow (n := 8) (Nat.mod_lt _ (by decide)) h7

theorem crc8_lt (n : Nat) : crc8 n < 256 :=
  List.foldlRecOn (motive := (· < 256)) _ _ (by decide) fun c _ i _ => crc8Bit_lt c _

theorem sbFrame_toNat (hs : start < 16) (hp : payload < 2 ^ 32) :
    (sbFrame start payload).toNat = start * 2 ^ 40 + payload * 256 + crc8 payload := by
  have hc := crc8_lt payload
  rw [sbFrame, Nat.mod_eq_of_lt hp, BitVec.toNat_ofNat, Nat.mod_eq_of_lt]
  omega

theorem sbPayload_sbFrame (hs : start < 16) (hp : payload < 2 ^ 32) : sbPayload (sbFrame start payload) = payload := by
  have hc := crc8_lt payload
  rw [sbPayload, sbFrame_toNat hs hp, bits]
  omega

theorem sbFrame_start (hs : start < 16) (hp : payload < 2 ^ 32) : bits (sbFrame start payload).toNat 40 4 = start := by
  have hc := crc8_lt payload
  rw [sbFrame_toNat hs hp, bits]
  omega

/-- A frame's receiver finds its CRC right. -/
theorem sbGood_sbFrame (hs : start < 16) (hp : payload < 2 ^ 32) : sbGood start (sbFrame start payload) = true := by
  have hc := crc8_lt payload
  have hl : (sbFrame start payload).toNat % 256 = crc8 payload := by
    rw [sbFrame_toNat hs hp]
    omega
  rw [sbGood, sbFrame_start hs hp, sbPayload_sbFrame hs hp, hl]
  simp

/-- A payload put together from its fields: an operation or a status, a Hide, an address and data. -/
def sbFields (op h a data : Nat) : Nat := op * 2 ^ 28 + h * 2 ^ 25 + a * 2 ^ 16 + data

theorem sbRequest_eq : sbRequest op h a data = sbFrame 0xA (sbFields op h a data) := rfl

theorem sbAnswer_eq : sbAnswer op h a data = sbFrame 0x5 (sbFields op h a data) := rfl

/-- Each field of a payload fits its place. -/
structure SbFits (op h a data : Nat) : Prop where
  op : op < 16
  hide : h < 8
  addr : a < 256
  data : data < 2 ^ 16

section
variable (hf : SbFits op h a data)
include hf

theorem SbFits.lt : sbFields op h a data < 2 ^ 32 := by
  obtain ⟨h1, h2, h3, h4⟩ := hf
  unfold sbFields
  omega

theorem SbFits.bits_op : bits (sbFields op h a data) 28 4 = op := by
  obtain ⟨h1, h2, h3, h4⟩ := hf
  unfold sbFields bits
  omega

theorem SbFits.bits_hide : bits (sbFields op h a data) 25 3 = h := by
  obtain ⟨h1, h2, h3, h4⟩ := hf
  unfold sbFields bits
  omega

theorem SbFits.bits_addr : bits (sbFields op h a data) 16 8 = a := by
  obtain ⟨h1, h2, h3, h4⟩ := hf
  unfold sbFields bits
  omega

theorem SbFits.no_broadcast : bitN (sbFields op h a data) 24 = false := by
  obtain ⟨h1, h2, h3, h4⟩ := hf
  have h0 : sbFields op h a data / 2 ^ 24 % 2 = 0 := by
    unfold sbFields
    omega
  rw [bitN, h0]
  rfl

theorem SbFits.mod_data : sbFields op h a data % 2 ^ 16 = data := by
  obtain ⟨h1, h2, h3, h4⟩ := hf
  unfold sbFields
  omega

end

/-! ### What a Hide does (R181) -/

/-- Mode register a of Hide h at channel p holds v. -/
def State.putMr (s : State) (p h a : Nat) (v : BitVec 16) : State := s.onLink p fun l => { l with mr := smSet 0 l.mr (256 * h + a) v }

/-- The status and the data of the answer of Hide h to an undamaged request, and what the request leaves. -/
def State.hideDoes (s : State) (p op h a data : Nat) (held : BitVec 16) : Nat × Nat × State :=
  match op with
  | 1 => if mrReads a then (0, (s.mrFound p h a held).toNat, if mrClears a then s.putMr p h a 0 else s) else (2, 0, s)
  | 2 => if mrWrites a then (0, data, s.putMr p h a (BitVec.ofNat 16 data)) else (2, 0, s)
  | 3 => (0, (s.mrFound p h 3 held).toNat, s.putMr p h 3 0)
  | 4 => (0, 0, s.layerReset h)
  | _ => (2, 0, s)

theorem State.hideAnswers_request (hf : SbFits op h a data) (hh : h < s.hides) :
    s.hideAnswers p (sbRequest op h a data) held =
      (some (sbAnswer (s.hideDoes p op h a data held).1 h a (s.hideDoes p op h a data held).2.1), (s.hideDoes p op h a data held).2.2) := by
  rw [State.hideAnswers, sbRequest_eq, sbFrame_start (by decide) hf.lt, sbPayload_sbFrame (by decide) hf.lt,
    sbGood_sbFrame (by decide) hf.lt, hf.bits_op, hf.bits_hide, hf.bits_addr, hf.no_broadcast, hf.mod_data, if_neg (by simpa using hh),
    if_neg (by simp)]
  match op with
  | 0 => rfl
  | 1 => cases hr : mrReads a <;> simp [State.hideDoes, State.putMr, hr]
  | 2 => cases hw : mrWrites a <;> simp [State.hideDoes, State.putMr, hw]
  | 3 => rfl
  | 4 => rfl
  | _ + 5 => rfl

/-- An answer has status OK or 2, and its data fit. -/
theorem State.hideDoes_fits (s : State) (p : Nat) (held : BitVec 16) (hf : SbFits op h a data) :
    (s.hideDoes p op h a data held).1 ≠ 1 ∧
      SbFits (s.hideDoes p op h a data held).1 h a (s.hideDoes p op h a data held).2.1 := by
  obtain ⟨-, hh, ha, hd⟩ := hf
  have bad : 2 ≠ 1 ∧ SbFits 2 h a 0 := ⟨by decide, by decide, hh, ha, by decide⟩
  have good : ∀ n < 2 ^ 16, 0 ≠ 1 ∧ SbFits 0 h a n := fun n hn => ⟨by decide, by decide, hh, ha, hn⟩
  unfold State.hideDoes
  split
  · split
    · exact good _ (BitVec.isLt _)
    · exact bad
  · split
    · exact good _ hd
    · exact bad
  · exact good _ (BitVec.isLt _)
  · exact good 0 (by decide)
  · exact bad

/-- t is s but for mode registers of the Hides. -/
structure MrOnly (s t : State) : Prop where
  rest : t = { s with links := t.links }
  length : t.links.length = s.links.length
  link : ∀ q, t.link q = { s.link q with mr := (t.link q).mr }

theorem MrOnly.refl (s : State) : MrOnly s s := ⟨rfl, rfl, fun _ => rfl⟩

theorem State.putMr_mrOnly (s : State) (p h a : Nat) (v : BitVec 16) : MrOnly s (s.putMr p h a v) := by
  refine ⟨rfl, upd_length .., fun q => ?_⟩
  by_cases hq : q = p ∧ p < s.links.length
  · obtain ⟨rfl, hl⟩ := hq
    rw [State.putMr, State.link_onLink (p := q) (h := hl)]
  · have : (s.putMr p h a v).link q = s.link q := by
      by_cases hqp : q = p
      · subst hqp
        have hn : s.links.length ≤ q := not_lt.1 fun hl => hq ⟨rfl, hl⟩
        simp only [State.putMr, State.onLink, State.link, List.getD_eq_getElem?_getD, upd_getElem?, if_pos, List.getElem?_eq_none hn, Option.map_none]
      · exact State.link_onLink_ne (h := hqp) ..
    rw [this]

/-- A reset of a layer puts its Hide's mode registers back at every channel. -/
theorem State.link_layerReset (s : State) (h q : Nat) : (s.layerReset h).link q =
    { s.link q with mr := (s.link q).mr.filter fun e => e.1 / 256 != h || mrFixed (e.1 % 256) } := by
  simp only [State.link, State.layerReset, List.getD_eq_getElem?_getD, List.getElem?_map]
  cases s.links[q]? <;> rfl

theorem State.layerReset_mrOnly (s : State) (h : Nat) : MrOnly s (s.layerReset h) :=
  ⟨rfl, List.length_map .., fun q => by rw [State.link_layerReset]⟩

theorem State.hideDoes_mrOnly (s : State) (p op h a data : Nat) (held : BitVec 16) : MrOnly s (s.hideDoes p op h a data held).2.2 := by
  unfold State.hideDoes
  split
  · split
    · show MrOnly s (if mrClears a = true then s.putMr p h a 0 else s)
      split
      · exact s.putMr_mrOnly ..
      · exact MrOnly.refl s
    · exact MrOnly.refl s
  · split
    · exact s.putMr_mrOnly ..
    · exact MrOnly.refl s
  · exact s.putMr_mrOnly ..
  · exact s.layerReset_mrOnly h
  · exact MrOnly.refl s

/-! ### The transaction ends (R182) -/

/-- The transaction of channel p has ended with an answer of status and data. -/
def State.sbShown (s : State) (p status data : Nat) : State :=
  s.onLink p fun l => { l with sbBusy := false, sbCode := if status = 0 then cOK else cBAD, sbRdata := BitVec.ofNat 16 data }

/-- An answer to the first attempt, with no armed source: no event. -/
theorem State.sbEnd_eq_sbShown {status : Nat} (hb : (s.link p).sbBusy = true) (ht : (s.link p).sbTries = 0) (hu : s.unarmed (.link p)) :
    s.sbEnd p status data = s.sbShown p status data := by
  have hu' : ((s.sbShown p status data).fr (.link p)).inj = 0 := hu
  unfold State.sbEnd
  dsimp only
  rw [if_pos hb, ht]
  show ((s.sbShown p status data).check (.link p) 3 false).check (.link p) 4 false = _
  rw [State.check_unarmed _ _ _ hu', State.check_unarmed _ _ _ hu']

/-- The command's fields fit their places. -/
theorem Link.sbFits (l : Link) : SbFits l.sbOp.toNat l.sbHide.toNat l.sbAddr.toNat l.sbData.toNat :=
  ⟨l.sbOp.isLt, l.sbHide.isLt, l.sbAddr.isLt, l.sbData.isLt⟩

/-- What the Hide asked by the command of channel p does on an undamaged line. -/
def State.sbDoes (s : State) (p : Nat) (held : BitVec 16) : Nat × Nat × State :=
  s.hideDoes p (s.link p).sbOp.toNat (s.link p).sbHide.toNat (s.link p).sbAddr.toNat (s.link p).sbData.toNat held

theorem State.sbDoes_read (ho : (s.link p).sbOp = 1) (hr : mrReads (s.link p).sbAddr.toNat = true) : s.sbDoes p held =
    (0, (s.mrFound p (s.link p).sbHide.toNat (s.link p).sbAddr.toNat held).toNat,
      if mrClears (s.link p).sbAddr.toNat then s.putMr p (s.link p).sbHide.toNat (s.link p).sbAddr.toNat 0 else s) := by
  rw [State.sbDoes, ho]
  exact if_pos hr

theorem State.sbDoes_write (ho : (s.link p).sbOp = 2) (hwr : mrWrites (s.link p).sbAddr.toNat = true) : s.sbDoes p held =
    (0, (s.link p).sbData.toNat,
      s.putMr p (s.link p).sbHide.toNat (s.link p).sbAddr.toNat (BitVec.ofNat 16 (s.link p).sbData.toNat)) := by
  rw [State.sbDoes, ho]
  exact if_pos hwr

theorem State.sbDoes_status (ho : (s.link p).sbOp = 3) : s.sbDoes p held =
    (0, (s.mrFound p (s.link p).sbHide.toNat 3 held).toNat, s.putMr p (s.link p).sbHide.toNat 3 0) := by
  rw [State.sbDoes, ho]
  rfl

theorem State.sbDoes_layerReset (ho : (s.link p).sbOp = 4) : s.sbDoes p held = (0, 0, s.layerReset (s.link p).sbHide.toNat) := by
  rw [State.sbDoes, ho]
  rfl

/-- No operation of the Hide's, or a register it does not read or write. -/
theorem State.sbDoes_bad (ho : (s.link p).sbOp = 0 ∨ 5 ≤ (s.link p).sbOp.toNat ∨
      (s.link p).sbOp = 1 ∧ mrReads (s.link p).sbAddr.toNat = false ∨ (s.link p).sbOp = 2 ∧ mrWrites (s.link p).sbAddr.toNat = false) :
    s.sbDoes p held = (2, 0, s) := by
  rw [State.sbDoes]
  rcases ho with ho | ho | ⟨ho, hr⟩ | ⟨ho, hr⟩
  · rw [ho]
    rfl
  · obtain ⟨n, hn⟩ := Nat.exists_eq_add_of_le' ho
    rw [hn]
    rfl
  · rw [ho]
    exact if_neg (by rw [hr]; decide)
  · rw [ho]
    exact if_neg (by rw [hr]; decide)

section
variable {f r reqErr respErr : BitVec 44}

/-- The response of a Hide reaches the sideband. -/
theorem exec_sbResponse_some (hp : p < 136) (hw : (s.link p).sbWire = some f) (ha : s.hideAnswers p (f ^^^ reqErr) held = (some r, t)) :
    exec (.sbResponse p reqErr respErr held) s = .next
      (if !sbGood 0x5 (r ^^^ respErr) || bits (sbPayload (r ^^^ respErr)) 28 4 == 1 then t.sbFail p
        else t.sbEnd p (bits (sbPayload (r ^^^ respErr)) 28 4) (sbPayload (r ^^^ respErr) % 2 ^ 16)) := by
  show execSbResponse p reqErr respErr held s = _
  rw [execSbResponse, onChan, if_pos hp, hw]
  simp only [ha]

theorem exec_sbResponse_none (hp : p < 136) (hw : (s.link p).sbWire = some f) (ha : s.hideAnswers p (f ^^^ reqErr) held = (none, s)) :
    exec (.sbResponse p reqErr respErr held) s = .next s := by
  show execSbResponse p reqErr respErr held s = _
  rw [execSbResponse, onChan, if_pos hp, hw]
  simp only [ha]

theorem exec_sbTimeout (hp : p < 136) (hw : (s.link p).sbWire = some f) : exec (.sbTimeout p) s = .next (s.sbFail p) := by
  show execSbTimeout p s = _
  rw [execSbTimeout, onChan, if_pos hp, hw]
  rfl

/-- A frame that no Hide takes. -/
theorem State.hideAnswers_none (h : bits f.toNat 40 4 ≠ 0xA ∨ s.hides ≤ bits (sbPayload f) 25 3) : s.hideAnswers p f held = (none, s) := by
  refine if_pos ?_
  rcases h with h | h <;> simp [h]

end

theorem exec_sbResponse_undamaged (hp : p < 136) (hb : (s.link p).sbBusy = true) (ht : (s.link p).sbTries = 0) (hu : s.unarmed (.link p))
    (hh : (s.link p).sbHide.toNat < s.hides) :
    exec (.sbResponse p 0 0 held) s = .next ((s.sbDoes p held).2.2.sbShown p (s.sbDoes p held).1 (s.sbDoes p held).2.1) := by
  have hxor : ∀ f : BitVec 44, f ^^^ 0 = f := fun _ => BitVec.xor_zero
  have ha := State.hideAnswers_request (p := p) (held := held) (s.link p).sbFits hh
  obtain ⟨hne, hf⟩ := s.hideDoes_fits p held (s.link p).sbFits
  have hm : MrOnly s (s.sbDoes p held).2.2 := s.hideDoes_mrOnly ..
  have hl := hm.link p
  have hbu : ((s.sbDoes p held).2.2.link p).sbBusy = true := by rw [hl]; exact hb
  have htu : ((s.sbDoes p held).2.2.link p).sbTries = 0 := by rw [hl]; exact ht
  have huu : (s.sbDoes p held).2.2.unarmed (.link p) := by rw [hm.rest]; exact hu
  rw [exec_sbResponse_some hp (if_pos hb) (by rw [hxor]; exact ha), hxor, sbAnswer_eq, sbGood_sbFrame (by decide) hf.lt,
    sbPayload_sbFrame (by decide) hf.lt, hf.bits_op, hf.mod_data, if_neg (by simpa using hne)]
  exact congrArg Host.Outcome.next (State.sbEnd_eq_sbShown hbu htu huu)

/-- What the transaction's end shows: the mode registers are as the Hide left them. -/
theorem State.sbShown_frame {u : State} {status : Nat} (hm : MrOnly s u) (hp : p < s.links.length) :
    u.sbShown p status data = { s with links := (u.sbShown p status data).links } ∧
      (u.sbShown p status data).link p = { s.link p with
        sbBusy := false, sbCode := if status = 0 then cOK else cBAD, sbRdata := BitVec.ofNat 16 data, mr := (u.link p).mr } ∧
      ∀ q, ((u.sbShown p status data).link q).mr = (u.link q).mr := by
  refine ⟨congrArg (fun t : State => { t with links := (u.sbShown p status data).links }) hm.rest, ?_, fun q => upd_getD_proj _⟩
  rw [State.sbShown, State.link_onLink (h := hm.length ▸ hp), hm.link p]

theorem State.mr_putMr (hp : p < s.links.length) {v : BitVec 16} : ((s.putMr p h a v).link p).mr = smSet 0 (s.link p).mr (256 * h + a) v := by
  rw [State.putMr, State.link_onLink (h := hp)]

/-! ### A failed attempt (R182) -/

theorem State.sbFail_repeat (hp : p < s.links.length) (hb : (s.link p).sbBusy = true) (ht : (s.link p).sbTries < 3) :
    (s.sbFail p).link p = { s.link p with sbTries := (s.link p).sbTries + 1 } ∧
      s.sbFail p = { s with links := (s.sbFail p).links, cnts := (s.sbFail p).cnts, free := (s.sbFail p).free } := by
  have e : s.sbFail p = (s.onLink p fun l => { l with sbTries := l.sbTries + 1 }).count (.link p) 7 := by
    rw [State.sbFail, if_pos hb, if_neg (not_le.2 ht)]
  rw [e, State.count_eq]
  exact ⟨State.link_onLink (h := hp) .., rfl⟩

theorem State.sbFail_last (hb : (s.link p).sbBusy = true) (ht : 3 ≤ (s.link p).sbTries) (hu : s.unarmed (.link p)) :
    s.sbFail p = (s.onLink p fun l => { l with sbBusy := false, sbCode := cABORTED }).fault (.link p) 4 := by
  have hu' : ((s.onLink p fun l => { l with sbBusy := false, sbCode := cABORTED }).fr (.link p)).inj = 0 := hu
  rw [State.sbFail, if_pos hb, if_pos ht, State.check, State.fire_none _ _ _ _ hu']
  rfl

/-! ### The command's register (R183) -/

theorem exec_sbCommand {c : Instr} {v : Word} (hc : c ∈ [Instr.modeRegisterRead p v, .modeRegisterWrite p v, .statusReadClear p v, .layerReset p v]) :
    exec c s = onMgmt (.link p) s fun s => s.wSbCmd p v := by
  simp only [List.mem_cons, List.not_mem_nil, or_false] at hc
  rcases hc with rfl | rfl | rfl | rfl <;> rfl

section
variable {v : Word}

theorem State.wSbCmd_start (h4 : s.has 4 = true) (hb : (s.link p).sbBusy = false) (hv : fld v 0 4 ≠ 0) :
    s.wSbCmd p v = s.onLink p fun l => { l with
      sbOp := BitVec.ofNat 4 (fld v 0 4), sbHide := BitVec.ofNat 3 (fld v 4 3), sbAddr := BitVec.ofNat 8 (fld v 8 8)
      sbData := BitVec.ofNat 16 (fld v 16 16), sbBusy := true, sbTries := 0 } := by
  have hn : (fld v 0 4 != 0) = true := by simpa using hv
  rw [State.wSbCmd, h4, hb, hn]
  rfl

theorem State.wSbCmd_busy (h4 : s.has 4 = true) (hb : (s.link p).sbBusy = true) : s.wSbCmd p v = s := by
  rw [State.wSbCmd, h4, hb]
  rfl

theorem State.wSbCmd_refused (h4 : s.has 4 = false) : s.wSbCmd p v = s.onLink p fun l => { l with sbCode := cBAD } := by
  rw [State.wSbCmd, h4]
  rfl

end

/-- Settles O31: an answer to the first attempt leaves what `State.hideDoes` says of the request, since every field of the two frames
reads back and both receivers find the CRC right; an attempt that fails is counted until the fourth, which is the source SB_LOST. -/
theorem sideband : Obligations.Sideband := by
  refine ⟨fun start payload hs hp => ⟨sbPayload_sbFrame hs hp, sbGood_sbFrame hs hp⟩, ?_, ?_, ?_, ?_⟩
  · intro s p v c hw hp h hc
    have hl : p < s.links.length := hw.links ▸ hp
    refine ⟨fun h4 hb hv => ?_, fun h4 hb => ?_, fun h4 => ?_⟩ <;>
      refine answers_mgWrite (exec_sbCommand hc) hw h fun cs n _ => ?_
    · rw [State.wSbCmd_start (s := { s with cnts := cs, free := n }) h4 hb hv]
      exact ⟨State.link_onLink (h := hl) .., fun q hq => State.link_onLink_ne (h := hq) .., rfl, State.answer_granted rfl⟩
    · rw [State.wSbCmd_busy (s := { s with cnts := cs, free := n }) h4 hb]
      exact ⟨rfl, State.answer_granted rfl⟩
    · rw [State.wSbCmd_refused (s := { s with cnts := cs, free := n }) h4]
      exact ⟨State.link_onLink (h := hl) .., State.answer_granted rfl⟩
  · rintro s p h a held hw hp hb ht hu rfl rfl hh
    have hl : p < s.links.length := hw.links ▸ hp
    have hm : MrOnly s (s.sbDoes p held).2.2 := s.hideDoes_mrOnly ..
    obtain ⟨hf, hlp, hmr⟩ := State.sbShown_frame (status := (s.sbDoes p held).1) (data := (s.sbDoes p held).2.1) hm hl
    refine ⟨_, exec_sbResponse_undamaged hp hb ht hu hh, hf, by rw [hlp], fun ho hr => ?_, fun ho hwr => ?_, fun ho => ?_, fun ho => ?_, fun ho => ?_⟩
    · have e := State.sbDoes_read (held := held) ho hr
      rw [hmr, hlp, e]
      refine ⟨rfl, BitVec.ofNat_toNat .., ?_⟩
      cases mrClears (s.link p).sbAddr.toNat
      · rfl
      · exact State.mr_putMr hl
    · have e := State.sbDoes_write (held := held) ho hwr
      rw [hmr, hlp, e]
      exact ⟨rfl, BitVec.ofNat_toNat .., (State.mr_putMr hl).trans (congrArg _ (BitVec.ofNat_toNat ..))⟩
    · have e := State.sbDoes_status (held := held) ho
      rw [hmr, hlp, e]
      exact ⟨rfl, BitVec.ofNat_toNat .., State.mr_putMr hl⟩
    · have e := State.sbDoes_layerReset (held := held) ho
      simp only [hmr]
      rw [hlp, e]
      exact ⟨rfl, rfl, fun q => by rw [State.link_layerReset]⟩
    · have e := State.sbDoes_bad (held := held) ho
      rw [hmr, hlp, e]
      exact ⟨rfl, rfl⟩
  · intro s u p f r reqErr respErr held hp hf
    refine ⟨fun ha hbad => ?_, fun hno => exec_sbResponse_none hp hf (State.hideAnswers_none hno), exec_sbTimeout hp hf⟩
    rw [exec_sbResponse_some hp hf ha, if_pos]
    rcases hbad with h | h <;> simp [h]
  · intro s p hw hp hb
    exact ⟨State.sbFail_repeat (hw.links ▸ hp) hb, State.sbFail_last hb⟩

end Sys2Proof.Machine
end

section
/-! SUPPORT. Requests of a slice port: found, changed, answered; and what stands in a port's misbehaviour register. -/
namespace Sys2Proof.Machine
variable {s : State} {n uid : Nat} {r : Req}

/-! ### What a change of a port leaves -/

theorem State.tagUsed_onPort {f : Port → Port} {m tag : Nat} (hf : ∀ q, (f q).tags = q.tags := by exact fun _ => rfl) :
    (s.onPort n f).tagUsed m tag = s.tagUsed m tag := by
  have e : ((s.onPort n f).port m).tags = (s.port m).tags := upd_getD_proj Port.tags hf
  rw [State.tagUsed, e, State.tagUsed]

theorem State.allFenced_onPort {f : Port → Port} {m : Nat} (hf : ∀ q, (f q).fencedAll = q.fencedAll := by exact fun _ => rfl) :
    (s.onPort n f).allFenced m = s.allFenced m := by
  have e : ((s.onPort n f).port m).fencedAll = (s.port m).fencedAll := upd_getD_proj Port.fencedAll hf
  rw [State.allFenced, e, State.allFenced]
  rfl

theorem State.onPort_onPort (f g : Port → Port) : (s.onPort n f).onPort n g = s.onPort n fun q => g (f q) := by
  simp only [State.onPort, upd_upd]

/-! ### PORT_MISB (R101) -/

theorem getLsbD_or_bit {w : Nat} (m : BitVec w) {k : Nat} (hk : k < w) : (m ||| (1 : BitVec w) <<< k).getLsbD k = true := by
  simp [hk]

/-- A report of misbehaviour changes no more of a controller than PORT_MISB. -/
theorem State.ctl_misb_proj {α : Type} (g : Ctl → α) {bit q : Nat} (hg : ∀ (c : Ctl) m, g { c with misb := m } = g c := by exact fun _ _ => rfl) :
    g ((s.misb n bit).ctl q) = g (s.ctl q) :=
  upd_getD_proj g fun c => hg c _

theorem State.misb_bit {bit p : Nat} (hb : bit < 7) (hn : s.portPhys n = p) (hp : p < s.ctls.length) :
    ((s.misb n bit).ctl p).misb.getLsbD bit = true := by
  rw [State.misb, hn, State.ctl_onCtl _ _ _ hp]
  exact getLsbD_or_bit _ hb

@[simp] theorem State.misb_cells (s : State) (n bit : Nat) : (s.misb n bit).cells = s.cells := rfl
@[simp] theorem State.misb_nets (s : State) (n bit : Nat) : (s.misb n bit).nets = s.nets := rfl
@[simp] theorem State.port_misb (s : State) (n bit m : Nat) : (s.misb n bit).port m = s.port m := rfl
@[simp] theorem State.portPhys_misb (s : State) (n bit m : Nat) : (s.misb n bit).portPhys m = s.portPhys m := rfl
@[simp] theorem State.portPhys_onPort (s : State) (n : Nat) (f : Port → Port) (m : Nat) : (s.onPort n f).portPhys m = s.portPhys m := rfl
@[simp] theorem State.misb_ctls_length (s : State) (n bit : Nat) : (s.misb n bit).ctls.length = s.ctls.length := upd_length ..

theorem State.noteBad_bad : s.noteBad n cBAD = s.misb n 5 := if_pos rfl

/-! ### A request of a port -/

/-- The port with its request `uid` changed. -/
def Port.onReq (q : Port) (uid : Nat) (f : Req → Req) : Port := { q with tags := q.tags.map fun r => if r.uid = uid then f r else r }

theorem State.onReq_port (hn : n < 128) (f : Req → Req) : s.onReq n uid f = s.onPort n (·.onReq uid f) := if_pos (by omega)

theorem State.reqOf_port (hn : n < 128) : s.reqOf n uid = (s.port n).tags.find? fun r => r.uid == uid := by
  rw [State.reqOf, if_pos (by omega)]

/-- The newest request is the one of its number, where no other of its port has the number yet. -/
theorem Port.Wf.find_new {m : Nat} {q : Port} (hq : q.Wf m) (hr : r.uid = m + 1) :
    (q.tags ++ [r]).find? (fun r => r.uid == m + 1) = some r := by
  have hnone : q.tags.find? (fun r => r.uid == m + 1) = none := by
    refine List.find?_eq_none.2 fun r hr => ?_
    have := hq.uids r hr
    simp only [beq_iff_eq]
    omega
  simp [List.find?_append, hnone, hr]

/-- A change of a request whose number it keeps is found in its place. -/
theorem find_map_req {l : List Req} {f : Req → Req} (h : (l.find? fun r => r.uid == uid) = some r) (hf : (f r).uid = r.uid) :
    (l.map fun r => if r.uid = uid then f r else r).find? (fun r => r.uid == uid) = some (f r) := by
  induction l with
  | nil => cases h
  | cons a l ih =>
    by_cases ha : a.uid = uid
    · obtain rfl : a = r := by simpa [ha] using h
      simp [ha, hf]
    · have h' : (l.find? fun r => r.uid == uid) = some r := by simpa [ha] using h
      simpa [ha] using ih h'

theorem State.reqOf_onReq (hn : n < 128) (hl : n < s.ports.length) {f : Req → Req} (h : s.reqOf n uid = some r) (hf : (f r).uid = r.uid) :
    (s.onReq n uid f).reqOf n uid = some (f r) := by
  rw [State.reqOf_port hn] at h ⊢
  rw [State.onReq_port hn, State.port_onPort _ _ _ hl]
  exact find_map_req h hf

/-! ### Its answer -/

/-- The port with a response queued. -/
def Port.takeAns (q : Port) : Ans → Port
  | .beat b => { q with rsp := q.rsp ++ [b] }
  | .ack a => { q with ackQ := q.ackQ ++ [a] }

/-- The code a response carries. -/
def Ans.code : Ans → BitVec 4
  | .beat b => b.code
  | .ack a => a.code

theorem State.putAns_eq (a : Ans) : s.putAns n a = (s.onPort n (·.takeAns a)).noteBad n a.code := by
  cases a <;> rfl

theorem Req.endAns_code (r : Req) (code : BitVec 4) (d : Nat) : (r.endAns code d).code = code := by
  unfold Req.endAns
  split
  · rfl
  · split <;> rfl

/-- A request that is not answered on the data channel is answered by an acknowledge (R81, R88). -/
theorem Req.endAns_ack {code : BitVec 4} {d : Nat} (h : onData r.op r.arg = false) : r.endAns code d = .ack ⟨r.tag, code, r.doneN, false⟩ := by
  have hp : r.op ≠ opPage := by
    rintro hp
    simp [onData, hp] at h
  simp only [Req.endAns, if_neg hp, h, Bool.false_eq_true, if_false]

/-- A request that has its final answer (R88). -/
def Req.end (r : Req) (code : BitVec 4) : Req := { r with answered := true, closed := true, code := code, failed := r.failed || code != cOK }

/-- The final answer of a request of the own slice reaches its port at once (R88). -/
theorem State.finish_home (hn : n < 128) {code : BitVec 4} (h : s.reqOf n uid = some r) (ha : r.answered = false) (hr : r.remote = false) :
    s.finish n uid code = (s.onPort n fun q => (q.onReq uid (·.end code)).takeAns (r.endAns code 0)).noteBad n code := by
  have e : s.finish n uid code = (s.noteEnd n uid code).putAns n (r.endAns code 0) := by
    simp only [State.finish, h, ha, hr, State.sendAns, Bool.false_eq_true, if_false]
  rw [e, State.noteEnd, State.onReq_port hn, State.putAns_eq, State.onPort_onPort, Req.endAns_code]
  rfl

/-- A request that is answered is not answered again (R88). -/
theorem State.finish_answered {code : BitVec 4} (h : s.reqOf n uid = some r) (ha : r.answered = true) : s.finish n uid code = s := by
  simp only [State.finish, h, ha, if_true]

/-- A request refused before any of it ran ends at its own port with BAD_REQUEST, which PORT_MISB shows (R88, R101). -/
theorem State.finish_bad (hn : n < 128) (h : s.reqOf n uid = some r) (ha : r.answered = false) (hr : r.remote = false) :
    s.finish n uid cBAD = (s.onPort n fun q => (q.onReq uid (·.end cBAD)).takeAns (r.endAns cBAD 0)).misb n 5 := by
  rw [State.finish_home hn h ha hr, State.noteBad_bad]

end Sys2Proof.Machine
end

section
/-! SUPPORT. READ at a slice port. -/
namespace Sys2Proof.Machine
variable {s : State} {n tag cls addr len : Nat}

/-! ### A request offered and not accepted (R92, R126) -/

/-- The holds of a port follow its requests; of the ports nothing else changes (R126). -/
theorem State.refreshHolds_proj {α : Type} (g : Port → α) {p m : Nat} (hg : ∀ (q : Port) h, g { q with holds := h } = g q := by exact fun _ _ => rfl) :
    g ((s.refreshHolds p).port m) = g (s.port m) := by
  unfold State.refreshHolds
  split
  · rfl
  · exact upd_getD_proj g fun q => hg q _

/-- What an offer leaves of its port but the announcement and the holds. -/
theorem State.offer_proj {α : Type} (g : Port → α) {c a m : Nat} {write : Bool}
    (hg : ∀ (q : Port) h x y, g { q with holds := h, askRd := x, askWr := y } = g q := by exact fun _ _ _ _ => rfl) :
    g ((s.offer n c write a).port m) = g (s.port m) := by
  unfold State.offer
  rw [State.refreshHolds_proj g fun q h => hg q h q.askRd q.askWr]
  refine upd_getD_proj g fun q => ?_
  split
  · exact hg q q.holds q.askRd _
  · exact hg q q.holds _ q.askWr

theorem State.offer_ports (s : State) (n c : Nat) (write : Bool) (a : Nat) :
    s.offer n c write a = { s with ports := (s.offer n c write a).ports } := by
  obtain ⟨ports, e, -, -⟩ := s.offer_eq n c write a
  rw [e]

theorem State.offer_askRd (hn : n < s.ports.length) (c a : Nat) : ((s.offer n c false a).port n).askRd = some (c, a) := by
  unfold State.offer
  rw [State.refreshHolds_proj Port.askRd, State.port_onPort _ _ _ hn]
  rfl

theorem State.offer_askWr (hn : n < s.ports.length) (c a : Nat) : ((s.offer n c true a).port n).askWr = some (c, a) := by
  unfold State.offer
  rw [State.refreshHolds_proj Port.askWr, State.port_onPort _ _ _ hn]
  rfl

/-! ### A read taken (R73, R76, R78) -/

/-- The request of a read: a burst of len + 1 blocks, closed as it is taken. -/
def readReq (uid tag cls len addr lch t0 : Nat) : Req :=
  { tag := tag, uid := uid, op := 0, cls := cls, len := len, addr := addr * 64, lch := lch, taken := len + 1, closed := true, t0 := t0 }

/-- The port when it takes a read: nothing is announced any more, and the next burst is accepted after this one's cycles (R77). -/
def Port.tookRead (q : Port) (len : Nat) : Port := { q with askRd := none, rdFree := q.cyc + len + 1 }

/-- The port with a read among its requests. -/
def Port.takeRead (q : Port) (uid tag cls len addr lch : Nat) : Port :=
  { q.tookRead len with tags := q.tags ++ [readReq uid tag cls len addr lch q.cyc] }

/-- The state in which a read taken with its tag free is judged. -/
def State.withRead (s : State) (n tag cls addr len : Nat) : State :=
  { s.onPort n (·.takeRead (s.uid + 1) tag cls len addr (((s.decode (addr * 64) (s.portLch n)).map (·.1)).getD 0)) with uid := s.uid + 1 }

/-- The work of a read of its len + 1 blocks. -/
def readWork (n uid tag cls addr len lch off : Nat) : Work :=
  { port := n, uid := uid, tag := tag, cls := cls, req := n, op := 0, arg := 0, lch := lch, off := off, idx := 0, n := len + 1, data := [],
    be := 0, inp := 0, first := 0, key := addr, len := len }

@[simp] theorem State.withRead_cells (s : State) (n tag cls addr len : Nat) : (s.withRead n tag cls addr len).cells = s.cells := rfl
@[simp] theorem State.withRead_nets (s : State) (n tag cls addr len : Nat) : (s.withRead n tag cls addr len).nets = s.nets := rfl
@[simp] theorem State.withRead_ctls (s : State) (n tag cls addr len : Nat) : (s.withRead n tag cls addr len).ctls = s.ctls := rfl
@[simp] theorem State.ctl_withRead (s : State) (n tag cls addr len q : Nat) : (s.withRead n tag cls addr len).ctl q = s.ctl q := rfl
@[simp] theorem State.portPhys_withRead (s : State) (n tag cls addr len m : Nat) :
    (s.withRead n tag cls addr len).portPhys m = s.portPhys m := rfl

theorem State.unask_tookRead : (s.unask n false).onPort n (fun q => { q with rdFree := q.cyc + len + 1 }) = s.onPort n (·.tookRead len) :=
  State.onPort_onPort ..

theorem State.read_closed (h : s.portTakes n = false) : s.read n tag cls addr len = s := by
  simp only [State.read, h, Bool.not_false, if_true]

theorem State.read_offered (h : s.portTakes n = true) (hr : s.rqReady n = false ∨ s.freeToOffer n cls false addr = false) :
    s.read n tag cls addr len = s.offer n cls false addr := by
  have hc : (!s.rqReady n || !s.freeToOffer n cls false addr) = true := by rcases hr with h | h <;> simp [h]
  simp only [State.read, h, hc, Bool.not_true, Bool.false_eq_true, if_false, if_true]

section
variable (h : s.Offers n cls false addr)
include h

theorem State.Offers.read_dup (ht : s.tagUsed n tag = true) : s.read n tag cls addr len = (s.onPort n (·.tookRead len)).dupTag n tag := by
  have hready : s.rqReady n = true := h.ready
  have hdup : (s.onPort n (·.tookRead len)).tagUsed n tag = true := s.tagUsed_onPort.trans ht
  simp only [State.read, h.takes, hready, h.unheld, State.unask_tookRead, hdup, Bool.not_true, Bool.or_self, Bool.false_eq_true, if_false,
    if_true]

/-- A read with its tag free is judged: its burst first, then its window. -/
theorem State.Offers.read_judged (ht : s.tagUsed n tag = false) :
    (crosses addr len = true ∨ s.decode (addr * 64) (s.portLch n) = none →
      s.read n tag cls addr len = (s.withRead n tag cls addr len).finish n (s.uid + 1) cBAD) ∧
    ∀ l off, crosses addr len = false → s.decode (addr * 64) (s.portLch n) = some (l, off) →
      s.read n tag cls addr len = (s.withRead n tag cls addr len).hand n (readWork n (s.uid + 1) tag cls addr len l off) := by
  have hready : s.rqReady n = true := h.ready
  have hdup : (s.onPort n (·.tookRead len)).tagUsed n tag = false := s.tagUsed_onPort.trans ht
  have hfen : (s.withRead n tag cls addr len).allFenced n = false := (s.allFenced_onPort (n := n)).trans h.served
  have e : s.read n tag cls addr len =
      if crosses addr len then (s.withRead n tag cls addr len).finish n (s.uid + 1) cBAD
      else match s.decode (addr * 64) (s.portLch n) with
      | none => (s.withRead n tag cls addr len).finish n (s.uid + 1) cBAD
      | some (l, off) => (s.withRead n tag cls addr len).hand n (readWork n (s.uid + 1) tag cls addr len l off) := by
    have hw : (s.onPort n (·.tookRead len)).nextUid.onPort n (fun q => { q with tags := q.tags ++
        [readReq (s.uid + 1) tag cls len addr (((s.decode (addr * 64) (s.portLch n)).map (·.1)).getD 0) q.cyc] }) =
        s.withRead n tag cls addr len :=
      congrArg (fun l : State => { l with uid := s.uid + 1 }) (State.onPort_onPort ..)
    rw [← hw] at hfen ⊢
    simp only [State.read, h.takes, hready, h.unheld, State.unask_tookRead, hdup, Bool.not_true, Bool.or_self, Bool.false_eq_true, if_false]
    exact (if_neg fun hf => Bool.false_ne_true (hfen.symm.trans hf)).trans rfl
  rw [e]
  refine ⟨fun hb => ?_, fun l off hc hd => by rw [if_neg (by simp [hc]), hd]⟩
  rcases hb with hc | hd
  · rw [if_pos hc]
  · rw [hd, ite_self]

end

/-! ### Where its work goes (R102, R106, R108) -/

/-- A read of the own slice waits at the port's input of the channel that serves it. -/
theorem State.hand_read {w : Work} {p : Nat} (hl : w.lch = s.portLch n) (hs : s.serving w.lch = some p) (ho : w.op = 0) :
    s.hand n w = s.onCtl p fun c => { c with inRd := c.inRd ++ [{ w with inp := 0 }] } := by
  simp only [State.hand, if_pos hl, hs, if_pos ho]

/-- A block of the write channel does so in its direction. -/
theorem State.hand_write {w : Work} {p : Nat} (hl : w.lch = s.portLch n) (hs : s.serving w.lch = some p) (ho : w.op ≠ 0) :
    s.hand n w = s.onCtl p fun c => { c with inWr := c.inWr ++ [{ w with inp := 0 }] } := by
  simp only [State.hand, if_pos hl, hs, if_neg ho]

/-- Work for another slice waits in the sector network, its request marked as one that is answered over it. -/
theorem State.hand_away (hn : n < 128) {w : Work} (hl : w.lch ≠ s.portLch n) :
    s.hand n w = (s.onPort n (·.onReq w.uid fun r => { r with remote := true })).onNet (secOf (s.portPhys n)) fun b =>
      { b with msgs := b.msgs ++ [{ w with inp := 1 }] } := by
  simp only [State.hand, if_neg hl, State.onReq_port hn]

/-! ### The obligation -/

theorem State.Offers.lt (h : s.Offers n cls false addr) (hw : s.Wf) : n < s.ports.length := hw.ports ▸ h.isPort

theorem State.port_withRead (hl : n < s.ports.length) : (s.withRead n tag cls addr len).port n =
    (s.port n).takeRead (s.uid + 1) tag cls len addr (((s.decode (addr * 64) (s.portLch n)).map (·.1)).getD 0) :=
  s.port_onPort n _ hl

theorem State.Wf.reqOf_withRead (hw : s.Wf) (hn : n < 128) : (s.withRead n tag cls addr len).reqOf n (s.uid + 1) =
    some (readReq (s.uid + 1) tag cls len addr (((s.decode (addr * 64) (s.portLch n)).map (·.1)).getD 0) (s.port n).cyc) := by
  rw [State.reqOf_port hn, State.port_withRead (hw.ports ▸ hn)]
  exact (hw.port n).find_new rfl

theorem exec_read (hn : n < 128) (tag : BitVec 8) (cls : BitVec 4) (addr : BitVec 42) (len : BitVec 5) :
    exec (.read n tag cls addr len) s = .next (s.read n tag.toNat cls.toNat addr.toNat len.toNat) := if_pos hn

section
variable (hw : s.Wf) (h : s.Offers n cls false addr) (ht : s.tagUsed n tag = false)
include hw h ht

/-- A read of the own slice is the port's, and waits at its channel. -/
theorem State.Offers.read_own {p off : Nat} (hc : crosses addr len = false) (ho : s.ownBlock n (addr * 64) p off) :
    let t := s.read n tag cls addr len
    t = { s with ports := t.ports, ctls := t.ctls, uid := s.uid + 1 } ∧
      t.port n = (s.port n).takeRead (s.uid + 1) tag cls len addr (s.portLch n) ∧ (∀ m, m ≠ n → t.port m = s.port m) ∧
      t.ctl p = { s.ctl p with inRd := (s.ctl p).inRd ++ [readWork n (s.uid + 1) tag cls addr len (s.portLch n) off] } ∧
      ∀ q, q ≠ p → t.ctl q = s.ctl q := by
  obtain ⟨hd, hs, hp⟩ := ho
  have e : s.read n tag cls addr len = (s.withRead n tag cls addr len).onCtl p fun c =>
      { c with inRd := c.inRd ++ [readWork n (s.uid + 1) tag cls addr len (s.portLch n) off] } := by
    rw [(h.read_judged ht).2 _ _ hc hd]
    exact State.hand_read rfl hs rfl
  have hport : (s.withRead n tag cls addr len).port n = (s.port n).takeRead (s.uid + 1) tag cls len addr (s.portLch n) := by
    rw [State.port_withRead (h.lt hw), hd]
    rfl
  intro t
  rw [show t = _ from e]
  exact ⟨rfl, hport, fun m hm => s.port_onPort_ne _ _ _ hm, State.ctl_onCtl _ _ _ (hw.ctls ▸ hp), fun q hq => s.ctl_onCtl_ne _ _ _ hq⟩

/-- A read of another slice waits in the sector network. -/
theorem State.Offers.read_away {l off : Nat} (hc : crosses addr len = false) (hd : s.decode (addr * 64) (s.portLch n) = some (l, off))
    (hl : l ≠ s.portLch n) (hx : secOf (s.portPhys n) < 8) :
    let t := s.read n tag cls addr len
    t = { s with ports := t.ports, nets := t.nets, uid := s.uid + 1 } ∧ t.net (secOf (s.portPhys n)) =
      { s.net (secOf (s.portPhys n)) with
        msgs := (s.net (secOf (s.portPhys n))).msgs ++ [{ readWork n (s.uid + 1) tag cls addr len l off with inp := 1 }] } := by
  intro t
  have e : t = _ := ((h.read_judged ht).2 _ _ hc hd).trans (State.hand_away h.isPort hl)
  rw [e]
  exact ⟨rfl, State.net_onNet _ _ _ (hw.nets ▸ hx)⟩

/-- A read that is refused is answered by one beat, and changes no more than its port and PORT_MISB. -/
theorem State.Offers.read_refused (hb : crosses addr len = true ∨ s.decode (addr * 64) (s.portLch n) = none) :
    let t := s.read n tag cls addr len
    (t.port n).rsp = (s.port n).rsp ++ [⟨tag, 0, true, true, cBAD, 0⟩] ∧ t.cells = s.cells ∧ t.nets = s.nets ∧
      (∀ q, (t.ctl q).inRd = (s.ctl q).inRd) ∧ (s.portPhys n < 136 → (t.ctl (s.portPhys n)).misb.getLsbD 5 = true) := by
  have e := ((h.read_judged ht).1 hb).trans (State.finish_bad h.isPort (hw.reqOf_withRead h.isPort) rfl rfl)
  have hport : ((s.read n tag cls addr len).port n).rsp = (s.port n).rsp ++ [⟨tag, 0, true, true, cBAD, 0⟩] := by
    rw [e, State.misb, State.port_onCtl, State.port_onPort _ _ _ (by simpa [State.withRead] using h.lt hw), State.port_withRead (h.lt hw)]
    rfl
  intro t
  refine ⟨hport, ?_⟩
  rw [show t = _ from e]
  refine ⟨by simp, by simp, fun q => ?_, fun hp => State.misb_bit (by decide) (by simp) (by simpa [hw.ctls] using hp)⟩
  rw [State.ctl_misb_proj Ctl.inRd, State.ctl_onPort, State.ctl_withRead]

end

/-- A request with a tag in use gets an acknowledge of its own, and PORT_MISB shows both (R78, R101). -/
theorem State.dupTag_eq : s.dupTag n tag = ((s.onPort n (·.takeAns (.ack ⟨tag, cBAD, 0, true⟩))).misb n 5).misb n 2 := by
  simp only [State.dupTag, State.pushAck, State.noteBad_bad]
  rfl

theorem State.Offers.read_tagged (hw : s.Wf) (h : s.Offers n cls false addr) (ht : s.tagUsed n tag = true) :
    let t := s.read n tag cls addr len
    (t.port n).tags = (s.port n).tags ∧ (t.port n).ackQ = (s.port n).ackQ ++ [⟨tag, cBAD, 0, true⟩] ∧
      (∀ q, (t.ctl q).inRd = (s.ctl q).inRd) ∧ t.cells = s.cells ∧ t.nets = s.nets ∧
      (s.portPhys n < 136 → (t.ctl (s.portPhys n)).misb.getLsbD 2 = true) := by
  have e := (h.read_dup (len := len) ht).trans (State.dupTag_eq (s := s.onPort n (·.tookRead len)))
  have hport : (s.read n tag cls addr len).port n = ((s.port n).tookRead len).takeAns (.ack ⟨tag, cBAD, 0, true⟩) := by
    rw [e, State.onPort_onPort]
    exact s.port_onPort n _ (h.lt hw)
  intro t
  rw [show t.port n = _ from hport, show t = _ from e]
  refine ⟨rfl, rfl, fun q => ?_, by simp, by simp, fun hp => State.misb_bit (by decide) (by simp) (by simpa [hw.ctls] using hp)⟩
  rw [State.ctl_misb_proj Ctl.inRd, State.ctl_misb_proj Ctl.inRd, State.ctl_onPort, State.ctl_onPort]

/-- Settles O15: a read taken is judged by its tag, its burst and its window; what passes waits where its slice is served. -/
theorem readRequest : Obligations.ReadRequest := by
  intro s n tag cls addr len hw hn
  have he : exec (.read n tag cls addr len) s = .next (s.read n tag.toNat cls.toNat addr.toNat len.toNat) := exec_read hn ..
  refine ⟨fun h => ⟨fun p off ht hc ho => ?_, fun l off ht hc hd hl hx => ?_, fun ht hb => ?_, fun ht => ?_⟩, fun hup hr => ?_, fun hup => ?_⟩
  · obtain ⟨hf, hport, hothers, hctl, hctls⟩ := h.read_own hw ht hc ho
    exact ⟨_, he, hf, hothers, hctls, ⟨_, hport, rfl, rfl, rfl, rfl, rfl, rfl⟩, _, hctl, rfl, rfl, rfl, rfl, rfl, rfl, rfl⟩
  · obtain ⟨hf, hnet⟩ := h.read_away hw ht hc hd hl hx
    exact ⟨_, he, hf, _, hnet, rfl, rfl, rfl, rfl, rfl, rfl⟩
  · exact ⟨_, he, h.read_refused hw ht hb⟩
  · exact ⟨_, he, h.read_tagged hw ht⟩
  · have hl : n < s.ports.length := hw.ports ▸ hn
    refine ⟨_, he, ?_⟩
    rw [State.read_offered hup hr]
    exact ⟨s.offer_ports .., State.offer_askRd hl .., State.offer_proj Port.tags, State.offer_proj Port.rsp, State.offer_proj Port.ackQ⟩
  · rw [he, State.read_closed hup]

end Sys2Proof.Machine
end

section
/-! SUPPORT. The write channel of a slice port: what a beat of the open request does, and how the request ends. -/
namespace Sys2Proof.Machine
variable {s : State} {n uid p off : Nat} {r : Req} {w : OpenW} {b : Beat}

theorem State.onPort_congr {f g : Port → Port} (h : f (s.port n) = g (s.port n)) : s.onPort n f = s.onPort n g := by
  rw [State.onPort, State.onPort, upd_congr h]

/-- A change of a port that keeps its requests keeps each. -/
theorem State.reqOf_onPort (hn : n < 128) {f : Port → Port} (hf : ∀ q, (f q).tags = q.tags := by exact fun _ => rfl) :
    (s.onPort n f).reqOf n uid = s.reqOf n uid := by
  have e : ((s.onPort n f).port n).tags = (s.port n).tags := upd_getD_proj Port.tags hf
  rw [State.reqOf_port hn, e, State.reqOf_port hn]

/-! ### One block handed to its channel (R125, R132) -/

/-- The work of the next block of a write-channel request. -/
def Req.work (r : Req) (n uid lch off : Nat) (d : Block) (be : BitVec 64) : Work :=
  { port := n, uid := uid, tag := r.tag, cls := r.cls, req := n, op := r.op, arg := r.arg, lch := lch, off := off, idx := r.taken, n := 1,
    data := [d], be := be, inp := 0, slots := r.slots.take 1, first := 1, key := r.addr / 64, len := r.len }

/-- The request with its next block handed over, which takes its slot along. -/
def Req.handed (r : Req) : Req := { r with taken := r.taken + 1, slots := r.slots.drop 1 }

/-- A block of the own slice waits at its channel; its request has handed one block more. -/
theorem State.handBlock_own (hn : n < 128) (hr : s.reqOf n uid = some r) (hu : (s.fr (.pool (secOf (s.portPhys n)))).inj = 0)
    (ho : s.ownBlock n (r.addr + 64 * r.taken) p off) (hop : r.op ≠ 0) (d : Block) (be : BitVec 64) :
    s.handBlock n uid d be = (s.onPort n (·.onReq uid Req.handed)).onCtl p fun c =>
      { c with inWr := c.inWr ++ [r.work n uid (s.portLch n) off d be] } := by
  obtain ⟨hd, hs, -⟩ := ho
  simp only [State.handBlock, hr, State.fire_none _ _ _ _ hu, hd, Option.getD_some, Bool.false_eq_true, if_false]
  rw [State.onReq_port hn]
  exact State.hand_write rfl hs hop

/-! ### The open request ends (R79, R80, R464) -/

/-- The request when its last beat has come: complete, or cut with BAD_REQUEST; one that has failed keeps its code. -/
def Req.close (r : Req) (bad : Bool) : Req :=
  if r.failed then r else { r with closed := true, failed := bad, code := if bad then cBAD else r.code }

theorem Req.close_uid (r : Req) (bad : Bool) : (r.close bad).uid = r.uid := by
  unfold Req.close
  split <;> rfl

theorem State.flushOpen_empty (h : w.dead = true ∨ w.blocks = []) : s.flushOpen n w = s := by
  unfold State.flushOpen
  split
  · rfl
  · rw [if_pos]
    rcases h with h | h <;> simp [h]

theorem State.endOpen_eq {w : OpenW} (ho : (s.port n).openW = some w) (bad : Bool) : s.endOpen n bad =
    (((s.onPort n fun q => { q with openW := none }).flushOpen n w).onReq n w.uid (·.close bad)).checkEnd n w.uid := by
  simp only [State.endOpen, ho]
  rfl

/-- The open request ends with no block collected. -/
theorem State.endOpen_empty (hn : n < 128) (ho : (s.port n).openW = some w) (h : w.dead = true ∨ w.blocks = []) (bad : Bool) :
    s.endOpen n bad = (s.onPort n fun q => ({ q with openW := none } : Port).onReq w.uid (·.close bad)).checkEnd n w.uid := by
  rw [State.endOpen_eq ho, State.flushOpen_empty h, State.onReq_port hn, State.onPort_onPort]

/-- A request of which a block is still to be done waits for it (R88). -/
theorem State.checkEnd_waits (hr : s.reqOf n uid = some r) (hd : r.doneN < r.taken) : s.checkEnd n uid = s := by
  simp only [State.checkEnd, hr]
  rw [if_neg]
  simp [Nat.not_le.2 hd]

theorem State.checkEnd_answered (hr : s.reqOf n uid = some r) (ha : r.answered = true) : s.checkEnd n uid = s := by
  simp only [State.checkEnd, hr, State.finish_answered hr ha, ite_self]

/-- One with every block done is answered with the code it has failed with. -/
theorem State.checkEnd_failed (hr : s.reqOf n uid = some r) (hc : r.closed = true) (hd : r.taken ≤ r.doneN) (ho : onData r.op r.arg = false)
    (hf : r.failed = true) : s.checkEnd n uid = s.finish n uid r.code := by
  simp [State.checkEnd, hr, hc, hd, ho, hf]

/-! ### A beat of the open request (R79, R87) -/

/-- The port with its open request as `w`. -/
def Port.opens (q : Port) (w : OpenW) : Port := { q with openW := some w }

/-- A change of the open request, where it is known. -/
theorem State.onPort_openW {f : OpenW → OpenW} (ho : (s.port n).openW = some w) :
    (s.onPort n fun q => { q with openW := q.openW.map f }) = s.onPort n (·.opens (f w)) :=
  State.onPort_congr (by rw [ho]; rfl)

/-- A beat of a live request that passes its check: its block is handed over at once. -/
theorem State.takeWBeat_handed (ho : (s.port n).openW = some w) (hd : w.dead = false) (hc : chkOk w.chkEn b = true)
    (hcol : collects w.op w.chkEn = false) : s.takeWBeat n b =
      let t := (s.onPort n (·.opens { w with beats := w.beats + 1 })).handBlock n w.uid b.data b.be
      if b.last then t.endOpen n (w.beats != w.len) else if w.beats = w.len then t.endOpen n true else t := by
  obtain ⟨u, op, len, beats, en, dead, blocks⟩ := w
  cases hd
  simp only [State.takeWBeat, ho, hc, hcol, Bool.not_true, Bool.or_self, Bool.false_and, Bool.false_eq_true, if_true, if_false]
  rw [State.onPort_openW ho]

/-- Where the request collects its blocks, the beat's joins them. -/
theorem State.takeWBeat_collected (ho : (s.port n).openW = some w) (hd : w.dead = false) (hc : chkOk w.chkEn b = true)
    (hcol : collects w.op w.chkEn = true) : s.takeWBeat n b =
      let t := s.onPort n (·.opens { w with beats := w.beats + 1, blocks := w.blocks ++ [b.data] })
      if b.last then t.endOpen n (w.beats != w.len) else if w.beats = w.len then t.endOpen n true else t := by
  obtain ⟨u, op, len, beats, en, dead, blocks⟩ := w
  cases hd
  simp only [State.takeWBeat, ho, hc, hcol, Bool.not_true, Bool.not_false, Bool.or_self, Bool.or_true, Bool.and_self, Bool.false_and,
    Bool.false_eq_true, if_true, if_false]
  rw [State.onPort_openW ho]

/-- A beat that fails its check is counted, and changes no request (R87). -/
theorem State.chkFail_proj {α : Type} (g : Port → α) {m : Nat} (hg : ∀ (q : Port) c, g { q with chkCnt := c } = g q := by exact fun _ _ => rfl) :
    g ((s.chkFail n).port m) = g (s.port m) := by
  rw [State.chkFail, State.count_eq]
  exact upd_getD_proj g fun q => hg q _

/-- What stands of a beat after its check. -/
def State.checked (s : State) (n : Nat) (ok : Bool) : State := if ok then s else s.chkFail n

theorem State.checked_proj {α : Type} (g : Port → α) {m : Nat} {ok : Bool}
    (hg : ∀ (q : Port) c, g { q with chkCnt := c } = g q := by exact fun _ _ => rfl) : g ((s.checked n ok).port m) = g (s.port m) := by
  cases ok
  · exact State.chkFail_proj g hg
  · rfl

theorem State.checked_ports_length {ok : Bool} : (s.checked n ok).ports.length = s.ports.length := by
  cases ok
  · simp only [State.checked, State.chkFail, Bool.false_eq_true, if_false]
    rw [State.count_eq]
    exact upd_length ..
  · rfl

/-- The last beat of a request that was refused is checked and discarded. -/
theorem State.takeWBeat_refused (hn : n < 128) (hl : n < s.ports.length) (ho : (s.port n).openW = some w) (hd : w.dead = true)
    (hb : b.last = true) : s.takeWBeat n b =
    ((s.checked n (chkOk w.chkEn b)).onPort n fun q =>
      ({ q with openW := none } : Port).onReq w.uid (·.close (w.beats != w.len))).checkEnd n w.uid := by
  obtain ⟨u, op, len, beats, en, dead, blocks⟩ := w
  cases hd
  have ho' := (State.checked_proj (n := n) (ok := chkOk en b) Port.openW).trans ho
  have hl' : n < (s.checked n (chkOk en b)).ports.length := by rwa [State.checked_ports_length]
  have e : s.takeWBeat n b = ((s.checked n (chkOk en b)).onPort n (·.opens ⟨u, op, len, beats + 1, en, true, blocks⟩)).endOpen n (beats != len) := by
    simp only [State.takeWBeat, ho, hb, Bool.true_or, Bool.not_true, Bool.and_false, Bool.false_eq_true, if_true, if_false]
    exact congrArg (State.endOpen · n _) (State.onPort_openW ho')
  rw [e, State.endOpen_empty hn (by rw [State.port_onPort _ _ _ hl']; rfl) (.inl rfl), State.onPort_onPort]
  rfl

end Sys2Proof.Machine
end

section
/-! SUPPORT. The first beat of a write-channel request: the slots it books, and the requests of one block. -/
namespace Sys2Proof.Machine
variable {s : State} {n p off op : Nat} {hd : WHdr} {b : Beat} {single : State → Nat → State}

/-! ### What it books (R131, R132) -/

/-- A store at a key leaves what every other key reads as, in canonical form or not. -/
theorem smGet_smSet_ne {α : Type} [DecidableEq α] (d : α) (m : SMap α) {k j : Nat} (v : α) (h : j ≠ k) : smGet d (smSet d m k v) j = smGet d m j := by
  induction m with
  | nil =>
    unfold smSet
    split <;> simp [smGet, h]
  | cons a m ih =>
    obtain ⟨k', v'⟩ := a
    unfold smSet
    split
    · split <;> simp [smGet, h]
    · split
      next hk =>
        subst hk
        split <;> simp [smGet, h]
      · simp only [smGet, ih]

/-- The pool with one more slot of a floor in use. -/
def Pool.bookFloor (q : Pool) (k : Nat) : Pool := { q with floor := smSet 0 q.floor k (smGet 0 q.floor k + 1) }

/-- A floor slot that is free is booked, and nothing else (R131). -/
theorem State.book_floor {x pos part c : Nat} (hf : smGet 0 (s.pool x).floor (5 * pos + part) < floorCap part)
    (hq : (part == 1 && s.poolQuiet x) = false) : ∃ cnts free, s.book x pos part c =
      some (⟨x, pos, part, c⟩, { s with pools := upd s.pools x (·.bookFloor (5 * pos + part)), cnts := cnts, free := free }) := by
  obtain ⟨cnts, free, e, -⟩ := State.count_cntOnly (s.onPool x (·.bookFloor (5 * pos + part)))
    (.pool x) 1 (some c) 1 (some (fields [(pos, 0), (c, 8)])) none
  refine ⟨cnts, free, ?_⟩
  rw [State.book, if_pos (by simp [hf, hq])]
  exact congrArg (fun t => some (_, t)) e

theorem State.bookN_floor {x pos c : Nat} (hf : smGet 0 (s.pool x).floor (5 * pos + 1) < 224) (hq : s.poolQuiet x = false) : ∃ cnts free,
    s.bookN x pos 1 c 1 =
      some ([⟨x, pos, 1, c⟩], { s with pools := upd s.pools x (·.bookFloor (5 * pos + 1)), cnts := cnts, free := free }) := by
  obtain ⟨cnts, free, e⟩ := s.book_floor (part := 1) (c := c) hf (by simp [hq])
  exact ⟨cnts, free, by simp only [State.bookN, e]⟩

/-- A request slot booked takes none of the response slots. -/
theorem bookFloor_response {l : List Pool} {x pos : Nat} (h : smGet 0 (l.getD x {}).floor (5 * pos) < 128) :
    smGet 0 ((upd l x (·.bookFloor (5 * pos + 1))).getD x {}).floor (5 * pos) < 128 := by
  refine lt_of_eq_of_lt ?_ h
  exact upd_getD_proj (fun q : Pool => smGet 0 q.floor (5 * pos)) fun q => smGet_smSet_ne _ _ _ (by omega)

/-- A write of one block books its request slot, and its response slot where it is answered on the data channel (R132). -/
theorem State.PoolFree.bookFirst_block (h : s.PoolFree n) (hl : hd.len = 0) : ∃ k pools cnts free,
    s.bookFirst n op hd true = some (k, { s with pools := pools, cnts := cnts, free := free }) ∧ (k.take 1).length = 1 := by
  have hlen : hd.len.toNat = 0 := by simp [hl]
  obtain ⟨cs, fr, h1⟩ := s.bookN_floor (c := hd.cls.toNat) h.request h.intake
  unfold State.bookFirst
  simp only [hlen, if_true, Nat.zero_add, h1]
  by_cases ho : onData op hd.arg.toNat = true
  · obtain ⟨cs2, fr2, h2⟩ := State.book_floor (part := 0) (c := hd.cls.toNat)
      (s := { s with pools := upd s.pools (secOf (s.portPhys n)) (·.bookFloor (5 * posOf (s.portPhys n) + 1)), cnts := cs, free := fr })
      (bookFloor_response h.response) rfl
    simp only [ho, if_true, h2]
    exact ⟨_, _, _, _, rfl, rfl⟩
  · rw [if_neg ho]
    exact ⟨_, _, _, _, rfl, rfl⟩

/-! ### The request it makes -/

/-- The request of a first beat. -/
def firstReq (hd : WHdr) (op uid lch t0 : Nat) (k : List Slot) : Req :=
  { tag := hd.tag.toNat, uid := uid, op := op, cls := hd.cls.toNat, len := hd.len.toNat, arg := hd.arg.toNat,
    addr := hd.addr.toNat * 64, lch := lch, t0 := t0, slots := k }

/-- The open request of a first beat before the beat itself is taken. -/
def firstOpen (hd : WHdr) (op uid : Nat) (dead : Bool) : OpenW :=
  { uid := uid, op := op, len := hd.len.toNat, beats := 0, chkEn := hd.chkEn, dead := dead, blocks := [] }

/-- The port with the request of a first beat among its own, and open. -/
def Port.takeFirst (q : Port) (hd : WHdr) (op uid lch : Nat) (k : List Slot) (dead : Bool) : Port :=
  { q with
    askWr := none, wrFree := q.cyc + 1, orphan := false, tags := q.tags ++ [firstReq hd op uid lch q.cyc k]
    openW := some (firstOpen hd op uid dead) }

/-- The state in which a first beat is judged: its request has its tag, its number and its slots. -/
def State.withFirst (s : State) (n op : Nat) (hd : WHdr) (k : List Slot) (dead : Bool) (pools : List Pool) (cnts : List Cnt) (free : Nat) : State :=
  { s.onPort n (·.takeFirst hd op (s.uid + 1) ((s.decode (hd.addr.toNat * 64) (s.portLch n)).getD (0, 0)).1 k dead) with
    pools := pools, cnts := cnts, free := free, uid := s.uid + 1 }

theorem State.first_offered (h : s.portTakes n = true) (hi : (s.port n).openW = none) (hm : (op != opPage && op != opBell) = true)
    (hr : s.wqReady n = false ∨ s.freeToOffer n hd.cls.toNat true hd.addr.toNat = false) :
    s.first n op hd b single = s.offer n hd.cls.toNat true hd.addr.toNat := by
  have hc : (!s.wqReady n || !s.freeToOffer n hd.cls.toNat true hd.addr.toNat) = true := by rcases hr with h | h <;> simp [h]
  simp only [State.first, h, hi, hm, hc, Option.isSome_none, Bool.not_true, Bool.false_eq_true, if_false, if_true]

section
variable (h : s.Offers n hd.cls.toNat true hd.addr.toNat) (hi : (s.port n).openW = none) (hp : s.PoolFree n)
  (hm : (op != opPage && op != opBell) = true) (ht : s.tagUsed n hd.tag.toNat = false)
include h hi hp hm ht

/-- With its header refused, the request books nothing, and is answered before its beat is taken. -/
theorem State.Offers.first_bad (hb : s.hdrBad (s.portLch n) op hd = true) : s.first n op hd b single =
    ((s.withFirst n op hd [] true s.pools s.cnts s.free).finish n (s.uid + 1) cBAD).takeWBeat n b := by
  have hready : s.wqReady n = true := h.ready
  unfold State.first
  simp only [h.takes, hi, hm, hready, h.unheld, h.served, ht, hb, State.fire_none _ _ _ _ hp.unarmed, Option.isSome_none,
    Bool.not_true, Bool.or_self, Bool.false_eq_true, Bool.or_true, Bool.or_false, Bool.and_false, Bool.false_and, if_false, if_true]
  simp only [State.unask, State.onPort, State.nextUid, upd_upd, reduceIte]
  rfl

/-- With its header in order and its slots booked, its beat is taken as the open request's first. -/
theorem State.Offers.first_good (hb : s.hdrBad (s.portLch n) op hd = false)
    (ha : (isAtomic op && chkOk hd.chkEn b && atomDataBad op hd.arg.toNat b.data) = false) {k : List Slot} {pools : List Pool} {cnts : List Cnt}
    {free : Nat} (hk : s.bookFirst n op hd true = some (k, { s with pools := pools, cnts := cnts, free := free })) :
    s.first n op hd b single = (s.withFirst n op hd k false pools cnts free).takeWBeat n b := by
  have hready : s.wqReady n = true := h.ready
  unfold State.first
  simp only [h.takes, hi, hm, hready, h.unheld, h.served, ht, hb, hk, ha, State.fire_none _ _ _ _ hp.unarmed, Option.isSome_none,
    Bool.not_true, Bool.not_false, Bool.or_self, Bool.and_true, Bool.false_eq_true, if_false, if_true]
  simp only [State.unask, State.onPort, State.nextUid, upd_upd, reduceIte]
  rfl

end

/-! ### The request of one block (R79, R125, R163) -/

theorem State.onReq_congr {uid : Nat} {f g : Req → Req} (h : ∀ q ∈ (s.port n).tags, q.uid = uid → f q = g q) (hn : n < 128) :
    s.onReq n uid f = s.onReq n uid g := by
  rw [State.onReq_port hn, State.onReq_port hn]
  refine State.onPort_congr (congrArg (fun l => { s.port n with tags := l }) (List.map_congr_left fun q hq => ?_))
  split
  next hu => exact h q hq hu
  · rfl

/-- A request that collected its one block hands it as any other block is handed: an ordered contribution whole, with its slots. -/
theorem State.flushOpen_one (hn : n < 128) {w : OpenW} {r : Req} {d : Block} (hr : s.reqOf n w.uid = some r)
    (hz : ∀ q ∈ (s.port n).tags, q.uid = w.uid → q.taken = 0) (hd : w.dead = false) (hb : w.blocks = [d])
    (hu : (s.fr (.pool (secOf (s.portPhys n)))).inj = 0) : s.flushOpen n w = s.handBlock n w.uid d 0 := by
  have hr0 : r.taken = 0 := by
    rw [State.reqOf_port hn] at hr
    exact hz r (List.mem_of_find?_eq_some hr) (by simpa using List.find?_some hr)
  by_cases ho : r.op = opOrd
  · have e : s.onReq n w.uid (fun r => { r with taken := 1, slots := r.slots.drop 1 }) =
        s.onReq n w.uid fun r => { r with taken := r.taken + 1, slots := r.slots.drop 1 } :=
      State.onReq_congr (fun q hq h => by rw [hz q hq h]) hn
    simp only [State.flushOpen, State.handBlock, hr, hd, hb, ho, hr0, State.fire_none _ _ _ _ hu, List.isEmpty_cons, Bool.or_self,
      Bool.false_eq_true, if_false, if_true, List.length_cons, List.length_nil, Nat.zero_add, Nat.mul_zero, Nat.add_zero, e]
  · simp only [State.flushOpen, hr, hd, hb, ho, List.isEmpty_cons, Bool.or_self, Bool.false_eq_true, if_false, List.foldl_cons, List.foldl_nil]

/-- The port with the request of one block among its own, its block handed over. -/
def Port.tookOne (q : Port) (hd : WHdr) (op uid lch : Nat) (k : List Slot) : Port :=
  { q with
    askWr := none, wrFree := q.cyc + 1, orphan := false, openW := none
    tags := q.tags ++ [{ firstReq hd op uid lch q.cyc k with taken := 1, closed := true, slots := k.drop 1 }] }

/-- The state in which a request of one block to the own slice has been taken, but for the block at its channel. -/
def State.withOne (s : State) (n op : Nat) (hd : WHdr) (k : List Slot) (pools : List Pool) (cnts : List Cnt) (free : Nat) : State :=
  { s.onPort n (·.tookOne hd op (s.uid + 1) (s.portLch n) k) with pools := pools, cnts := cnts, free := free, uid := s.uid + 1 }

section
variable {k : List Slot} {pools : List Pool} {cnts : List Cnt} {free : Nat} {dead : Bool}

theorem State.port_withFirst (hl : n < s.ports.length) : (s.withFirst n op hd k dead pools cnts free).port n =
    (s.port n).takeFirst hd op (s.uid + 1) ((s.decode (hd.addr.toNat * 64) (s.portLch n)).getD (0, 0)).1 k dead :=
  s.port_onPort n _ hl

theorem State.Wf.reqOf_withFirst (hw : s.Wf) (hn : n < 128) : (s.withFirst n op hd k dead pools cnts free).reqOf n (s.uid + 1) =
    some (firstReq hd op (s.uid + 1) ((s.decode (hd.addr.toNat * 64) (s.portLch n)).getD (0, 0)).1 (s.port n).cyc k) := by
  rw [State.reqOf_port hn, State.port_withFirst (hw.ports ▸ hn)]
  exact (hw.port n).find_new rfl

/-- Whatever the beat does to its port one step after the other, it ends with the request's block handed over. -/
theorem State.withFirst_onPort {F : Port → Port} (hd' : (s.decode (hd.addr.toNat * 64) (s.portLch n)) = some (s.portLch n, off))
    (hF : F ((s.port n).takeFirst hd op (s.uid + 1) (s.portLch n) k false) = (s.port n).tookOne hd op (s.uid + 1) (s.portLch n) k) :
    (s.withFirst n op hd k false pools cnts free).onPort n F = s.withOne n op hd k pools cnts free := by
  have e : (s.onPort n (·.takeFirst hd op (s.uid + 1) (s.portLch n) k false)).onPort n F =
      s.onPort n (·.tookOne hd op (s.uid + 1) (s.portLch n) k) := (State.onPort_onPort ..).trans (State.onPort_congr hF)
  have e' := congrArg (fun t : State => { t with pools := pools, cnts := cnts, free := free, uid := s.uid + 1 }) e
  rw [State.withFirst, hd']
  exact e'

end

end Sys2Proof.Machine
end

section
/-! SUPPORT. The first beat of a write-channel request of one block, taken and refused. -/
namespace Sys2Proof.Machine
variable {s : State} {n p off op : Nat} {hd : WHdr} {b : Beat} {k : List Slot} {pools : List Pool} {cnts : List Cnt} {free : Nat}

/-! ### Taken -/

/-- The request of a first beat is the only one of its number, and has handed no block yet. -/
theorem Port.Wf.takeFirst_fresh {m lch : Nat} {q : Port} {r : Req} (hq : q.Wf m)
    (hr : r ∈ (q.takeFirst hd op (m + 1) lch k false).tags) (hu : r.uid = m + 1) : r.taken = 0 := by
  rcases List.mem_append.1 hr with h | h
  · have := hq.uids r h
    omega
  · rw [List.mem_singleton.1 h]
    rfl

/-- Its block handed over and the request closed, the port has a request of one block. -/
theorem Port.Wf.takeFirst_ends {m lch : Nat} {q : Port} (hq : q.Wf m) :
    ({ (q.takeFirst hd op (m + 1) lch k false).onReq (m + 1) Req.handed with openW := none } : Port).onReq (m + 1) (·.close false) =
      q.tookOne hd op (m + 1) lch k := by
  simp [Port.onReq, Port.takeFirst, Port.tookOne, hq.onTag_new, firstReq, Req.handed, Req.close]

theorem State.onCtl_onPort (f : Ctl → Ctl) (g : Port → Port) : (s.onCtl p f).onPort n g = (s.onPort n g).onCtl p f := rfl

/-- The work of a request of one block: an operation that collects its blocks hands them without the beat's strobes (R84, R163). -/
def oneWork (s : State) (n op off : Nat) (hd : WHdr) (b : Beat) (k : List Slot) : Work :=
  (firstReq hd op (s.uid + 1) (s.portLch n) (s.port n).cyc k).work n (s.uid + 1) (s.portLch n) off b.data
    (if collects op hd.chkEn then 0 else b.be)

section
variable (hw : s.Wf) (hn : n < 128) (ho : s.ownBlock n (hd.addr.toNat * 64) p off)
include hw hn ho

/-- Whatever the beat does to its port, the request it leaves waits for its block. -/
theorem State.withFirst_checkEnd {F : Port → Port} (f : Ctl → Ctl)
    (hF : F ((s.port n).takeFirst hd op (s.uid + 1) (s.portLch n) k false) = (s.port n).tookOne hd op (s.uid + 1) (s.portLch n) k) :
    (((s.withFirst n op hd k false pools cnts free).onPort n F).onCtl p f).checkEnd n (s.uid + 1) =
      (s.withOne n op hd k pools cnts free).onCtl p f := by
  rw [State.withFirst_onPort ho.1 hF]
  have hport : ((s.withOne n op hd k pools cnts free).onCtl p f).port n = (s.port n).tookOne hd op (s.uid + 1) (s.portLch n) k :=
    s.port_onPort n _ (hw.ports ▸ hn)
  refine State.checkEnd_waits (r := { firstReq hd op (s.uid + 1) (s.portLch n) (s.port n).cyc k with
    taken := 1, closed := true, slots := k.drop 1 }) ?_ Nat.one_pos
  rw [State.reqOf_port hn, hport]
  exact (hw.port n).find_new rfl

/-- The request's block waits at its channel. -/
theorem State.withFirst_handBlock (hop : op ≠ 0) (hu : (s.fr (.pool (secOf (s.portPhys n)))).inj = 0) {G : Port → Port}
    (hG : ∀ q, (G q).tags = q.tags) (d : Block) (be : BitVec 64) :
    ((s.withFirst n op hd k false pools cnts free).onPort n G).handBlock n (s.uid + 1) d be =
      ((s.withFirst n op hd k false pools cnts free).onPort n fun q => (G q).onReq (s.uid + 1) Req.handed).onCtl p fun c =>
        { c with inWr := c.inWr ++ [(firstReq hd op (s.uid + 1) (s.portLch n) (s.port n).cyc k).work n (s.uid + 1) (s.portLch n) off d be] } := by
  have hr : ((s.withFirst n op hd k false pools cnts free).onPort n G).reqOf n (s.uid + 1) =
      some (firstReq hd op (s.uid + 1) (s.portLch n) (s.port n).cyc k) := by
    rw [State.reqOf_onPort hn hG, hw.reqOf_withFirst hn, ho.1]
    rfl
  rw [State.handBlock_own hn hr hu (p := p) (off := off) ho hop, State.onPort_onPort]
  rfl

omit ho in
theorem State.withFirst_lt : n < (s.withFirst n op hd k false pools cnts free).ports.length := by
  rw [State.withFirst, State.onPort, upd_length, hw.ports]
  exact hn

/-- The port of a first beat that is in order. -/
theorem State.withFirst_port :
    (s.withFirst n op hd k false pools cnts free).port n = (s.port n).takeFirst hd op (s.uid + 1) (s.portLch n) k false := by
  rw [State.port_withFirst (hw.ports ▸ hn), ho.1]
  rfl

theorem State.withFirst_openW :
    ((s.withFirst n op hd k false pools cnts free).port n).openW = some (firstOpen hd op (s.uid + 1) false) := by
  rw [State.withFirst_port hw hn ho]
  rfl

/-- A block that is not collected is handed over with its beat. -/
theorem State.withFirst_take_handed (hop : op ≠ 0) (hu : (s.fr (.pool (secOf (s.portPhys n)))).inj = 0) (hl : hd.len.toNat = 0)
    (hb : b.last = true) (hc : chkOk hd.chkEn b = true) (hcol : collects op hd.chkEn = false) :
    (s.withFirst n op hd k false pools cnts free).takeWBeat n b =
      (s.withOne n op hd k pools cnts free).onCtl p fun c => { c with inWr := c.inWr ++ [oneWork s n op off hd b k] } := by
  have hend : ((firstOpen hd op (s.uid + 1) false).beats != (firstOpen hd op (s.uid + 1) false).len) = false := by simp [firstOpen, hl]
  rw [State.takeWBeat_handed (State.withFirst_openW hw hn ho) rfl hc hcol, if_pos hb, hend]
  have h1 := State.withFirst_handBlock (k := k) (pools := pools) (cnts := cnts) (free := free) hw hn ho hop hu
    (G := (·.opens { firstOpen hd op (s.uid + 1) false with beats := 1 })) (fun _ => rfl) b.data b.be
  refine (congrArg (State.endOpen · n false) h1).trans ?_
  rw [State.endOpen_empty (w := { firstOpen hd op (s.uid + 1) false with beats := 1 }) hn
    (by rw [State.port_onCtl, State.port_onPort _ _ _ (State.withFirst_lt hw hn)]; rfl) (.inr rfl), State.onCtl_onPort, State.onPort_onPort]
  simp only [oneWork, hcol, Bool.false_eq_true, if_false]
  exact State.withFirst_checkEnd hw hn ho _ (hw.port n).takeFirst_ends

/-- A block that is collected is handed over when its request ends, which is with its one beat. -/
theorem State.withFirst_take_collected (hop : op ≠ 0) (hu : (s.fr (.pool (secOf (s.portPhys n)))).inj = 0) (hl : hd.len.toNat = 0)
    (hb : b.last = true) (hc : chkOk hd.chkEn b = true) (hcol : collects op hd.chkEn = true) :
    (s.withFirst n op hd k false pools cnts free).takeWBeat n b =
      (s.withOne n op hd k pools cnts free).onCtl p fun c => { c with inWr := c.inWr ++ [oneWork s n op off hd b k] } := by
  have hend : ((firstOpen hd op (s.uid + 1) false).beats != (firstOpen hd op (s.uid + 1) false).len) = false := by simp [firstOpen, hl]
  have hlp := State.withFirst_lt (op := op) (hd := hd) (k := k) (pools := pools) (cnts := cnts) (free := free) hw hn
  rw [State.takeWBeat_collected (State.withFirst_openW hw hn ho) rfl hc hcol, if_pos hb, hend]
  have hz : ∀ q ∈ (((s.withFirst n op hd k false pools cnts free).onPort n
      fun q => ({ q with openW := none } : Port)).port n).tags, q.uid = s.uid + 1 → q.taken = 0 := by
    rw [State.port_onPort _ _ _ hlp, State.withFirst_port hw hn ho]
    exact fun q hq => (hw.port n).takeFirst_fresh hq
  rw [State.endOpen_eq (w := { firstOpen hd op (s.uid + 1) false with beats := 1, blocks := [b.data] })
    (by rw [State.port_onPort _ _ _ hlp]; rfl), State.onPort_onPort]
  have h1 := State.withFirst_handBlock (k := k) (pools := pools) (cnts := cnts) (free := free) hw hn ho hop hu
    (G := fun q => { q with openW := none }) (fun _ => rfl) b.data 0
  have h2 := (State.flushOpen_one (w := { firstOpen hd op (s.uid + 1) false with beats := 1, blocks := [b.data] }) (d := b.data)
    (s := (s.withFirst n op hd k false pools cnts free).onPort n fun q => { q with openW := none }) hn
    ((State.reqOf_onPort hn).trans (hw.reqOf_withFirst hn)) hz rfl rfl hu).trans h1
  refine (congrArg (fun t : State => (t.onReq n (s.uid + 1) (·.close false)).checkEnd n (s.uid + 1)) h2).trans ?_
  rw [State.onReq_port hn, State.onCtl_onPort, State.onPort_onPort]
  simp only [oneWork, hcol, if_true]
  exact State.withFirst_checkEnd hw hn ho _ (hw.port n).takeFirst_ends

theorem State.withFirst_take (hop : op ≠ 0) (hu : (s.fr (.pool (secOf (s.portPhys n)))).inj = 0) (hl : hd.len = 0) (hb : b.last = true)
    (hc : chkOk hd.chkEn b = true) : (s.withFirst n op hd k false pools cnts free).takeWBeat n b =
      (s.withOne n op hd k pools cnts free).onCtl p fun c => { c with inWr := c.inWr ++ [oneWork s n op off hd b k] } := by
  have hlen : hd.len.toNat = 0 := by simp [hl]
  cases hcol : collects op hd.chkEn with
  | false => exact State.withFirst_take_handed hw hn ho hop hu hlen hb hc hcol
  | true => exact State.withFirst_take_collected hw hn ho hop hu hlen hb hc hcol

end

/-- A request of one block that is taken: it is the port's, and its block waits at the channel that serves the slice. -/
theorem State.Offers.first_one {single : State → Nat → State} (hw : s.Wf) (h : s.Offers n hd.cls.toNat true hd.addr.toNat)
    (hi : (s.port n).openW = none) (hp : s.PoolFree n) (hm : (op != opPage && op != opBell) = true) (hop : op ≠ 0)
    (ht : s.tagUsed n hd.tag.toNat = false) (hb : s.hdrBad (s.portLch n) op hd = false) (hl : hd.len = 0) (hlast : b.last = true)
    (hc : chkOk hd.chkEn b = true) (ha : isAtomic op = true → atomDataBad op hd.arg.toNat b.data = false)
    (ho : s.ownBlock n (hd.addr.toNat * 64) p off) : ∃ k pools cnts free, (k.take 1).length = 1 ∧
      s.first n op hd b single = (s.withOne n op hd k pools cnts free).onCtl p fun c =>
        { c with inWr := c.inWr ++ [oneWork s n op off hd b k] } := by
  obtain ⟨k, pools, cnts, free, hk, hk1⟩ := hp.bookFirst_block (op := op) hl
  have ha' : (isAtomic op && chkOk hd.chkEn b && atomDataBad op hd.arg.toNat b.data) = false := by
    cases hat : isAtomic op <;> simp [ha, hat]
  exact ⟨k, pools, cnts, free, hk1,
    (h.first_good hi hp hm ht hb ha' hk).trans (State.withFirst_take hw h.isPort ho hop hp.unarmed hl hlast hc)⟩

/-! ### Refused -/

@[simp] theorem State.checked_cells {ok : Bool} : (s.checked n ok).cells = s.cells := by
  cases ok
  · simp only [State.checked, State.chkFail, Bool.false_eq_true, if_false]
    rw [State.count_eq]
    rfl
  · rfl

@[simp] theorem State.checked_nets {ok : Bool} : (s.checked n ok).nets = s.nets := by
  cases ok
  · simp only [State.checked, State.chkFail, Bool.false_eq_true, if_false]
    rw [State.count_eq]
    rfl
  · rfl

/-- A beat checked changes no more of a controller than PORT_MISB. -/
theorem State.ctl_checked_proj {α : Type} (g : Ctl → α) {ok : Bool} {q : Nat}
    (hg : ∀ (c : Ctl) m, g { c with misb := m } = g c := by exact fun _ _ => rfl) : g ((s.checked n ok).ctl q) = g (s.ctl q) := by
  cases ok
  · simp only [State.checked, State.chkFail, Bool.false_eq_true, if_false]
    rw [State.count_eq]
    exact (State.ctl_misb_proj g hg).trans (by rw [State.ctl_onPort])
  · rfl

theorem Req.close_answered {r : Req} (h : r.answered = true) (bad : Bool) : (r.close bad).answered = true := by
  unfold Req.close
  split <;> exact h

/-- The last beat of a request that has its answer is checked, and the request is no longer open. -/
theorem State.takeWBeat_answered {w : OpenW} {r : Req} (hn : n < 128) (hl : n < s.ports.length) (ho : (s.port n).openW = some w)
    (hd : w.dead = true) (hr : s.reqOf n w.uid = some r) (ha : r.answered = true) (hb : b.last = true) : s.takeWBeat n b =
    (s.checked n (chkOk w.chkEn b)).onPort n fun q =>
      ({ q with openW := none } : Port).onReq w.uid (·.close (w.beats != w.len)) := by
  rw [State.takeWBeat_refused hn hl ho hd hb]
  refine State.checkEnd_answered (r := r.close (w.beats != w.len)) ?_ (Req.close_answered ha _)
  have htags := State.checked_proj (s := s) (n := n) (m := n) (ok := chkOk w.chkEn b) Port.tags
  rw [State.reqOf_port hn] at hr
  rw [State.reqOf_port hn, State.port_onPort _ _ _ (by rwa [State.checked_ports_length])]
  exact find_map_req (by rw [htags, hr]) (r.close_uid _)

@[simp] theorem Port.takeAns_tags (q : Port) (a : Ans) : (q.takeAns a).tags = q.tags := by cases a <;> rfl
@[simp] theorem Port.takeAns_openW (q : Port) (a : Ans) : (q.takeAns a).openW = q.openW := by cases a <;> rfl

/-- The port with a request of a first beat that was refused and answered. -/
def Port.refuseFirst (q : Port) (hd : WHdr) (op uid lch : Nat) : Port :=
  ((q.takeFirst hd op uid lch [] true).onReq uid (·.end cBAD)).takeAns ((firstReq hd op uid lch q.cyc []).endAns cBAD 0)

theorem Port.refuseFirst_openW (q : Port) (uid lch : Nat) : (q.refuseFirst hd op uid lch).openW = some (firstOpen hd op uid true) :=
  Port.takeAns_openW ..

theorem Port.Wf.find_refuseFirst {m lch : Nat} {q : Port} (hq : q.Wf m) :
    (q.refuseFirst hd op (m + 1) lch).tags.find? (fun r => r.uid == m + 1) =
      some ((firstReq hd op (m + 1) lch q.cyc []).end cBAD) := by
  rw [Port.refuseFirst, Port.takeAns_tags]
  exact find_map_req (hq.find_new rfl) rfl

/-- The answer of a refused request is a data beat or an acknowledge as its operation is answered (R81). -/
theorem Port.refuseFirst_answers (q : Port) (uid lch : Nat) (hm : op ≠ opPage) :
    if onData op hd.arg.toNat then (q.refuseFirst hd op uid lch).rsp = q.rsp ++ [⟨hd.tag.toNat, 0, true, true, cBAD, 0⟩]
    else (q.refuseFirst hd op uid lch).ackQ = q.ackQ ++ [⟨hd.tag.toNat, cBAD, 0, false⟩] := by
  unfold Port.refuseFirst Req.endAns firstReq
  rw [if_neg hm]
  split <;> rfl

/-- The state in which a request of a first beat has been refused, before the beat itself is judged. -/
def State.withRefused (s : State) (n op : Nat) (hd : WHdr) : State :=
  (s.withFirst n op hd [] true s.pools s.cnts s.free).finish n (s.uid + 1) cBAD

theorem State.Wf.withRefused_eq (hw : s.Wf) (hn : n < 128) : ∃ f : Port → Port,
    s.withRefused n op hd = ((s.withFirst n op hd [] true s.pools s.cnts s.free).onPort n f).misb n 5 ∧
      (s.withRefused n op hd).port n =
        (s.port n).refuseFirst hd op (s.uid + 1) ((s.decode (hd.addr.toNat * 64) (s.portLch n)).getD (0, 0)).1 := by
  have hl : n < s.ports.length := hw.ports ▸ hn
  have e := State.finish_bad hn (hw.reqOf_withFirst (op := op) (hd := hd) (k := []) (pools := s.pools) (cnts := s.cnts)
    (free := s.free) (dead := true) hn) rfl rfl
  refine ⟨_, e, ?_⟩
  rw [State.withRefused, e, State.port_misb, State.port_onPort _ _ _ (by simpa [State.withFirst, State.onPort] using hl),
    State.port_withFirst hl]
  rfl

/-- A request with a bad header that ends with its first beat is answered BAD_REQUEST, and no block of it is handed. -/
theorem State.Offers.first_refused {single : State → Nat → State} (hw : s.Wf) (h : s.Offers n hd.cls.toNat true hd.addr.toNat)
    (hi : (s.port n).openW = none) (hp : s.PoolFree n) (hm : (op != opPage && op != opBell) = true)
    (ht : s.tagUsed n hd.tag.toNat = false) (hb : s.hdrBad (s.portLch n) op hd = true) (hlast : b.last = true) :
    let t := s.first n op hd b single
    t.cells = s.cells ∧ t.nets = s.nets ∧ (∀ q, (t.ctl q).inWr = (s.ctl q).inWr) ∧ (t.port n).openW = none ∧
      (if onData op hd.arg.toNat then (t.port n).rsp = (s.port n).rsp ++ [⟨hd.tag.toNat, 0, true, true, cBAD, 0⟩]
       else (t.port n).ackQ = (s.port n).ackQ ++ [⟨hd.tag.toNat, cBAD, 0, false⟩]) := by
  have hn := h.isPort
  obtain ⟨f, hY, hport⟩ := hw.withRefused_eq (op := op) (hd := hd) hn
  have hlY : n < (s.withRefused n op hd).ports.length := by
    rw [hY]
    simpa [State.misb, State.onPort, State.onCtl, State.withFirst] using hw.ports ▸ hn
  have hreq : (s.withRefused n op hd).reqOf n (s.uid + 1) = _ :=
    ((State.reqOf_port hn).trans (by rw [hport])).trans (hw.port n).find_refuseFirst
  have hbad : s.first n op hd b single = (s.withRefused n op hd).takeWBeat n b := h.first_bad hi hp hm ht hb
  have e : s.first n op hd b single = ((s.withRefused n op hd).checked n (chkOk hd.chkEn b)).onPort n fun q =>
      ({ q with openW := none } : Port).onReq (s.uid + 1) (·.close (0 != hd.len.toNat)) :=
    hbad.trans (State.takeWBeat_answered (w := firstOpen hd op (s.uid + 1) true) hn hlY
      (by rw [hport, Port.refuseFirst_openW]) rfl hreq rfl hlast)
  have hlC : n < ((s.withRefused n op hd).checked n (chkOk hd.chkEn b)).ports.length := by rwa [State.checked_ports_length]
  have hin : ∀ q, ((s.withRefused n op hd).ctl q).inWr = (s.ctl q).inWr := fun q => by
    rw [hY, State.ctl_misb_proj Ctl.inWr, State.ctl_onPort]
    rfl
  intro t
  rw [show t = _ from e]
  refine ⟨State.checked_cells.trans (by rw [hY]; rfl), State.checked_nets.trans (by rw [hY]; rfl), fun q => ?_, ?_, ?_⟩
  · rw [State.ctl_onPort, ← hin q]
    exact State.ctl_checked_proj Ctl.inWr
  · rw [State.port_onPort _ _ _ hlC]
    rfl
  · have hrsp := (State.checked_proj (s := s.withRefused n op hd) (n := n) (m := n) (ok := chkOk hd.chkEn b) Port.rsp).trans (congrArg Port.rsp hport)
    have hack := (State.checked_proj (s := s.withRefused n op hd) (n := n) (m := n) (ok := chkOk hd.chkEn b) Port.ackQ).trans (congrArg Port.ackQ hport)
    have hop : op ≠ opPage := by
      rintro rfl
      cases hm
    rw [State.port_onPort _ _ _ hlC]
    have hans := (s.port n).refuseFirst_answers (hd := hd) (s.uid + 1) ((s.decode (hd.addr.toNat * 64) (s.portLch n)).getD (0, 0)).1 hop
    simp only [Port.onReq, hrsp, hack]
    exact hans

/-! ### The obligation -/

/-- A first beat of a memory operation is offered on the write channel with its opcode. -/
theorem exec_firstBeat {c : Instr} (h : (c, op) ∈ [(.write n hd b, opWrite), (.writeMasked n hd b, opMasked), (.atomAdd n hd b, opAdd),
    (.atomMax n hd b, opMax), (.atomMin n hd b, opMin), (.atomSwap n hd b, opSwap), (.atomCas n hd b, opCas), (.reduceAdd n hd b, opRed),
    (.reduceAddOrd n hd b, opOrd)]) : (op != opPage && op != opBell) = true ∧ op ≠ 0 ∧
      (n < 128 → exec c s = .next (s.first n op hd b fun s _ => s)) := by
  simp only [List.mem_cons, Prod.mk.injEq, List.not_mem_nil, or_false] at h
  rcases h with ⟨rfl, rfl⟩ | ⟨rfl, rfl⟩ | ⟨rfl, rfl⟩ | ⟨rfl, rfl⟩ | ⟨rfl, rfl⟩ | ⟨rfl, rfl⟩ | ⟨rfl, rfl⟩ | ⟨rfl, rfl⟩ | ⟨rfl, rfl⟩ <;>
    exact ⟨rfl, by decide, fun h => if_pos h⟩

/-- Settles O17: a first beat is taken, refused by its header, or only announced. -/
theorem firstBeat : Obligations.FirstBeat := by
  intro s c op n hd b hw hmem hi
  obtain ⟨hm, h0, he⟩ := exec_firstBeat hmem
  refine ⟨fun h hp ht => ⟨fun p off hb hl hlast hc ha ho => ?_, fun hb hlast => ?_⟩, fun hn hup hr => ?_⟩
  · obtain ⟨k, pools, cnts, free, hk, e⟩ := h.first_one hw hi hp hm h0 ht hb hl hlast hc ha ho
    have hport : (s.withOne n op hd k pools cnts free).port n = (s.port n).tookOne hd op (s.uid + 1) (s.portLch n) k :=
      s.port_onPort n _ (hw.ports ▸ h.isPort)
    refine ⟨_, he h.isPort, ?_⟩
    beta_reduce
    rw [e, State.port_onCtl, hport]
    refine ⟨rfl, fun m hm => s.port_onPort_ne _ _ _ hm, fun q hq => (State.ctl_onCtl_ne _ p _ q hq).trans rfl, rfl, rfl, rfl,
      ⟨_, rfl, rfl, rfl, rfl, rfl, rfl, rfl, rfl⟩, oneWork s n op off hd b k, (State.ctl_onCtl _ _ _ (hw.ctls ▸ ho.2.2)).trans rfl,
      rfl, rfl, rfl, rfl, rfl, hk, ?_⟩
    rintro rfl
    rfl
  · exact ⟨_, he h.isPort, h.first_refused hw hi hp hm ht hb hlast⟩
  · have hl : n < s.ports.length := hw.ports ▸ hn
    refine ⟨_, he hn, ?_⟩
    rw [State.first_offered hup hi hm hr]
    exact ⟨s.offer_ports .., State.offer_askWr hl .., State.offer_proj Port.tags, State.offer_proj Port.rsp, State.offer_proj Port.ackQ⟩

end Sys2Proof.Machine
end

section
/-! SUPPORT. DOORBELL: a submission from a port takes a free slot of its engine. -/
namespace Sys2Proof.Machine
variable {s : State} {n uid x k : Nat} {hd : WHdr} {b : Beat} {single : State → Nat → State}

/-! ### The request of a doorbell (R85) -/

/-- The port with a doorbell's request among its own: it travels in one beat, so no request is open. -/
def Port.takeBell (q : Port) (hd : WHdr) (uid lch : Nat) : Port :=
  { q with askWr := none, wrFree := q.cyc + 1, orphan := false, openW := none, tags := q.tags ++ [firstReq hd opBell uid lch q.cyc []] }

/-- The state in which a doorbell is judged by its data. -/
def State.withBell (s : State) (n : Nat) (hd : WHdr) : State :=
  { s.onPort n (·.takeBell hd (s.uid + 1) ((s.decode (hd.addr.toNat * 64) (s.portLch n)).getD (0, 0)).1) with uid := s.uid + 1 }

theorem State.bookFirst_bell : s.bookFirst n opBell hd false = some ([], s) := by
  have h : onData opBell hd.arg.toNat = false := rfl
  simp only [State.bookFirst, h, Bool.false_eq_true, if_false]

/-- A doorbell with its header and its one beat in order runs as the port's newest request (R465). -/
theorem State.Offers.first_bell (h : s.Offers n hd.cls.toNat true (2 ^ 42)) (hi : (s.port n).openW = none) (hlast : b.last = true)
    (ht : s.tagUsed n hd.tag.toNat = false) (hb : s.hdrBad (s.portLch n) opBell hd = false) (hc : chkOk hd.chkEn b = true) :
    s.first n opBell hd b single = single (s.withBell n hd) (s.uid + 1) := by
  have hready : s.wqReady n = true := h.ready
  have hmem : (opBell != opPage && opBell != opBell) = false := rfl
  unfold State.first
  simp only [h.takes, hready, hmem, hi, h.unheld, h.served, ht, hb, hc, hlast, State.bookFirst_bell, State.lone,
    Option.isSome_none, Bool.not_true, Bool.not_false, Bool.or_self, Bool.false_eq_true, reduceIte, Bool.true_or]
  simp only [State.unask, State.onPort, State.nextUid, upd_upd, reduceIte]
  rfl

theorem State.Wf.port_withBell (hw : s.Wf) (hn : n < 128) : (s.withBell n hd).port n =
    (s.port n).takeBell hd (s.uid + 1) ((s.decode (hd.addr.toNat * 64) (s.portLch n)).getD (0, 0)).1 :=
  s.port_onPort n _ (hw.ports ▸ hn)

theorem State.Wf.reqOf_withBell (hw : s.Wf) (hn : n < 128) : (s.withBell n hd).reqOf n (s.uid + 1) =
    some (firstReq hd opBell (s.uid + 1) ((s.decode (hd.addr.toNat * 64) (s.portLch n)).getD (0, 0)).1 (s.port n).cyc []) := by
  rw [State.reqOf_port hn, hw.port_withBell hn]
  exact (hw.port n).find_new rfl

/-! ### A submission takes a slot (R304, R330) -/

theorem State.onHar_onHar (f g : Har → Har) : (s.onHar x f).onHar x g = s.onHar x fun h => g (f h) := by
  simp only [State.onHar, upd_upd]

theorem State.onHar_congr {f g : Har → Har} (h : f (s.har x) = g (s.har x)) : s.onHar x f = s.onHar x g := by
  rw [State.onHar, State.onHar, upd_congr h]

/-- The slot of a Harness that has been submitted. -/
def validating (sub : Sub) (seq : Word) (t : Dword) : HSlot :=
  { st := .validating, seq := seq, addr := sub.addr, origin := sub.origin, subCls := sub.cls, tSub := t }

/-- The engine with a submission in slot k. -/
def Har.takeSub (h : Har) (k : Nat) (sub : Sub) (t : Dword) : Har :=
  { h with seq := h.seq + 1, slots := upd h.slots k fun _ => validating sub (h.seq + 1) t }

theorem State.noteBad_ok {code : BitVec 4} (h : code ≠ cBAD) : s.noteBad n code = s := if_neg h

/-- A request submitted is answered OK, with one Harness counted (R85). -/
theorem State.answerSub_port {r : Req} {sub : Sub} (hn : n < 128) (hl : n < s.ports.length) (hs : sub.port = some (n, uid))
    (hr : s.reqOf n uid = some r) (ha : r.answered = false) (hm : r.remote = false) : s.answerSub x sub cOK k =
      s.onPort n fun q => ((q.onReq uid fun r => { r with doneN := 1 }).onReq uid (·.end cOK)).takeAns ({ r with doneN := 1 }.endAns cOK 0) := by
  simp only [State.answerSub, hs, if_true]
  rw [State.finish_home hn (State.reqOf_onReq hn hl hr rfl) ha hm, State.noteBad_ok (by decide), State.onReq_port hn, State.onPort_onPort]

/-- A submission that finds a slot takes it, and its engine counts it. -/
theorem State.takeSlot_eq (hx : x < s.hars.length) (sub : Sub) : ∃ cnts free, s.takeSlot x k sub =
    { (s.onHar x (·.takeSub k sub s.mgmt.elapsed)).answerSub x sub cOK k with cnts := cnts, free := free } := by
  have e : (s.onHar x fun h => { h with seq := h.seq + 1 }).onSlot x k (fun _ =>
      validating sub ((s.onHar x fun h => { h with seq := h.seq + 1 }).har x).seq s.mgmt.elapsed) =
      s.onHar x (·.takeSub k sub s.mgmt.elapsed) := by
    rw [State.har_onHar _ _ _ hx, State.onSlot, State.onHar_onHar]
    exact State.onHar_congr rfl
  obtain ⟨cnts, free, hc, -⟩ := State.count_cntOnly ((s.onHar x (·.takeSub k sub s.mgmt.elapsed)).answerSub x sub cOK k)
    (.harness x) 0x01 none 1 (fields [(k, 0)]) none
  refine ⟨cnts, free, Eq.trans ?_ hc⟩
  rw [← e]
  rfl

/-- A submission waiting alone takes the lowest free slot (R304). -/
theorem State.serveSubs_one {sub : Sub} (hs : sub.port ≠ none) (ht : s.takesSlots x = true) (hq : (s.har x).waitQ = [sub])
    (hk : s.freeSlotOf x = some k) (m : Nat) :
    s.serveSubs x (m + 1) = ((s.onHar x fun h => { h with waitQ := [] }).takeSlot x k sub).serveSubs x m := by
  rw [State.serveSubs]
  simp only [ht, hq, hk, hs, decide_false, Bool.not_true, Bool.false_and, Bool.false_eq_true, if_false]

/-- The state in which a port's submission has its slot and its answer. -/
def State.submitted (s : State) (n uid x k : Nat) (sub : Sub) (r : Req) : State :=
  (s.onHar x (·.takeSub k sub s.mgmt.elapsed)).onPort n fun q =>
    ((q.onReq uid fun r => { r with doneN := 1 }).onReq uid (·.end cOK)).takeAns ({ r with doneN := 1 }.endAns cOK 0)

/-- A submission to an engine in service with none waiting takes the lowest free slot at once (R304). -/
theorem State.submit_free (hx : x < s.hars.length) {sub : Sub} {r : Req} (hn : n < 128) (hl : n < s.ports.length)
    (hs : sub.port = some (n, uid)) (hr : s.reqOf n uid = some r) (ha : r.answered = false) (hm : r.remote = false)
    (hoff : s.safe.on = false) (ht : s.takesSlots x = true) (hq : (s.har x).waitQ = []) (hk : s.freeSlotOf x = some k) :
    ∃ cnts free, s.submit x sub = { s.submitted n uid x k sub r with cnts := cnts, free := free } := by
  have hlost : s.engLost x = false := by
    simp only [State.takesSlots, Bool.and_eq_true, Bool.not_eq_true', Bool.or_eq_false_iff] at ht
    exact ht.1.1.1.2
  have hport : sub.port ≠ none := by simp [hs]
  let f : Har → Har := fun h => { h with waitQ := h.waitQ ++ [sub], subBusy := h.subBusy || sub.port.isNone }
  have hf : (s.onHar x f).har x = f (s.har x) := s.har_onHar x f hx
  have hk' : (s.onHar x f).freeSlotOf x = some k := by
    rw [State.freeSlotOf, hf]
    exact hk
  have hq' : ((s.onHar x f).har x).waitQ = [sub] := by rw [hf]; simp [f, hq]
  have he : ((s.onHar x f).onHar x fun h => { h with waitQ := [] }).onHar x (·.takeSub k sub s.mgmt.elapsed) =
      s.onHar x (·.takeSub k sub s.mgmt.elapsed) := by
    rw [State.onHar_onHar, State.onHar_onHar]
    exact State.onHar_congr (by simp [f, Har.takeSub, hq, hs])
  have hsub : s.submit x sub = (s.onHar x f).serveSubs x 64 := by
    simp only [State.submit, hoff, hlost, Bool.or_self, Bool.false_eq_true, if_false]
    rfl
  obtain ⟨cnts, free, e⟩ := State.takeSlot_eq (s := (s.onHar x f).onHar x fun h => { h with waitQ := [] }) (k := k)
    (by simpa [State.onHar] using hx) sub
  have hans : ((s.onHar x (·.takeSub k sub s.mgmt.elapsed)).answerSub x sub cOK k) = s.submitted n uid x k sub r :=
    State.answerSub_port hn hl hs hr ha hm
  have e' := e.trans (congrArg (fun t : State => { t.answerSub x sub cOK k with cnts := cnts, free := free }) he)
  rw [hans] at e'
  have hnone : (State.har { s.submitted n uid x k sub r with cnts := cnts, free := free } x).waitQ = [] :=
    (congrArg Har.waitQ (s.har_onHar x (·.takeSub k sub s.mgmt.elapsed) hx)).trans hq
  rw [hsub, State.serveSubs_one hport (by exact ht) hq' hk', e', State.serveSubs_none hnone]
  exact ⟨_, _, rfl⟩

/-! ### The obligation -/

theorem State.freeSlotOf_lt (hk : s.freeSlotOf x = some k) : k < (s.har x).slots.length :=
  (List.findIdx?_eq_some_iff_getElem.1 hk).1

section
variable {sub : Sub} {r : Req} {cnts : List Cnt} {free : Nat}

theorem State.har_submitted (hx : x < s.hars.length) :
    (State.har { s.submitted n uid x k sub r with cnts := cnts, free := free } x) = (s.har x).takeSub k sub s.mgmt.elapsed :=
  s.har_onHar x _ hx

theorem State.har_submitted_ne {j : Nat} (hj : j ≠ x) :
    (State.har { s.submitted n uid x k sub r with cnts := cnts, free := free } j) = s.har j :=
  s.har_onHar_ne x _ j hj

theorem State.slot_submitted (hx : x < s.hars.length) (hk : k < (s.har x).slots.length) :
    (State.slot { s.submitted n uid x k sub r with cnts := cnts, free := free } x k) = validating sub ((s.har x).seq + 1) s.mgmt.elapsed := by
  rw [State.slot, State.har_submitted hx]
  exact upd_getD_self _ _ _ _ hk

theorem State.slot_submitted_ne {j : Nat} (hx : x < s.hars.length) (hj : j ≠ k) :
    (State.slot { s.submitted n uid x k sub r with cnts := cnts, free := free } x j) = s.slot x j := by
  rw [State.slot, State.har_submitted hx]
  exact upd_getD_ne _ _ _ _ _ hj

theorem State.ackQ_submitted (hl : n < s.ports.length) (ho : onData r.op r.arg = false) :
    (State.port { s.submitted n uid x k sub r with cnts := cnts, free := free } n).ackQ = (s.port n).ackQ ++ [⟨r.tag, cOK, 1, false⟩] := by
  refine (congrArg Port.ackQ ((s.onHar x (·.takeSub k sub s.mgmt.elapsed)).port_onPort n _ hl)).trans ?_
  rw [Req.endAns_ack (by exact ho)]
  rfl
end

/-- Settles O18: a doorbell with everything in order is a submission that finds its engine waiting for one. -/
theorem doorbellSubmits : Obligations.DoorbellSubmits := by
  intro s n hd b hw h hi hlast ht hb hc
  have hn := h.isPort
  have hl : n < (s.withBell n hd).ports.length := by simpa [State.withBell, State.onPort] using hw.ports ▸ hn
  have hreq := hw.reqOf_withBell (hd := hd) hn
  have hport := hw.port_withBell (hd := hd) hn
  have he : exec (.doorbell n hd b) s = .next (s.first n opBell hd b _) := if_pos hn
  rw [h.first_bell hi hlast ht hb hc] at he
  refine ⟨fun k hbell hoff hslots hq hk => ?_, fun hbell => ?_⟩
  · have hx : blkGet b.data 8 1 % 8 < (s.withBell n hd).hars.length := Nat.lt_of_lt_of_eq (Nat.mod_lt _ (by decide)) hw.hars.symm
    obtain ⟨cnts, free, e⟩ := State.submit_free hx hn hl
      (sub := { port := some (n, s.uid + 1), addr := blkGet b.data 0 8, origin := s.portLch n, cls := hd.cls.toNat }) rfl hreq rfl rfl
      hoff hslots hq hk
    refine ⟨_, he.trans (congrArg Host.Outcome.next ((if_neg (ne_true_of_eq_false hbell)).trans e)), ?_⟩
    beta_reduce
    have hsl := State.freeSlotOf_lt (s := s.withBell n hd) hk
    rw [State.slot_submitted hx hsl, State.ackQ_submitted hl rfl, hport]
    exact ⟨rfl, rfl, rfl, rfl, rfl, fun j hj => State.slot_submitted_ne hx hj, fun j hj => State.har_submitted_ne hj, rfl, rfl⟩
  · refine ⟨_, he.trans (congrArg Host.Outcome.next ((if_pos hbell).trans (State.finish_bad hn hreq rfl rfl))), rfl, rfl, ?_⟩
    rw [State.port_misb, State.port_onPort _ _ _ hl, hport]
    rfl
end Sys2Proof.Machine
end

section
/-! SUPPORT. WRITE_BEAT and GAP_CUT. -/
namespace Sys2Proof.Machine
variable {s : State} {n p off : Nat} {b : Beat} {w : OpenW} {r : Req}

/-! ### A later beat taken (R77, R79) -/

/-- The port that has taken a beat without spN_wq_first. -/
def Port.tookBeat (q : Port) : Port := { q with askWr := none, wrFree := q.cyc + 1 }

theorem State.portTakes_of_wqReady (h : s.wqReady n = true) : s.portTakes n = true := by
  simp only [State.wqReady, Bool.and_eq_true] at h
  exact h.1.1

theorem State.unask_tookBeat : ((s.unask n true).onPort n fun q => { q with wrFree := q.cyc + 1 }) = s.onPort n Port.tookBeat :=
  State.onPort_onPort ..

theorem State.laterBeat_open (h : s.wqReady n = true) (hl : n < s.ports.length) (ho : (s.port n).openW = some w) :
    s.laterBeat n b = (s.onPort n Port.tookBeat).takeWBeat n b := by
  have ho' : ((s.onPort n Port.tookBeat).port n).openW = some w := by rw [s.port_onPort n _ hl]; exact ho
  simp only [State.laterBeat, State.portTakes_of_wqReady h, h, State.unask_tookBeat, ho', Bool.not_true, Bool.false_eq_true, if_false]

/-- With no request open the beat is discarded, and the first of a run of them is reported (R101). -/
theorem State.laterBeat_orphan (h : s.wqReady n = true) (hl : n < s.ports.length) (ho : (s.port n).openW = none) :
    s.laterBeat n b = if (s.port n).orphan then s.onPort n Port.tookBeat
      else (s.onPort n fun q => { q.tookBeat with orphan := true }).misb n 3 := by
  have hp : (s.onPort n Port.tookBeat).port n = (s.port n).tookBeat := s.port_onPort n _ hl
  simp only [State.laterBeat, State.portTakes_of_wqReady h, h, State.unask_tookBeat, hp, Port.tookBeat, ho, Bool.not_true, Bool.false_eq_true,
    if_false]
  split
  · rfl
  · exact congrArg (State.misb · n 3) (State.onPort_onPort ..)

/-- A beat of a request that goes on hands its block to the own channel. -/
theorem State.laterBeat_handed (hn : n < 128) (hl : n < s.ports.length) (h : s.wqReady n = true) (ho : (s.port n).openW = some w)
    (hr : s.reqOf n w.uid = some r) (hd : w.dead = false) (hc : chkOk w.chkEn b = true) (hcol : collects w.op w.chkEn = false)
    (hb : b.last = false) (hlt : w.beats < w.len) (hu : (s.fr (.pool (secOf (s.portPhys n)))).inj = 0)
    (hown : s.ownBlock n (r.addr + 64 * r.taken) p off) (hop : r.op ≠ 0) : s.laterBeat n b =
      (s.onPort n fun q => (q.tookBeat.opens { w with beats := w.beats + 1 }).onReq w.uid Req.handed).onCtl p fun c =>
        { c with inWr := c.inWr ++ [r.work n w.uid (s.portLch n) off b.data b.be] } := by
  have ho' : ((s.onPort n Port.tookBeat).port n).openW = some w := by rw [s.port_onPort n _ hl]; exact ho
  have hr' : ((s.onPort n Port.tookBeat).onPort n (·.opens { w with beats := w.beats + 1 })).reqOf n w.uid = some r :=
    (State.reqOf_onPort hn).trans ((State.reqOf_onPort hn).trans hr)
  rw [State.laterBeat_open h hl ho, State.takeWBeat_handed ho' hd hc hcol, if_neg (by simp [hb]), if_neg (by omega)]
  rw [State.handBlock_own hn hr' hu (p := p) (off := off) hown hop, State.onPort_onPort, State.onPort_onPort]
  rfl

/-! ### A beat that is not taken (R94) -/

theorem State.laterBeat_waits (h : s.portTakes n = true) (hr : s.wqReady n = false) :
    s.laterBeat n b = s ∨ ∃ c, s.laterBeat n b = s.offer n c true (2 ^ 42) := by
  simp only [State.laterBeat, h, hr, Bool.not_true, Bool.not_false, Bool.false_eq_true, if_false, if_true]
  split
  · exact .inr ⟨_, rfl⟩
  · exact .inl rfl

/-! ### A gap (R79) -/

/-- An open request with every block done that is cut is answered BAD_REQUEST (R79, R88). -/
theorem State.endOpen_cut (hn : n < 128) (hl : n < s.ports.length) (ho : (s.port n).openW = some w) (hb : w.blocks = [])
    (hr : s.reqOf n w.uid = some r) (hf : r.failed = false) (ha : r.answered = false) (hm : r.remote = false)
    (hdone : r.doneN = r.taken) (hd : onData r.op r.arg = false) : s.endOpen n true =
      (s.onPort n fun q => ((({ q with openW := none } : Port).onReq w.uid (·.close true)).onReq w.uid (·.end cBAD)).takeAns
        (.ack ⟨r.tag, cBAD, r.doneN, false⟩)).misb n 5 := by
  have hclose : r.close true = { r with closed := true, failed := true, code := cBAD } := by simp [Req.close, hf]
  have hr' : (s.onPort n fun q => ({ q with openW := none } : Port).onReq w.uid (·.close true)).reqOf n w.uid = some (r.close true) := by
    rw [State.reqOf_port hn] at hr ⊢
    rw [State.port_onPort _ _ _ hl]
    exact find_map_req hr (r.close_uid true)
  rw [State.endOpen_empty hn ho (.inr hb),
    State.checkEnd_failed hr' (by rw [hclose]) (by rw [hclose]; exact hdone.ge) (by rw [hclose]; exact hd) (by rw [hclose])]
  rw [hclose] at hr' ⊢
  rw [State.finish_bad hn hr' ha hm, State.onPort_onPort, Req.endAns_ack (by exact hd)]

/-! ### The obligation -/

/-- Settles O19: a later beat taken, kept waiting, or discarded, and a request cut by a gap. -/
theorem laterBeats : Obligations.LaterBeats := by
  refine ⟨fun s n p off b w r hw hn h ho hr hd hc hcol hb hlt hu hown hop => ?_, fun s n b hw hn h hr => ?_, fun s n b hw hn h ho => ?_,
    fun s n w r hw hn hg ho hd hb hr hf ha hm hdone hdat hp => ?_⟩
  · have hl : n < s.ports.length := hw.ports ▸ hn
    refine ⟨_, if_pos hn, ?_⟩
    beta_reduce
    rw [State.laterBeat_handed hn hl h ho hr hd hc hcol hb hlt hu hown hop]
    refine ⟨rfl, fun m hm => s.port_onPort_ne _ _ _ hm, fun q hq => (State.ctl_onCtl_ne _ p _ q hq).trans (s.ctl_onPort ..), ?_, _,
      (State.ctl_onCtl _ _ _ (hw.ctls ▸ hown.2.2)).trans rfl, rfl, rfl, rfl, rfl, rfl, rfl⟩
    rw [State.port_onCtl, s.port_onPort n _ hl]
    rfl
  · refine ⟨_, if_pos hn, ?_⟩
    beta_reduce
    rcases s.laterBeat_waits (b := b) h hr with e | ⟨c, e⟩ <;> rw [e]
    · exact ⟨rfl, rfl, rfl⟩
    · exact ⟨s.offer_ports .., State.offer_proj Port.openW, State.offer_proj Port.tags⟩
  · have hl : n < s.ports.length := hw.ports ▸ hn
    refine ⟨_, if_pos hn, ?_⟩
    beta_reduce
    rw [State.laterBeat_orphan h hl ho]
    cases hor : (s.port n).orphan with
    | true =>
      rw [if_pos rfl]
      refine ⟨rfl, ?_, fun m hm => s.port_onPort_ne _ _ _ hm, fun _ => rfl, (nomatch ·)⟩
      rw [s.port_onPort n _ hl, Port.tookBeat, ← hor]
    | false =>
      rw [if_neg (by decide)]
      refine ⟨rfl, (State.port_misb ..).trans (s.port_onPort n _ hl), fun m hm => s.port_onPort_ne _ _ _ hm, (nomatch ·),
        fun _ hp => congrArg Ctl.misb (State.ctl_onCtl _ _ _ (by exact hw.ctls ▸ hp))⟩
  · have hl : n < s.ports.length := hw.ports ▸ hn
    refine ⟨_, (if_pos hn).trans (congrArg Host.Outcome.next (if_pos (by simp [ho, hg]))), ?_⟩
    beta_reduce
    rw [State.endOpen_cut hn hl ho hb hr hf ha hm hdone hdat]
    rw [State.port_misb, State.port_misb, s.port_onPort n _ hl]
    exact ⟨rfl, rfl, State.misb_bit (by decide) rfl (by simpa [hw.ctls] using hp), rfl⟩

end Sys2Proof.Machine
end

section
/-! SUPPORT. RSP_BEAT_TAKEN and RSP_STALL. -/
namespace Sys2Proof.Machine
variable {s : State} {n : Nat} {b : RspBeat} {l : List RspBeat}

/-! ### Slots freed and latencies counted -/

theorem State.freeSlot_pools (s : State) (k : Slot) : s.freeSlot k = { s with pools := (s.freeSlot k).pools } := by
  unfold State.freeSlot
  split <;> rfl

/-- Slots freed change the pools, and nothing else (R131). -/
theorem State.freeSlots_pools (s : State) (ks : List Slot) : s.freeSlots ks = { s with pools := (s.freeSlots ks).pools } := by
  induction ks generalizing s with
  | nil => rfl
  | cons k ks ih =>
    have e : s.freeSlots (k :: ks) = (s.freeSlot k).freeSlots ks := rfl
    rw [e, ih, s.freeSlot_pools k]

@[simp] theorem State.port_freeSlots (s : State) (ks : List Slot) (m : Nat) : (s.freeSlots ks).port m = s.port m := by
  rw [s.freeSlots_pools ks]
  rfl

@[simp] theorem State.ctl_freeSlots (s : State) (ks : List Slot) (q : Nat) : (s.freeSlots ks).ctl q = s.ctl q := by
  rw [s.freeSlots_pools ks]
  rfl

@[simp] theorem State.freeSlots_cells (s : State) (ks : List Slot) : (s.freeSlots ks).cells = s.cells := by
  rw [s.freeSlots_pools ks]

@[simp] theorem State.freeSlots_ports (s : State) (ks : List Slot) : (s.freeSlots ks).ports = s.ports := by
  rw [s.freeSlots_pools ks]

/-- A latency counted changes a sector's histogram, and nothing else (R433). -/
theorem State.histAdd_sectors (s : State) (m op cls : Nat) (code : BitVec 4) (k : Nat) :
    s.histAdd m op cls code k = { s with sectors := (s.histAdd m op cls code k).sectors } := by
  unfold State.histAdd
  extract_lets x e k' v
  split <;> rfl

@[simp] theorem State.histAdd_ports (s : State) (m op cls : Nat) (code : BitVec 4) (k : Nat) :
    (s.histAdd m op cls code k).ports = s.ports := by
  rw [s.histAdd_sectors m op cls code k]

@[simp] theorem State.histAdd_cells (s : State) (m op cls : Nat) (code : BitVec 4) (k : Nat) :
    (s.histAdd m op cls code k).cells = s.cells := by
  rw [s.histAdd_sectors m op cls code k]

/-! ### A beat taken (R78, R90, R96) -/

/-- The port whose beat at the front has been taken: no stall holds it, and its ledger may have run empty. -/
def Port.tookRsp (q : Port) (l : List RspBeat) : Port :=
  { q with
    rsp := l, stalled := false, flush := if l.isEmpty && q.ackQ.isEmpty then false else q.flush
    holds := q.holds.filter (· != .stall) }

theorem State.took_rsp : (((s.onPort n fun p => { p with rsp := l, stalled := false }).flushed n).unhold n .stall) =
    s.onPort n (·.tookRsp l) := by
  rw [State.flushed, State.unhold, State.onPort_onPort, State.onPort_onPort]
  refine State.onPort_congr ?_
  simp only [Port.tookRsp]
  split <;> rfl

/-- The beat at the front is taken; what its request makes of that is in the port's requests alone, and its tag is free after the last
beat. -/
theorem State.takeBeat_eq (hl : n < s.ports.length) (hn : n < 128) (hr : s.portReset n = false) (hb : (s.port n).rsp = b :: l) :
    (s.takeBeat n).cells = s.cells ∧ ∃ f : Port → Port, (∀ q, f q = { q with tags := (f q).tags }) ∧
      (s.takeBeat n).ports = (s.onPort n fun q => f (q.tookRsp l)).ports ∧
      ∀ r, (s.port n).tags.find? (fun r => r.tag == b.tag) = some r → b.last = true →
        ∀ q, (f q).tags = q.tags.filter fun v => v.uid != r.uid := by
  have ht : ((s.onPort n (·.tookRsp l)).port n).tags = (s.port n).tags := by rw [s.port_onPort n _ hl]; rfl
  simp only [State.takeBeat, hr, hb, State.took_rsp, ht, Bool.false_eq_true, if_false]
  cases (s.port n).tags.find? fun r => r.tag == b.tag with
  | none => exact ⟨rfl, fun q => q, fun _ => rfl, rfl, fun _ h => nomatch h⟩
  | some r =>
    by_cases hlast : b.last = true
    · simp only [hlast, if_true]
      refine ⟨by simp [State.onPort], fun q => { q with tags := q.tags.filter fun v => v.uid != r.uid }, fun _ => rfl, ?_, fun r' h' _ q => ?_⟩
      · simp [State.onPort, upd_upd]
      · cases h'
        rfl
    · simp only [hlast, Bool.false_eq_true, if_false]
      rw [State.onReq_port hn]
      have hports : ∀ (ks : List Slot) (g : Req → Req), (((s.onPort n (·.tookRsp l)).freeSlots ks).onPort n (·.onReq r.uid g)).ports =
          (s.onPort n fun q => (q.tookRsp l).onReq r.uid g).ports := fun ks g => by simp [State.onPort, upd_upd]
      exact ⟨by simp [State.onPort], (·.onReq r.uid _), fun _ => rfl, hports _ _, fun _ _ h' => h'.elim⟩

/-! ### A beat not taken (R97) -/

/-- A hold set is in force. -/
theorem State.hold_mem {h : Hold} (hl : n < s.ports.length) : h ∈ ((s.hold n h).port n).holds := by
  rw [State.hold, s.port_onPort n _ hl]
  split
  next hc => simpa using hc
  · simp

/-- What a hold set leaves of its port but its holds. -/
theorem State.hold_proj {α : Type} (g : Port → α) {m : Nat} {h : Hold} (hg : ∀ (q : Port) x, g { q with holds := x } = g q := by exact fun _ _ => rfl) :
    g ((s.hold n h).port m) = g (s.port m) := by
  refine upd_getD_proj g fun q => ?_
  split
  · rfl
  · exact hg q _

/-- The classes that the holds of a port hold, one hold after the other (R95). -/
def Hold.bits (m : BitVec 16) : Hold → BitVec 16
  | .cls _ c | .offer _ c => m ||| ((1 : BitVec 16) <<< c)
  | _ => 0xFFFF

theorem Hold.bits_all (h : Hold) : h.bits 0xFFFF = 0xFFFF := by
  cases h with
  | cls r c => exact BitVec.allOnes_or
  | offer r c => exact BitVec.allOnes_or
  | _ => rfl

/-- A stall holds every class (R97). -/
theorem holds_stall {hs : List Hold} (m : BitVec 16) (h : Hold.stall ∈ hs) : hs.foldl Hold.bits m = 0xFFFF := by
  induction hs generalizing m with
  | nil => cases h
  | cons a hs ih =>
    rcases List.mem_cons.1 h with rfl | h'
    · exact List.foldl_fixed' Hold.bits_all hs
    · exact ih _ h'

theorem State.holdBits_stall (h : Hold.stall ∈ (s.port n).holds) (hf : s.allFenced n = false) : s.holdBits n = 0xFFFF := by
  rw [State.allFenced] at hf
  simp only [State.holdBits, hf, Bool.false_eq_true, if_false]
  exact holds_stall 0 h

/-! ### The two commands -/

/-- RSP_BEAT_TAKEN, as the obligation has it. -/
theorem exec_rspBeatTaken (hw : s.Wf) (hn : n < 128) (hr : s.portReset n = false) (hb : (s.port n).rsp = b :: l) :
    Answers (.rspBeatTaken n) s fun t =>
      (t.port n).rsp = l ∧ (t.port n).stalled = false ∧ Hold.stall ∉ (t.port n).holds ∧ t.cells = s.cells ∧
      (∀ m, m ≠ n → t.port m = s.port m) ∧
      (∀ r, (s.port n).tags.find? (fun r => r.tag == b.tag) = some r → b.last = true →
        (t.port n).tags = (s.port n).tags.filter fun q => q.uid != r.uid) := by
  have hl : n < s.ports.length := hw.ports ▸ hn
  obtain ⟨hcells, f, hf, hports, hlast⟩ := State.takeBeat_eq hl hn hr hb
  have hport : ∀ m, (s.takeBeat n).port m = (s.onPort n fun q => f (q.tookRsp l)).port m := fun m => by rw [State.port, hports]; rfl
  have hself := (hport n).trans (s.port_onPort n _ hl)
  refine ⟨_, if_pos hn, ?_⟩
  beta_reduce
  rw [hself]
  refine ⟨?_, ?_, ?_, hcells, fun m hm => (hport m).trans (s.port_onPort_ne _ _ _ hm), fun r hr' hb' => hlast r hr' hb' _⟩
  · rw [hf]
    rfl
  · rw [hf]
    rfl
  · rw [hf]
    simp [Port.tookRsp]

/-- RSP_STALL, as the obligation has it. -/
theorem exec_rspStall (hw : s.Wf) (hn : n < 128) (hb : (s.port n).rsp ≠ []) : Answers (.rspStall n) s fun t =>
    t = { s with ports := t.ports, ctls := t.ctls } ∧ (t.port n).stalled = true ∧ Hold.stall ∈ (t.port n).holds ∧
    (t.port n).rsp = (s.port n).rsp ∧ (s.allFenced n = false → t.holdBits n = 0xFFFF) ∧
    (s.portPhys n < 136 → (t.ctl (s.portPhys n)).misb.getLsbD 1 = true) := by
  have hl : n < s.ports.length := hw.ports ▸ hn
  let t1 := (s.onPort n fun q => { q with stalled := true }).misb n 1
  have hl1 : n < t1.ports.length := by simpa [t1, State.misb, State.onCtl, State.onPort] using hl
  have hp1 : t1.port n = { s.port n with stalled := true } := s.port_onPort n _ hl
  refine ⟨t1.hold n .stall, (if_pos hn).trans (congrArg Host.Outcome.next (if_neg (by simpa using hb))), rfl, ?_, State.hold_mem hl1, ?_,
    fun hf => State.holdBits_stall (State.hold_mem hl1) ?_, fun hp => ?_⟩
  · rw [State.hold_proj Port.stalled, hp1]
  · rw [State.hold_proj Port.rsp, hp1]
  · have hfen : (t1.hold n .stall).allFenced n = s.allFenced n := by
      rw [State.allFenced, State.hold_proj Port.fencedAll, hp1, State.allFenced]
      rfl
    exact hfen.trans hf
  · rw [State.hold, State.ctl_onPort]
    exact State.misb_bit (by decide) rfl (by simpa [hw.ctls] using hp)

end Sys2Proof.Machine
end

section
/-! SUPPORT. NETWORK_MESSAGE and RING_RESERVE. -/
namespace Sys2Proof.Machine
variable {s : State} {x p : Nat} {w : Work} {l : List Work}

/-! ### A message granted leaves the queue it waits in (R106, R136) -/

/-- The network of a sector whose first message has been granted an output. -/
def Net.grants (b : Net) (e : Nat × Nat × Nat) : Net := { b with msgs := b.msgs.eraseIdx 0, lru := e :: b.lru.filter (· != e) }

/-- The state in which the first message of a sector moves. -/
def State.granting (s : State) (x : Nat) (w : Work) : State := s.onNet x (·.grants (s.msgOut x w, w.cls, s.msgFrom w))

section
variable (hm : (s.net x).msgs = w :: l) (hp : s.msgPick x (s.msgOut x w) = some 0) (hi : (s.fr (.network x)).inj = 0)
include hm hp hi

/-- The first message of a sector, granted, is delivered at its own sector and goes on from another. -/
theorem State.message_first : s.message x 0 =
    if s.msgDst w = x then (s.granting x w).deliver x w else (s.granting x w).hop x w := by
  have h0 : (s.net x).msgs[0]? = some w := by rw [hm]; rfl
  simp only [State.message, h0, hp, State.fire_none _ _ _ _ hi, bne_self_eq_false, Bool.false_eq_true, if_false]
  rfl

end

theorem State.net_granting (hw : s.Wf) (hx : x < 8) (hm : (s.net x).msgs = w :: l) : ((s.granting x w).net x).msgs = l := by
  rw [State.granting, s.net_onNet x _ (hw.nets ▸ hx), Net.grants, hm]
  rfl

theorem State.net_granting_ne {y : Nat} (hy : y ≠ x) : (s.granting x w).net y = s.net y := s.net_onNet_ne x _ y hy

/-! ### At its own sector (R98, R108) -/

theorem State.deliver_request (hans : w.ans = none) (hs : s.serving w.lch = some p) : ∃ cnts free, s.deliver x w =
    { s.onCtl p fun c => if w.op = 0 then { c with inRd := c.inRd ++ [w] } else { c with inWr := c.inWr ++ [w] } with
      cnts := cnts, free := free } := by
  obtain ⟨cnts, free, e, -⟩ := s.count_cntOnly (.network x) 1 none 1 (some (fields [(s.msgPos w, 0), (w.cls, 8)])) (some (fields [(w.req, 0)]))
  have hs' : State.serving { s with cnts := cnts, free := free } w.lch = some p := hs
  simp only [State.deliver, e, hans, hs']
  exact ⟨cnts, free, rfl⟩

/-- A response at a port changes that port, and PORT_MISB where it refuses. -/
theorem State.putAns_port (s : State) (n : Nat) (a : Ans) : ∃ ctls, s.putAns n a = { s.onPort n (·.takeAns a) with ctls := ctls } := by
  rw [State.putAns_eq, State.noteBad]
  split <;> exact ⟨_, rfl⟩

theorem State.deliver_response {a : Ans} (hans : w.ans = some a) (hr : (s.reqOf w.port w.uid).isSome = true) : ∃ ctls cnts free,
    s.deliver x w = { s.onPort w.port (·.takeAns a) with ctls := ctls, cnts := cnts, free := free } := by
  obtain ⟨cnts, free, e, -⟩ := s.count_cntOnly (.network x) 1 none 1 (some (fields [(s.msgPos w, 0), (w.cls, 8)])) (some (fields [(w.req, 0)]))
  have hr' : (State.reqOf { s with cnts := cnts, free := free } w.port w.uid).isSome = true := hr
  obtain ⟨ctls, e'⟩ := State.putAns_port { s with cnts := cnts, free := free } w.port a
  simp only [State.deliver, e, hans, hr', e', if_true]
  exact ⟨ctls, cnts, free, rfl⟩

/-! ### Round the ring (R106, R107) -/

theorem ringNext_lt (x t : Nat) : ringNext x t < 8 := by
  unfold ringNext
  split <;> omega

theorem ringNext_ne {x : Nat} (_hx : x < 8) (t : Nat) : ringNext x t ≠ x := by
  unfold ringNext
  split <;> omega

/-- A message appended at a sector, after a count or not. -/
theorem State.count_onNet {c : Prop} [Decidable c] (u : UnitId) (k : Nat) (x0 x1 : Option Word) (y : Nat) (f : Net → Net) :
    ∃ cnts free, (if c then s.count u k none 1 x0 x1 else s).onNet y f = { s with nets := upd s.nets y f, cnts := cnts, free := free } := by
  split
  · rw [State.count_eq]
    exact ⟨_, _, rfl⟩
  · exact ⟨_, _, rfl⟩

/-- The queue of a sector with a message more. -/
def Net.queues (b : Net) (w : Work) : Net := { b with msgs := b.msgs ++ [w] }

/-- A message that travels, or a response, goes to the next sector on its way. -/
theorem State.hop_on (h : s.msgSrc w ≠ x ∨ w.ans ≠ none) : ∃ f : Net → Net, (∀ b, (f b).msgs = b.msgs) ∧ ∃ cnts free, s.hop x w =
    { s with nets := upd (upd s.nets x f) (ringNext x (s.msgDst w)) (·.queues w), cnts := cnts, free := free } := by
  by_cases hsrc : s.msgSrc w = x
  · have hans : w.ans.isSome = true := Option.isSome_iff_ne_none.2 (h.resolve_left (absurd hsrc))
    refine ⟨fun b => { b with reserved := false }, fun _ => rfl, ?_⟩
    have hbook : s.ringBook w = some ([], s) := by rw [State.ringBook, if_pos hans]
    simp only [State.hop, hsrc, hbook, hans, bne_self_eq_false, Bool.false_eq_true, if_false, if_true]
    obtain ⟨c1, f1, e, -⟩ := (s.onNet x fun b => { b with reserved := false }).count_cntOnly (.network x) 2 none 1
      (some (fields [(s.msgPos w, 0), (w.cls, 8)])) (some (fields [(w.req, 0)]))
    rw [e]
    obtain ⟨cnts, free, e'⟩ := State.count_onNet
      (s := { s.onNet x fun b => { b with reserved := false } with cnts := c1, free := f1 }) (c := ringNext x (s.msgDst w) = s.msgDst w)
      (.network (ringNext x (s.msgDst w))) 3 (some (fields [(s.msgPos w, 0), (w.cls, 8)])) (some (fields [(w.req, 0)]))
      (ringNext x (s.msgDst w)) (·.queues w)
    exact ⟨cnts, free, e'⟩
  · refine ⟨id, fun _ => rfl, ?_⟩
    rw [upd_id]
    simp only [State.hop, bne_iff_ne, ne_eq, hsrc, not_false_eq_true, if_true]
    exact State.count_onNet ..

/-! ### The commands -/

theorem exec_deliverRequest (hw : s.Wf) (hx : x < 8) (hm : (s.net x).msgs = w :: l) (hpk : s.msgPick x (s.msgOut x w) = some 0)
    (hi : (s.fr (.network x)).inj = 0) (hd : s.msgDst w = x) (hans : w.ans = none) (hs : s.serving w.lch = some p) :
    Answers (.networkMessage x 0) s fun t =>
      t = { s with nets := t.nets, ctls := t.ctls, cnts := t.cnts, free := t.free } ∧ (t.net x).msgs = l ∧
      (∀ y, y ≠ x → t.net y = s.net y) ∧ (∀ q, q ≠ p → t.ctl q = s.ctl q) ∧
      (p < 136 → t.ctl p = if w.op = 0 then { s.ctl p with inRd := (s.ctl p).inRd ++ [w] } else { s.ctl p with inWr := (s.ctl p).inWr ++ [w] }) := by
  obtain ⟨cnts, free, e⟩ := State.deliver_request (s := s.granting x w) (x := x) hans hs
  have e' := (State.message_first hm hpk hi).trans ((if_pos hd).trans e)
  refine ⟨_, (if_pos hx).trans (congrArg Host.Outcome.next e'), rfl, State.net_granting hw hx hm, fun y hy => State.net_granting_ne hy,
    fun q hq => State.ctl_onCtl_ne _ p _ q hq, fun hp => ?_⟩
  exact State.ctl_onCtl _ p _ (by exact hw.ctls ▸ hp)

theorem exec_deliverResponse (hw : s.Wf) (hx : x < 8) (hm : (s.net x).msgs = w :: l) (hpk : s.msgPick x (s.msgOut x w) = some 0)
    (hi : (s.fr (.network x)).inj = 0) (hd : s.msgDst w = x) (hans : w.ans ≠ none) (hn : w.port < 128)
    (hr : (s.reqOf w.port w.uid).isSome = true) : Answers (.networkMessage x 0) s fun t =>
      t = { s with nets := t.nets, ctls := t.ctls, ports := t.ports, cnts := t.cnts, free := t.free } ∧ (t.net x).msgs = l ∧
      (∀ b, w.ans = some (.beat b) → t.port w.port = { s.port w.port with rsp := (s.port w.port).rsp ++ [b] }) ∧
      (∀ a, w.ans = some (.ack a) → t.port w.port = { s.port w.port with ackQ := (s.port w.port).ackQ ++ [a] }) ∧
      ∀ m, m ≠ w.port → t.port m = s.port m := by
  obtain ⟨a, ha⟩ := Option.ne_none_iff_exists'.1 hans
  obtain ⟨ctls, cnts, free, e⟩ := State.deliver_response (s := s.granting x w) (x := x) ha hr
  have e' := (State.message_first hm hpk hi).trans ((if_pos hd).trans e)
  have hport : ((s.granting x w).onPort w.port (·.takeAns a)).port w.port = (s.port w.port).takeAns a :=
    State.port_onPort _ _ _ (hw.ports ▸ hn)
  refine ⟨_, (if_pos hx).trans (congrArg Host.Outcome.next e'), rfl, State.net_granting hw hx hm, fun b hb => ?_, fun b hb => ?_,
    fun m hm => State.port_onPort_ne _ _ _ _ hm⟩
  · obtain rfl := Option.some.inj (ha.symm.trans hb)
    exact hport
  · obtain rfl := Option.some.inj (ha.symm.trans hb)
    exact hport

theorem exec_hopOn (hw : s.Wf) (hx : x < 8) (hm : (s.net x).msgs = w :: l) (hpk : s.msgPick x (s.msgOut x w) = some 0)
    (hi : (s.fr (.network x)).inj = 0) (hd : s.msgDst w ≠ x) (h : s.msgSrc w ≠ x ∨ w.ans ≠ none) : Answers (.networkMessage x 0) s fun t =>
      t = { s with nets := t.nets, cnts := t.cnts, free := t.free } ∧ (t.net x).msgs = l ∧
      (t.net (ringNext x (s.msgDst w))).msgs = (s.net (ringNext x (s.msgDst w))).msgs ++ [w] := by
  obtain ⟨f, hf, cnts, free, e⟩ := State.hop_on (s := s.granting x w) h
  have e' := (State.message_first hm hpk hi).trans ((if_neg hd).trans e)
  have hy : ringNext x (s.msgDst w) ≠ x := ringNext_ne hx _
  have hlen : ringNext x (s.msgDst w) < (upd (s.granting x w).nets x f).length := by
    simpa [State.granting, State.onNet, hw.nets] using ringNext_lt x (s.msgDst w)
  refine ⟨_, (if_pos hx).trans (congrArg Host.Outcome.next e'), rfl, ?_, ?_⟩
  · refine (congrArg Net.msgs (upd_getD_ne _ _ _ _ _ hy.symm)).trans ?_
    exact (upd_getD_proj Net.msgs hf).trans (State.net_granting hw hx hm)
  · refine (congrArg Net.msgs (upd_getD_self _ _ _ _ hlen)).trans (congrArg (· ++ [w]) ?_)
    exact (upd_getD_proj Net.msgs hf).trans (congrArg Net.msgs (State.net_granting_ne hy))

theorem exec_ringReserve (hw : s.Wf) (hx : x < 8) (h : ∃ w ∈ (s.net x).msgs, s.msgSrc w = x ∧ s.msgDst w ≠ x) : Answers (.ringReserve x) s fun t =>
    t = { s with nets := t.nets, cnts := t.cnts, free := t.free } ∧ t.net x = { s.net x with reserved := true } ∧
    ∀ y, y ≠ x → t.net y = s.net y := by
  obtain ⟨w, hw', hs, hd⟩ := h
  have hany : ((s.net x).msgs.any fun w => s.msgSrc w == x && s.msgDst w != x) = true :=
    List.any_eq_true.2 ⟨w, hw', by simp [hs, hd]⟩
  obtain ⟨cnts, free, e, -⟩ := (s.onNet x fun b => { b with reserved := true }).count_cntOnly (.network x) 5 none 1 none none
  exact ⟨_, (if_pos hx).trans (congrArg Host.Outcome.next ((if_pos hany).trans e)), rfl, s.net_onNet x _ (hw.nets ▸ hx),
    fun y hy => s.net_onNet_ne x _ y hy⟩

end Sys2Proof.Machine
end

section
/-! SUPPORT. What the end of a request leaves unchanged: its own answer is all that another unit sees of it. -/
namespace Sys2Proof.Machine
variable {s₀ s : State} {n uid : Nat}

/-- An element of a list changed at one place is as before, or changed. -/
theorem upd_getD_or {α : Type} (f : α → α) (l : List α) (i j : Nat) (d : α) :
    (upd l i f).getD j d = l.getD j d ∨ (upd l i f).getD j d = f (l.getD j d) := by
  simp only [List.getD_eq_getElem?_getD, upd_getElem?]
  split
  · cases l[j]? with
    | none => exact .inl rfl
    | some a => exact .inr rfl
  · exact .inl rfl

/-- Between s and t requests end: no more of a controller changes than PORT_MISB, the sector networks gain no more than responses, and
no port opens a request. -/
structure Ending (s t : State) : Prop where
  rest : t = { s with ports := t.ports, ctls := t.ctls, nets := t.nets, pools := t.pools, movs := t.movs, jobs := t.jobs }
  ctl : ∀ q, ∃ m, t.ctl q = { s.ctl q with misb := m }
  ctls : t.ctls.length = s.ctls.length
  msgs : ∀ y, ∀ w ∈ (t.net y).msgs, w ∈ (s.net y).msgs ∨ w.ans ≠ none
  arb : ∀ y, (t.net y).arbMisb = (s.net y).arbMisb
  idle : ∀ m, (s.port m).openW = none → (t.port m).openW = none

namespace Ending

theorem refl (s : State) : Ending s s := ⟨rfl, fun _ => ⟨_, rfl⟩, rfl, fun _ _ hw => .inl hw, fun _ => rfl, fun _ h => h⟩

theorem ite {a b : State} {c : Prop} [Decidable c] (h : Ending s₀ a) (k : Ending s₀ b) : Ending s₀ (if c then a else b) := by
  split <;> assumption

/-- Slots, movers and jobs may change. -/
theorem others (h : Ending s₀ s) {pools : List Pool} {movs : List Mov} {jobs : List Job} :
    Ending s₀ { s with pools := pools, movs := movs, jobs := jobs } :=
  ⟨by rw [h.rest], h.ctl, h.ctls, h.msgs, h.arb, h.idle⟩

theorem setPort (h : Ending s₀ s) {m : Nat} {f : Port → Port} (hf : ∀ q, q.openW = none → (f q).openW = none) :
    Ending s₀ (s.onPort m f) := by
  refine ⟨by rw [h.rest]; rfl, h.ctl, h.ctls, h.msgs, h.arb, fun k hk => ?_⟩
  rcases upd_getD_or f s.ports m k {} with e | e
  · exact (congrArg Port.openW e).trans (h.idle k hk)
  · exact (congrArg Port.openW e).trans (hf _ (h.idle k hk))

theorem misb (h : Ending s₀ s) {m bit : Nat} : Ending s₀ (s.misb m bit) := by
  refine ⟨by rw [h.rest]; rfl, fun q => ?_, (upd_length ..).trans h.ctls, h.msgs, h.arb, h.idle⟩
  obtain ⟨v, hv⟩ := h.ctl q
  rcases upd_getD_or (fun c : Ctl => { c with misb := c.misb ||| ((1 : BitVec 7) <<< bit) }) s.ctls (s.portPhys m) q {} with e | e
  · exact ⟨v, e.trans hv⟩
  · exact ⟨v ||| ((1 : BitVec 7) <<< bit), e.trans (congrArg (fun c : Ctl => { c with misb := c.misb ||| ((1 : BitVec 7) <<< bit) }) hv)⟩

theorem respond (h : Ending s₀ s) {y : Nat} {w : Work} (hw : w.ans ≠ none) : Ending s₀ (s.onNet y (·.queues w)) := by
  refine ⟨by rw [h.rest]; rfl, h.ctl, h.ctls, fun z v hv => ?_, fun z => (upd_getD_proj Net.arbMisb).trans (h.arb z), h.idle⟩
  rcases upd_getD_or (·.queues w) s.nets y z {} with e | e
  · exact h.msgs z v (Eq.mp (congrArg (v ∈ Net.msgs ·) e) hv)
  · have hv' : v ∈ (s.net z).msgs ++ [w] := Eq.mp (congrArg (v ∈ Net.msgs ·) e) hv
    rcases List.mem_append.1 hv' with hv | hv
    · exact h.msgs z v hv
    · exact .inr (List.mem_singleton.1 hv ▸ hw)

theorem freeSlots (h : Ending s₀ s) {ks : List Slot} : Ending s₀ (s.freeSlots ks) := by
  rw [s.freeSlots_pools ks]
  exact h.others

theorem onReq (h : Ending s₀ s) {f : Req → Req} : Ending s₀ (s.onReq n uid f) := .ite (h.setPort fun _ hq => hq) (.ite h h.others)

theorem noteBad (h : Ending s₀ s) {code : BitVec 4} : Ending s₀ (s.noteBad n code) := .ite h.misb h

theorem putAns (h : Ending s₀ s) {a : Ans} : Ending s₀ (s.putAns n a) := by
  rw [State.putAns_eq]
  exact (h.setPort fun q hq => (q.takeAns_openW a).trans hq).noteBad

theorem sendAns (h : Ending s₀ s) {r : Req} {a : Ans} : Ending s₀ (s.sendAns n r a) := .ite (h.respond (by simp)) h.putAns

theorem finish (h : Ending s₀ s) {code : BitVec 4} {detail : Nat} : Ending s₀ (s.finish n uid code detail) := by
  unfold State.finish
  split
  · exact h
  · exact .ite h h.onReq.sendAns

theorem finishData (h : Ending s₀ s) {code : BitVec 4} {d : Block} : Ending s₀ (s.finishData n uid code d) := by
  unfold State.finishData
  split
  · exact h
  · exact .ite h (.ite h.finish h.onReq.sendAns)

theorem release (h : Ending s₀ s) : Ending s₀ (s.release n uid) := by
  unfold State.release
  split
  · exact h.finishData
  · exact h

theorem jobDone (h : Ending s₀ s) : Ending s₀ (s.jobDone n uid) := .ite (.ite h.others.release h.others) h.others

theorem jobDoneN (h : Ending s₀ s) {k : Nat} : Ending s₀ (s.jobDoneN n uid k) := by
  induction k generalizing s with
  | zero => exact h
  | succ k ih => exact ih h.jobDone

theorem checkEnd (h : Ending s₀ s) : Ending s₀ (s.checkEnd n uid) := by
  unfold State.checkEnd
  split
  · exact h
  · exact .ite h.finish h

theorem blockFail (h : Ending s₀ s) {i : Nat} {code : BitVec 4} : Ending s₀ (s.blockFail n uid i code) := by
  unfold State.blockFail
  refine .ite h.jobDone ?_
  split
  · exact h
  · refine .ite h.finish (.ite h (checkEnd (setPort h.onReq fun q hq => ?_)))
    rw [hq]
    rfl

/-- A request's message that is withdrawn ends its request. -/
theorem failWork (h : Ending s₀ s) {w : Work} (hw : w.ans = none) {code : BitVec 4} : Ending s₀ (s.failWork w code) := by
  simp only [State.failWork, hw, Option.isSome_none, Bool.false_eq_true, if_false]
  exact .ite h.freeSlots.finish h.freeSlots.blockFail

end Ending

end Sys2Proof.Machine
end

section
/-! SUPPORT. ARBITER_CUTOFF. -/
namespace Sys2Proof.Machine
variable {s₀ s : State} {n uid x p bit : Nat} {w : Work} {r : Req}

/-- A request that ends without having been answered has its answer, with the code it ended with (R88). -/
theorem State.finish_found (hn : n < 128) (hl : n < s.ports.length) (h : s.reqOf n uid = some r) (ha : r.answered = false)
    (code : BitVec 4) : ∃ r', (s.finish n uid code).reqOf n uid = some r' ∧ r'.answered = true ∧ r'.code = code := by
  have e : s.finish n uid code = (s.noteEnd n uid code).sendAns n r (r.endAns code 0) := by
    simp only [State.finish, h, ha, Bool.false_eq_true, if_false]
  have hend : (s.noteEnd n uid code).reqOf n uid = some (r.end code) := State.reqOf_onReq hn hl h rfl
  refine ⟨r.end code, ?_, rfl, rfl⟩
  rw [e, State.sendAns]
  split
  · exact hend
  · obtain ⟨ctls, e'⟩ := State.putAns_port (s.noteEnd n uid code) n (r.endAns code 0)
    rw [e']
    exact (State.reqOf_onPort (f := (·.takeAns _)) hn fun q => q.takeAns_tags _).trans hend

theorem State.reqOf_freeSlots {ks : List Slot} : (s.freeSlots ks).reqOf n uid = s.reqOf n uid := by
  rw [s.freeSlots_pools ks]
  rfl

theorem State.reqOf_onNet {f : Net → Net} : (s.onNet x f).reqOf n uid = s.reqOf n uid := rfl
theorem State.reqOf_onCtl {f : Ctl → Ctl} : (s.onCtl p f).reqOf n uid = s.reqOf n uid := rfl

/-! ### An input of a sector network (R106, R139) -/

/-- The sector's network with the sticky bit of an input set. -/
def State.arbNet (s : State) (x bit : Nat) : State := s.onNet x fun b => { b with arbMisb := b.arbMisb ||| ((1 : BitVec 18) <<< bit) }

/-- A request that waits at an input of a sector network: those of the sector's channels, and the ring. -/
def State.waitsAt (s : State) (x bit : Nat) (w : Work) : Bool :=
  w.ans.isNone && (if s.msgSrc w = x then s.msgFrom w == bit else bit == 17)

/-- The message w is no longer in the sector's queue. -/
def State.dropMsg (s : State) (x : Nat) (w : Work) : State := s.onNet x fun b => { b with msgs := b.msgs.filter (· != w) }

section
variable (hw : s.Wf) (hx : x < 8) (hb : bit < 18)
include hw hx hb

theorem exec_cutNet_none (h : (s.net x).msgs.find? (s.waitsAt x bit) = none) :
    exec (.arbiterCutoff (.net x bit)) s = .next (s.arbNet x bit) := by
  have h' : ((s.arbNet x bit).net x).msgs.find? (s.waitsAt x bit) = none := by
    rw [State.arbNet, s.net_onNet x _ (hw.nets ▸ hx)]
    exact h
  refine (if_pos hx).trans (congrArg Host.Outcome.next ((if_neg (by omega)).trans ?_))
  change (match ((s.arbNet x bit).net x).msgs.find? (s.waitsAt x bit) with
    | some w => ((s.arbNet x bit).dropMsg x w).failWork w cBAD
    | none => s.arbNet x bit) = _
  rw [h']

theorem exec_cutNet_some (h : (s.net x).msgs.find? (s.waitsAt x bit) = some w) :
    exec (.arbiterCutoff (.net x bit)) s = .next (((s.arbNet x bit).dropMsg x w).failWork w cBAD) := by
  have h' : ((s.arbNet x bit).net x).msgs.find? (s.waitsAt x bit) = some w := by
    rw [State.arbNet, s.net_onNet x _ (hw.nets ▸ hx)]
    exact h
  refine (if_pos hx).trans (congrArg Host.Outcome.next ((if_neg (by omega)).trans ?_))
  change (match ((s.arbNet x bit).net x).msgs.find? (s.waitsAt x bit) with
    | some w => ((s.arbNet x bit).dropMsg x w).failWork w cBAD
    | none => s.arbNet x bit) = _
  rw [h']

end

/-- ARBITER_CUTOFF at a sector network, as the obligation has it. -/
theorem exec_cutNet (hw : s.Wf) (hx : x < 8) (hb : bit < 18) : Answers (.arbiterCutoff (.net x bit)) s fun t =>
    t.cells = s.cells ∧ (t.net x).arbMisb = (s.net x).arbMisb ||| ((1 : BitVec 18) <<< bit) ∧ ((s.net x).msgs = [] → t = { s with nets := t.nets }) ∧
    ∀ w r, (s.net x).msgs.find? (fun w => w.ans.isNone && (if s.msgSrc w = x then s.msgFrom w == bit else bit == 17)) = some w →
      w ∉ (t.net x).msgs ∧ (w.port < 128 → w.op = 0 → s.reqOf w.port w.uid = some r → r.answered = false →
        ∃ r', t.reqOf w.port w.uid = some r' ∧ r'.answered = true ∧ r'.code = cBAD) := by
  have harb : ((s.arbNet x bit).net x).arbMisb = (s.net x).arbMisb ||| ((1 : BitVec 18) <<< bit) :=
    congrArg Net.arbMisb (s.net_onNet x _ (hw.nets ▸ hx))
  cases hf : (s.net x).msgs.find? (s.waitsAt x bit) with
  | none =>
    refine ⟨_, exec_cutNet_none hw hx hb hf, rfl, harb, fun _ => rfl, fun w r hw' => ?_⟩
    exact absurd (hf.symm.trans hw') nofun
  | some w =>
    have hans : w.ans = none := by
      have := List.find?_some hf
      simp only [State.waitsAt, Bool.and_eq_true, Option.isNone_iff_eq_none] at this
      exact this.1
    have hend : Ending ((s.arbNet x bit).dropMsg x w) (((s.arbNet x bit).dropMsg x w).failWork w cBAD) := .failWork (.refl _) hans
    refine ⟨_, exec_cutNet_some hw hx hb hf, by rw [hend.rest]; rfl, ?_, fun hm => ?_, fun w' r hw' => ?_⟩
    · rw [hend.arb, ← harb]
      exact upd_getD_proj Net.arbMisb
    · rw [hm] at hf
      cases hf
    · obtain rfl : w = w' := Option.some.inj (hf.symm.trans hw')
      refine ⟨fun hmem => ?_, fun hn hop hr ha => ?_⟩
      · rcases hend.msgs x w hmem with h | h
        · have hlen : x < (s.arbNet x bit).nets.length := by simpa [State.arbNet, State.onNet, hw.nets] using hx
          rw [State.dropMsg, State.net_onNet _ x _ hlen] at h
          simp at h
        · exact h hans
      · have e : ((s.arbNet x bit).dropMsg x w).failWork w cBAD =
            (((s.arbNet x bit).dropMsg x w).freeSlots w.slots).finish w.port w.uid cBAD := by
          simp [State.failWork, hans, hop]
        rw [e]
        refine State.finish_found (r := r) hn (by rw [State.freeSlots_ports]; exact hw.ports ▸ hn) ?_ ha cBAD
        rw [State.reqOf_freeSlots, State.dropMsg, State.reqOf_onNet, State.arbNet, State.reqOf_onNet, hr]

/-! ### An input of a channel's arbiters (R136, R139) -/

/-- A work of the same request at the same input. -/
def Work.sameReq (w v : Work) : Bool := v.inp == w.inp && v.port == w.port && v.uid == w.uid

/-- The works at a direction of a channel's arbiters. -/
def Ctl.inputs (c : Ctl) (write : Bool) : List Work := if write then c.inWr else c.inRd

/-- The controller whose works of a request have left their input. -/
def Ctl.withdraw (c : Ctl) (write : Bool) (w : Work) : Ctl :=
  let c := if write then { c with inWr := c.inWr.filter fun v => !w.sameReq v } else { c with inRd := c.inRd.filter fun v => !w.sameReq v }
  c.onDir write fun r => { r with owner := none, prog := r.prog.filter (· != (w.inp, w.uid)) }

/-- The works of a request have left their input, and their slots are free. -/
def State.withdrawn (s : State) (p : Nat) (write : Bool) (w : Work) : State :=
  (s.freeSlots ((((s.ctl p).inputs write).filter w.sameReq).flatMap (·.slots))).onCtl p (·.withdraw write w)

theorem State.cutOff_none {write : Bool} {pick : Work → Bool} (h : ((s.ctl p).inputs write).find? pick = none) :
    s.cutOff p write pick = s := by
  rw [Ctl.inputs] at h
  simp only [State.cutOff, State.withdraw, h]

theorem State.cutOff_some {write : Bool} {pick : Work → Bool} (h : ((s.ctl p).inputs write).find? pick = some w) :
    s.cutOff p write pick = State.cutEnd s (s.withdrawn p write w) p w := by
  rw [Ctl.inputs] at h
  simp only [State.cutOff, State.withdraw, h]
  rfl

theorem Ctl.mem_withdraw (c : Ctl) (write : Bool) (w : Work) : w ∉ (c.withdraw write w).inputs write := by
  cases write <;> simp [Ctl.withdraw, Ctl.inputs, Ctl.onDir, Work.sameReq]

theorem Ctl.withdraw_arbMisb (c : Ctl) (write : Bool) (w : Work) : (c.withdraw write w).arbMisb = c.arbMisb := by
  cases write <;> rfl

/-- The end of a withdrawn request leaves memory, and of a controller all but PORT_MISB. -/
theorem State.cutEnd_keeps (s0 s : State) (p : Nat) (w : Work) :
    (s0.cutEnd s p w).cells = s.cells ∧ ∀ q, ∃ m, (s0.cutEnd s p w).ctl q = { s.ctl q with misb := m } := by
  unfold State.cutEnd
  split
  · exact ⟨rfl, fun q => ⟨_, rfl⟩⟩
  · have h : Ending s (if 1024 ≤ w.port then
        s.jobDoneN w.port w.uid ((s0.ctl p).jobBlocks w.port w.uid - (s.ctl p).jobBlocks w.port w.uid)
      else if w.op = 0 || w.op = opOrd then s.finish w.port w.uid cBAD else s.blockFail w.port w.uid w.idx cBAD) :=
      .ite (Ending.refl s).jobDoneN (.ite (Ending.refl s).finish (Ending.refl s).blockFail)
    exact ⟨by rw [h.rest], h.ctl⟩

theorem State.reqOf_withdrawn {write : Bool} : (s.withdrawn p write w).reqOf n uid = s.reqOf n uid := by
  rw [State.withdrawn, State.reqOf_onCtl, State.reqOf_freeSlots]

theorem State.withdrawn_cells {write : Bool} : (s.withdrawn p write w).cells = s.cells := State.freeSlots_cells ..
theorem State.withdrawn_ports {write : Bool} : (s.withdrawn p write w).ports = s.ports := State.freeSlots_ports ..

theorem State.ctl_withdrawn {write : Bool} (hp : p < s.ctls.length) : (s.withdrawn p write w).ctl p = (s.ctl p).withdraw write w := by
  rw [State.withdrawn, State.ctl_onCtl _ p _ (by rw [s.freeSlots_pools]; exact hp), State.ctl_freeSlots]

/-- A read of a port that is withdrawn ends BAD_REQUEST. -/
theorem State.cutEnd_read {s0 : State} (hi : w.inp < 4) (hn : w.port < 128) (ho : w.op = 0) :
    s0.cutEnd s p w = s.finish w.port w.uid cBAD := by
  rw [State.cutEnd, if_neg (by omega), if_neg (by omega), if_pos (by simp [ho])]

/-- The channel with the sticky bit of an input set. -/
def State.arbCtl (s : State) (p bit : Nat) : State := s.onCtl p fun c => { c with arbMisb := c.arbMisb ||| ((1 : BitVec 5) <<< bit) }

/-- ARBITER_CUTOFF at a channel, as the obligation has it. -/
theorem exec_cutCtl (hw : s.Wf) (hp : p < 136) (hb : bit < 5) : Answers (.arbiterCutoff (.ctl p bit)) s fun t =>
    t.cells = s.cells ∧ (t.ctl p).arbMisb = (s.ctl p).arbMisb ||| ((1 : BitVec 5) <<< bit) ∧
    ((s.ctl p).inRd = [] → (s.ctl p).inWr = [] → t = { s with ctls := t.ctls }) ∧
    ∀ w, (if bit = 1 ∨ bit = 3 then (s.ctl p).inWr else (s.ctl p).inRd).find?
        (fun w => w.inp == if bit < 2 then 2 else if bit < 4 then 1 else 5) = some w →
      w ∉ (if bit = 1 ∨ bit = 3 then (t.ctl p).inWr else (t.ctl p).inRd) ∧
      ∀ r, w.inp < 4 → w.port < 128 → w.op = 0 → s.reqOf w.port w.uid = some r → r.answered = false →
        ∃ r', t.reqOf w.port w.uid = some r' ∧ r'.answered = true ∧ r'.code = cBAD := by
  have hdir : ∀ c : Ctl, (if bit = 1 ∨ bit = 3 then c.inWr else c.inRd) = c.inputs (bit == 1 || bit == 3) := fun c => by simp [Ctl.inputs]
  have hctl : (s.arbCtl p bit).ctl p = { s.ctl p with arbMisb := (s.ctl p).arbMisb ||| ((1 : BitVec 5) <<< bit) } :=
    s.ctl_onCtl p _ (hw.ctls ▸ hp)
  have hin : ((s.arbCtl p bit).ctl p).inputs (bit == 1 || bit == 3) = (s.ctl p).inputs (bit == 1 || bit == 3) := by rw [hctl]; rfl
  have he : exec (.arbiterCutoff (.ctl p bit)) s = .next ((s.arbCtl p bit).cutOff p (bit == 1 || bit == 3) fun w =>
      w.inp == if bit < 2 then 2 else if bit < 4 then 1 else 5) := (if_pos hp).trans (congrArg Host.Outcome.next (if_neg (by omega)))
  simp only [hdir]
  cases hf : ((s.ctl p).inputs (bit == 1 || bit == 3)).find? fun w => w.inp == if bit < 2 then 2 else if bit < 4 then 1 else 5 with
  | none =>
    rw [State.cutOff_none (by rw [hin]; exact hf)] at he
    exact ⟨_, he, rfl, congrArg Ctl.arbMisb hctl, fun _ _ => rfl, fun _ h => nomatch h⟩
  | some w =>
    rw [State.cutOff_some (by rw [hin]; exact hf)] at he
    obtain ⟨hcells, hctls⟩ := State.cutEnd_keeps (s.arbCtl p bit) ((s.arbCtl p bit).withdrawn p (bit == 1 || bit == 3) w) p w
    obtain ⟨m, hm⟩ := hctls p
    have hlen : p < (s.arbCtl p bit).ctls.length := by simpa [State.arbCtl, State.onCtl, hw.ctls] using hp
    have hgone := State.ctl_withdrawn (write := bit == 1 || bit == 3) (w := w) hlen
    refine ⟨_, he, ?_, ?_, fun hr hw' => ?_, fun w' hw' => ?_⟩
    · rw [hcells, State.withdrawn_cells]
      rfl
    · rw [hm, hgone]
      exact (Ctl.withdraw_arbMisb ..).trans (congrArg Ctl.arbMisb hctl)
    · rw [Ctl.inputs, hr, hw', ite_self] at hf
      cases hf
    · obtain rfl : w = w' := Option.some.inj hw'
      refine ⟨?_, fun r hi hn ho hr ha => ?_⟩
      · rw [hm, hgone]
        exact Ctl.mem_withdraw _ _ _
      · rw [State.cutEnd_read hi hn ho]
        exact State.finish_found (r := r) hn (by rw [State.withdrawn_ports]; exact hw.ports ▸ hn)
          (by rw [State.reqOf_withdrawn, State.arbCtl, State.reqOf_onCtl, hr]) ha cBAD

end Sys2Proof.Machine
end

section
/-! SUPPORT. ARBITER_CUTOFF at the inputs of a slice port. -/
namespace Sys2Proof.Machine
variable {s₀ s : State} {n uid : Nat} {w : Work} {r : Req}

/-! ### The write input: the open request ends (R79, R139) -/

/-- Between s and t blocks are handed and requests end: where ports and channels stand is as before, and no port opens a request. -/
structure Handing (s t : State) : Prop where
  image : t.image = s.image
  sectors : t.sectors = s.sectors
  idle : ∀ m, (s.port m).openW = none → (t.port m).openW = none

namespace Handing

theorem refl (s : State) : Handing s s := ⟨rfl, rfl, fun _ h => h⟩

theorem ite {a b : State} {c : Prop} [Decidable c] (h : Handing s₀ a) (k : Handing s₀ b) : Handing s₀ (if c then a else b) := by
  split <;> assumption

theorem then_ending {t : State} (h : Handing s₀ s) (k : Ending s t) : Handing s₀ t :=
  ⟨by rw [k.rest]; exact h.image, by rw [k.rest]; exact h.sectors, fun m hm => k.idle m (h.idle m hm)⟩

theorem then_report {t : State} (h : Handing s₀ s) (k : RptOnly s t) : Handing s₀ t := by
  obtain ⟨r, c, f, rfl, -⟩ := k
  exact ⟨h.image, h.sectors, h.idle⟩

/-- The controllers, the networks and the free values may change. -/
theorem others (h : Handing s₀ s) {ctls : List Ctl} {nets : List Net} : Handing s₀ { s with ctls := ctls, nets := nets } :=
  ⟨h.image, h.sectors, h.idle⟩

theorem portPhys {t : State} (h : Handing s t) : t.portPhys n = s.portPhys n := by
  have hi : t.img = s.img := by rw [State.img, h.image, State.img]
  have hs : t.sec = s.sec := funext fun x => by rw [State.sec, h.sectors, State.sec]
  unfold State.portPhys State.serving
  rw [hi, hs]

theorem hand (h : Handing s₀ s) : Handing s₀ (s.hand n w) := by
  unfold State.hand
  extract_lets x
  refine .ite ?_ ?_
  · split
    · exact h.then_ending (.ite (Ending.refl s).finish (Ending.refl s).blockFail)
    · exact .ite h.others h.others
  · exact (h.then_ending (Ending.refl s).onReq).others

theorem handBlock (h : Handing s₀ s) {d : Block} {be : BitVec 64} : Handing s₀ (s.handBlock n uid d be) := by
  unfold State.handBlock
  split
  · exact h
  · extract_lets x
    split
    next hit t e =>
      have ht : Handing s₀ t := h.then_report (by have := s.fire_rptOnly (.pool x) 0 false; rwa [e] at this)
      extract_lets off w t1
      have h1 : Handing s₀ t1 := ht.then_ending (Ending.refl t).onReq
      exact .ite (((h1.then_ending (Ending.refl t1).freeSlots).then_report (State.report_rptOnly _ _ _)).then_ending (Ending.refl _).blockFail) h1.hand

theorem flushOpen (h : Handing s₀ s) {o : OpenW} : Handing s₀ (s.flushOpen n o) := by
  unfold State.flushOpen
  split
  · exact h
  · refine .ite h (.ite ?_ ?_)
    · exact (h.then_ending (Ending.refl s).onReq).hand
    · exact List.foldlRecOn _ _ h fun _ ht _ _ => ht.handBlock

end Handing

/-- The open request ended, none is open. -/
theorem State.endOpen_closed (hn : n < s.ports.length) (bad : Bool) :
    ((s.endOpen n bad).port n).openW = none ∧ (s.endOpen n bad).portPhys n = s.portPhys n := by
  cases ho : (s.port n).openW with
  | none =>
    have e : s.endOpen n bad = s := by simp only [State.endOpen, ho]
    rw [e]
    exact ⟨ho, rfl⟩
  | some o =>
    rw [State.endOpen_eq ho]
    let t := s.onPort n fun q => { q with openW := none }
    have h : Handing t (((t.flushOpen n o).onReq n o.uid (·.close bad)).checkEnd n o.uid) :=
      (Handing.refl t).flushOpen.then_ending (Ending.refl _).onReq.checkEnd
    exact ⟨h.idle n (congrArg Port.openW (s.port_onPort n _ hn)), h.portPhys.trans (s.portPhys_onPort ..)⟩

theorem exec_cutWrite (hn : n < 128) (hp : s.portPhys n < 136) (hw : s.Wf) (ho : (s.port n).openW ≠ none) :
    Answers (.arbiterCutoff (.port n true)) s fun t => (t.port n).openW = none ∧ (t.ctl (s.portPhys n)).misb.getLsbD 0 = true := by
  obtain ⟨hnone, hphys⟩ := State.endOpen_closed (hw.ports ▸ hn) true
  refine ⟨_, (if_pos hn).trans (congrArg Host.Outcome.next (if_pos (Option.isSome_iff_ne_none.2 ho))), hnone, ?_⟩
  exact State.misb_bit (by decide) hphys (by rw [hw.endOpen.ctls]; exact hp)

/-! ### The read input (R139) -/

theorem Handing.withdrawn {p : Nat} {write : Bool} : Handing s (s.withdrawn p write w) :=
  Handing.others (.then_ending (.refl s) (Ending.refl s).freeSlots)

theorem State.port_withdrawn {p m : Nat} {write : Bool} : (s.withdrawn p write w).port m = s.port m := State.port_freeSlots ..

theorem State.withdrawn_ctls_length {p : Nat} {write : Bool} : (s.withdrawn p write w).ctls.length = s.ctls.length := by
  rw [State.withdrawn, State.onCtl, upd_length, s.freeSlots_pools]

theorem exec_cutRead (hn : n < 128) (hp : s.portPhys n < 136) (hw : s.Wf)
    (hf : (s.ctl (s.portPhys n)).inRd.find? (fun w => w.inp == 0 && w.port == n) = some w) (ho : w.op = 0) (hr : s.reqOf n w.uid = some r)
    (ha : r.answered = false) (hm : r.remote = false) (hop : r.op = 0) : Answers (.arbiterCutoff (.port n false)) s fun t =>
      w ∉ (t.ctl (s.portPhys n)).inRd ∧ (t.port n).rsp = (s.port n).rsp ++ [⟨r.tag, r.sent, true, true, cBAD, 0⟩] ∧
      (t.ctl (s.portPhys n)).misb.getLsbD 0 = true := by
  obtain ⟨p, hpe⟩ : ∃ p, p = s.portPhys n := ⟨_, rfl⟩
  rw [← hpe] at hp hf ⊢
  have hw0 := List.find?_some hf
  obtain ⟨hinp, hport⟩ : w.inp = 0 ∧ w.port = n := by simpa using hw0
  let t := s.withdrawn p false w
  have hreq : t.reqOf n w.uid = some r := State.reqOf_withdrawn.trans hr
  have hphys : t.portPhys n = p := by
    rw [hpe]
    exact Handing.withdrawn.portPhys
  have hlp : n < t.ports.length := by
    rw [State.withdrawn_ports]
    exact hw.ports ▸ hn
  have hlc : p < s.ctls.length := hw.ctls ▸ hp
  have he : exec (.arbiterCutoff (.port n false)) s = .next ((t.finish n w.uid cBAD).misb n 0) := by
    have hany : ((s.ctl p).inRd.any fun w => w.inp == 0 && w.port == n) = true :=
      List.any_eq_true.2 ⟨w, List.mem_of_find?_eq_some hf, hw0⟩
    have hcut : s.cutOff p false (fun w => w.inp == 0 && w.port == n) = t.finish n w.uid cBAD := by
      rw [State.cutOff_some (write := false) hf, State.cutEnd_read (by omega) (by omega) ho, hport]
    subst hpe
    exact (if_pos hn).trans (congrArg Host.Outcome.next ((if_pos hany).trans (congrArg (State.misb · n 0) hcut)))
  have hans : r.endAns cBAD 0 = .beat ⟨r.tag, r.sent, true, true, cBAD, 0⟩ := by simp [Req.endAns, hop, onData, opPage]
  rw [State.finish_bad hn hreq ha hm, hans] at he
  refine ⟨_, he, ?_, ?_, State.misb_bit (by decide) (by rw [State.portPhys_misb, State.portPhys_onPort, hphys]) ?_⟩
  · rw [State.ctl_misb_proj Ctl.inRd, State.ctl_misb_proj Ctl.inRd, State.ctl_onPort, State.ctl_withdrawn hlc]
    exact Ctl.mem_withdraw _ false w
  · rw [State.port_misb, State.port_misb, State.port_onPort _ _ _ hlp]
    rw [State.port_withdrawn]
    rfl
  · rw [State.misb_ctls_length, State.onPort_ctls, State.withdrawn_ctls_length]
    exact hlc

theorem exec_cutPort_none (hn : n < 128) :
    ((s.port n).openW = none → exec (.arbiterCutoff (.port n true)) s = .next s) ∧
    ((∀ w ∈ (s.ctl (s.portPhys n)).inRd, w.inp = 0 → w.port ≠ n) → exec (.arbiterCutoff (.port n false)) s = .next s) := by
  refine ⟨fun h => (if_pos hn).trans (congrArg Host.Outcome.next ((if_pos rfl).trans (if_neg (by simp [h])))), fun h =>
    (if_pos hn).trans (congrArg Host.Outcome.next ((if_neg nofun).trans (if_neg ?_)))⟩
  simpa using h

/-! ### The obligation -/

/-- Settles O20: a port's responses, the sector network's messages, and the inputs that an arbiter cuts off. -/
theorem responsesAndNetwork : Obligations.ResponsesAndNetwork := by
  refine ⟨⟨fun s n b l hw hn hr hb => exec_rspBeatTaken hw hn hr hb, fun s n hw hn hb => exec_rspStall hw hn hb⟩,
    ⟨fun s x p w l hw hx hm hpk hi hd hans hs => exec_deliverRequest hw hx hm hpk hi hd hans hs,
      fun s x w l hw hx hm hpk hi hd hans hn hr => exec_deliverResponse hw hx hm hpk hi hd hans hn hr,
      fun s x w l hw hx hm hpk hi hd _ h => exec_hopOn hw hx hm hpk hi hd h⟩,
    fun s x hw hx h => exec_ringReserve hw hx h,
    fun s x bit hw hx hb => exec_cutNet hw hx hb, fun s p bit hw hp hb => exec_cutCtl hw hp hb,
    fun s n hn hp hw ho => exec_cutWrite hn hp hw ho,
    fun s n w r hn hp hw hf ho hr ha hm hop => exec_cutRead hn hp hw hf ho hr ha hm hop, fun s n hn => exec_cutPort_none hn⟩

end Sys2Proof.Machine
end

section
/-! SUPPORT. One cycle of a channel: what stands while its queues and banks do. -/
namespace Sys2Proof.Machine
variable {s₀ s t : State} {p n : Nat} {e : Entry}

/-- t differs from s in what a cycle of channel p changes beside its queues, banks and memory: ports, pool slots, the sectors'
statistics, the registers of its arbiters, the slots' traces, counters. -/
structure Aside (p : Nat) (s t : State) : Prop where
  rest : t = { s with ports := t.ports, pools := t.pools, sectors := t.sectors, ctls := t.ctls, cnts := t.cnts, free := t.free }
  own : ∃ rd wr lastCol rowUsed, t.ctl p = { s.ctl p with rd := rd, wr := wr, lastCol := lastCol, rowUsed := rowUsed }
  others : ∀ q, q ≠ p → t.ctl q = s.ctl q
  sec : ∀ x, ∃ bins sat slots, t.sec x = { s.sec x with bins := bins, histSat := sat, slots := slots }
  ctls : t.ctls.length = s.ctls.length
  ports : t.ports.length = s.ports.length

namespace Aside

theorem refl (p : Nat) (s : State) : Aside p s s := ⟨rfl, ⟨_, _, _, _, rfl⟩, fun _ _ => rfl, fun _ => ⟨_, _, _, rfl⟩, rfl, rfl⟩

theorem ite {a b : State} {c : Prop} [Decidable c] (h : Aside p s₀ a) (k : Aside p s₀ b) : Aside p s₀ (if c then a else b) := by
  split <;> assumption

theorem pools (h : Aside p s₀ s) {l : List Pool} {c : List Cnt} {f : Nat} : Aside p s₀ { s with pools := l, cnts := c, free := f } :=
  ⟨by rw [h.rest], h.own, h.others, h.sec, h.ctls, h.ports⟩

theorem setPort (h : Aside p s₀ s) {f : Port → Port} : Aside p s₀ (s.onPort n f) :=
  ⟨by rw [h.rest]; rfl, h.own, h.others, h.sec, h.ctls, (upd_length ..).trans h.ports⟩

theorem setCtl (h : Aside p s₀ s) {f : Ctl → Ctl}
    (hf : ∀ c, ∃ rd wr lastCol rowUsed, f c = { c with rd := rd, wr := wr, lastCol := lastCol, rowUsed := rowUsed }) :
    Aside p s₀ (s.onCtl p f) := by
  refine ⟨by rw [h.rest]; rfl, ?_, fun q hq => (s.ctl_onCtl_ne p f q hq).trans (h.others q hq), h.sec, (upd_length ..).trans h.ctls, h.ports⟩
  obtain ⟨rd, wr, lc, ru, hc⟩ := h.own
  rcases upd_getD_or f s.ctls p p {} with e | e
  · exact ⟨rd, wr, lc, ru, e.trans hc⟩
  · obtain ⟨rd', wr', lc', ru', hf'⟩ := hf (s.ctl p)
    exact ⟨rd', wr', lc', ru', e.trans (hf'.trans (by rw [hc]))⟩

theorem setSec (h : Aside p s₀ s) {x : Nat} {f : Sector → Sector}
    (hf : ∀ e, ∃ bins sat slots, f e = { e with bins := bins, histSat := sat, slots := slots }) : Aside p s₀ (s.onSec x f) := by
  refine ⟨by rw [h.rest]; rfl, h.own, h.others, fun y => ?_, h.ctls, h.ports⟩
  obtain ⟨bins, sat, slots, hs⟩ := h.sec y
  rcases upd_getD_or f s.sectors x y {} with e | e
  · exact ⟨bins, sat, slots, e.trans hs⟩
  · obtain ⟨bins', sat', slots', hf'⟩ := hf (s.sec y)
    exact ⟨bins', sat', slots', e.trans (hf'.trans (by rw [hs]))⟩

theorem freeSlots (h : Aside p s₀ s) {ks : List Slot} : Aside p s₀ (s.freeSlots ks) := by
  rw [s.freeSlots_pools ks]
  exact h.pools

theorem histAdd (h : Aside p s₀ s) {op cls k : Nat} {code : BitVec 4} : Aside p s₀ (s.histAdd n op cls code k) := by
  unfold State.histAdd
  extract_lets x e i v
  exact .ite (h.setSec fun _ => ⟨_, _, _, rfl⟩) h

theorem slotCount (h : Aside p s₀ s) {q k : Nat} {write : Bool} : Aside p s₀ (s.slotCount q write k) := by
  unfold State.slotCount
  extract_lets x
  exact .ite h (h.setSec fun _ => ⟨_, _, _, rfl⟩)

theorem presentAck (h : Aside p s₀ s) : Aside p s₀ (s.presentAck n) := by
  unfold State.presentAck
  split
  · exact h.setPort
  · extract_lets s1
    have h1 : Aside p s₀ s1 := h.setPort.setPort
    refine .ite h1 ?_
    split
    · exact h1
    · exact h1.histAdd.freeSlots.setPort

/-! ### What it leaves -/

theorem canIssue (h : Aside p s t) : t.canIssue p = s.canIssue p := by
  obtain ⟨rd, wr, lc, ru, hc⟩ := h.own
  have hl : t.link p = s.link p := by rw [h.rest]; rfl
  have hf : t.fr = s.fr := by rw [h.rest]; rfl
  simp only [State.canIssue, State.chFenced, State.isFenced, hl, hf, hc]

theorem portAt (h : Aside p s t) : t.portAt p = s.portAt p := by
  obtain ⟨bins, sat, slots, hs⟩ := h.sec (secOf p)
  have hi : t.img = s.img := by rw [h.rest]; rfl
  unfold State.portAt State.lchOf State.portOf
  rw [hs, hi]

theorem blackout (h : Aside p s t) (set : Nat) : t.blackout p set = s.blackout p set := by
  obtain ⟨rd, wr, lc, ru, hc⟩ := h.own
  have hl : t.link p = s.link p := by rw [h.rest]; rfl
  unfold State.blackout
  rw [hl, hc]

theorem place (h : Aside p s t) (off : Nat) : t.place p off = s.place p off := by
  obtain ⟨rd, wr, lc, ru, hc⟩ := h.own
  have hh : t.hides = s.hides := by rw [h.rest]
  unfold State.place
  rw [hc, hh]
  rfl

theorem hazard (h : Aside p s t) : t.hazard p e = s.hazard p e := by
  obtain ⟨rd, wr, lc, ru, hc⟩ := h.own
  unfold State.hazard Ctl.filling
  rw [hc]

theorem hits (h : Aside p s t) (l : Loc) : t.hits p e l = s.hits p e l := by
  obtain ⟨rd, wr, lc, ru, hc⟩ := h.own
  have hb : (t.ctl p).bk = (s.ctl p).bk := by rw [hc]; rfl
  unfold State.hits State.olderOther
  rw [hb]
  simp only [h.place, hc]

theorem rdReady (h : Aside p s t) : t.rdReady p e = s.rdReady p e := by
  obtain ⟨rd, wr, lc, ru, hc⟩ := h.own
  have hcur : t.cur p = s.cur p := by rw [h.rest]; rfl
  have hi : t.img = s.img := by rw [h.rest]; rfl
  have hh : t.hides = s.hides := by rw [h.rest]
  simp only [State.rdReady, h.hazard, h.blackout, h.place, h.hits, State.isLent, State.refLimit, hc, hcur, hi, hh]

theorem stored (h : Aside p s t) (off : Nat) : t.stored p off = s.stored p off := by
  have hl : (t.ctl p).lent = (s.ctl p).lent := by
    obtain ⟨rd, wr, lc, ru, hc⟩ := h.own
    rw [hc]
  have hr : ∀ q, (t.ctl q).remaps = (s.ctl q).remaps := fun q => by
    obtain ⟨rd, wr, lc, ru, hc⟩ := h.own
    by_cases hq : q = p
    · rw [hq, hc]
    · rw [h.others q hq]
  have hh : t.hides = s.hides := by rw [h.rest]
  have hm : t.cells = s.cells := by rw [h.rest]
  simp only [State.stored, State.cellAt, rowOn, hl, hr, hh, hm]

theorem isBad (h : Aside p s t) (off : Nat) : t.isBad p off = s.isBad p off := by rw [h.rest]; rfl

end Aside

end Sys2Proof.Machine
end

section
/-! SUPPORT. The acknowledge of a cycle and the cycle's end, and a cycle in which nothing may issue. -/
namespace Sys2Proof.Machine
variable {s₀ s t : State} {p n : Nat}

/-! ### The acknowledge (R78, R90) -/

/-- The port with the acknowledge at the front presented. -/
def Port.presents (q : Port) (a : Ack) (l : List Ack) : Port :=
  { q with ackQ := l, ackPin := some a, flush := if q.rsp.isEmpty && l.isEmpty then false else q.flush }

theorem State.presentAck_cons {a : Ack} {l : List Ack} (hr : s.portReset n = false) (hq : (s.port n).ackQ = a :: l) :
    ∃ f : Port → Port, (∀ q, f q = { q with tags := (f q).tags }) ∧ (s.presentAck n).ports = (s.onPort n fun q => f (q.presents a l)).ports := by
  have e : (s.onPort n fun p => { p with ackQ := l, ackPin := some a }).flushed n = s.onPort n (·.presents a l) := by
    rw [State.flushed, State.onPort_onPort]
    refine State.onPort_congr ?_
    simp only [Port.presents]
    split <;> rfl
  simp only [State.presentAck, hr, hq, e, Bool.false_eq_true, if_false]
  cases a.dup with
  | true => exact ⟨fun q => q, fun _ => rfl, rfl⟩
  | false =>
    rw [if_neg (by decide)]
    split
    next => exact ⟨fun q => q, fun _ => rfl, rfl⟩
    next r _ =>
      exact ⟨fun q => { q with tags := q.tags.filter fun v => v.uid != r.uid }, fun _ => rfl, by simp [State.onPort, upd_upd]⟩

theorem State.presentAck_nil (h : s.portReset n = true ∨ (s.port n).ackQ = []) :
    s.presentAck n = s.onPort n fun q => { q with ackPin := none } := by
  have e : (if s.portReset n then [] else (s.port n).ackQ) = [] := by
    rcases h with h | h <;> simp [h]
  simp only [State.presentAck, e]

/-- No acknowledge changes the cycle counter of a port. -/
theorem State.presentAck_cyc : ((s.presentAck n).port n).cyc = (s.port n).cyc := by
  by_cases h : s.portReset n = true ∨ (s.port n).ackQ = []
  · rw [State.presentAck_nil h]
    exact upd_getD_proj Port.cyc
  · obtain ⟨hr, hq⟩ := not_or.1 h
    obtain ⟨a, l, hal⟩ := List.exists_cons_of_ne_nil hq
    obtain ⟨f, hf, hp⟩ := State.presentAck_cons (Bool.eq_false_iff.2 hr) hal
    rw [State.port, hp]
    exact upd_getD_proj Port.cyc fun q => by rw [hf]; rfl

theorem State.presentAck_front (hl : n < s.ports.length) {a : Ack} {l : List Ack} (hr : s.portReset n = false) (hq : (s.port n).ackQ = a :: l) :
    ((s.presentAck n).port n).ackPin = some a ∧ ((s.presentAck n).port n).ackQ = l := by
  obtain ⟨f, hf, hp⟩ := State.presentAck_cons hr hq
  have e : (s.presentAck n).port n = f ((s.port n).presents a l) := by
    rw [State.port, hp]
    exact s.port_onPort n _ hl
  rw [e, hf]
  exact ⟨rfl, rfl⟩

/-! ### The end of a cycle -/

/-- The cycle counter of the port of channel p is one more. -/
def State.portTick (s : State) (p : Nat) : State :=
  match s.portAt p with
  | some n => s.onPort n fun q => { q with cyc := q.cyc + 1 }
  | none => s

/-- The end of a cycle of channel p: tokens, counters, holds, and the cycle counters of its port and its own. -/
def State.cycleEnd (s0 s : State) (p : Nat) : State :=
  ((((s0.refill (s0.refill s p false) p true).levels p).refreshHolds p).portTick p).onCtl p fun c => { c with cyc := c.cyc + 1 }

/-- The acknowledge of the cycle of channel p. -/
def State.cycleAck (s : State) (p : Nat) : State :=
  match s.portAt p with
  | some n => s.presentAck n
  | none => s

/-- The admissions of the cycle of channel p. -/
def State.cycleAdmit (s : State) (p : Nat) : State :=
  if s.canIssue p then
    let s := s.arbitrate p false
    let s := if (s.ctl p).ordRun.isEmpty then s.arbitrate p true else s.ordStep p
    s.combIdle p
  else s

theorem State.ctlCycle_eq (s : State) (p : Nat) :
    s.ctlCycle p = s.cycleEnd ((((((s.cycleAck p).cycleAdmit p).slots p).copyCycle p).rangeCycle p).profCycle p) p := by
  unfold State.ctlCycle
  extract_lets s0 s1 r1 r2 s2 s3 s4 s5 s6
  have h1 : s.cycleAck p = s1 := rfl
  have h2 : s1.cycleAdmit p = s2 := rfl
  have h6 : (((s2.slots p).copyCycle p).rangeCycle p).profCycle p = s6 := rfl
  rw [h1, h2, h6]
  clear h1 h2 h6
  clear_value s6
  unfold State.cycleEnd State.portTick
  rfl

theorem State.countL_cntOnly (s : State) (u : UnitId) (code : Nat) (now prev : Bool) : CntOnly s (s.countL u code now prev) := by
  unfold State.countL
  split
  · exact State.countX_cntOnly ..
  · exact .refl s

theorem State.countLC_cntOnly (s : State) (u : UnitId) (code : Nat) (now prev : BitVec 16) : CntOnly s (s.countLC u code now prev) := by
  unfold State.countLC
  split
  · exact .refl s
  · exact State.countX_cntOnly ..

/-- The levels of a cycle change no more than counters and the traces of the levels. -/
theorem State.levels_eq (s : State) (p : Nat) : ∃ f : Ctl → Ctl, (∀ c, ∃ lvl hold, f c = { c with lvl := lvl, lvlHold := hold }) ∧
    ∃ cnts free, s.levels p = { s.onCtl p f with cnts := cnts, free := free } := by
  unfold State.levels
  extract_lets c n raw stall holds s1 s2 s3 s4 dark fast s5 s6 s7
  have h : CntOnly s s7 := (State.countL_cntOnly ..).trans <| (State.countL_cntOnly ..).trans <| (State.countL_cntOnly ..).trans <|
    (State.countLC_cntOnly ..).trans <| (State.countL_cntOnly ..).trans <| (State.countL_cntOnly ..).trans (State.countL_cntOnly ..)
  obtain ⟨cnts, free, e, -⟩ := h
  clear_value s7
  subst e
  exact ⟨_, fun c => ⟨_, _, rfl⟩, cnts, free, rfl⟩

theorem State.refreshHolds_ports (s : State) (p : Nat) : s.refreshHolds p = { s with ports := (s.refreshHolds p).ports } := by
  unfold State.refreshHolds
  split <;> rfl

theorem State.refreshHolds_length (s : State) (p : Nat) : (s.refreshHolds p).ports.length = s.ports.length := by
  unfold State.refreshHolds
  split
  · rfl
  · exact upd_length ..

theorem State.refreshHolds_port (s : State) (p m : Nat) : ∃ holds, (s.refreshHolds p).port m = { s.port m with holds := holds } := by
  unfold State.refreshHolds
  split
  · exact ⟨_, rfl⟩
  · next n _ =>
    rcases upd_getD_or (fun q : Port => _) s.ports n m {} with e | e
    · exact ⟨_, e⟩
    · exact ⟨_, e⟩

theorem State.portTick_ports (s : State) (p : Nat) : s.portTick p = { s with ports := (s.portTick p).ports } := by
  unfold State.portTick
  split <;> rfl

theorem State.portTick_port (s : State) (p m : Nat) : ∃ cyc, (s.portTick p).port m = { s.port m with cyc := cyc } ∧
    (s.portAt p = some m → m < s.ports.length → cyc = (s.port m).cyc + 1) := by
  unfold State.portTick
  split
  next n hn =>
    by_cases hm : m = n ∧ m < s.ports.length
    · obtain ⟨rfl, hl⟩ := hm
      exact ⟨_, s.port_onPort m _ hl, fun _ _ => rfl⟩
    · rcases upd_getD_or (fun q : Port => { q with cyc := q.cyc + 1 }) s.ports n m {} with e | e
      · exact ⟨_, e, fun h hl => absurd ⟨(Option.some.inj (hn.symm.trans h)).symm, hl⟩ hm⟩
      · exact ⟨_, e, fun _ _ => rfl⟩
  next hn => exact ⟨_, rfl, fun h => by rw [hn] at h; cases h⟩

/-- The controller with its cycle counter one more, its tokens and the traces of its levels new. -/
def Ctl.tick (c : Ctl) (rd wr : Reg) (lvl : BitVec 6) (hold : BitVec 16) : Ctl :=
  { c with rd := rd, wr := wr, lvl := lvl, lvlHold := hold, cyc := c.cyc + 1 }

theorem State.onCtl_onCtl (f g : Ctl → Ctl) : (s.onCtl p f).onCtl p g = s.onCtl p fun c => g (f c) := by
  simp only [State.onCtl, upd_upd]

/-- The tokens of both directions change the arbiters' registers alone. -/
theorem State.refill_eq (s0 s : State) (p : Nat) : ∃ f : Ctl → Ctl, (∀ c, ∃ rd wr, f c = { c with rd := rd, wr := wr }) ∧
    s0.refill (s0.refill s p false) p true = s.onCtl p f :=
  ⟨_, fun _ => ⟨_, _, rfl⟩, State.onCtl_onCtl ..⟩

theorem State.cycleEnd_eq (s0 s : State) (p : Nat) : ∃ f : Ctl → Ctl, (∀ c, ∃ rd wr lvl hold, f c = c.tick rd wr lvl hold) ∧
    ∃ ports cnts free, s0.cycleEnd s p = { s.onCtl p f with ports := ports, cnts := cnts, free := free } ∧
      ∀ m, ∃ holds cyc, ports.getD m {} = { s.port m with holds := holds, cyc := cyc } ∧
        (s.portAt p = some m → m < s.ports.length → cyc = (s.port m).cyc + 1) := by
  obtain ⟨f1, hf1, e1⟩ := State.refill_eq s0 s p
  obtain ⟨f2, hf2, cnts, free, e2⟩ := (s.onCtl p f1).levels_eq p
  rw [State.onCtl_onCtl] at e2
  obtain ⟨u, hu⟩ : ∃ u : State, u = { s.onCtl p fun c => f2 (f1 c) with cnts := cnts, free := free } := ⟨_, rfl⟩
  have e : s0.cycleEnd s p = ((u.refreshHolds p).portTick p).onCtl p fun c => { c with cyc := c.cyc + 1 } := by
    rw [State.cycleEnd, e1, e2, hu]
  have hv := u.refreshHolds_ports p
  have e3 : (u.refreshHolds p).portTick p = { u with ports := ((u.refreshHolds p).portTick p).ports } :=
    (State.portTick_ports _ p).trans (congrArg (fun t : State => { t with ports := ((u.refreshHolds p).portTick p).ports }) hv)
  refine ⟨fun c => { f2 (f1 c) with cyc := (f2 (f1 c)).cyc + 1 }, fun c => ?_, ((u.refreshHolds p).portTick p).ports, cnts, free, ?_,
    fun m => ?_⟩
  · obtain ⟨rd, wr, h1⟩ := hf1 c
    obtain ⟨lvl, hold, h2⟩ := hf2 (f1 c)
    have h : f2 (f1 c) = { c with rd := rd, wr := wr, lvl := lvl, lvlHold := hold } := by rw [h2, h1]
    exact ⟨rd, wr, lvl, hold, congrArg (fun d : Ctl => { d with cyc := d.cyc + 1 }) h⟩
  · generalize ((u.refreshHolds p).portTick p).ports = P at e3
    rw [e, e3, hu]
    exact congrArg (fun t : State => { t with ports := P, cnts := cnts, free := free })
      (State.onCtl_onCtl (s := s) (p := p) (fun c => f2 (f1 c)) fun c => { c with cyc := c.cyc + 1 })
  · obtain ⟨holds, h1⟩ := u.refreshHolds_port p m
    obtain ⟨cyc, h2, h3⟩ := (u.refreshHolds p).portTick_port p m
    have hport : u.port m = s.port m := by
      rw [hu]
      rfl
    have hat : (u.refreshHolds p).portAt p = s.portAt p := by
      rw [hv, hu]
      rfl
    have hlen : (u.refreshHolds p).ports.length = s.ports.length := by
      rw [u.refreshHolds_length, hu]
      rfl
    rw [h1, hport] at h2 h3
    exact ⟨holds, cyc, h2, fun hm hl => h3 (hat.trans hm) (hlen ▸ hl)⟩

end Sys2Proof.Machine
end

section
/-! SUPPORT. A cycle of a channel that may not issue. -/
namespace Sys2Proof.Machine
variable {s s0 t : State} {p n : Nat}

/-! ### What the end of a cycle keeps -/

theorem State.ctl_cycleEnd (hp : p < s.ctls.length) : ∃ rd wr lvl hold, (s0.cycleEnd s p).ctl p = (s.ctl p).tick rd wr lvl hold := by
  obtain ⟨f, hf, ports, cnts, free, e, -⟩ := s0.cycleEnd_eq s p
  obtain ⟨rd, wr, lvl, hold, h⟩ := hf (s.ctl p)
  refine ⟨rd, wr, lvl, hold, ?_⟩
  rw [e]
  exact (s.ctl_onCtl p f hp).trans h

theorem State.ctl_cycleEnd_ne {q : Nat} (hq : q ≠ p) : (s0.cycleEnd s p).ctl q = s.ctl q := by
  obtain ⟨f, hf, ports, cnts, free, e, -⟩ := s0.cycleEnd_eq s p
  rw [e]
  exact s.ctl_onCtl_ne p f q hq

theorem State.cycleEnd_cells : (s0.cycleEnd s p).cells = s.cells := by
  obtain ⟨f, hf, ports, cnts, free, e, -⟩ := s0.cycleEnd_eq s p
  rw [e]
  rfl

theorem State.cycleEnd_canIssue (hp : p < s.ctls.length) : (s0.cycleEnd s p).canIssue p = s.canIssue p := by
  obtain ⟨rd, wr, lvl, hold, hc⟩ := State.ctl_cycleEnd (s0 := s0) hp
  obtain ⟨f, hf, ports, cnts, free, e, -⟩ := s0.cycleEnd_eq s p
  have hl : (s0.cycleEnd s p).link p = s.link p := by rw [e]; rfl
  have hfr : (s0.cycleEnd s p).fr = s.fr := by rw [e]; rfl
  simp only [State.canIssue, State.chFenced, State.isFenced, hl, hfr, hc, Ctl.tick]

/-- The end of a cycle changes the holds of ports, and the cycle counter of its own. -/
theorem State.port_cycleEnd (hn : s.portAt p = some n) (hl : n < s.ports.length) :
    ∃ holds, (s0.cycleEnd s p).port n = { s.port n with holds := holds, cyc := (s.port n).cyc + 1 } := by
  obtain ⟨f, hf, ports, cnts, free, e, hports⟩ := s0.cycleEnd_eq s p
  obtain ⟨holds, cyc, hq, hc⟩ := hports n
  refine ⟨holds, ?_⟩
  rw [e, ← hc hn hl]
  exact hq

/-! ### Nothing issues (R146, R154) -/

section
variable (h : s.canIssue p = false)
include h

theorem State.cycleAdmit_idle : s.cycleAdmit p = s := by simp only [State.cycleAdmit, h, Bool.false_eq_true, if_false]

theorem State.slots_idle : ∃ i j, s.slots p = ((s.onCtl p fun c => { c with rowUsed := true }).slotCount p false i).slotCount p true j := by
  simp only [State.slots, h, Bool.not_false, Bool.true_or, if_true]
  exact ⟨_, _, rfl⟩

theorem State.copyCycle_idle : s.copyCycle p = s := by
  simp only [State.copyCycle, h, Bool.not_false, Bool.or_true, Bool.true_or, if_true]

theorem State.rangeCycle_idle : s.rangeCycle p = s := by
  simp only [State.rangeCycle, h, Bool.not_false, Bool.or_true, if_true]

theorem State.profCycle_idle : s.profCycle p = s := by
  simp only [State.profCycle, h, Bool.not_false, Bool.or_true, Bool.true_or, if_true]

theorem State.stopCycle_idle : s.stopCycle p = s := by
  simp only [State.stopCycle, State.rowFree, h, Bool.false_and, Bool.and_false, Bool.false_eq_true, if_false]

end

theorem State.slotCount_ports (write : Bool) (k : Nat) : (s.slotCount p write k).ports = s.ports := by
  unfold State.slotCount
  extract_lets x
  split <;> rfl

/-- The acknowledge of a cycle leaves all but what a cycle changes beside its work. -/
theorem State.cycleAck_aside (s : State) (p : Nat) : Aside p s (s.cycleAck p) := by
  unfold State.cycleAck
  split
  · exact (Aside.refl p s).presentAck
  · exact .refl p s

/-- A cycle in which nothing may issue: the acknowledge, the accounting of its slots, and its end. -/
theorem State.ctlCycle_idle (h : s.canIssue p = false) : ∃ t, s.ctlCycle p = s.cycleEnd t p ∧ Aside p s t ∧ t.ports = (s.cycleAck p).ports := by
  have h1 := s.cycleAck_aside p
  have hc1 : (s.cycleAck p).canIssue p = false := h1.canIssue.trans h
  obtain ⟨i, j, e⟩ := State.slots_idle hc1
  have h2 : Aside p s ((s.cycleAck p).slots p) := by
    rw [e]
    exact ((h1.setCtl fun c => ⟨_, _, _, _, rfl⟩).slotCount).slotCount
  have hc2 := h2.canIssue.trans h
  refine ⟨(s.cycleAck p).slots p, ?_, h2, ?_⟩
  · rw [State.ctlCycle_eq, State.cycleAdmit_idle hc1, State.copyCycle_idle hc2, State.rangeCycle_idle hc2, State.profCycle_idle hc2]
  · rw [e, State.slotCount_ports, State.slotCount_ports]
    rfl

/-- A cycle runs as it is where no source of the controller strikes. -/
theorem exec_cycle (hp : p < 136) (h : s.canIssue p = false ∨ s.unarmed (.ctl p)) :
    exec (.schedulerCycle p) s = .next ((s.ctlCycle p).stopCycle p) := by
  have hcheck : (if s.canIssue p then [2, 5, 6].foldl (fun s b => s.check (.ctl p) b false) s else s) = s := by
    rcases h with h | h
    · rw [h]
      rfl
    · have hb : ∀ b, s.check (.ctl p) b false = s := fun b => by
        simp only [State.check, State.fire_none _ _ _ _ h, Bool.or_self, Bool.false_eq_true, if_false]
      simp only [List.foldl_cons, List.foldl_nil, hb, ite_self]
  exact (if_pos hp).trans (congrArg (fun t : State => Host.Outcome.next ((t.ctlCycle p).stopCycle p)) hcheck)

theorem exec_schedulerCycle_idle (hw : s.Wf) (hp : p < 136) (h : s.canIssue p = false) : Answers (.schedulerCycle p) s fun t =>
    (t.ctl p).cyc = (s.ctl p).cyc + 1 ∧ (t.ctl p).rdQ = (s.ctl p).rdQ ∧ (t.ctl p).wrQ = (s.ctl p).wrQ ∧ (t.ctl p).inRd = (s.ctl p).inRd ∧
    (t.ctl p).inWr = (s.ctl p).inWr ∧ (t.ctl p).flight = (s.ctl p).flight ∧ (t.ctl p).banks = (s.ctl p).banks ∧ t.cells = s.cells ∧
    (∀ q, q ≠ p → t.ctl q = s.ctl q) ∧
    (∀ n, s.portAt p = some n → n < 128 → (t.port n).cyc = (s.port n).cyc + 1 ∧
      ∀ a l, s.portReset n = false → (s.port n).ackQ = a :: l → (t.port n).ackPin = some a ∧ (t.port n).ackQ = l) := by
  obtain ⟨u, e, hu, hports⟩ := State.ctlCycle_idle h
  have hl : p < u.ctls.length := hu.ctls.symm ▸ hw.ctls.symm ▸ hp
  have hidle : (s.cycleEnd u p).canIssue p = false := (State.cycleEnd_canIssue hl).trans (hu.canIssue.trans h)
  obtain ⟨rd, wr, lvl, hold, hc⟩ := State.ctl_cycleEnd (s0 := s) hl
  obtain ⟨rd', wr', lc, ru, hc'⟩ := hu.own
  have he : exec (.schedulerCycle p) s = .next (s.cycleEnd u p) := by
    rw [exec_cycle hp (.inl h), e, State.stopCycle_idle hidle]
  refine ⟨_, he, ?_⟩
  beta_reduce
  rw [hc, hc']
  refine ⟨rfl, rfl, rfl, rfl, rfl, rfl, rfl, ?_, fun q hq => (State.ctl_cycleEnd_ne hq).trans (hu.others q hq), fun n hn hlt => ?_⟩
  · rw [State.cycleEnd_cells, hu.rest]
  · have hport : u.port n = (s.presentAck n).port n := by
      rw [State.port, hports, State.cycleAck, hn]
      rfl
    obtain ⟨holds, ht⟩ := State.port_cycleEnd (s0 := s) (hu.portAt.trans hn) (hu.ports.symm ▸ hw.ports.symm ▸ hlt)
    rw [ht, hport]
    exact ⟨congrArg (· + 1) State.presentAck_cyc, fun a l hr hq => State.presentAck_front (hw.ports.symm ▸ hlt) hr hq⟩

end Sys2Proof.Machine
end

section
/-! SUPPORT. The admissions of a channel whose inputs are empty. -/
namespace Sys2Proof.Machine
variable {s₀ s : State} {p : Nat} {write : Bool}

theorem leastBy_nil {α : Type} (f : α → Nat) : leastBy f [] = none := rfl
theorem leastBy_one {α : Type} (f : α → Nat) (a : α) : leastBy f [a] = some a := rfl

/-- With nothing waiting at the inputs of a direction only the port's announcement asks for the grant (R92, R136). -/
theorem State.cands_ask (h : (s.ctl p).inputs write = []) : s.cands p write = (s.askCand p write).toList := by
  rw [Ctl.inputs] at h
  simp only [State.cands, State.heads, h, List.foldl_nil, List.filter_nil, List.filterMap_nil, List.nil_append]

theorem State.askCand_work {c : Cand} (h : s.askCand p write = some c) : c.work = none := by
  unfold State.askCand at h
  split at h
  · cases h
  · obtain ⟨t, -, rfl⟩ := Option.map_eq_some_iff.1 h
    rfl

/-- So what is granted is no work. -/
theorem State.grant_ask (h : (s.ctl p).inputs write = []) {c : Cand} (hg : s.grant p write = some c) : c.work = none := by
  simp only [State.grant, State.cands_ask h] at hg
  cases ha : s.askCand p write with
  | none => simp [ha, leastBy_nil] at hg
  | some a =>
    have hw := State.askCand_work ha
    simp [ha, leastBy_one, hw] at hg
    rw [← hg, hw]

/-- The grant that passes to an announcement changes the arbiter's registers and the port. -/
theorem Aside.arbitrate (h : Aside p s₀ s) (hin : (s.ctl p).inputs write = []) : Aside p s₀ (s.arbitrate p write) := by
  have hreg : ∀ (f : Reg → Reg) (c : Ctl), ∃ rd wr lastCol rowUsed,
      c.onDir write f = { c with rd := rd, wr := wr, lastCol := lastCol, rowUsed := rowUsed } := fun f c => by
    cases write <;> exact ⟨_, _, _, _, rfl⟩
  unfold State.arbitrate
  cases hg : s.grant p write with
  | none =>
    extract_lets vain s1
    exact .ite (h.setCtl (hreg _)) h
  | some c =>
    have hw := State.grant_ask hin hg
    extract_lets g vain s1
    have h1 : Aside p s₀ s1 := .ite (h.setCtl (hreg _)) h
    clear_value s1
    simp only [g, hw]
    have h2 := (h1.setCtl (hreg fun r => { r with owner := some c.inp })).setCtl
      (hreg fun r => { r with lru := (c.cls, 0) :: (r.lru.filter (· != (c.cls, 0))) })
    split
    · exact h2.setPort
    · exact h2

/-- The admissions of a channel with nothing waiting and nothing combined. -/
theorem Aside.cycleAdmit (h : Aside p s₀ s) (hrd : (s₀.ctl p).inRd = []) (hwr : (s₀.ctl p).inWr = []) (hord : (s₀.ctl p).ordRun = [])
    (hcomb : (s₀.ctl p).comb = []) : Aside p s₀ (s.cycleAdmit p) := by
  have hkeep : ∀ {t : State}, Aside p s₀ t → (t.ctl p).inputs false = [] ∧ (t.ctl p).inputs true = [] ∧ (t.ctl p).ordRun = [] ∧
      (t.ctl p).comb = [] := fun ht => by
    obtain ⟨rd, wr, lc, ru, hc⟩ := ht.own
    rw [hc]
    exact ⟨hrd, hwr, hord, hcomb⟩
  have h1 := h.arbitrate (write := false) (hkeep h).1
  have h2 := h1.arbitrate (write := true) (hkeep h1).2.1
  have hidle : (s.arbitrate p false |>.arbitrate p true).combIdle p = (s.arbitrate p false).arbitrate p true := by
    simp only [State.combIdle, (hkeep h2).2.2.2, List.filter_nil, List.map_nil, List.foldl_nil]
  unfold State.cycleAdmit
  refine .ite ?_ h
  simp only [(hkeep h1).2.2.1, List.isEmpty_nil, if_true, hidle]
  exact h2

end Sys2Proof.Machine
end

section
/-! SUPPORT. What row commands and the Currier's asking leave of a channel: the reads that wait and those in flight. -/
namespace Sys2Proof.Machine
variable {s₀ s : State} {p : Nat}

/-- t has the memory, the sectors and the sequencers of s, and channel p's read queue, flight and cycle counter. -/
structure Sent (p : Nat) (s t : State) : Prop where
  cells : t.cells = s.cells
  seq : t.seq = s.seq
  sectors : t.sectors = s.sectors
  ctls : t.ctls.length = s.ctls.length
  rdQ : (t.ctl p).rdQ = (s.ctl p).rdQ
  flight : (t.ctl p).flight = (s.ctl p).flight
  cyc : (t.ctl p).cyc = (s.ctl p).cyc

namespace Sent

theorem refl (p : Nat) (s : State) : Sent p s s := ⟨rfl, rfl, rfl, rfl, rfl, rfl, rfl⟩

theorem ite {a b : State} {c : Prop} [Decidable c] (h : Sent p s₀ a) (k : Sent p s₀ b) : Sent p s₀ (if c then a else b) := by
  split <;> assumption

/-- The ports, links, Curriers, counters and the requesters held may change. -/
theorem rest (h : Sent p s₀ s) {ports : List Port} {links : List Link} {curs : List Cur} {cnts : List Cnt} {free : Nat} {rhHeld : List Nat} :
    Sent p s₀ { s with ports := ports, links := links, curs := curs, cnts := cnts, free := free, rhHeld := rhHeld } :=
  ⟨h.cells, h.seq, h.sectors, h.ctls, h.rdQ, h.flight, h.cyc⟩

theorem setCtl (h : Sent p s₀ s) {q : Nat} {f : Ctl → Ctl} (hr : ∀ c, (f c).rdQ = c.rdQ := by exact fun _ => rfl)
    (hf : ∀ c, (f c).flight = c.flight := by exact fun _ => rfl) (hc : ∀ c, (f c).cyc = c.cyc := by exact fun _ => rfl) :
    Sent p s₀ (s.onCtl q f) :=
  ⟨h.cells, h.seq, h.sectors, (upd_length ..).trans h.ctls, (upd_getD_proj Ctl.rdQ hr).trans h.rdQ,
    (upd_getD_proj Ctl.flight hf).trans h.flight, (upd_getD_proj Ctl.cyc hc).trans h.cyc⟩

theorem count (h : Sent p s₀ s) {u : UnitId} {code : Nat} {cl : Option Nat} {m : Nat} {x0 x1 : Option Word} :
    Sent p s₀ (s.count u code cl m x0 x1) := by
  rw [State.count_eq]
  exact h.rest

/-! ### The row commands (R149, R166-R168) -/

theorem rhThrottle (h : Sent p s₀ s) {q hide bank row data req : Nat} : Sent p s₀ (s.rhThrottle q hide bank row data req) := by
  unfold State.rhThrottle
  extract_lets s1 s2 s3
  have h1 : Sent p s₀ s1 := h.rest
  have h2 : Sent p s₀ s2 := h1.setCtl
  have h3 : Sent p s₀ s3 := .ite h2.rest (.ite h2 h2.rest)
  exact .ite h1 h3.count

theorem doAct (h : Sent p s₀ s) {q key row : Nat} {e : Entry} : Sent p s₀ (s.doAct q key row e) := by
  unfold State.doAct
  extract_lets i b t th hot now s1 s2 s3
  have h1 : Sent p s₀ s1 := h.setCtl
  have h2 : Sent p s₀ s2 := h1.rest
  have h3 : Sent p s₀ s3 := h2.count
  exact .ite h3.rhThrottle h3

theorem doPre (h : Sent p s₀ s) {q key : Nat} {conflict : Bool} : Sent p s₀ (s.doPre q key conflict) := by
  unfold State.doPre
  extract_lets now s1 s2
  have h2 : Sent p s₀ s2 := h.setCtl.count
  exact .ite h2.count h2

theorem roundEnd (h : Sent p s₀ s) {q key : Nat} : Sent p s₀ (s.roundEnd q key) := by
  unfold State.roundEnd
  extract_lets s1 hide fell s2
  have h1 : Sent p s₀ s1 := h.rest
  have h2 : Sent p s₀ s2 := by
    dsimp only [s2]
    split
    · exact h1
    · exact .ite h1.rest h1.rest
  exact h2.setCtl

theorem doRef (h : Sent p s₀ s) {q key : Nat} {limit : Bool} : Sent p s₀ (s.doRef q key limit) := by
  unfold State.doRef
  extract_lets now s1 s2 s3 s4
  have h1 : Sent p s₀ s1 := .ite h.roundEnd h
  have h4 : Sent p s₀ s4 := .count (.rest h1.setCtl)
  exact .ite h4.count h4

theorem doTrr (h : Sent p s₀ s) {q i : Nat} : Sent p s₀ (s.doTrr q i) := by
  unfold State.doTrr
  split
  · exact h
  · extract_lets key now s1 s2
    exact .count (.rest h.setCtl)

theorem issueRow (h : Sent p s₀ s) {q : Nat} (r : RowCmd) : Sent p s₀ (s.issueRow q r) := by
  cases r with
  | act key row e => exact h.doAct
  | pre key conflict => exact h.doPre
  | ref key limit => exact h.doRef
  | trr i => exact h.doTrr
  | pdx hide => exact h.setCtl
  | sens hide => exact setCtl (.rest h.rest)
  | rot set grp pos => exact .rest (setCtl h.rest)

/-! ### The Currier's reads (R213) -/

theorem currierRead (h : Sent p s₀ s) {q port off : Nat} : Sent p s₀ (s.currierRead q port off) := by
  unfold State.currierRead
  extract_lets s1
  have h1 : Sent p s₀ s1 := h.setCtl
  exact .ite h1 h1.count

theorem profCycle (h : Sent p s₀ s) {q : Nat} : Sent p s₀ (s.profCycle q) := by
  unfold State.profCycle
  extract_lets c
  refine .ite h ?_
  split
  · exact h.rest
  · exact currierRead h.rest

end Sent

end Sys2Proof.Machine
end

section
/-! SUPPORT. A cycle in which a lone ready read is sent. -/
namespace Sys2Proof.Machine
variable {s s0 : State} {p : Nat} {e : Entry}

/-! ### What is chosen (R148) -/

theorem pickEntry_one (c : Ctl) (e : Entry) : pickEntry c [e] = some e := by
  cases h1 : c.aged e <;> cases h2 : (e.cls == 15 && decide (e.inp < 4)) <;> simp [pickEntry, h1, h2]

theorem pickEntry_nil (c : Ctl) : pickEntry c [] = none := rfl

theorem State.chooseRead_one (hq : (s.ctl p).rdQ = [e]) (hr : s.rdReady p e = true) : s.chooseRead p = some e := by
  rw [State.chooseRead, hq, List.filter_cons_of_pos hr, List.filter_nil, pickEntry_one]

theorem State.chooseWrite_none (hq : (s.ctl p).wrQ = []) (rd : Option Entry) : s.chooseWrite p rd = none := by
  rw [State.chooseWrite, hq, List.filter_nil, pickEntry_nil]

theorem State.chooseFill_none (hf : (s.ctl p).fills = []) (rd : Option Entry) : s.chooseFill p rd = none := by
  simp only [State.chooseFill, Ctl.running, hf, List.take_nil, List.filter_nil, leastBy_nil]

/-! ### The read's column command (R146, R154) -/

/-- The read queue without the entry. -/
def State.unqueue (s : State) (p : Nat) (e : Entry) : State := s.onCtl p fun c => { c with rdQ := c.rdQ.filter (· != e) }

theorem State.stored_unqueue (off : Nat) : (s.unqueue p e).stored p off = s.stored p off := by
  have hl : ((s.unqueue p e).ctl p).lent = (s.ctl p).lent := upd_getD_proj Ctl.lent
  have hr : ∀ q, ((s.unqueue p e).ctl q).remaps = (s.ctl q).remaps := fun q => upd_getD_proj Ctl.remaps
  simp only [State.stored, State.cellAt, rowOn, hl, hr]
  rfl

/-- A column command's book-keeping leaves queues and flight. -/
theorem Sent.colMark {t : State} (h : Sent p s t) {write : Bool} : Sent p s (t.colMark p e write) := by
  unfold State.colMark
  refine .ite h (.setCtl h ?_ ?_ ?_) <;> exact fun c => by split <;> rfl

/-- The read's block in flight with the stored data. -/
def State.inFlight (s : State) (p : Nat) (e : Entry) : Entry := { e with data := s.stored p e.off, ue := s.isBad p e.off }

theorem State.fresh_unqueue (off : Nat) : (s.unqueue p e).fresh p off = s.fresh p off :=
  congrArg (fun m => smGet 0 m (off / 16384)) (upd_getD_proj Ctl.fresh)

theorem CntOnly.fresh {t : State} (h : CntOnly s t) (off : Nat) : t.fresh p off = s.fresh p off := by
  obtain ⟨cnts, free, rfl, -⟩ := h
  rfl

theorem CntOnly.stored {t : State} (h : CntOnly s t) (off : Nat) : t.stored p off = s.stored p off := by
  obtain ⟨cnts, free, rfl, -⟩ := h
  rfl

theorem CntOnly.isBad {t : State} (h : CntOnly s t) (off : Nat) : t.isBad p off = s.isBad p off := by
  obtain ⟨cnts, free, rfl, -⟩ := h
  rfl

theorem CntOnly.sent {t : State} (h : CntOnly s t) : Sent p s t := by
  obtain ⟨cnts, free, rfl, -⟩ := h
  exact (Sent.refl p s).rest

theorem State.isBad_colMark (write : Bool) (off : Nat) : (s.colMark p e write).isBad p off = s.isBad p off := by
  unfold State.colMark
  split <;> rfl

/-- A read of a written granule leaves its queue, its command is noted, and its block is in flight. -/
theorem State.issueRead_eq (hf : s.fresh p e.off = 1) : ∃ v, Sent p (s.unqueue p e) v ∧
    Sent p (v.onCtl p fun c => { c with flight := c.flight ++ [s.inFlight p e] }) (s.issueRead p e) := by
  unfold State.issueRead
  extract_lets old u s2 s3 d v s5
  have hu : u = s.unqueue p e := rfl
  have h2 : CntOnly u s2 := by
    dsimp only [s2]
    split
    · exact State.count_cntOnly ..
    · exact .refl u
  have hfresh : s2.fresh p e.off = 1 := (h2.fresh e.off).trans ((State.fresh_unqueue e.off).trans hf)
  have hd : d = s.stored p e.off := (h2.stored e.off).trans (State.stored_unqueue e.off)
  have hbad : v.isBad p e.off = s.isBad p e.off := (State.isBad_colMark false e.off).trans (h2.isBad e.off)
  refine ⟨v, h2.sent.colMark, ?_⟩
  have h5 : s5 = v.onCtl p fun c => { c with flight := c.flight ++ [s.inFlight p e] } := by
    dsimp only [s5]
    rw [hd, hbad]
    rfl
  rw [← h5, hfresh, if_neg (by decide), if_neg (by decide)]
  exact (Sent.refl p s5).count

/-- Between s and t channel p has sent its lone read e: the queue is empty, and the block in flight with the data stored in s. -/
structure ReadSent (p : Nat) (e : Entry) (s t : State) : Prop where
  cells : t.cells = s.cells
  seq : t.seq = s.seq
  sp : ∀ x, (t.sec x).sp = (s.sec x).sp
  ctls : t.ctls.length = s.ctls.length
  rdQ : (t.ctl p).rdQ = []
  flight : (t.ctl p).flight = (s.ctl p).flight ++ [s.inFlight p e]
  cyc : (t.ctl p).cyc = (s.ctl p).cyc

theorem ReadSent.then_sent {t u : State} (h : ReadSent p e s t) (k : Sent p t u) : ReadSent p e s u :=
  ⟨k.cells.trans h.cells, k.seq.trans h.seq, fun x => (congrArg Sector.sp (by rw [State.sec, k.sectors, State.sec])).trans (h.sp x),
    k.ctls.trans h.ctls, k.rdQ.trans h.rdQ, k.flight.trans h.flight, k.cyc.trans h.cyc⟩

theorem Aside.inFlight {t : State} (h : Aside p s t) : t.inFlight p e = s.inFlight p e := by
  rw [State.inFlight, h.stored, h.isBad, State.inFlight]

theorem Aside.then_readSent {t u : State} (h : Aside p s t) (k : ReadSent p e t u) : ReadSent p e s u := by
  obtain ⟨rd, wr, lc, ru, hc⟩ := h.own
  refine ⟨k.cells.trans (by rw [h.rest]), k.seq.trans (by rw [h.rest]), fun x => ?_, k.ctls.trans h.ctls, k.rdQ, ?_, ?_⟩
  · obtain ⟨bins, sat, slots, hs⟩ := h.sec x
    rw [k.sp, hs]
  · rw [k.flight, h.inFlight, hc]
  · rw [k.cyc, hc]

theorem State.issueRead_sent (hp : p < s.ctls.length) (hq : (s.ctl p).rdQ = [e]) (hf : s.fresh p e.off = 1) :
    ReadSent p e s (s.issueRead p e) := by
  obtain ⟨v, hv, ht⟩ := State.issueRead_eq hf
  have hlv : p < v.ctls.length := by
    rw [hv.ctls, State.unqueue, State.onCtl, upd_length]
    exact hp
  have hun : (s.unqueue p e).ctl p = { s.ctl p with rdQ := [] } := by
    rw [State.unqueue, s.ctl_onCtl p _ hp, hq]
    simp
  have hc : (v.onCtl p fun c => { c with flight := c.flight ++ [s.inFlight p e] }).ctl p =
      { v.ctl p with flight := (v.ctl p).flight ++ [s.inFlight p e] } := v.ctl_onCtl p _ hlv
  suffices h : ReadSent p e s (v.onCtl p fun c => { c with flight := c.flight ++ [s.inFlight p e] }) from h.then_sent ht
  refine ⟨hv.cells, hv.seq, fun x => ?_, ?_, ?_, ?_, ?_⟩
  · exact congrArg (fun l : List Sector => (l.getD x {}).sp) hv.sectors
  · rw [State.onCtl, upd_length, hv.ctls, State.unqueue, State.onCtl, upd_length]
  · rw [hc]
    exact hv.rdQ.trans (by rw [hun])
  · rw [hc]
    exact congrArg (· ++ [s.inFlight p e]) (hv.flight.trans (by rw [hun]))
  · rw [hc]
    exact hv.cyc.trans (by rw [hun])

/-- The row slot of a cycle: the row command that comes first, or none (R148, R149). -/
def State.rowSlot (s : State) (p : Nat) : State :=
  let row := s.chooseRow p
  let s := s.onCtl p fun c => { c with rowUsed := row.isSome }
  match row with
  | some r => s.issueRow p r
  | none => s

theorem Sent.rowSlot {t : State} (h : Sent p s t) : Sent p s (t.rowSlot p) := by
  unfold State.rowSlot
  cases t.chooseRow p with
  | none => exact h.setCtl
  | some r => exact h.setCtl.issueRow r

/-- In a cycle with one read ready and nothing else queued the column slot is the read's; the row slot may carry any command. -/
theorem State.slots_read (hcan : s.canIssue p = true) (hdark : s.blackout p 2 = false) (hq : (s.ctl p).rdQ = [e]) (hw : (s.ctl p).wrQ = [])
    (hf : (s.ctl p).fills = []) (hr : s.rdReady p e = true) : ∃ i j w, s.slots p =
      ((((s.slotCount p false i).slotCount p true j).onCtl p fun c => { c with lastCol := w }).issueRead p e).rowSlot p := by
  unfold State.slots
  simp only [hcan, hdark, State.chooseRead_one hq hr, State.chooseWrite_none hw, State.chooseFill_none hf, Bool.not_true, Bool.or_self,
    Bool.false_eq_true, if_false, Option.isNone_none, Option.isSome_none, Option.isSome_some, Bool.true_or, Bool.or_false, Bool.and_false,
    if_true]
  exact ⟨_, _, _, rfl⟩

/-- What stands before a cycle that sends the lone read e of channel p. -/
structure State.LoneRead (s : State) (p : Nat) (e : Entry) : Prop where
  wf : s.Wf
  isChan : p < 136
  issues : s.canIssue p = true
  sp : (s.sec (secOf p)).sp ≠ .copy
  range : s.seq.range.busy = false
  rdQ : (s.ctl p).rdQ = [e]
  wrQ : (s.ctl p).wrQ = []
  comb : (s.ctl p).comb = []
  fills : (s.ctl p).fills = []
  inRd : (s.ctl p).inRd = []
  inWr : (s.ctl p).inWr = []
  ordRun : (s.ctl p).ordRun = []
  ready : s.rdReady p e = true
  light : s.blackout p 2 = false
  written : s.fresh p e.off = 1

/-- The slots of the cycle send it. -/
theorem State.LoneRead.slots (h : s.LoneRead p e) : ReadSent p e s (((s.cycleAck p).cycleAdmit p).slots p) := by
  have h1 := (s.cycleAck_aside p).cycleAdmit h.inRd h.inWr h.ordRun h.comb
  obtain ⟨u, hu⟩ : ∃ u, u = (s.cycleAck p).cycleAdmit p := ⟨_, rfl⟩
  rw [← hu] at h1 ⊢
  obtain ⟨rd, wr, lc, ru, hc⟩ := h1.own
  obtain ⟨i, j, w, hslots⟩ := State.slots_read (h1.canIssue.trans h.issues) ((h1.blackout 2).trans h.light) (by rw [hc]; exact h.rdQ)
    (by rw [hc]; exact h.wrQ) (by rw [hc]; exact h.fills) (h1.rdReady.trans h.ready)
  have hv : Aside p s (((u.slotCount p false i).slotCount p true j).onCtl p fun c => { c with lastCol := w }) :=
    h1.slotCount.slotCount.setCtl fun c => ⟨_, _, _, _, rfl⟩
  obtain ⟨rd', wr', lc', ru', hc'⟩ := hv.own
  rw [hslots]
  refine (hv.then_readSent (State.issueRead_sent (hv.ctls ▸ h.wf.ctls ▸ h.isChan) (by rw [hc']; exact h.rdQ) ?_)).then_sent (Sent.refl p _).rowSlot
  rw [State.fresh, hc']
  exact h.written

/-- The rest of the cycle leaves that, and advances the cycle counter. -/
theorem State.LoneRead.ctlCycle (h : s.LoneRead p e) : ∃ t, ReadSent p e s t ∧ s.ctlCycle p = s.cycleEnd t p := by
  have h1 := h.slots
  obtain ⟨y, hy⟩ : ∃ y, y = ((s.cycleAck p).cycleAdmit p).slots p := ⟨_, rfl⟩
  rw [← hy] at h1
  have hsp : ((y.sec (secOf p)).sp != .copy) = true := by
    rw [h1.sp]
    exact bne_iff_ne.2 h.sp
  have hcopy : y.copyCycle p = y := by simp only [State.copyCycle, hsp, Bool.true_or, if_true]
  have hrange : y.rangeCycle p = y := by simp only [State.rangeCycle, h1.seq, h.range, Bool.not_false, Bool.true_or, if_true]
  exact ⟨y.profCycle p, h1.then_sent (Sent.refl p y).profCycle, by rw [State.ctlCycle_eq, ← hy, hcopy, hrange]⟩

/-- A channel with a block in flight has not run dry. -/
theorem State.stopCycle_flight (h : (s.ctl p).flight ≠ []) : s.stopCycle p = s := by
  have hf : (s.ctl p).flight.isEmpty = false := by simpa using h
  have hd : s.chanDry p = false := by simp only [State.chanDry, hf, Bool.and_false, Bool.false_and]
  simp only [State.stopCycle, hd, Bool.and_false, Bool.false_and, Bool.false_eq_true, if_false]

/-- The cycle, as the obligation has it. -/
theorem exec_schedulerCycle_read (h : s.LoneRead p e) (hu : s.unarmed (.ctl p)) : Answers (.schedulerCycle p) s fun t =>
    (t.ctl p).cyc = (s.ctl p).cyc + 1 ∧ (t.ctl p).rdQ = [] ∧
    (t.ctl p).flight = (s.ctl p).flight ++ [{ e with data := s.stored p e.off, ue := s.isBad p e.off }] ∧ t.cells = s.cells := by
  obtain ⟨t, ht, e'⟩ := h.ctlCycle
  obtain ⟨rd, wr, lvl, hold, hc⟩ := State.ctl_cycleEnd (s0 := s) (s := t) (p := p) (ht.ctls ▸ h.wf.ctls ▸ h.isChan)
  have hflight : ((s.cycleEnd t p).ctl p).flight = (s.ctl p).flight ++ [s.inFlight p e] := by
    rw [hc]
    exact ht.flight
  have he : exec (.schedulerCycle p) s = .next (s.cycleEnd t p) := by
    rw [exec_cycle h.isChan (.inr hu), e', State.stopCycle_flight (by rw [hflight]; simp)]
  refine ⟨_, he, ?_, ?_, hflight, State.cycleEnd_cells.trans ht.cells⟩
  · rw [hc]
    exact congrArg (· + 1) ht.cyc
  · rw [hc]
    exact ht.rdQ

/-! ### The obligation -/

/-- Settles O21: a channel that may not issue, and one with a lone ready read. -/
theorem schedulerCycle : Obligations.SchedulerCycle :=
  ⟨fun _ _ hw hp h => exec_schedulerCycle_idle hw hp h,
    fun _ _ _ hw hp hcan hu hsp hrange hq hwr hcomb hfills hrd hin hord hr hdark hfr =>
      exec_schedulerCycle_read ⟨hw, hp, hcan, hsp, hrange, hq, hwr, hcomb, hfills, hrd, hin, hord, hr, hdark, hfr⟩ hu⟩

end Sys2Proof.Machine
end

section
/-! SUPPORT. MIGRATION_START and MIGRATION_CANCEL. -/
namespace Sys2Proof.Machine
variable {s : State} {x k : Nat} {v : Word}

/-! ### The sector's registers (R110, R118) -/

/-- What a write to SPARE_CTRL that is taken leaves in the register. -/
def Sector.tookCtrl (v : Word) (e : Sector) : Sector := { e with ctrlPos := BitVec.ofNat 4 (fld v 0 4), irqEn := bitN v.toNat 6 }

/-- COPY of position k begins. -/
def Sector.copying (k : Nat) (e : Sector) : Sector :=
  { e with sp := .copy, pos := BitVec.ofNat 4 k, copyAt := 0, copySub := 0, copyGot := 0, copyT := 0 }

/-- A start at position k ends at once. -/
def Sector.startBad (k : Nat) (e : Sector) : Sector := { e with pos := BitVec.ofNat 4 k, code := cBAD, done := true }

/-- COPY ends without a flip. -/
def Sector.copyAborted (e : Sector) : Sector := { e with sp := .standby, code := cABORTED, done := true, copySub := 0, copyGot := 0 }

theorem State.onSec_onSec (f g : Sector → Sector) : (s.onSec x f).onSec x g = s.onSec x fun e => g (f e) :=
  congrArg (fun l => { s with sectors := l }) (upd_upd f g s.sectors x)

/-! The register written is no part of the sparing state. -/

theorem State.sp_tookCtrl : ((s.onSec x (Sector.tookCtrl v)).sec x).sp = (s.sec x).sp := upd_getD_proj Sector.sp
theorem State.pos_tookCtrl : ((s.onSec x (Sector.tookCtrl v)).sec x).pos = (s.sec x).pos := upd_getD_proj Sector.pos
theorem State.fenced_tookCtrl : ((s.onSec x (Sector.tookCtrl v)).sec x).fenced = (s.sec x).fenced := upd_getD_proj Sector.fenced
theorem State.hole_tookCtrl : ((s.onSec x (Sector.tookCtrl v)).sec x).hole = (s.sec x).hole := upd_getD_proj Sector.hole

/-! ### The start and the end of a copy (R110, R112) -/

/-- A position in service at a sector in STANDBY that lends nothing: besides the sector and the spare only the Tack Table's pending
change can differ. -/
theorem State.startCopy_begins (hsp : (s.sec x).sp = .standby) (hf : (s.sec x).fenced.getLsbD k = false)
    (hh : (s.sec x).hole.getLsbD k = false) (hb : s.borrower x = none) :
    ∃ tack, s.startCopy x k = { (s.wipeSpare x).onSec x (Sector.copying k) with tack := tack } := by
  have hr : s.recallFor x (17 * x + k) = s := by rw [State.recallFor, hb]
  simp only [State.startCopy, hsp, hf, hh, hr, Bool.or_self, Bool.false_eq_true, if_false]
  unfold State.commit
  dsimp only
  split
  · exact ⟨s.tack, rfl⟩
  · exact ⟨_, rfl⟩

theorem State.startCopy_bad (hsp : (s.sec x).sp = .standby)
    (h : (s.sec x).fenced.getLsbD k = true ∨ (s.sec x).hole.getLsbD k = true) : s.startCopy x k = s.onSec x (Sector.startBad k) := by
  have hbad : ((s.sec x).fenced.getLsbD k || (s.sec x).hole.getLsbD k) = true := Bool.or_eq_true_iff.2 h
  simp only [State.startCopy, hsp, hbad, if_true]
  rfl

/-- Where no write waits for the copy none is released. -/
theorem State.unheld_of_none {p : Nat} (h : ∀ e ∈ (s.ctl p).wrQ, e.held = false) : s.unheld p = s := by
  have hnone : (s.ctl p).wrQ.filter (·.held) = [] := List.filter_eq_nil_iff.2 fun e he => by simp [h e he]
  rw [State.unheld, hnone, List.foldl_nil]

/-- Wiping the spare's fresh map leaves every write queue. -/
theorem State.wipeSpare_wrQ (p : Nat) : ((s.wipeSpare x).ctl p).wrQ = (s.ctl p).wrQ := upd_getD_proj Ctl.wrQ

theorem State.cancelCopy_ends (hsp : (s.sec x).sp = .copy)
    (hw : ∀ e ∈ (s.ctl (17 * x + (s.sec x).pos.toNat)).wrQ, e.held = false) :
    s.cancelCopy x = (s.wipeSpare x).onSec x Sector.copyAborted := by
  have hq : ∀ e ∈ (((s.wipeSpare x).onSec x Sector.copyAborted).ctl (17 * x + (s.sec x).pos.toNat)).wrQ, e.held = false := by
    rw [State.ctl_onSec, State.wipeSpare_wrQ]
    exact hw
  calc s.cancelCopy x = ((s.wipeSpare x).onSec x Sector.copyAborted).unheld (17 * x + (s.sec x).pos.toNat) := by
        rw [State.cancelCopy, hsp]
        rfl
    _ = _ := State.unheld_of_none hq

/-! ### A write to SPARE_CTRL (R118) -/

theorem State.wSpareCtrl_rejected (h : (bitN v.toNat 4 && bitN v.toNat 5) = true ∨ (bitN v.toNat 4 || bitN v.toNat 5) = true ∧ keyed v = false ∨
    bitN v.toNat 4 = true ∧ ((s.sec x).sp = .copy ∨ (s.sec x).sp = .flip)) : s.wSpareCtrl x v = s.reject (.sector x) := by
  unfold State.wSpareCtrl
  dsimp only
  rcases h with hboth | ⟨hop, hkey⟩ | ⟨hstart, hsp⟩
  · rw [hboth, Bool.or_true, if_pos rfl]
  · rw [hop, hkey]
    exact if_pos rfl
  · have hrun : ((s.sec x).sp == .copy || (s.sec x).sp == .flip) = true := by simpa using hsp
    rw [hstart, hrun]
    exact ite_eq_left_iff.2 fun _ => if_pos rfl

section
variable (h4 : bitN v.toNat 4 = true) (h5 : bitN v.toNat 5 = false) (hkey : keyed v = true) (hsp : (s.sec x).sp = .standby)
include h4 h5 hkey hsp

theorem State.wSpareCtrl_start : s.wSpareCtrl x v = (s.onSec x (Sector.tookCtrl v)).startCopy x (fld v 0 4) := by
  unfold State.wSpareCtrl
  rw [h4, h5, hkey, hsp]
  rfl

theorem State.wSpareCtrl_begins (hf : (s.sec x).fenced.getLsbD (fld v 0 4) = false) (hh : (s.sec x).hole.getLsbD (fld v 0 4) = false)
    (hb : s.borrower x = none) : ∃ tack, s.wSpareCtrl x v =
      { (s.wipeSpare x).onSec x (fun e => (e.tookCtrl v).copying (fld v 0 4)) with tack := tack } := by
  obtain ⟨tack, e⟩ := State.startCopy_begins (s := s.onSec x (Sector.tookCtrl v)) (State.sp_tookCtrl.trans hsp)
    (by rwa [State.fenced_tookCtrl]) (by rwa [State.hole_tookCtrl]) hb
  refine ⟨tack, ?_⟩
  rw [State.wSpareCtrl_start h4 h5 hkey hsp, e]
  exact congrArg (fun t : State => { t with tack := tack }) (State.onSec_onSec (s := s.wipeSpare x) _ _)

theorem State.wSpareCtrl_bad (h : (s.sec x).fenced.getLsbD (fld v 0 4) = true ∨ (s.sec x).hole.getLsbD (fld v 0 4) = true) :
    s.wSpareCtrl x v = s.onSec x fun e => (e.tookCtrl v).startBad (fld v 0 4) := by
  rw [State.wSpareCtrl_start h4 h5 hkey hsp, State.startCopy_bad (State.sp_tookCtrl.trans hsp)
    (by rwa [State.fenced_tookCtrl, State.hole_tookCtrl]), State.onSec_onSec]

end

theorem State.wSpareCtrl_cancels (h4 : bitN v.toNat 4 = false) (h5 : bitN v.toNat 5 = true) (hkey : keyed v = true)
    (hsp : (s.sec x).sp = .copy) (hw : ∀ e ∈ (s.ctl (17 * x + (s.sec x).pos.toNat)).wrQ, e.held = false) :
    s.wSpareCtrl x v = (s.wipeSpare x).onSec x fun e => (e.tookCtrl v).copyAborted := by
  calc s.wSpareCtrl x v = (s.onSec x (Sector.tookCtrl v)).cancelCopy x := by
        unfold State.wSpareCtrl
        rw [h4, h5, hkey]
        rfl
    _ = ((s.wipeSpare x).onSec x (Sector.tookCtrl v)).onSec x Sector.copyAborted :=
        State.cancelCopy_ends (State.sp_tookCtrl.trans hsp) (by rwa [State.pos_tookCtrl])
    _ = _ := State.onSec_onSec _ _

/-! ### The obligation -/

theorem State.Wf.sec_lt (h : s.Wf) (hx : x < 8) : x < s.sectors.length := h.sectors ▸ hx

theorem State.Wf.spare_lt (h : s.Wf) (hx : x < 8) : spareOf x < s.ctls.length := by
  rw [h.ctls, spareOf]
  omega

/-- Settles O27: a write that is taken sets its register and begins or ends the copy, or ends the start at once; one that is not taken
sets ctrl_rej. -/
theorem migrationCommands : Obligations.MigrationCommands := by
  unfold Obligations.MigrationCommands
  refine ⟨fun s x v hw hx h h4 h5 hkey hsp => ?_, fun s x v hw hx h h4 h5 hkey hsp hheld => ?_, fun s x v c hw hx h hc hrej => ?_⟩
  · refine ⟨fun hf hh hb => ?_, fun hbad => ?_⟩ <;>
      refine answers_mgWrite (f := fun s => s.wSpareCtrl x v) rfl hw h fun cs n _ => ?_
    · obtain ⟨tack, e⟩ := State.wSpareCtrl_begins (s := { s with cnts := cs, free := n }) h4 h5 hkey hsp hf hh hb
      rw [e]
      exact ⟨State.sec_onSec _ x _ (hw.sec_lt hx), State.sec_onSec_ne _ x _, State.ctl_onCtl _ (spareOf x) _ (hw.spare_lt hx),
        State.ctl_onCtl_ne _ (spareOf x) _, rfl, State.answer_granted rfl⟩
    · rw [State.wSpareCtrl_bad (s := { s with cnts := cs, free := n }) h4 h5 hkey hsp hbad]
      exact ⟨State.sec_onSec _ x _ (hw.sec_lt hx), State.sec_onSec_ne _ x _, rfl, State.answer_granted rfl⟩
  · refine answers_mgWrite (f := fun s => s.wSpareCtrl x v) rfl hw h fun cs n _ => ?_
    rw [State.wSpareCtrl_cancels (s := { s with cnts := cs, free := n }) h4 h5 hkey hsp hheld]
    exact ⟨State.sec_onSec _ x _ (hw.sec_lt hx), State.sec_onSec_ne _ x _, State.ctl_onCtl _ (spareOf x) _ (hw.spare_lt hx), rfl,
      State.answer_granted rfl⟩
  · have hc' : exec c s = onMgmt (.sector x) s fun s => s.wSpareCtrl x v := by rcases hc with rfl | rfl <;> rfl
    refine answers_mgWrite hc' hw h fun cs n _ => ?_
    rw [State.wSpareCtrl_rejected (s := { s with cnts := cs, free := n }) hrej]
    obtain ⟨-, hu, -⟩ := h
    have hfr := State.fr_onFr { s with cnts := cs, free := n } (.sector x) (fun f => { f with ctrlRej := true }) (hw.idx_lt hu)
    exact ⟨rfl, rfl, congrArg Frame.ctrlRej hfr, State.answer_granted rfl⟩

end Sys2Proof.Machine
end

section
/-! SUPPORT. The regulation period and the pool's scale; the timers of a channel's controller. -/
namespace Sys2Proof.Machine
variable {s : State} {p i g : Nat}

/-! ### Lists and bits changed at one place -/

theorem upd_getElem?_self {α : Type} {l : List α} {a : α} (h : l[i]? = some a) (f : α → α) : (upd l i f)[i]? = some (f a) := by
  rw [upd_getElem?, if_pos rfl, h, Option.map_some]

theorem upd_getElem?_ne {α : Type} {l : List α} {j : Nat} (h : j ≠ i) (f : α → α) : (upd l i f)[j]? = l[j]? := by
  rw [upd_getElem?, if_neg h.symm]

theorem getLsbD_or_bit_ne {w : Nat} (m : BitVec w) {j k : Nat} (h : j ≠ k) : (m ||| (1 : BitVec w) <<< k).getLsbD j = m.getLsbD j := by
  simp only [BitVec.getLsbD_or, BitVec.getLsbD_shiftLeft, BitVec.ofNat_eq_ofNat, BitVec.getLsbD_one, Bool.or_eq_left_iff_imp, Bool.and_eq_true,
    Bool.not_eq_true', decide_eq_true_eq, decide_eq_false_iff_not]
  omega

/-! ### Commands of a channel, and its controller changed -/

/-- A command of a channel of the build has its effect. -/
theorem answers_onChan {c : Instr} {f : State → State} {P : State → Prop} (hc : exec c s = onChan p s f) (hp : p < 136) (hP : P (f s)) :
    Answers c s P :=
  ⟨_, hc.trans (if_pos hp), hP⟩

theorem State.onCtl_congr {f g : Ctl → Ctl} (h : f (s.ctl p) = g (s.ctl p)) : s.onCtl p f = s.onCtl p g :=
  congrArg (fun l => { s with ctls := l }) (upd_congr h)

/-- A change that leaves the controller leaves the state. -/
theorem State.onCtl_of_ctl {f : Ctl → Ctl} (h : f (s.ctl p) = s.ctl p) : s.onCtl p f = s :=
  congrArg (fun l => { s with ctls := l }) (upd_of_getD h)

theorem State.Wf.ctl_lt (h : s.Wf) (hp : p < 136) : p < s.ctls.length := h.ctls ▸ hp

/-! ### Regulation (R120-R122, R128-R130) -/

/-- The controller at the start of a period: nothing used, and new scales of its directions. -/
def Ctl.period (rd wr : Nat) (short : Bool) (c : Ctl) : Ctl :=
  { c with rd := { c.rd with used := List.replicate 16 0, phi := rd }, wr := { c.wr with used := List.replicate 16 0, phi := wr }
           regShort := c.regShort || short }

/-- A period's start is that of the controller, with the scales of the capacity available, and a refresh of the port's holds. -/
theorem State.periodStart_eq (s : State) (p : Nat) : ∃ short, s.periodStart p = (s.onCtl p (Ctl.period
    (scaleOf (s.ctl p).rd.avail (s.img.sumShares (·.rdShare)) (ceil15 (s.img.cls 15).rdCeil))
    (scaleOf (s.ctl p).wr.avail (s.img.sumShares (·.wrShare)) (ceil15 (s.img.cls 15).wrCeil)) short)).refreshHolds p :=
  ⟨_, congrArg (State.refreshHolds · p) (State.onCtl_congr (f := fun _ => _) rfl)⟩

/-- Class states are refreshed at the ports alone. -/
theorem State.ctl_refreshHolds (j : Nat) : (s.refreshHolds p).ctl j = s.ctl j := by
  rw [State.refreshHolds_ports]
  rfl

/-- The scale of a pool for the slots it has (R128, R129). -/
def State.poolPhi (s : State) (x : Nat) : Nat :=
  scaleOf (1024 * (24064 - (s.pool x).lost) / 24064) (s.img.sumShares (·.poolShare)) (ceil15 (s.img.cls 15).poolCeil)

/-- The pool with a scale; a change of it is an event (R130). -/
def Pool.scaled (phi : Nat) (q : Pool) : Pool := { q with phi := phi, event := q.event || decide (phi ≠ q.phi) }

theorem State.poolScale_eq (s : State) (x : Nat) : s.poolScale x = s.onPool x (Pool.scaled (s.poolPhi x)) := by
  by_cases h : s.poolPhi x = (s.pool x).phi
  · have hsame : (s.pool x).scaled (s.poolPhi x) = s.pool x := by simp [Pool.scaled, h]
    exact (if_pos h).trans (congrArg (fun l => { s with pools := l }) (upd_of_getD hsame)).symm
  · have hnew : { s.pool x with phi := s.poolPhi x, event := true } = (s.pool x).scaled (s.poolPhi x) := by simp [Pool.scaled, h]
    exact (if_neg h).trans (congrArg (fun l => { s with pools := l }) (upd_congr hnew))

/-- Settles O26: a period's start is one change of the controller and a refresh of the holds; a pool's scale is one change of the pool. -/
theorem regulation : Obligations.Regulation := by
  unfold Obligations.Regulation
  refine ⟨fun s p hw hr hp => ?_, fun s x hw hr hx => ?_⟩
  · refine answers_onChan rfl hp ?_
    obtain ⟨short, e⟩ := s.periodStart_eq p
    simp only [hr, if_true, e, State.ctl_refreshHolds]
    rw [State.ctl_onCtl _ p _ (hw.ctl_lt hp)]
    exact ⟨by rw [State.refreshHolds_ports]; rfl, rfl, rfl, rfl, rfl, rfl, rfl, rfl, State.ctl_onCtl_ne _ p _,
      fun n => ⟨State.refreshHolds_proj Port.tags, State.refreshHolds_proj Port.rsp⟩⟩
  · refine ⟨s.poolScale x, (if_pos hx).trans (by simp only [hr, if_true]), ?_⟩
    have hpool : (s.poolScale x).pool x = (s.pool x).scaled (s.poolPhi x) := by
      rw [State.poolScale_eq]
      exact State.pool_onPool _ x _ (hw.pools ▸ hx)
    refine ⟨by rw [State.poolScale_eq]; rfl, by rw [State.poolScale_eq]; exact State.pool_onPool_ne _ x _, ?_, ?_⟩ <;>
      rw [hpool] <;> rfl

/-! ### The timers of a controller (R136, R148, R167) -/

/-- The entry at a place of a queue counts as aged. -/
def Ctl.markAged (write : Bool) (i : Nat) (c : Ctl) : Ctl :=
  if write then { c with wrQ := upd c.wrQ i fun e => { e with aged := true } }
  else { c with rdQ := upd c.rdQ i fun e => { e with aged := true } }

theorem execEntryAged_eq (hp : p < 136) (hf : (s.ctl p).frozen = false) (write : Bool) (i : Nat) :
    exec (.entryAged p write i) s = .next (s.onCtl p (Ctl.markAged write i)) :=
  (if_pos hp).trans (congrArg _ (State.onCtl_congr (if_neg (by rw [hf]; exact Bool.false_ne_true))))

theorem execEntryAged_frozen (hp : p < 136) (hf : (s.ctl p).frozen = true) (write : Bool) (i : Nat) :
    exec (.entryAged p write i) s = .next s :=
  (if_pos hp).trans (congrArg _ (State.onCtl_of_ctl (if_pos hf)))

theorem execTier4WaitLimit_eq (hp : p < 136) {write : Bool} {w : Work} (h : ((s.ctl p).inputs write)[i]? = some w) (hi : 4 ≤ w.inp) :
    exec (.tier4WaitLimit p write i) s = .next (s.onCtl p fun c => c.onDir write fun r => { r with wait4 := 64 }) := by
  refine (if_pos hp).trans (congrArg _ ?_)
  have h' : (if write then (s.ctl p).inWr else (s.ctl p).inRd)[i]? = some w := h
  simp only [h', hi, if_true]

theorem execTrrLimit_eq (hp : p < 136) (hf : (s.ctl p).frozen = false) : exec (.trrLimit p i) s =
    .next (s.onCur p fun c => { c with trr := upd c.trr i fun t => if t.selfRow then t else { t with limit := true } }) :=
  (if_pos hp).trans (congrArg _ (by simp only [hf, Bool.false_eq_true, if_false]))

theorem execTrrLimit_frozen (hp : p < 136) (hf : (s.ctl p).frozen = true) : exec (.trrLimit p i) s = .next s :=
  (if_pos hp).trans (congrArg _ (if_pos hf))

/-! ### Power-down (R157) -/

theorem execPowerDownEntry_eq {h : Nat} (hp : p < 136) (hpd : s.img.policy.pdIdle ≠ 0) (hh : h < s.hides) (hrow : s.rowFree p = true)
    (hup : (s.ctl p).pd.getLsbD h = false) (hclosed : ∀ b < 16, ((s.ctl p).bk (16 * h + b)).st = .closed)
    (hidle : since (s.ctl p).cyc (smGet 0 (s.ctl p).hideIdle h) s.img.policy.pdIdle = true)
    (hfree : ∀ e ∈ (s.ctl p).rdQ ++ (s.ctl p).wrQ ++ (s.ctl p).running.map Fill.entry, s.isLent p e.off = true ∨ (s.place p e.off).hide ≠ h) :
    exec (.powerDownEntry p h) s = .next (s.onCtl p fun c => { c with
      pd := c.pd ||| ((1 : BitVec 8) <<< h), rowUsed := true, lastRow := pdWord 5 false (2 ^ h) }) := by
  have hbusy : (((s.ctl p).rdQ ++ (s.ctl p).wrQ ++ (s.ctl p).running.map Fill.entry).any
      fun e => !s.isLent p e.off && (s.place p e.off).hide == h) = false := by
    refine List.any_eq_false.2 fun e he => ?_
    rcases hfree e he with hl | hne
    · simp [hl]
    · simp [hne]
  have hall : (List.range 16).all (fun b => ((s.ctl p).bk (16 * h + b)).st == .closed) = true := by
    simpa using hclosed
  refine (if_pos hp).trans (congrArg _ ?_)
  have hpd' : (s.img.policy.pdIdle != 0) = true := by simpa using hpd
  simp only [hbusy, hall, hidle, hup, hrow, hh, hpd', decide_true, Bool.and_self, Bool.not_false, if_true]
  exact State.onCtl_onCtl _ _

/-! ### Fills and the combining buffer (R156, R159) -/

theorem execZeroFillDone_full {f : Fill} (hp : p < 136) (hc : s.canIssue p = true)
    (hf : ((s.ctl p).fills.take 4).find? (fun f => f.gran == g) = some f) (hk : 256 ≤ f.k) :
    exec (.zeroFillDone p g) s =
      .next ((s.freeSlots f.slot.toList).onCtl p fun c => { c with fills := c.fills.filter fun f => f.gran != g }) := by
  refine (if_pos hp).trans (congrArg _ ?_)
  simp only [hf, hc, hk, decide_true, Bool.and_self, if_true]

theorem execZeroFillDone_running {f : Fill} (hp : p < 136)
    (hf : ((s.ctl p).fills.take 4).find? (fun f => f.gran == g) = some f) (hk : f.k < 256) : exec (.zeroFillDone p g) s = .next s := by
  refine (if_pos hp).trans (congrArg _ ?_)
  simp only [hf, Nat.not_le.2 hk, decide_false, Bool.and_false, Bool.false_eq_true, if_false]

/-- The write of a buffered block that its controller's write queue takes. -/
def Comb.backWrite (e : Comb) (v : Block) (k : Slot) (c : Ctl) : Entry :=
  { port := noPort, uid := 0, tag := 0, cls := 0, req := reqCurrier, idx := 0, op := opMasked, off := e.off, ord := c.nextOrd, enq := c.cyc,
    data := v, aged := false, inp := 0, slots := k :: e.slots, root := some e.ord }

/-- A slot of a floor is booked in its pool (R131). -/
theorem State.floorSlot_some {part : Nat} (h : (s.floorSlot p part).isSome = true) : ∃ k pools,
    s.floorSlot p part = some (k, { s with pools := pools }) := by
  unfold State.floorSlot at h ⊢
  extract_lets at h ⊢
  split
  next => exact ⟨_, _, rfl⟩
  next hfull => simp [hfull] at h

/-- The controller whose buffered block is in the write queue. -/
def Comb.wroteBack (e : Comb) (v : Block) (k : Slot) (c : Ctl) : Ctl :=
  { c with comb := c.comb.filter (fun f => f.off != e.off), wrQ := c.wrQ ++ [e.backWrite v k c], nextOrd := c.nextOrd + 1 }

/-- A buffered block with nothing waiting for it goes to the write queue, with a slot of the request floor. -/
theorem execCombineWriteback_eq {e : Comb} {v : Block} (hp : p < 136) (hc : s.canIssue p = true) (hb : s.backOk p = true)
    (hi : (s.ctl p).comb[i]? = some e) (he : (s.ctl p).comb.find? (fun f => f.off == e.off) = some e) (hv : e.val = some v)
    (hpend : e.pend = []) : ∃ k pools,
      exec (.combineWriteback p i) s = .next { s.onCtl p (e.wroteBack v k) with pools := pools } := by
  obtain ⟨k, pools, hslot⟩ := s.floorSlot_some (Bool.and_eq_true_iff.1 hb).2
  refine ⟨k, pools, (if_pos hp).trans (congrArg _ ?_)⟩
  simp only [hi, hc, if_true]
  unfold State.combBack
  obtain ⟨off, val, pend, ord, last, slots⟩ := e
  subst hv hpend
  simp only [he, hb, hslot]
  exact congrArg (fun u : State => { u with pools := pools }) (State.onCtl_onCtl (s := s) (p := p) _ _)

/-- Settles O23: each timer changes its one unit, or, in a frozen controller and where its condition does not hold, nothing. -/
theorem channelTimers : Obligations.ChannelTimers := by
  unfold Obligations.ChannelTimers
  refine ⟨fun s p i e hw hp hf => ?_, fun s p i w hw hp hi => ⟨fun h => ?_, fun h => ?_⟩,
    fun s p i k hw hp hk hself hf => ?_, fun s p i w hw hp hf => ?_,
    fun s p h hw hp hpd hh hh8 hrow hup hclosed hidle hfree => ?_, fun s p g f hw hp hc hf => ⟨fun hk => ?_, fun hk => ?_⟩,
    fun s p i e v hw hp hc hb hi he hv hpend => ?_⟩
  · refine ⟨fun he => ⟨_, execEntryAged_eq hp hf true i, rfl, ?_⟩, fun he => ⟨_, execEntryAged_eq hp hf false i, rfl, ?_⟩⟩ <;>
      rw [State.ctl_onCtl _ p _ (hw.ctl_lt hp)] <;>
      exact ⟨upd_getElem?_self he _, rfl, fun j hj => upd_getElem?_ne hj _, State.ctl_onCtl_ne _ p _⟩
  · exact ⟨_, execTier4WaitLimit_eq hp h hi, rfl, State.ctl_onCtl _ p _ (hw.ctl_lt hp), State.ctl_onCtl_ne _ p _⟩
  · exact ⟨_, execTier4WaitLimit_eq hp h hi, rfl, State.ctl_onCtl _ p _ (hw.ctl_lt hp), State.ctl_onCtl_ne _ p _⟩
  · refine ⟨_, execTrrLimit_eq hp hf, rfl, ?_⟩
    rw [State.cur_onCur _ p _ (hw.curs ▸ hp)]
    refine ⟨(upd_getElem?_self hk _).trans ?_, fun j hj => upd_getElem?_ne hj _, State.cur_onCur_ne _ p _⟩
    rw [hself]
    rfl
  · exact ⟨⟨s, execEntryAged_frozen hp hf w i, fun _ => rfl⟩, execTrrLimit_frozen hp hf⟩
  · refine ⟨_, execPowerDownEntry_eq hp hpd hh hrow hup hclosed hidle hfree, rfl, ?_⟩
    rw [State.ctl_onCtl _ p _ (hw.ctl_lt hp)]
    exact ⟨getLsbD_or_bit _ hh8, fun j hj => getLsbD_or_bit_ne _ hj, rfl, State.ctl_onCtl_ne _ p _⟩
  · refine ⟨_, execZeroFillDone_full hp hc hf hk, ?_⟩
    obtain ⟨pools, hpools⟩ : ∃ pools, s.freeSlots f.slot.toList = { s with pools := pools } := ⟨_, s.freeSlots_pools _⟩
    refine ⟨by rw [hpools]; rfl, ?_, fun hnone => by rw [hnone]; rfl, fun j hj => ?_⟩
    · rw [hpools]
      exact State.ctl_onCtl _ p _ (hw.ctl_lt hp)
    · exact (State.ctl_onCtl_ne _ p _ j hj).trans (s.ctl_freeSlots _ j)
  · exact execZeroFillDone_running hp hf hk
  · obtain ⟨k, pools, e'⟩ := execCombineWriteback_eq hp hc hb hi he hv hpend
    refine ⟨_, e', rfl, ?_⟩
    have hctl := State.ctl_onCtl _ p (e.wroteBack v k) (hw.ctl_lt hp)
    exact ⟨congrArg Ctl.comb hctl, ⟨_, congrArg Ctl.wrQ hctl, rfl, rfl, rfl, rfl, rfl⟩, State.ctl_onCtl_ne _ p _⟩

end Sys2Proof.Machine
end

section
/-! SUPPORT. A memory operation of an Awl retires. -/
namespace Sys2Proof.Machine
variable {s t : State} {p : Nat} {o : MemOp} {l : List MemOp} {q : Part}

/-! ### An agent's command that touches at most one block (R125, R134; log 13) -/

/-- The channel work that an access of an agent becomes at a controller. -/
def Acc.work (a : Acc) (own cls uid r : Nat) : Work :=
  { port := own, uid := uid, tag := 0, cls := cls, req := jobReq own, op := if a.write then opWrite else 0, arg := 0, lch := a.lch, off := a.off,
    idx := 0, n := a.n, data := if a.write then [0] else [], be := BitVec.allOnes 64, inp := jobInp own r, first := 1 }

/-- The controller with a work more at its inputs. -/
def Ctl.withWork (c : Ctl) (write : Bool) (w : Work) : Ctl :=
  if write then { c with inWr := c.inWr ++ [w] } else { c with inRd := c.inRd ++ [w] }

/-- One access is one job of the agent's, and one work at the controller that serves its channel. -/
theorem State.settleAcc_one {a : Acc} {r own cls : Nat} (ha : t.acc = [a]) (hr : t.serving a.lch = some r) :
    t.settleAcc own cls none = ({ t with acc := [], uid := t.uid + 1, jobs := t.jobs ++ [⟨own, t.uid + 1, a.n⟩] } : State).onCtl r fun c =>
      c.withWork a.write (a.work own cls (t.uid + 1) r) := by
  have hl : (t.acc.reverse.filterMap fun a => (t.serving a.lch).map fun p => (p, a)) = [(r, a)] := by
    rw [ha, List.reverse_singleton, List.filterMap_cons, hr]
    rfl
  unfold State.settleAcc
  simp only [hl]
  rfl

/-- A command that touches nothing leaves no channel work. -/
theorem State.agent_none {own cls : Nat} {f : State → State} (hw : s.working own = false) (hf : f { s with acc := [] } = t) (ha : t.acc = []) :
    s.agent own cls f = { t with acc := s.acc } := by
  unfold State.agent State.settleAcc
  simp only [hw, hf, ha]
  rfl

/-- A command that touches one channel, open and served, leaves one work there. -/
theorem State.agent_one {a : Acc} {r own cls : Nat} {f : State → State} (hw : s.working own = false) (hf : f { s with acc := [] } = t)
    (ha : t.acc = [a]) (ho : s.shutAt a.lch = false) (hr : t.serving a.lch = some r) : s.agent own cls f =
      ({ t with acc := s.acc, uid := t.uid + 1, jobs := t.jobs ++ [⟨own, t.uid + 1, a.n⟩] } : State).onCtl r fun c =>
        c.withWork a.write (a.work own cls (t.uid + 1) r) := by
  unfold State.agent
  simp only [hw, hf, ha, ho, List.any_cons, List.any_nil, Bool.or_self, Bool.and_false, Bool.false_eq_true, if_false]
  rw [State.settleAcc_one ha hr]
  rfl

/-! ### The steps of an operation (R380, R381) -/

theorem run_bind {α β : Type} {m : RM α} {k : α → RM β} :
    (m >>= k).run.run t = (ExceptT.bindCont k (m.run.run t).1).run (m.run.run t).2 := by
  change (m.run >>= ExceptT.bindCont k).run t = _
  rw [StateT.run_bind]
  rfl

/-- A step goes on with what the step before it answers. -/
theorem run_bind_ok {α β : Type} {m : RM α} {k : α → RM β} {a : α} {u : State} (h : m.run.run t = (.ok a, u)) :
    (m >>= k).run.run t = (k a).run.run u := by
  rw [run_bind, h]
  rfl

/-- A trap ends the steps. -/
theorem run_bind_error {α β : Type} {m : RM α} {k : α → RM β} {e : Nat × BitVec 4 × Nat} {u : State} (h : m.run.run t = (.error e, u)) :
    (m >>= k).run.run t = (.error e, u) := by
  rw [run_bind, h]
  rfl

theorem run_get_bind {β : Type} {k : State → RM β} : (get >>= k).run.run t = (k t).run.run t := rfl

theorem run_modify_bind {β : Type} {f : State → State} {k : PUnit → RM β} : (modify f >>= k).run.run t = (k ⟨⟩).run.run (f t) := rfl

theorem rTry_ok {m : RM Unit} {u : State} (h : m.run.run t = (.ok (), u)) : (rTry m).run.run t = (.ok none, u) := by
  have h' : m t = (.ok (), u) := h
  change rTry m t = _
  simp only [rTry, h']

theorem rTry_error {m : RM Unit} {e : Nat × BitVec 4 × Nat} {u : State} (h : m.run.run t = (.error e, u)) :
    (rTry m).run.run t = (.ok (some e), u) := by
  have h' : m t = (.error e, u) := h
  change rTry m t = _
  simp only [rTry, h']

/-- Of one block, the operation is that block's step. -/
theorem rAll_one (m : RM Unit) : (rAll [m]).run.run t = m.run.run t := by
  unfold rAll
  simp only [List.foldlM_cons, List.foldlM_nil, bind_pure, bind_assoc, pure_bind]
  match hm : m.run.run t with
  | (.ok (), u) => exact run_bind_ok (rTry_ok hm)
  | (.error e, u) => exact run_bind_ok (rTry_error hm)

theorem State.touchRd_one {a origin c off : Nat} (h : s.decode a origin = some (c, off)) : s.touchRd a origin 1 = s.touch false c off := by
  simp only [State.touchRd, h]

/-- A read touches its block and answers what it reads as, or traps. -/
theorem rReadPa_run {a origin c off : Nat} (h : t.decode a origin = some (c, off)) :
    (rReadPa a origin).run.run t = (match t.paRead a origin with
      | (code, b) => if code = cOK then pure b else rTrap code a : RM Block).run.run (t.touch false c off) := by
  unfold rReadPa
  rw [run_modify_bind, run_get_bind, State.touchRd_one h]
  rfl

theorem rReadPa_ok {a origin c off : Nat} {b : Block} (h : t.decode a origin = some (c, off)) (hb : t.paRead a origin = (cOK, b)) :
    (rReadPa a origin).run.run t = (.ok b, t.touch false c off) := by
  rw [rReadPa_run h, hb]
  rfl

/-- A data trap: POISON is cause 3. -/
theorem rReadPa_poison {a origin c off : Nat} {b : Block} (h : t.decode a origin = some (c, off)) (hb : t.paRead a origin = (cPOISON, b)) :
    (rReadPa a origin).run.run t = (.error (3, cPOISON, a), t.touch false c off) := by
  rw [rReadPa_run h, hb]
  rfl

theorem rWrite_ok {f : State → BitVec 4 × State} {a : Nat} {u : State} (h : f t = (cOK, u)) : (rWrite f a).run.run t = (.ok (), u) := by
  unfold rWrite
  rw [run_get_bind, h]
  rfl

theorem rTake_run {x n : Nat} : (rTake p x n).run.run t = (.ok (scrRead (t.awl p).scr x n), t) := rfl

/-! ### The operations of one block -/

theorem rOp_load (hf : o.func = 0) (hb : o.blocks = 1) :
    (rOp p q o).run.run t = (rReadPa o.addr q.lch >>= rFill p o.sc).run.run t := by
  unfold rOp
  rw [run_get_bind]
  simp only [hf, hb, List.range_one, List.map_cons, List.map_nil, Nat.mul_zero, Nat.add_zero]
  exact rAll_one _

theorem rOp_store (hf : o.func = 1) (hb : o.blocks = 1) : (rOp p q o).run.run t =
    (rTake p o.sc 64 >>= fun bs => rWrite (fun s => s.paWrite o.addr q.lch (bytesBlock bs)) o.addr >>= fun _ => rWrote p).run.run t := by
  unfold rOp
  rw [run_get_bind]
  simp only [hf, hb, List.range_one, List.map_cons, List.map_nil, Nat.mul_zero, Nat.add_zero]
  exact rAll_one _

theorem rOp_xlat_past (hf : o.func = 5) (hpg : q.pages ≤ o.pages.headD 0) : (rOp p q o).run.run t = (.ok (), t.putS p o.dest 0) := by
  unfold rOp
  rw [run_get_bind]
  simp only [hf, Nat.not_lt.2 hpg, if_false]
  rfl

/-! ### A block written at its ordering point -/

/-- s and t differ at most in the array, the controllers and the Currier slices. -/
def PokeOnly (s t : State) : Prop := ∃ cells bad ctls curs, t = { s with cells := cells, bad := bad, ctls := ctls, curs := curs }

theorem PokeOnly.trans {u : State} (h : PokeOnly s t) (k : PokeOnly t u) : PokeOnly s u := by
  obtain ⟨_, _, _, _, rfl⟩ := h
  obtain ⟨_, _, _, _, rfl⟩ := k
  exact ⟨_, _, _, _, rfl⟩

theorem State.onCtl_pokeOnly (s : State) (r : Nat) (f : Ctl → Ctl) : PokeOnly s (s.onCtl r f) := ⟨_, _, _, _, rfl⟩

theorem State.store_pokeOnly (s : State) (r x : Nat) (b : Block) : PokeOnly s (s.store r x b) := ⟨_, _, _, _, rfl⟩

theorem State.newer_pokeOnly (s : State) (r off : Nat) : PokeOnly s (s.newer r off) := ⟨_, _, _, _, rfl⟩

theorem State.openGran_pokeOnly (s : State) (r g : Nat) : PokeOnly s (s.openGran r g) := by
  unfold State.openGran
  split
  · exact PokeOnly.trans (t := s.zeroGran r g) ⟨_, _, _, _, rfl⟩ (State.onCtl_pokeOnly ..)
  · exact ⟨_, _, _, _, rfl⟩

theorem State.poke1_pokeOnly (s : State) (r x : Nat) (b : Block) : PokeOnly s (s.poke1 r x b) :=
  (((s.openGran_pokeOnly r (x / 16384)).trans (State.newer_pokeOnly ..)).trans (State.store_pokeOnly ..)).trans (State.onCtl_pokeOnly ..)

/-- A write of a block at its ordering point, mirrored or not (R111). -/
theorem State.poke_pokeOnly (s : State) (r x : Nat) (b : Block) : PokeOnly s (s.poke r x b) := by
  unfold State.poke
  split
  · exact (s.poke1_pokeOnly ..).trans (State.poke1_pokeOnly ..)
  · exact s.poke1_pokeOnly ..

/-! Such a write is the same whatever accesses stand noted. -/

theorem State.cellAt_acc (s : State) (acc : List Acc) (r x : Nat) : State.cellAt { s with acc := acc } r x = s.cellAt r x := by
  unfold State.cellAt State.ctl
  rfl

theorem State.onCtl_noted (s : State) (acc : List Acc) (r : Nat) (f : Ctl → Ctl) :
    State.onCtl { s with acc := acc } r f = { s.onCtl r f with acc := acc } := rfl

theorem State.store_noted (s : State) (acc : List Acc) (r x : Nat) (b : Block) :
    State.store { s with acc := acc } r x b = { s.store r x b with acc := acc } := by
  simp only [State.store, State.cellAt_acc]

theorem State.newer_noted (s : State) (acc : List Acc) (r off : Nat) :
    State.newer { s with acc := acc } r off = { s.newer r off with acc := acc } := by
  simp only [State.newer, State.onCur, State.onCtl]

theorem State.zeroGran_noted (s : State) (acc : List Acc) (r g : Nat) :
    State.zeroGran { s with acc := acc } r g = { s.zeroGran r g with acc := acc } := by
  simp only [State.zeroGran, State.cellAt_acc]

theorem State.openGran_noted (s : State) (acc : List Acc) (r g : Nat) :
    State.openGran { s with acc := acc } r g = { s.openGran r g with acc := acc } := by
  have hctl : State.ctl { s with acc := acc } r = s.ctl r := rfl
  unfold State.openGran
  rw [hctl, State.zeroGran_noted]
  split
  · exact State.onCtl_noted ..
  · rfl

theorem State.poke1_noted (s : State) (acc : List Acc) (r x : Nat) (b : Block) :
    State.poke1 { s with acc := acc } r x b = { s.poke1 r x b with acc := acc } := by
  unfold State.poke1
  dsimp only
  rw [State.openGran_noted, State.newer_noted, State.store_noted, State.onCtl_noted]

theorem State.poke_noted (s : State) (acc : List Acc) (r x : Nat) (b : Block) :
    State.poke { s with acc := acc } r x b = { s.poke r x b with acc := acc } := by
  have hm : State.mirror { s with acc := acc } r = s.mirror r := rfl
  unfold State.poke
  rw [hm]
  split
  next sp _ => exact (congrArg (State.poke1 · sp x b) (s.poke1_noted acc r x b)).trans ((s.poke1 r x b).poke1_noted acc sp x b)
  · exact State.poke1_noted ..

/-- A write that is done notes its block, and its memory is the same whatever accesses stand noted. -/
theorem State.paWrite_done {a origin c off : Nat} {b : Block} (hd : s.decode a origin = some (c, off)) (h : s.paWrite a origin b = (cOK, t))
    (acc : List Acc) : ∃ u, PokeOnly s u ∧ u.cells = t.cells ∧
      State.paWrite { s with acc := acc } a origin b = (cOK, { u with acc := addAcc acc true c off }) := by
  have hmem : ∀ acc, State.paWrite { s with acc := acc } a origin b = State.memWrite { s with acc := acc } c off b := fun acc => by
    have hd' : State.decode { s with acc := acc } a origin = some (c, off) := hd
    rw [State.paWrite, hd']
  have h' : s.memWrite c off b = (cOK, t) := (hmem s.acc).symm.trans h
  rw [hmem]
  unfold State.memWrite at h' ⊢
  have hserve : State.serving { s with acc := acc } c = s.serving c := rfl
  rw [hserve]
  cases hr : s.serving c with
  | none => rw [hr] at h'; cases h'
  | some r =>
    rw [hr] at h'
    dsimp only at h' ⊢
    by_cases hf : s.fresh r off = 2
    · rw [if_pos hf] at h'; cases h'
    · rw [if_neg hf] at h'
      cases h'
      exact ⟨s.poke r off b, s.poke_pokeOnly .., rfl, (if_neg hf).trans
        (congrArg (fun u : State => (cOK, u.touch true c off)) (s.poke_noted acc r off b))⟩

/-! ### Retiring -/

/-- The oldest operation of an Awl may retire: the Awl is in service and its last channel work is done. -/
structure State.Retires (s : State) (p : Nat) (o : MemOp) (l : List MemOp) (q : Part) : Prop where
  awl : p < s.awls.length
  service : (s.safe.on || s.seq.therm == .emergency || s.isFenced (.awl p) || (s.fr (.awl p)).st == .resetting) = false
  idle : s.working (ownAwl p) = false
  oldest : (s.awl p).memq = o :: l
  part : (s.awl p).part = some q

/-- The state after the steps of an operation that leaves `l` outstanding. -/
def State.retired (p pc : Nat) (l : List MemOp) (r : Except (Nat × BitVec 4 × Nat) Unit × State) : State :=
  let s := r.2.onAwl p fun a => { a with memq := l }
  match r.1 with
  | .ok _ => s
  | .error (cause, code, addr) => if ((s.awl p).ending.map (·.1)).getD cOK = cOK then s.trap p cause code pc addr else s

theorem State.Retires.retireOp_eq (h : s.Retires p o l q) :
    s.retireOp p = s.agent (ownAwl p) q.cls fun s => State.retired p o.pc l ((rOp p q o).run.run s) := by
  unfold State.retireOp
  simp only [h.oldest, h.part, h.service, Bool.false_eq_true, if_false]
  rfl

theorem State.retired_ok {pc : Nat} : State.retired p pc l (.ok (), s) = s.onAwl p fun a => { a with memq := l } := rfl

theorem State.onAwl_onAwl (f g : Awl → Awl) : (s.onAwl p f).onAwl p g = s.onAwl p fun a => g (f a) := by
  simp only [State.onAwl, upd_upd]

theorem State.onAwl_counted (s : State) (cnts : List Cnt) (free p : Nat) (f : Awl → Awl) :
    State.onAwl { s with cnts := cnts, free := free } p f = { s.onAwl p f with cnts := cnts, free := free } := rfl

/-- An operation that touches nothing. -/
theorem State.Retires.retireOp_none (h : s.Retires p o l q) (e : State.retired p o.pc l ((rOp p q o).run.run { s with acc := [] }) = t)
    (ha : t.acc = []) : s.retireOp p = { t with acc := s.acc } :=
  h.retireOp_eq.trans (State.agent_none (f := fun s => State.retired p o.pc l ((rOp p q o).run.run s)) h.idle e ha)

/-- An operation that touches one channel, open and served. -/
theorem State.Retires.retireOp_one (h : s.Retires p o l q) {a : Acc} {r : Nat}
    (e : State.retired p o.pc l ((rOp p q o).run.run { s with acc := [] }) = t) (ha : t.acc = [a]) (ho : s.shutAt a.lch = false)
    (hr : t.serving a.lch = some r) : s.retireOp p =
      ({ t with acc := s.acc, uid := t.uid + 1, jobs := t.jobs ++ [⟨ownAwl p, t.uid + 1, a.n⟩] } : State).onCtl r fun c =>
        c.withWork a.write (a.work (ownAwl p) q.cls (t.uid + 1) r) :=
  h.retireOp_eq.trans (State.agent_one (f := fun s => State.retired p o.pc l ((rOp p q o).run.run s)) h.idle e ha ho hr)

/-! ### One block loaded, stored, or not found (R379, R381) -/

theorem rFill_run (x : Nat) (b : Block) : ∃ cnts free, (rFill p x b).run.run t =
    (.ok (), { t.onAwl p (fun a => { a with scr := scrWrite a.scr x (blockBytes b) }) with cnts := cnts, free := free }) := by
  obtain ⟨cnts, free, e⟩ := (t.onAwl p fun a => { a with scr := scrWrite a.scr x (blockBytes b) }).countAwl_eq p 3 none 1
  exact ⟨cnts, free, congrArg (Prod.mk (Except.ok ())) e⟩

theorem State.retired_load {c off : Nat} {b : Block} (hf : o.func = 0) (hb : o.blocks = 1) (hd : t.decode o.addr q.lch = some (c, off))
    (hr : t.paRead o.addr q.lch = (cOK, b)) : ∃ cnts free, State.retired p o.pc l ((rOp p q o).run.run t) =
      { (t.touch false c off).onAwl p (fun a => { a with memq := l, scr := scrWrite a.scr o.sc (blockBytes b) }) with
        cnts := cnts, free := free } := by
  obtain ⟨cnts, free, e⟩ := rFill_run (t := t.touch false c off) (p := p) o.sc b
  refine ⟨cnts, free, ?_⟩
  rw [rOp_load hf hb, run_bind_ok (rReadPa_ok hd hr), e, State.retired_ok, State.onAwl_counted, State.onAwl_onAwl]

theorem State.retired_xlat_past (hf : o.func = 5) (hpg : q.pages ≤ o.pages.headD 0) : State.retired p o.pc l ((rOp p q o).run.run t) =
    t.onAwl p fun a => { a with memq := l, sreg := setS a.sreg o.dest 0 } := by
  rw [rOp_xlat_past hf hpg]
  exact State.onAwl_onAwl _ _

theorem State.retired_store {c off : Nat} {u : State} (hf : o.func = 1) (hb : o.blocks = 1) (hd : s.decode o.addr q.lch = some (c, off))
    (hw : s.paWrite o.addr q.lch (bytesBlock (scrRead (s.awl p).scr o.sc 64)) = (cOK, u)) : ∃ v, PokeOnly s v ∧ v.cells = u.cells ∧
      ∃ cnts free, State.retired p o.pc l ((rOp p q o).run.run { s with acc := [] }) =
        { v.onAwl p (fun a => { a with memq := l }) with acc := addAcc [] true c off, cnts := cnts, free := free } := by
  obtain ⟨v, hv, hcells, hwrite⟩ := State.paWrite_done hd hw []
  obtain ⟨cnts, free, e⟩ := ({ v with acc := addAcc [] true c off } : State).countAwl_eq p 4 none 1
  refine ⟨v, hv, hcells, cnts, free, ?_⟩
  have hrun : (rOp p q o).run.run { s with acc := [] } = (.ok (), ({ v with acc := addAcc [] true c off } : State).countAwl p 4) := by
    rw [rOp_store hf hb, run_bind_ok rTake_run, run_bind_ok (rWrite_ok hwrite)]
    rfl
  rw [hrun, e, State.retired_ok, State.onAwl_counted]
  rfl

/-- The Awl with a trap of its part recorded: the part will end with the trap's code (R368, R381, R383). -/
def Awl.trapped (q : Part) (cause : Nat) (code : BitVec 4) (pc addr : Nat) (time : Dword) (a : Awl) : Awl :=
  { a with trapCause := BitVec.ofNat 4 cause, trapCode := code, trapValid := true, trapPc := BitVec.ofNat 15 pc
           trapAddr := BitVec.ofNat 48 addr, trapTime := time
           trapNode := fields [(q.node, 0), (q.slot, 16), (q.sec, 24), (q.part, 28)]
           traps := satAdd a.traps 1, trapEv := true, ending := some (code, 0), st := .ending }

theorem State.trap_eq (hq : (s.awl p).part = some q) (cause : Nat) (code : BitVec 4) (pc addr : Nat) : ∃ cnts free,
    s.trap p cause code pc addr =
      { s.onAwl p (Awl.trapped q cause code pc addr s.mgmt.elapsed) with cnts := cnts, free := free } := by
  unfold State.trap State.ending
  simp only [hq, State.onAwl_onAwl]
  obtain ⟨cnts, free, e⟩ := (s.onAwl p (Awl.trapped q cause code pc addr s.mgmt.elapsed)).countAwl_eq p 8 none 1
  exact ⟨cnts, free, e⟩

theorem State.retired_poison {c off : Nat} {b : Block} (hp : p < t.awls.length) (hq : (t.awl p).part = some q) (hn : (t.awl p).ending = none)
    (hf : o.func = 0) (hb : o.blocks = 1) (hd : t.decode o.addr q.lch = some (c, off)) (hr : t.paRead o.addr q.lch = (cPOISON, b)) :
    ∃ cnts free, State.retired p o.pc l ((rOp p q o).run.run t) = { (t.touch false c off).onAwl p (fun a =>
      Awl.trapped q 3 cPOISON o.pc o.addr t.mgmt.elapsed { a with memq := l }) with cnts := cnts, free := free } := by
  have hawl : ((t.touch false c off).onAwl p fun a => { a with memq := l }).awl p = { t.awl p with memq := l } :=
    State.awl_onAwl (t.touch false c off) p _ hp
  obtain ⟨cnts, free, e⟩ := State.trap_eq (s := (t.touch false c off).onAwl p fun a => { a with memq := l }) (p := p) (q := q)
    (by rw [hawl]; exact hq) 3 cPOISON o.pc o.addr
  refine ⟨cnts, free, ?_⟩
  rw [State.onAwl_onAwl] at e
  rw [rOp_load hf hb, run_bind_error (rReadPa_poison hd hr)]
  unfold State.retired
  simp only [hawl, hn]
  exact e

/-! ### The obligation -/

section
variable {c off r : Nat} {b : Block} (h : s.Retires p o l q) (hb : o.blocks = 1) (hd : s.decode o.addr q.lch = some (c, off))
  (hs : s.serving c = some r) (ho : s.shutAt c = false)
include h hb hd hs ho

theorem State.Retires.load (hf : o.func = 0) (hr : s.paRead o.addr q.lch = (cOK, b)) : ∃ cnts free, s.retireOp p =
    ({ s.onAwl p (fun a => { a with memq := l, scr := scrWrite a.scr o.sc (blockBytes b) }) with
      cnts := cnts, free := free, uid := s.uid + 1, jobs := s.jobs ++ [⟨ownAwl p, s.uid + 1, 1⟩] } : State).onCtl r fun k =>
        k.withWork false (Acc.work ⟨false, c, off / 64 * 64, 1⟩ (ownAwl p) q.cls (s.uid + 1) r) := by
  obtain ⟨cnts, free, e⟩ := State.retired_load (t := { s with acc := [] }) (p := p) (l := l) hf hb hd hr
  exact ⟨cnts, free, h.retireOp_one (a := ⟨false, c, off / 64 * 64, 1⟩) e rfl ho hs⟩

theorem State.Retires.poison (hn : (s.awl p).ending = none) (hf : o.func = 0) (hr : s.paRead o.addr q.lch = (cPOISON, b)) :
    ∃ cnts free, s.retireOp p =
      ({ s.onAwl p (fun a => Awl.trapped q 3 cPOISON o.pc o.addr s.mgmt.elapsed { a with memq := l }) with
        cnts := cnts, free := free, uid := s.uid + 1, jobs := s.jobs ++ [⟨ownAwl p, s.uid + 1, 1⟩] } : State).onCtl r fun k =>
          k.withWork false (Acc.work ⟨false, c, off / 64 * 64, 1⟩ (ownAwl p) q.cls (s.uid + 1) r) := by
  obtain ⟨cnts, free, e⟩ := State.retired_poison (t := { s with acc := [] }) (l := l) h.awl h.part hn hf hb hd hr
  exact ⟨cnts, free, h.retireOp_one (a := ⟨false, c, off / 64 * 64, 1⟩) e rfl ho hs⟩

theorem State.Retires.store {u : State} (hf : o.func = 1)
    (hw : s.paWrite o.addr q.lch (bytesBlock (scrRead (s.awl p).scr o.sc 64)) = (cOK, u)) : ∃ v, PokeOnly s v ∧ v.cells = u.cells ∧
      ∃ cnts free, s.retireOp p = ({ v.onAwl p (fun a => { a with memq := l }) with
        acc := s.acc, cnts := cnts, free := free, uid := s.uid + 1, jobs := s.jobs ++ [⟨ownAwl p, s.uid + 1, 1⟩] } : State).onCtl r fun k =>
          k.withWork true (Acc.work ⟨true, c, off / 64 * 64, 1⟩ (ownAwl p) q.cls (s.uid + 1) r) := by
  obtain ⟨v, hv, hcells, cnts, free, e⟩ := State.retired_store (l := l) hf hb hd hw
  refine ⟨v, hv, hcells, cnts, free, ?_⟩
  obtain ⟨cells, bad, ctls, curs, rfl⟩ := hv
  exact h.retireOp_one (a := ⟨true, c, off / 64 * 64, 1⟩) e rfl ho hs

end

theorem State.Retires.xlat_past (h : s.Retires p o l q) (hf : o.func = 5) (hpg : q.pages ≤ o.pages.headD 0) :
    s.retireOp p = s.onAwl p fun a => { a with memq := l, sreg := setS a.sreg o.dest 0 } :=
  h.retireOp_none (State.retired_xlat_past hf hpg) rfl

/-- Settles O46: an operation that retires runs its steps on the block it names, and what it touched is one work at the channel. -/
theorem memOpsRetire : Obligations.MemoryOpsRetire := by
  unfold Obligations.MemoryOpsRetire
  intro s p o l q hp hl hsafe htherm hfence hreset hidle hq hpart
  have hp' : p < s.awls.length := hl ▸ hp
  have h : s.Retires p o l q := ⟨hp', by simp [hsafe, htherm, hfence, hreset], hidle, hq, hpart⟩
  refine ⟨fun hb c off r hd hs hr ho => ⟨fun b hf hread => ?_, fun b hf hread hn => ?_, fun t0 hf hwrite => ?_⟩, fun hf hpg => ?_⟩ <;>
    refine ⟨s.retireOp p, rfl, ?_⟩
  · obtain ⟨cnts, free, e⟩ := h.load hb hd hs ho hf hread
    rw [e]
    exact ⟨rfl, State.awl_onAwl s p _ hp', State.awl_onAwl_ne s p _, ⟨_, State.ctl_onCtl _ r _ hr, rfl, rfl, rfl⟩, State.ctl_onCtl_ne _ r _⟩
  · obtain ⟨cnts, free, e⟩ := h.poison hb hd hs ho hn hf hread
    have hawl : (s.retireOp p).awl p = Awl.trapped q 3 cPOISON o.pc o.addr s.mgmt.elapsed { s.awl p with memq := l } := by
      rw [e]
      exact State.awl_onAwl s p _ hp'
    rw [hawl]
    exact ⟨rfl, rfl, rfl, rfl, rfl, rfl, rfl, by rw [e]; rfl⟩
  · obtain ⟨v, ⟨cells, bad, ctls, curs, rfl⟩, hcells, cnts, free, e⟩ := h.store hb hd hs ho hf hwrite
    have hawl : (s.retireOp p).awl p = { s.awl p with memq := l } := by
      rw [e]
      exact State.awl_onAwl s p _ hp'
    rw [hawl]
    exact ⟨by rw [e]; exact hcells, rfl, rfl, rfl, by rw [e]; rfl⟩
  · rw [h.xlat_past hf hpg]
    exact ⟨rfl, State.awl_onAwl s p _ hp', State.awl_onAwl_ne s p _⟩

end Sys2Proof.Machine
end

section
/-! SUPPORT. The bank states' timers of a controller, and its precharge of an idle row. -/
namespace Sys2Proof.Machine
variable {s : State} {p k : Nat}

/-! ### One bank of a controller changed -/

theorem Ctl.Wf.bk_onBk {c : Ctl} (hc : c.Wf) (k : Nat) (f : Bank → Bank) : (c.onBk k f).bk k = f (c.bk k) :=
  (smGet_smSet ({} : Bank) c.banks k (f (c.bk k)) k hc.banks).trans (if_pos rfl)

theorem Ctl.bk_onBk_ne (c : Ctl) (f : Bank → Bank) {j : Nat} (h : j ≠ k) : (c.onBk k f).bk j = c.bk j :=
  smGet_smSet_ne ({} : Bank) c.banks (f (c.bk k)) h

/-- t is s with bank k of controller p changed by f. -/
structure State.BankChanged (s : State) (p k : Nat) (f : Bank → Bank) (t : State) : Prop where
  rest : t = { s with ctls := t.ctls }
  ctl : t.ctl p = { s.ctl p with banks := (t.ctl p).banks }
  bank : (t.ctl p).bk k = f ((s.ctl p).bk k)
  banks : ∀ j, j ≠ k → (t.ctl p).bk j = (s.ctl p).bk j
  ctls : ∀ q, q ≠ p → t.ctl q = s.ctl q

theorem State.Wf.onBk_bankChanged (hw : s.Wf) (hp : p < 136) (k : Nat) (f : Bank → Bank) : s.BankChanged p k f (s.onCtl p (·.onBk k f)) := by
  have e : (s.onCtl p (·.onBk k f)).ctl p = (s.ctl p).onBk k f := State.ctl_onCtl _ p _ (hw.ctl_lt hp)
  refine ⟨rfl, ?_, ?_, fun j hj => ?_, State.ctl_onCtl_ne _ p _⟩ <;> rw [e]
  · rfl
  · exact (hw.ctl p).bk_onBk k f
  · exact Ctl.bk_onBk_ne _ f hj

/-! ### The timers of a bank's states (R153) -/

theorem State.bankTimer_past {a : BankSt} (hk : k < 16 * s.hides) (hf : (s.ctl p).frozen = false) (ha : ((s.ctl p).bk k).st = a)
    (hpast : s.bankPast p k = true) (b : BankSt) : s.bankTimer p k a b = s.onCtl p (·.onBk k fun c => { c with st := b }) :=
  if_pos (by simp [State.bankOk, hk, hf, ha, hpast])

theorem State.bankTimer_early (hpast : s.bankPast p k = false) (a b : BankSt) : s.bankTimer p k a b = s :=
  if_neg (by simp [hpast])

/-- The three timers' commands, each with the state it ends and the state that follows. -/
theorem exec_bankTimer (hp : p < 136) {c : Instr} {a b : BankSt}
    (hc : (c, a, b) ∈ [(.bankOpeningDone p k, .opening, .opn), (.bankClosingDone p k, .closing, .closed),
      (.bankRefreshDone p k, .refreshing, .closed)]) : exec c s = .next (s.bankTimer p k a b) := by
  simp only [List.mem_cons, List.not_mem_nil, or_false, Prod.mk.injEq] at hc
  obtain ⟨rfl, rfl, rfl⟩ | ⟨rfl, rfl, rfl⟩ | ⟨rfl, rfl, rfl⟩ := hc <;> exact if_pos hp

/-! ### The hit limit (R150) -/

theorem execHitLimit_eq {e : Entry} (hp : p < 136) (hk : k < 16 * s.hides) (hf : (s.ctl p).frozen = false)
    (hst : ((s.ctl p).bk k).st = .opn) (hhits : 16 ≤ ((s.ctl p).bk k).hits) (he : e ∈ (s.ctl p).rdQ ++ (s.ctl p).wrQ)
    (hold : e.ord < ((s.ctl p).bk k).ordLast) (hkey : (s.place p e.off).key = k) (hrow : (s.place p e.off).row ≠ ((s.ctl p).bk k).row) :
    exec (.hitLimit p k) s = .next (s.onCtl p (·.onBk k fun b => { b with noHit := true })) := by
  have hconf : (((s.ctl p).rdQ ++ (s.ctl p).wrQ).any fun f => decide (f.ord < ((s.ctl p).bk k).ordLast) &&
      ((s.place p f.off).key == k && (s.place p f.off).row != ((s.ctl p).bk k).row)) = true :=
    List.any_eq_true.2 ⟨e, he, by simp [hold, hkey, hrow]⟩
  exact (if_pos hp).trans (congrArg _ (if_pos (by simp only [State.bankOk, hk, hf, hst, hhits, hconf]; rfl)))

/-! ### An idle row closed (R151) -/

/-- A bank whose precharge is sent. -/
def Bank.precharged (now : Nat) (b : Bank) : Bank := { b with st := .closing, tPre := now + 1 }

/-- The controller that precharges a bank in the present row slot. -/
def Ctl.prechargeSlot (k : Nat) (c : Ctl) : Ctl :=
  { c.onBk k (Bank.precharged c.cyc) with
    hideIdle := smSet 0 c.hideIdle (k / 16) (c.cyc + 1), rowUsed := true, lastRow := rowWord 2 (k / 16) (k % 16) 0 false }

/-- A precharge that no conflict asks for, in a row slot, changes the controller and counts one event. -/
theorem State.doPre_slot (s : State) (p k : Nat) : ∃ cnts free, ((s.doPre p k false).onCtl p fun c => { c with rowUsed := true }) =
    { s.onCtl p (Ctl.prechargeSlot k) with cnts := cnts, free := free } := by
  unfold State.doPre
  extract_lets now s1 s2
  have hs1 : (s1.onCtl p fun c => { c with rowUsed := true }) = s.onCtl p (Ctl.prechargeSlot k) :=
    (State.onCtl_onCtl _ _).trans (State.onCtl_congr rfl)
  obtain ⟨cnts, free, hs2, -⟩ : CntOnly s1 s2 := s1.count_cntOnly ..
  exact ⟨cnts, free, (congrArg (State.onCtl · p _) hs2).trans (congrArg (fun t : State => { t with cnts := cnts, free := free }) hs1)⟩

theorem execIdleRowClose_eq (hp : p < 136) (hk : k < 16 * s.hides) (hrow : s.rowFree p = true) (hpre : s.preOk p k = true)
    (hwant : s.rowWanted p k = false)
    (hidle : ∀ n ∈ [((s.ctl p).bk k).tRd, ((s.ctl p).bk k).tWr, ((s.ctl p).bk k).tAct], since (s.ctl p).cyc n 32 = true) :
    exec (.idleRowClose p k) s = .next ((s.doPre p k false).onCtl p fun c => { c with rowUsed := true }) := by
  simp only [List.forall_mem_cons, List.not_mem_nil, false_imp_iff, implies_true, and_true] at hidle
  obtain ⟨hrd, hwr, hact⟩ := hidle
  exact (if_pos hp).trans (congrArg _ (if_pos (by simp [State.bankOk, hk, hrow, hpre, hwant, hrd, hwr, hact])))

/-- Settles O22: a timer and the hit limit change one bank; a row closed when idle is one precharge in the row slot. -/
theorem bankTimers : Obligations.BankTimers := by
  unfold Obligations.BankTimers
  refine ⟨fun s p k c a b hw hp hk hf hc ha => ⟨fun hpast => ?_, fun hpast => ?_⟩,
    fun s p k e hw hp hk hf hst hhits he hold hkey hrow => ?_, fun s p k hw hp hk hrow hpre hwant hidle => ?_⟩
  · obtain ⟨rest, ctl, bank, banks, ctls⟩ := hw.onBk_bankChanged hp k fun c => { c with st := b }
    exact ⟨_, (exec_bankTimer hp hc).trans (congrArg _ (State.bankTimer_past hk hf ha hpast b)), rest, ctl, bank, banks, ctls⟩
  · exact (exec_bankTimer hp hc).trans (congrArg _ (State.bankTimer_early hpast a b))
  · obtain ⟨rest, ctl, bank, banks, ctls⟩ := hw.onBk_bankChanged hp k fun b => { b with noHit := true }
    exact ⟨_, execHitLimit_eq hp hk hf hst hhits he hold hkey hrow, rest, bank, banks, ctl, ctls⟩
  · obtain ⟨cnts, free, e⟩ := s.doPre_slot p k
    have hctl : ({ s.onCtl p (Ctl.prechargeSlot k) with cnts := cnts, free := free } : State).ctl p = (s.ctl p).prechargeSlot k :=
      State.ctl_onCtl _ p _ (hw.ctl_lt hp)
    refine ⟨_, execIdleRowClose_eq hp hk hrow hpre hwant hidle, ?_⟩
    rw [e]
    dsimp only
    rw [hctl]
    exact ⟨rfl, (hw.ctl p).bk_onBk k (Bank.precharged (s.ctl p).cyc), fun j hj => (s.ctl p).bk_onBk_ne (Bank.precharged (s.ctl p).cyc) hj,
      State.ctl_onCtl_ne _ p _, rfl⟩

end Sys2Proof.Machine
end

section
/-! SUPPORT. What the ledger of a fenced channel leaves of the controllers: none freezes and none thaws. -/
namespace Sys2Proof.Machine

/-- The freeze of a controller and the source it records (R170). -/
def Ctl.freezeOf (c : Ctl) : Bool × BitVec 4 := (c.frozen, c.frzSrc)

/-- Every controller of t is frozen as it is in s, by the same source. -/
def SameFreeze (s t : State) : Prop := ∀ q, (t.ctl q).freezeOf = (s.ctl q).freezeOf

namespace SameFreeze
variable {s₀ s t : State} {p x k i n uid : Nat} {code : BitVec 4} {detail : Nat}

theorem refl (s : State) : SameFreeze s s := fun _ => rfl

/-- Every part of the state but the controllers may change. -/
theorem rest (h : SameFreeze s₀ s)
    {pending : List Instr} {free uid hides : Nat} {build : Word} {dieSlope dieIcpt : Int} {expSig : SMap Dword} {image : Option Image}
    {cells : List Host.Cell} {bad : List (Nat × Nat)} {boot : Boot} {flash : Flash} {calRec retRec : List (List Byte)} {mgmt : Mgmt}
    {tack : Tack} {frames : List Frame} {cnts : List Cnt} {ports : List Port} {links : List Link} {awls : List Awl} {curs : List Cur}
    {sectors : List Sector} {pools : List Pool} {nets : List Net} {hars : List Har} {movs : List Mov} {jobs : List Job}
    {rhHeld : List Nat} {acc : List Acc} {pd : Pd} {seq : Seq} {safe : Safe} {tap : Tap} :
    SameFreeze s₀ { s with
      pending := pending, free := free, uid := uid, hides := hides, build := build, dieSlope := dieSlope, dieIcpt := dieIcpt,
      expSig := expSig, image := image, cells := cells, bad := bad, boot := boot, flash := flash, calRec := calRec, retRec := retRec,
      mgmt := mgmt, tack := tack, frames := frames, cnts := cnts, ports := ports, links := links, awls := awls, curs := curs,
      sectors := sectors, pools := pools, nets := nets, hars := hars, movs := movs, jobs := jobs, rhHeld := rhHeld, acc := acc, pd := pd,
      seq := seq, safe := safe, tap := tap } := h

theorem setCtl (h : SameFreeze s₀ s) {f : Ctl → Ctl} (hf : ∀ c, (f c).freezeOf = c.freezeOf := by exact fun _ => rfl) :
    SameFreeze s₀ (s.onCtl p f) := fun q => (upd_getD_proj Ctl.freezeOf hf).trans (h q)

theorem then_ending (h : SameFreeze s₀ s) (e : Ending s t) : SameFreeze s₀ t := fun q => by
  obtain ⟨m, hm⟩ := e.ctl q
  rw [hm]
  exact h q

theorem then_report (h : SameFreeze s₀ s) (e : RptOnly s t) : SameFreeze s₀ t := by
  obtain ⟨r, c, f, rfl, -⟩ := e
  exact h.rest

theorem ite {a b : State} {c : Prop} [Decidable c] (h : SameFreeze s₀ a) (k : SameFreeze s₀ b) : SameFreeze s₀ (if c then a else b) := by
  split <;> assumption

theorem iteSnd {α : Type} {a b : α × State} {c : Prop} [Decidable c] (h : SameFreeze s₀ a.2) (k : SameFreeze s₀ b.2) :
    SameFreeze s₀ (if c then a else b).2 := by
  split <;> assumption

theorem foldl {α : Type} (h : SameFreeze s₀ s) {l : List α} {f : State → α → State}
    (hf : ∀ {t a}, SameFreeze s₀ t → SameFreeze s₀ (f t a)) : SameFreeze s₀ (l.foldl f s) :=
  List.foldlRecOn _ _ h fun _ ht _ _ => hf ht

theorem count (h : SameFreeze s₀ s) {u : UnitId} {c : Nat} {cl : Option Nat} {m : Nat} {x0 x1 : Option Word} :
    SameFreeze s₀ (s.count u c cl m x0 x1) := h.then_report (s.count_cntOnly ..).rpt

theorem freeSlots (h : SameFreeze s₀ s) {l : List Slot} : SameFreeze s₀ (s.freeSlots l) := h.then_ending (Ending.refl s).freeSlots

/-! ### The array written (R155, R237) -/

theorem openGran (h : SameFreeze s₀ s) : SameFreeze s₀ (s.openGran p k) := .ite (.setCtl h.rest) h

theorem poke1 (h : SameFreeze s₀ s) {b : Block} : SameFreeze s₀ (s.poke1 p x b) := .setCtl (.rest (.setCtl (.rest h.openGran)))

theorem memWrite (h : SameFreeze s₀ s) {b : Block} : SameFreeze s₀ (s.memWrite k x b).2 := by
  unfold State.memWrite
  split
  · exact h
  · refine .iteSnd h (.rest (s := s.poke _ x b) ?_)
    unfold State.poke
    split
    · exact h.poke1.poke1
    · exact h.poke1

theorem paWrite (h : SameFreeze s₀ s) {b : Block} : SameFreeze s₀ (s.paWrite x n b).2 := by
  unfold State.paWrite
  split
  · exact h
  · exact h.memWrite

theorem paPatch (h : SameFreeze s₀ s) {bs : List Byte} : SameFreeze s₀ (s.paPatch x n bs).2 := by
  unfold State.paPatch
  exact .iteSnd h.paWrite h

theorem touchRd (h : SameFreeze s₀ s) : SameFreeze s₀ (s.touchRd x n k) := by
  induction k generalizing s x with
  | zero => exact h
  | succ k ih =>
    refine ih ?_
    split
    · exact h
    · exact h.rest

theorem settleAcc (h : SameFreeze s₀ s) {own cls : Nat} {u : Option Nat} : SameFreeze s₀ (s.settleAcc own cls u) := by
  unfold State.settleAcc
  extract_lets l s1 s2 u s3
  have h1 : SameFreeze s₀ s1 := h.rest
  have h3 : SameFreeze s₀ s3 := .rest (s := s2) (.ite h1.rest h1)
  refine .ite h1 (h3.foldl fun h' => h'.setCtl fun c => ?_)
  split <;> rfl

/-- What an agent's command does, then the works of the blocks it touched. -/
theorem posted (h : SameFreeze s₀ s) {α : Type} {own cls : Nat} {f : State → α × State}
    (hf : ∀ {t}, SameFreeze s₀ t → SameFreeze s₀ (f t).2) : SameFreeze s₀ (State.posted s own cls f).2 := by
  have hpost : SameFreeze s₀ ((f { s with acc := [] }).2.settleAcc own cls none) := (hf h.rest).settleAcc
  exact hpost.rest

/-! ### Granules and queued writes (R115, R155, R156) -/

theorem blocksDone (h : SameFreeze s₀ s) : SameFreeze s₀ (s.blocksDone n uid k) :=
  .ite (h.then_ending (Ending.refl s).jobDone) (h.then_ending (Ending.refl s).onReq.checkEnd)

theorem discardGran (h : SameFreeze s₀ s) : SameFreeze s₀ (s.discardGran p k) :=
  foldl (.rest (setCtl h.freeSlots)) fun h' => .ite h'.freeSlots.blocksDone h'.freeSlots

theorem poisonGran (h : SameFreeze s₀ s) : SameFreeze s₀ (s.poisonGran p k) := by
  unfold State.poisonGran State.markGran
  extract_lets s1
  have h1 : SameFreeze s₀ s1 := .setCtl h.discardGran
  split
  · exact .setCtl h1.discardGran
  · exact h1

theorem log (h : SameFreeze s₀ s) {r : LogRec} : SameFreeze s₀ (s.log r) := .ite (.count h.rest) (.ite h.rest h.rest)

theorem logPoison (h : SameFreeze s₀ s) {source req c : Nat} : SameFreeze s₀ (s.logPoison p k source req c) := .setCtl h.log

/-- The state of an answer, or s where there is none. -/
theorem getDSnd (h : SameFreeze s₀ s) {α : Type} {o : Option (α × State)} (ho : ∀ {a}, o = some a → SameFreeze s₀ a.2) :
    SameFreeze s₀ ((o.map (·.2)).getD s) := by
  cases o with
  | none => exact h
  | some a => exact ho rfl

theorem floorSlot (h : SameFreeze s₀ s) {a : Slot × State} (e : s.floorSlot p k = some a) : SameFreeze s₀ a.2 := by
  unfold State.floorSlot at e
  extract_lets at e
  split at e
  · cases e
    exact h.rest
  · cases e

theorem mirrorPut (h : SameFreeze s₀ s) {b : Block} : SameFreeze s₀ (s.mirrorPut p x b) := by
  unfold State.mirrorPut
  split
  · exact h
  next sp _ =>
    extract_lets s1 k s2
    have h0 : SameFreeze s₀ (s.firstWrite sp x) := .ite (.count (.setCtl h.openGran)) h
    have h1 : SameFreeze s₀ s1 := h0.rest.setCtl
    have h2 : SameFreeze s₀ s2 := h1.getDSnd h1.floorSlot
    exact h2.setCtl

theorem unheld (h : SameFreeze s₀ s) : SameFreeze s₀ (s.unheld p) :=
  h.foldl fun h' => .ite h' (.blocksDone (.mirrorPut h'.setCtl))

/-! ### Nodes and parts (R323, R325) -/

theorem putEntry (h : SameFreeze s₀ s) : SameFreeze s₀ (s.putEntry x k i).2 := .iteSnd h (h.posted (·.paPatch))

theorem failHarness (h : SameFreeze s₀ s) {who : Option Nat} : SameFreeze s₀ (s.failHarness x k who code detail) := by
  unfold State.failHarness State.sweep
  extract_lets l s1 s2 l' hit s3 s4
  have h2 : SameFreeze s₀ s2 := .rest (s := s1) (.ite h h.rest)
  have h3 : SameFreeze s₀ s3 := h2.foldl (·.rest)
  have h4 : SameFreeze s₀ s4 := h3.foldl fun h' => h'.foldl fun h'' => .ite h''.rest h''
  exact h4.foldl (·.putEntry)

theorem writeEntry (h : SameFreeze s₀ s) : SameFreeze s₀ (s.writeEntry x k i) := .ite h.putEntry h.putEntry.failHarness

theorem endNode (h : SameFreeze s₀ s) {st : NodeSt} : SameFreeze s₀ (s.endNode x k i st code detail) := by
  unfold State.endNode
  extract_lets n s1 s2 s3 s4 all s5
  have h2 : SameFreeze s₀ s2 := writeEntry (s := s1) h.rest
  have h3 : SameFreeze s₀ s3 := .ite h2.count (.ite h2.count h2)
  have h4 : SameFreeze s₀ s4 := .ite h3.failHarness h3
  have h5 : SameFreeze s₀ s5 := h4.foldl fun h' => .ite h'.rest h'
  exact .ite h5.rest h5

theorem partEnded (h : SameFreeze s₀ s) : SameFreeze s₀ (s.partEnded x k i n code detail) := by
  unfold State.partEnded
  extract_lets s1 m
  have h1 : SameFreeze s₀ s1 := h.rest
  refine .ite ?_ h1
  split
  · exact h1.endNode
  · exact h1.endNode

theorem queuePart (h : SameFreeze s₀ s) {q : Part} (e : s.queuePart q = some (k, t)) : SameFreeze s₀ t := by
  unfold State.queuePart at e
  repeat' split at e
  all_goals cases e
  · exact h.rest
  · exact h.rest

theorem sendParts (h : SameFreeze s₀ s) {q : Part} : SameFreeze s₀ (s.sendParts x k i q) := by
  unfold State.sendParts
  refine h.foldl fun h' => .ite h'.partEnded (.ite h'.partEnded ?_)
  split
  · exact h'
  next e => exact .count (.rest (h'.queuePart e))

theorem partLost (h : SameFreeze s₀ s) {q : Part} : SameFreeze s₀ (s.partLost q) := .ite (.sendParts h.rest) h.partEnded

theorem orphan (h : SameFreeze s₀ s) : SameFreeze s₀ (s.orphan n) := by
  refine h.foldl fun h' => ?_
  unfold State.orphanCtx
  extract_lets pd s1 a
  have h1 : SameFreeze s₀ s1 := h'.rest
  exact .ite (h1.posted (·.touchRd.paWrite)) h1

theorem dropAwl (h : SameFreeze s₀ s) : SameFreeze s₀ (s.dropAwl p) := foldl (.orphan h.rest) (·.partLost)

theorem endCarry (h : SameFreeze s₀ s) : SameFreeze s₀ (s.endCarry p) := by
  unfold State.endCarry
  split
  · exact h
  · exact foldl h.rest (·.partLost)

theorem assignCarrier (h : SameFreeze s₀ s) : SameFreeze s₀ (s.assignCarrier p) := by
  unfold State.assignCarrier
  split
  · exact h
  · split
    · exact h.rest
    · exact h.rest

/-! ### Units fenced (R391, R402, R417) -/

theorem walkNext (h : SameFreeze s₀ s) : SameFreeze s₀ s.walkNext := by
  unfold State.walkNext
  extract_lets b go s1
  split
  · exact h.rest
  · exact h.rest

theorem sliceLost (h : SameFreeze s₀ s) : SameFreeze s₀ s.sliceLost := .ite h.rest (.walkNext h.rest)

theorem sliceUnhold (h : SameFreeze s₀ s) : SameFreeze s₀ s.sliceUnhold := by
  unfold State.sliceUnhold
  split
  · exact h.rest
  · exact h

/-- A slice ends ABORTED. -/
theorem sliceAbort (h : SameFreeze s₀ s) : SameFreeze s₀ (s.sliceEnd 2 n) := by
  unfold State.sliceEnd
  extract_lets s1 ran
  have h1 : SameFreeze s₀ s1 := h.sliceUnhold.rest
  exact sliceLost h1.rest

theorem markFenced (h : SameFreeze s₀ s) {u : UnitId} : SameFreeze s₀ (s.markFenced u) := by
  have hcut : SameFreeze s₀ s.sliceCut := .ite h.rest h
  have hbreak : SameFreeze s₀ (s.sliceBreak (· == u)) := .ite hcut.sliceAbort h
  exact hbreak.rest

theorem stopLink (h : SameFreeze s₀ s) : SameFreeze s₀ (s.stopLink p) := by
  unfold State.stopLink
  extract_lets l s1
  have h1 : SameFreeze s₀ s1 := by
    refine .ite ?_ h
    split
    · exact h.rest
    · exact h
  exact h1.rest

theorem abortAt (h : SameFreeze s₀ s) : SameFreeze s₀ (s.abortAt p) := by
  unfold State.abortAt
  refine h.foldl fun {t a} h' => ?_
  split
  · exact .ite (h'.then_ending (Ending.refl t).jobDoneN) (.ite (h'.then_ending (Ending.refl t).finish) h')

/-! ### The sparing (R110, R112-R115, R255) -/

theorem recallLent (h : SameFreeze s₀ s) : SameFreeze s₀ (s.recall p) := by
  unfold State.recall
  extract_lets lent s1 hides hit first num s2 s3 s4
  have h1 : SameFreeze s₀ s1 := .ite h.setCtl h
  have h2 : SameFreeze s₀ s2 := h1.foldl (·.poisonGran)
  have h3 : SameFreeze s₀ s3 := by
    unfold s3
    split
    · exact h2.logPoison
    · exact h2
  have h4 : SameFreeze s₀ s4 := h3.foldl (·.log)
  exact .ite h1 (.rest h4.setCtl)

theorem recallFor (h : SameFreeze s₀ s) : SameFreeze s₀ (s.recallFor x p) := by
  unfold State.recallFor
  split
  · exact .ite h h.recallLent
  · exact h

theorem poisonFrom (h : SameFreeze s₀ s) : SameFreeze s₀ (s.poisonFrom p n k) := by
  unfold State.poisonFrom
  extract_lets add keep s1
  have h1 : SameFreeze s₀ s1 := h.setCtl
  split
  · exact h1.logPoison
  · exact h1

theorem flipTo (h : SameFreeze s₀ s) : SameFreeze s₀ (s.flipTo x k) := by
  unfold State.flipTo
  extract_lets sp old s1 s2 s3
  have h1 : SameFreeze s₀ s1 := h.rest
  have h2 : SameFreeze s₀ s2 := h1.foldl (·.rest)
  have h3 : SameFreeze s₀ s3 := h2.setCtl.endCarry
  unfold State.rehold
  split
  · exact h3
  · exact h3.rest

theorem loseSpare (h : SameFreeze s₀ s) : SameFreeze s₀ (s.loseSpare x) := by
  unfold State.loseSpare
  extract_lets e s1 s2
  have h1 : SameFreeze s₀ s1 := by
    unfold s1
    split
    · exact h.recallLent
    · exact h
  split
  · exact h1.rest
  · exact .unheld h1.rest
  · split
    · exact h1.rest
    · exact h1.rest
  · exact h1.rest
  · exact h1

theorem loseHome (h : SameFreeze s₀ s) : SameFreeze s₀ (s.loseHome x k) := by
  unfold State.loseHome
  extract_lets e old sp s1 hole s2 s3 s4
  have h1 : SameFreeze s₀ s1 := h.rest
  have h3 : SameFreeze s₀ s3 := h1.recallFor.poisonFrom
  have h4 : SameFreeze s₀ s4 := h1.poisonFrom
  refine .ite h ?_
  split
  · exact .rest h3.flipTo
  · exact .ite (.rest h4.flipTo) h1.rest
  · refine .ite ?_ h1.rest
    exact then_report (.rest h1.flipTo) ((State.latch_rptOnly _ _ _ _).trans (State.collect_rptOnly _ _))
  · exact h1.rest

theorem fenceChan (h : SameFreeze s₀ s) : SameFreeze s₀ (s.fenceChan p) := by
  unfold State.fenceChan
  refine .ite h ?_
  extract_lets x s1 s2 frozen s3 s4 s5 s6 s7 other s8 s9
  have h1 : SameFreeze s₀ s1 := .stopLink (h.foldl (·.markFenced))
  have h2 : SameFreeze s₀ s2 := h1.setCtl
  have h3 : SameFreeze s₀ s3 := .ite h2.rest h2
  have h4 : SameFreeze s₀ s4 := h3.abortAt
  have h5 : SameFreeze s₀ s5 := .ite h4 (.setCtl h4.freeSlots)
  have h6 : SameFreeze s₀ s6 := .ite h5.loseSpare h5.loseHome
  have h8 : SameFreeze s₀ s8 := .rest h6.markFenced
  have h9 : SameFreeze s₀ s9 := by
    unfold s9
    clear_value other
    split
    · exact h8.assignCarrier
    · exact h8
  exact .rest h9.dropAwl

theorem fenceChannel (h : SameFreeze s₀ s) : SameFreeze s₀ (s.fenceChannel p) := .ite h (.ite h.fenceChan (.rest h.fenceChan))

end SameFreeze

end Sys2Proof.Machine
end

section
/-! SUPPORT. Faults of a channel controller: its freeze, the end of a row penalty, an ordered group that runs out of time. -/
namespace Sys2Proof.Machine
variable {s : State} {p src : Nat}

/-! ### A controller freezes (R152, R169, R170, R179) -/

/-- A contained source of an unarmed controller, found real, latches and freezes it. -/
theorem State.check_ctlFault (hu : s.unarmed (.ctl p)) (hsrc : 2 ≤ src ∧ src ≤ 6) : s.check (.ctl p) src true = s.ctlFault p src := by
  have hfault : s.fault (.ctl p) src = s.ctlFault p src := if_pos (by simpa using hsrc)
  rw [State.check, s.fire_none _ _ _ hu, ← hfault]
  rfl

/-- The controller that faults is frozen, with its source, whatever its channel's fence does after. -/
theorem State.Wf.ctlFault_frozen (hw : s.Wf) (hp : p < 136) (hf : (s.ctl p).frozen = false) (src : Nat) :
    ((s.ctlFault p src).ctl p).frozen = true ∧ ((s.ctlFault p src).ctl p).frzSrc = BitVec.ofNat 4 src := by
  have hr : ((s.report (.ctl p) src).ctl p).frozen = false := by
    rw [State.report_eq]
    exact hf
  unfold State.ctlFault State.freeze
  rw [if_neg (by simp [hr])]
  extract_lets held s1 s2
  have hfreeze : (s1.ctl p).freezeOf = (true, BitVec.ofNat 4 src) :=
    congrArg Ctl.freezeOf (State.ctl_onCtl _ p _ ((State.Wf.report hw).ctl_lt hp))
  have h2 : SameFreeze s1 s2 := (SameFreeze.refl s1).rest
  exact Prod.mk.inj ((h2.fenceChannel p).trans hfreeze)

theorem State.frozen_of_canIssue (h : s.canIssue p = true) : (s.ctl p).frozen = false := by
  cases hf : (s.ctl p).frozen with
  | false => rfl
  | true => simp [State.canIssue, hf] at h

theorem execSchedStall_eq (hp : p < 136) (hc : s.canIssue p = true) (hu : s.unarmed (.ctl p))
    (hq : ¬ ((s.ctl p).rdQ = [] ∧ (s.ctl p).wrQ = [])) : exec (.schedStall p) s = .next (s.ctlFault p 6) := by
  have hany : (s.canIssue p && !((s.ctl p).rdQ.isEmpty && (s.ctl p).wrQ.isEmpty)) = true := by
    simpa [hc, imp_iff_not_or] using hq
  exact (if_pos hp).trans (congrArg _ ((if_pos hany).trans (State.check_ctlFault hu (by decide))))

/-- The Hide raises its alert: the controller's trace of it, and ca_err of the Hide. -/
def Link.alerted (h : Nat) (l : Link) : Link :=
  { l with alert := l.alert ||| ((1 : BitVec 8) <<< h), mr := smSet 0 l.mr (256 * h + 3) (smGet 0 l.mr (256 * h + 3) ||| 1) }

theorem execHideAlert_eq {h : Nat} (hp : p < 136) (hh : h < s.hides) (hf : s.chFenced p = false) (hpow : (s.ctl p).unpowered = false)
    (hu : s.unarmed (.ctl p)) : exec (.hideAlert p h) s = .next ((s.onLink p (Link.alerted h)).ctlFault p 2) := by
  have hlive : ¬ (s.hides ≤ h || s.chFenced p || (s.ctl p).unpowered) = true := by simpa [hf, hpow] using hh
  have hu' : (s.onLink p (Link.alerted h)).unarmed (.ctl p) := hu
  exact (if_pos hp).trans (congrArg _ ((if_neg hlive).trans (State.check_ctlFault hu' (by decide))))

/-! ### An ordered group runs out of time (R165) -/

/-- The controller that closes a group whose time is out, and records where it stood. -/
def Ctl.timedOut (k : OGroup) (c : Ctl) : Ctl :=
  { c with groups := c.groups.filter (fun h => h.key != k.key), ordEvent := true
           ordLastNext := BitVec.ofNat 8 k.next, ordLastCount := BitVec.ofNat 8 k.count }

/-- The contribution that waits ends REDUCTION_INCOMPLETE, its slots free. -/
def State.ordCut (s : State) (c : Contrib) : State := (s.freeSlots c.slots).finish c.port c.uid cINCOMPLETE

theorem State.ordCut_ending (s : State) (c : Contrib) : Ending s (s.ordCut c) := (Ending.refl s).freeSlots.finish

theorem State.timeoutGroup_one {k : OGroup} {c : Contrib} (hc : k.waiting = [c]) (hp : p < s.ctls.length) (hw : (s.ctl p).ordWait = []) :
    s.timeoutGroup p k = (s.ordCut c).onCtl p (Ctl.timedOut k) := by
  have hnone : (((s.ordCut c).onCtl p (Ctl.timedOut k)).ctl p).ordWait = [] := by
    obtain ⟨m, hm⟩ := (s.ordCut_ending c).ctl p
    rw [State.ctl_onCtl _ p _ (by rw [(s.ordCut_ending c).ctls]; exact hp), hm]
    exact hw
  unfold State.timeoutGroup State.closeGroup
  rw [hc]
  extract_lets s1 s2 s3
  have e : s3 = (s.ordCut c).onCtl p (Ctl.timedOut k) := State.onCtl_onCtl _ _
  rw [e, hnone]

theorem execOrdTimeout_eq {g : Nat} {k : OGroup} {c : Contrib} (hw : s.Wf) (hp : p < 136) (hg : (s.ctl p).groups[g]? = some k)
    (hc : k.waiting = [c]) (hf : (s.ctl p).frozen = false) (hrun : (s.ctl p).ordRun = []) (hwait : (s.ctl p).ordWait = []) :
    exec (.ordTimeout p g) s = .next ((s.ordCut c).onCtl p (Ctl.timedOut k)) := by
  refine (if_pos hp).trans (congrArg _ ?_)
  dsimp only
  rw [hg, ← State.timeoutGroup_one hc (hw.ctl_lt hp) hwait]
  exact if_neg (by simp [hf, hc, hrun])

/-- A contribution of a slice port is answered by an acknowledge that says how many of its blocks were applied (R88). -/
theorem State.Wf.ordCut_ack {c : Contrib} {r : Req} (hw : s.Wf) (hn : c.port < 128) (hr : s.reqOf c.port c.uid = some r)
    (ha : r.answered = false) (hl : r.remote = false) (ho : onData r.op r.arg = false) :
    ((s.ordCut c).port c.port).ackQ = (s.port c.port).ackQ ++ [⟨r.tag, cINCOMPLETE, r.doneN, false⟩] := by
  have hlen : c.port < (s.freeSlots c.slots).ports.length := by
    rw [State.freeSlots_ports, hw.ports]
    exact hn
  rw [State.ordCut, State.finish_home hn (State.reqOf_freeSlots.trans hr) ha hl, State.noteBad, if_neg (by decide),
    State.port_onPort _ _ _ hlen, Req.endAns_ack ho, State.port_freeSlots]
  rfl

/-- Settles O24: a fault of an unarmed controller freezes it; a penalty's end lifts one hold; a group that runs out of time ends the
contribution that waits, and its controller alone records it. -/
theorem channelFaults : Obligations.ChannelFaults := by
  unfold Obligations.ChannelFaults
  refine ⟨fun s p hw hp hc hu hq => ⟨execSchedStall_eq hp hc hu hq, hw.ctlFault_frozen hp (State.frozen_of_canIssue hc) 6⟩,
    fun s p h hp hh hf hpow hu => execHideAlert_eq hp hh hf hpow hu, fun s r hw => ⟨fun hr => ?_, fun hr => if_neg (Nat.not_lt.2 hr)⟩,
    fun s p g k c hw hp hg hc hf hrun hwait => ?_⟩
  · refine ⟨s.unhold r.toNat .rowPenalty, if_pos hr, rfl, ?_, State.port_onPort_ne _ _ _⟩
    exact congrArg Port.holds (State.port_onPort _ _ _ (hw.ports ▸ hr))
  · have hend : Ending s (s.ordCut c) := s.ordCut_ending c
    obtain ⟨m, hm⟩ := hend.ctl p
    have hctl : ((s.ordCut c).onCtl p (Ctl.timedOut k)).ctl p = Ctl.timedOut k { s.ctl p with misb := m } := by
      rw [State.ctl_onCtl _ p _ (by rw [hend.ctls]; exact hw.ctl_lt hp), hm]
    refine ⟨_, execOrdTimeout_eq hw hp hg hc hf hrun hwait, ?_⟩
    dsimp only
    rw [hctl]
    refine ⟨?_, rfl, rfl, rfl, rfl, fun r hn hr ha hl ho => hw.ordCut_ack hn hr ha hl ho⟩
    show (s.ordCut c).cells = s.cells
    rw [hend.rest]

end Sys2Proof.Machine
end

section
/-! SUPPORT. A link whose sparse map of mode registers is not in canonical form: a ROT of position 0 does not reach the Hide. -/
namespace Sys2Proof.Machine

/-- A link whose read group 0 steps from position 1 to position 0, with its Hides' mode registers listed out of order: ROT of Hide 0,
which holds 7, after register 0x13. -/
def unsortedLink : Link :=
  { st := .running, grps := upd ({} : Link).grps 0 fun _ => { c := 1, st := .step }, mr := [(0x13, 1), (0x12, 7)] }

/-- The reset state with that link at channel 0. -/
def unsortedMr : State := State.reset.onLink 0 fun _ => unsortedLink

/-- The well-formed states ask no order of the mode registers. -/
theorem unsortedMr_wf : unsortedMr.Wf := State.Wf.reset.onLink 0 _ (by decide +kernel)

/-- The step of the group has its turn. -/
theorem unsortedMr_steps : unsortedMr.calOn 0 = true ∧ unsortedMr.linkQuiet 0 = false ∧ unsortedMr.rowFree 0 = true ∧
    ((unsortedMr.link 0).grp (grpIx 0 0)).st = .step ∧ ((unsortedMr.link 0).grp (grpIx 0 0)).rot = none ∧
    since (unsortedMr.ctl 0).cyc ((unsortedMr.link 0).stepT.getD (stepKey 0 0) 0) (stepGap 0) = true := by
  decide +kernel

/-- The broadcast writes 0, the value of an unlisted register, and the store finds no key 0x12 before 0x13 to drop: Hide 0 still holds 7. -/
theorem rotStep_unsortedMr {t : State} (h : exec (.rotStep 0 0 0) unsortedMr = .next t) : smGet 0 (t.link 0).mr 0x12 = 7 := by
  change execRotStep 0 0 0 unsortedMr = .next t at h
  rw [execRotStep, onChan, if_pos (by decide)] at h
  obtain rfl := Host.Outcome.next.inj h
  decide +kernel

/-- Refutes O29: ROT_STEP moves read group 0 of `unsortedMr` to position 0, whose MRW data are 0; the statement has Hide 0 hold them, and
it holds the 7 from before. A store of 0 is right in a sparse map in canonical form only, and `State.Wf` does not ask that form of
`Link.mr`. -/
theorem not_calibration : ¬ Obligations.Calibration := by
  unfold Obligations.Calibration
  rintro ⟨-, -, hrot, -⟩
  obtain ⟨hcal, hquiet, hrow, hst, hnone, hgap⟩ := unsortedMr_steps
  obtain ⟨hstep, -⟩ := hrot unsortedMr 0 0 0 unsortedMr_wf (by decide) (by decide)
  obtain ⟨t, ht, -, -, -, hmr, -⟩ := hstep hcal hquiet hrow hst hnone hgap
  have h0 : smGet 0 (t.link 0).mr 0x12 = 0 := hmr 0 (by decide)
  rw [rotStep_unsortedMr ht] at h0
  exact absurd h0 (by decide)

end Sys2Proof.Machine
end

section
/-! SUPPORT. A link changed, and a tracking slice: what one result and a whole slice leave of the lanes' trims (R197). -/
namespace Sys2Proof.Machine
variable {s : State} {p set : Nat} {l : Link} {r : TrackRes} {res : List TrackRes} {now : Dword}

/-! ### A link changed -/

theorem State.Wf.link_lt (h : s.Wf) (hp : p < 136) : p < s.links.length := h.links ▸ hp

theorem State.onLink_onLink (f g : Link → Link) : (s.onLink p f).onLink p g = s.onLink p fun l => g (f l) :=
  congrArg (fun l => { s with links := l }) (upd_upd f g s.links p)

theorem State.onLink_congr {f g : Link → Link} (h : f (s.link p) = g (s.link p)) : s.onLink p f = s.onLink p g :=
  congrArg (fun l => { s with links := l }) (upd_congr h)

/-- A change that leaves the link leaves the state. -/
theorem State.onLink_of_link {f : Link → Link} (h : f (s.link p) = s.link p) : s.onLink p f = s :=
  congrArg (fun l => { s with links := l }) (upd_of_getD h)

/-! ### One result -/

/-- The key of the position that a result is of. -/
def trackKey (set : Nat) (r : TrackRes) : Nat := laneKey set r.group r.pos

/-- Phase steps by which a result moves its position, away from the side that fails. -/
def trackMove (r : TrackRes) : Int := if r.lowFail then 2 else if r.highFail then -2 else 0

/-- The slice of a link tests the position: one of a parked group of the set, but the parked one. -/
def Link.tests (l : Link) (set : Nat) (r : TrackRes) : Bool :=
  l.tracked set r.group && decide (r.pos ≤ lastPos set) && decide (r.pos ≠ (l.grp (grpIx set r.group)).c)

/-- Trims after a test that does not fail on both sides. -/
def Lane.retracked (now : Dword) (r : TrackRes) (k : Lane) : Lane :=
  { k with phase := BitVec.ofInt 7 (k.phase.toNat + trackMove r), count := if k.count = 0xFFFF then k.count else k.count + 1, time := now
           stale := false }

/-- The link after one result. -/
def Link.track (now : Dword) (set : Nat) (l : Link) (r : TrackRes) : Link :=
  if l.tests set r then { l with lanes := smSet {} l.lanes (trackKey set r) ((l.lane (trackKey set r)).retracked now r) } else l

theorem State.track_eq (hr : (r.lowFail && r.highFail) = false) : s.track p set r = s.onLink p (·.track s.mgmt.elapsed set r) := by
  have hskip : (!(s.link p).tracked set r.group || decide (lastPos set < r.pos) || decide (r.pos = ((s.link p).grp (grpIx set r.group)).c)) =
      !(s.link p).tests set r := by
    simp only [Link.tests, Bool.not_and, ← decide_not, Nat.not_le, ne_eq, not_not]
  unfold State.track
  dsimp only
  rw [hskip, hr]
  cases ht : (s.link p).tests set r with
  | false =>
    have hkeep : (s.link p).track s.mgmt.elapsed set r = s.link p := if_neg (by rw [ht]; decide)
    exact (if_pos rfl).trans (State.onLink_of_link (f := (·.track s.mgmt.elapsed set r)) hkeep).symm
  | true =>
    refine (State.onLink_congr ?_).trans rfl
    dsimp only
    rw [ite_self, Link.track, ht]
    rfl

/-- Results none of which fails on both sides change the link alone. -/
theorem State.foldl_track (h : ∀ r ∈ res, (r.lowFail && r.highFail) = false) :
    res.foldl (fun s r => s.track p set r) s = s.onLink p fun l => res.foldl (Link.track s.mgmt.elapsed set) l := by
  induction res generalizing s with
  | nil => exact (State.onLink_of_link rfl).symm
  | cons r res ih =>
    obtain ⟨hr, hres⟩ := List.forall_mem_cons.1 h
    rw [List.foldl_cons, State.track_eq hr, ih hres, State.onLink_onLink]
    rfl

/-! ### A slice's results -/

/-- Results leave all of the link but the lanes' trims. -/
theorem Link.foldl_track_lanes : ∃ lanes, res.foldl (Link.track now set) l = { l with lanes := lanes } := by
  refine List.foldlRecOn (motive := fun t : Link => ∃ lanes, t = { l with lanes := lanes }) _ _ ⟨l.lanes, rfl⟩ fun t ht r _ => ?_
  obtain ⟨lanes, rfl⟩ := ht
  unfold Link.track
  split
  · exact ⟨_, rfl⟩
  · exact ⟨_, rfl⟩

theorem Link.track_tests (q : TrackRes) : (l.track now set r).tests set q = l.tests set q := by
  unfold Link.track
  split <;> rfl

theorem Link.track_wf (h : smWf {} l.lanes = true) : smWf {} (l.track now set r).lanes = true := by
  unfold Link.track
  split
  · exact smSet_wf _ _ _ _ h
  · exact h

theorem Link.foldl_track_wf (h : smWf {} l.lanes = true) : smWf {} (res.foldl (Link.track now set) l).lanes = true :=
  List.foldlRecOn (motive := fun t => smWf {} (Link.lanes t) = true) _ _ h fun _ ht _ _ => Link.track_wf ht

/-- A position that no result is of keeps its trims. -/
theorem Link.lane_foldl_track_ne {k : Nat} (h : ∀ q ∈ res, l.tests set q = true → trackKey set q ≠ k) :
    (res.foldl (Link.track now set) l).lane k = l.lane k := by
  induction res generalizing l with
  | nil => rfl
  | cons q res ih =>
    obtain ⟨hq, hres⟩ := List.forall_mem_cons.1 h
    rw [List.foldl_cons, ih fun x hx ht => hres x hx (Link.track_tests x ▸ ht), Link.track]
    split
    · exact smGet_smSet_ne _ _ _ (hq ‹_›).symm
    · rfl

/-- Two positions of a set's groups have two keys. -/
theorem laneKey_inj {g g' c c' : Nat} (hc : c ≤ lastPos set) (hc' : c' ≤ lastPos set) (h : laneKey set g c = laneKey set g' c') :
    g = g' ∧ c = c' := by
  unfold laneKey at h
  unfold lastPos at hc hc'
  split at h <;> simp_all only [if_true, if_false] <;> omega

theorem Link.pos_le_of_tests (h : l.tests set r = true) : r.pos ≤ lastPos set := by
  simp only [Link.tests, Bool.and_eq_true, decide_eq_true_eq] at h
  exact h.1.2

/-- The one result of a position that the slice tests decides its trims. -/
theorem Link.lane_foldl_track (hl : smWf {} l.lanes = true) (ht : l.tests set r = true)
    (hone : res.filter (fun q => q.group == r.group && q.pos == r.pos) = [r]) :
    (res.foldl (Link.track now set) l).lane (trackKey set r) = (l.lane (trackKey set r)).retracked now r := by
  obtain ⟨a, b, rfl, ha, -, hb⟩ := List.filter_eq_cons_iff.1 hone
  have hne : ∀ q, l.tests set q = true → ¬ (q.group == r.group && q.pos == r.pos) = true → trackKey set q ≠ trackKey set r := by
    intro q hq hqr he
    obtain ⟨hg, hp⟩ := laneKey_inj (Link.pos_le_of_tests hq) (Link.pos_le_of_tests ht) he
    exact hqr (by simp [hg, hp])
  have hbefore : (a.foldl (Link.track now set) l).lane (trackKey set r) = l.lane (trackKey set r) :=
    Link.lane_foldl_track_ne fun q hq h => hne q h (ha q hq)
  obtain ⟨lanes, hm⟩ := Link.foldl_track_lanes (now := now) (set := set) (l := l) (res := a)
  have htests : ∀ q, (a.foldl (Link.track now set) l).tests set q = l.tests set q := fun q => by
    rw [hm]
    rfl
  rw [List.foldl_append, List.foldl_cons, Link.lane_foldl_track_ne fun q hq h =>
    hne q (htests q ▸ Link.track_tests q ▸ h) (List.filter_eq_nil_iff.1 hb q hq), Link.track, if_pos ((htests r).trans ht), hbefore]
  exact (smGet_smSet _ _ _ _ _ (Link.foldl_track_wf hl)).trans (if_pos rfl)

end Sys2Proof.Machine
end

section
/-! SUPPORT. Tracking slices, stale positions, full retrains and the end of a halt: what each command makes of its link. -/
namespace Sys2Proof.Machine
variable {s : State} {p n set : Nat} {res : List TrackRes} {v : Word} {q : LanePos} {r : TrainRes} {l : Link}

/-! ### TRACKING_SLICE (R197) -/

/-- The link with a tracking slice of the set under way. -/
def Link.slicing (set now stop : Nat) (l : Link) : Link :=
  { l with sliceT := upd l.sliceT set fun _ => now + 1, slice := some (set, stop) }

/-- A slice that has its turn: its results are applied to the link at once; what it counts and its length change no more. -/
theorem execTrackingSlice_eq (hp : p < 136) (hset : set ≤ 2) (hcal : s.calOn p = true) (hquiet : s.linkQuiet p = false)
    (hissue : s.canIssue p = true) (hok : s.sliceOk p = true) (hcov : (s.link p).covers set res = true) (hu : s.unarmed (.link p))
    (hres : ∀ r ∈ res, (r.lowFail && r.highFail) = false)
    (hgap : since (s.ctl p).cyc ((s.link p).sliceT.getD set 0) (if set < 2 then cycMs else 2 * cycMs) = true) :
    ∃ stop cnts free, (s.ctl p).cyc < stop ∧ stop ≤ (s.ctl p).cyc + 2400 ∧
      exec (.trackingSlice p set res) s = .next { s.onLink p fun l =>
        res.foldl (Link.track s.mgmt.elapsed set) (l.slicing set (s.ctl p).cyc stop) with cnts := cnts, free := free } := by
  have hturn : ¬ (decide (2 < set) || !s.calOn p || s.linkQuiet p || !s.canIssue p || !s.sliceOk p || !(s.link p).covers set res ||
      !since (s.ctl p).cyc ((s.link p).sliceT.getD set 0) (if set < 2 then cycMs else 2 * cycMs)) = true := by
    rw [hcal, hquiet, hissue, hok, hcov, hgap, decide_eq_false (Nat.not_lt.2 hset)]
    decide
  have hchecks : [2, 5].foldl (fun s b => s.check (.link p) b false) s = s := by
    simp only [List.foldl_cons, List.foldl_nil, State.check_unarmed _ _ _ hu]
  obtain ⟨cnts, free, hc, -⟩ := s.countL_cntOnly (.link p) 6 true false
  refine ⟨(s.ctl p).cyc + (Config.freeWord free).toNat % 2400 + 1, cnts, free + 1, by omega, by omega, ?_⟩
  refine (if_pos hp).trans (congrArg _ ((if_neg hturn).trans ?_))
  dsimp only
  rw [hchecks, hc]
  dsimp only [State.takeFree]
  rw [State.foldl_track hres, State.onLink_onLink]
  rfl

/-! ### LANE_STALE (R199) -/

/-- A full retrain starts (R200). -/
def Link.retrain (l : Link) : Link := { l with rtRun := true, rtDone := 0, st := if l.st = .running then .retrain else l.st }

theorem Link.retrain_running (h : l.st = .running) : l.retrain = { l with rtRun := true, rtDone := 0, st := .retrain } := by
  rw [Link.retrain, if_pos h]

theorem State.startRetrain_eq (h : (s.link p).rtRun = false) : s.startRetrain p = s.onLink p Link.retrain :=
  if_neg (by simp [h])

/-- A corrected source of an unarmed link, found real, latches (R204). -/
theorem State.check_linkReport {bit : Nat} (hu : s.unarmed (.link p)) (hb : bit < 4) : s.check (.link p) bit true = s.report (.link p) bit := by
  have hfault : s.fault (.link p) bit = s.report (.link p) bit := if_neg (by simp [Nat.not_le.2 hb])
  rw [State.check, s.fire_none _ _ _ hu, ← hfault]
  rfl

/-- A position flagged stale. -/
def Link.staled (q : LanePos) (l : Link) : Link :=
  { l with lanes := smSet {} l.lanes (lposKey q) { l.lane (lposKey q) with stale := true }, calEv := l.calEv ||| 4 }

theorem execLaneStale_eq (hp : p < 136) (hq : lposOk q = true) (hcal : s.calOn p = true) (hl : p < s.links.length)
    (hrt : (s.link p).rtRun = false) (hc : q.pos ≠ ((s.link p).grp (grpIx q.set q.group)).c) (hu : s.unarmed (.link p)) :
    exec (.laneStale p q) s = .next (((s.onLink p (Link.staled q)).report (.link p) 1).onLink p Link.retrain) := by
  have hlive : ¬ (!lposOk q || !s.calOn p || q.pos == ((s.link p).grp (grpIx q.set q.group)).c) = true := by simp [hq, hcal, hc]
  refine (if_pos hp).trans (congrArg _ ((if_neg hlive).trans ?_))
  have hu' : (s.onLink p (Link.staled q)).unarmed (.link p) := hu
  have hstale : ((s.onLane p (lposKey q) fun k => { k with stale := true }).onLink p fun k => { k with calEv := k.calEv ||| 4 }) =
      s.onLink p (Link.staled q) := State.onLink_onLink _ _
  dsimp only
  rw [hstale, State.check_linkReport hu' (by decide), State.startRetrain_eq]
  rw [State.report_eq]
  exact (congrArg Link.rtRun (s.link_onLink p _ hl)).trans hrt

/-! ### FULL_RETRAIN (R200) -/

section
variable (h0 : bitN v.toNat 0 = true) (hk : keyed v = true)
include h0 hk

theorem State.wLinkCtrl_starts (hcal : s.calOn p = true) (hrt : (s.link p).rtRun = false) :
    s.wLinkCtrl p v = s.onLink p Link.retrain := by
  rw [State.wLinkCtrl, h0, hk, hrt, hcal, State.startRetrain_eq hrt]
  rfl

theorem State.wLinkCtrl_rejects (hrt : (s.link p).rtRun = true) : s.wLinkCtrl p v = s.reject (.link p) := by
  rw [State.wLinkCtrl, h0, hk, hrt]
  rfl

end

/-- Which port's stage a channel has is no matter of its link. -/
theorem State.portAt_onLink (f : Link → Link) : (s.onLink p f).portAt p = s.portAt p := rfl

/-! ### RETRAIN_SLICE and RETRAIN_SLICE_END (R200) -/

/-- The link with a slice of its retrain begun. -/
def Link.sliceBegun (now : Nat) (l : Link) : Link := { l with rtSlice := true, rtT := now + 1 }

/-- The link with the slice of its retrain ended. -/
def Link.sliceEnded (l : Link) : Link := { l with rtSlice := false, rtDone := l.rtDone + 1 }

theorem execRetrainSlice_eq (hp : p < 136) (hrt : (s.link p).rtRun = true) (hsl : (s.link p).rtSlice = false)
    (hst : (s.link p).st = .retrain) (hissue : s.canIssue p = true) (hok : s.sliceOk p = true) (hn : s.portAt p = some n)
    (hgap : since (s.ctl p).cyc (s.link p).rtT 32000 = true) :
    exec (.retrainSlice p) s = .next ((s.onLink p (Link.sliceBegun (s.ctl p).cyc)).hold n .slice) := by
  have hturn : ¬ (!(s.link p).rtRun || (s.link p).rtSlice || (s.link p).st != .retrain || !s.canIssue p || !s.sliceOk p ||
      !since (s.ctl p).cyc (s.link p).rtT 32000) = true := by simp [hrt, hsl, hst, hissue, hok, hgap]
  refine (if_pos hp).trans (congrArg _ ((if_neg hturn).trans ?_))
  dsimp only
  rw [State.portAt_onLink, hn]
  rfl

theorem execRetrainSlice_early (hp : p < 136) (hgap : since (s.ctl p).cyc (s.link p).rtT 32000 = false) :
    exec (.retrainSlice p) s = .next s :=
  (if_pos hp).trans (congrArg _ (if_pos (by simp [hgap])))

/-- No command issues at the channel while the slice holds it. -/
theorem State.canIssue_of_rtSlice (h : (s.link p).rtSlice = true) : s.canIssue p = false := by
  simp [State.canIssue, h]

theorem State.onLink_unhold (h : Hold) (f : Link → Link) : (s.unhold n h).onLink p f = (s.onLink p f).unhold n h := rfl

theorem State.not_mem_unhold (h : Hold) (hl : n < s.ports.length) : h ∉ ((s.unhold n h).port n).holds := by
  rw [State.unhold, s.port_onPort n _ hl]
  simp

/-- A slice's end but the retrain's: the hold ends. -/
theorem execRetrainSliceEnd_more (hp : p < 136) (hl : p < s.links.length) (hsl : (s.link p).rtSlice = true) (hn : s.portAt p = some n)
    (hmore : (s.link p).rtDone + 1 ≠ 0) :
    exec (.retrainSliceEnd p false r) s = .next ((s.onLink p Link.sliceEnded).unhold n .slice) := by
  refine (if_pos hp).trans (congrArg _ ((if_neg (by simp [hsl])).trans ?_))
  extract_lets s1 s2 s3 s4 s5 s6 stale
  have h2 : s2 = s1.unhold n .slice := by simp only [s2, s1, State.portAt_onLink, hn]
  have hdone : (s2.link p).rtDone = (s.link p).rtDone + 1 := by
    rw [h2, State.unhold, State.link_onPort]
    exact congrArg Link.rtDone (s.link_onLink p _ hl)
  exact (if_pos (by simpa [hdone] using hmore)).trans h2

/-- The link whose retrain has ended, with the trims it found. -/
def Link.retrained (hides : Nat) (r : TrainRes) (l : Link) : Link :=
  ({ l with rtRun := false, rtSlice := false, rtDone := l.rtDone + 1, st := if l.st = LinkSt.retrain then .running else l.st
            calEv := l.calEv ||| 16, strobes := r.strobes, caStb := r.caStb, caVref := r.caVref, wrVref := r.wrVref }).vrefs hides

/-- The retrain's last slice ends it, where it found every eye and no position is stale: no position fails, and no trim is another. -/
theorem execRetrainSliceEnd_last (hp : p < 136) (hl : p < s.links.length) (hsl : (s.link p).rtSlice = true) (hn : s.portAt p = some n)
    (heye : r.noEye = false) (hfails : r.fails = []) (htrims : r.trims = []) (hu : s.unarmed (.link p)) (hstale : (s.link p).staleAt = []) :
    exec (.retrainSliceEnd p true r) s = .next ((s.onLink p (Link.retrained s.hides r)).unhold n .slice) := by
  refine (if_pos hp).trans (congrArg _ ((if_neg (by simp [hsl])).trans ?_))
  extract_lets s1 s2 s3 s4 s5 s6 stale
  have h2 : s2 = s1.unhold n .slice := by simp only [s2, s1, State.portAt_onLink, hn]
  have h4 : s4 = s3 := by
    have hu3 : s3.unarmed (.link p) := by
      show (s2.fr (.link p)).inj = 0
      rw [h2]
      exact hu
    rw [← State.check_unarmed s3 _ 6 hu3, ← heye]
  have h6 : s6 = (s.onLink p (Link.retrained s.hides r)).unhold n .slice := by
    simp only [s6, s5, h4, s3, h2, s1, State.applyTrims, htrims, List.filter_nil, List.foldl_nil, State.onLink_unhold, State.onLink_onLink]
    rfl
  have hnone : stale = [] := by
    have hlink : (s6.link p).staleAt = [] := by
      rw [h6, State.unhold, State.link_onPort, State.link_onLink (h := hl)]
      exact hstale
    simp only [stale, hlink, List.filter_nil]
  rw [if_neg (by simp), if_neg (by simp [heye]), hnone, hfails]
  exact h6

/-! ### LINK_HALT_END (R193) -/

/-- A group whose link leaves the halt. -/
def Grp.resumed (g : Grp) : Grp := if g.parked then g else { g with st := .cal, tries := [] }

/-- The link that leaves the halt. -/
def Link.resumed (l : Link) : Link := { l with st := if l.rtRun then .retrain else .running, grps := l.grps.map Grp.resumed }

theorem execLinkHaltEnd_eq (hp : p < 136) (hst : (s.link p).st = .halted) (hf : (s.ctl p).frozen = false) (hc : s.chFenced p = false)
    (hsr : (s.ctl p).selfRef = false) (hq : s.linkQuiet p = false) (hb : s.seq.bist.phase = 0) :
    exec (.linkHaltEnd p) s = .next (s.onLink p Link.resumed) := by
  refine (if_pos hp).trans (congrArg _ ((if_neg (by simp [hf, hc, hsr, hq, hb])).trans ?_))
  exact State.onLink_congr (if_pos hst)

theorem Link.grp_resumed {i : Nat} (hi : i < l.grps.length) : l.resumed.grp i = (l.grp i).resumed := by
  simp [Link.resumed, Link.grp, hi]

/-- Settles O30: a slice's results are one change of the link, in which a position's trims are what its one result makes of them; a stale
position reports and begins a retrain; a retrain's slices and the end of a halt change their link, and a slice the hold of its port. -/
theorem trackingAndRetrain : Obligations.TrackingAndRetrain := by
  unfold Obligations.TrackingAndRetrain
  refine ⟨fun s p set res hw hp hset hcal hquiet hissue hok hcov hu hres hgap => ?_,
    fun s p l hw hp hl hcal hst hrt hc hu hmask hnr => ?_,
    fun s p v hw hp h h0 hk => ⟨fun hcal hst hrt => ?_, fun hrt => ?_⟩,
    fun s p n hw hp hn hrt hsl hst hissue hok hat => ⟨fun hgap => ?_, execRetrainSlice_early hp⟩,
    fun s p n r hw hp hn hsl hat => ⟨fun hmore => ?_, fun heye hfails htrims hu hst hstale => ?_⟩,
    fun s p hw hp hst hf hc hsr hq hb => ?_⟩
  · obtain ⟨stop, cnts, free, hlo, hhi, e⟩ := execTrackingSlice_eq hp hset hcal hquiet hissue hok hcov hu hres hgap
    obtain ⟨lanes, hlanes⟩ := Link.foldl_track_lanes (now := s.mgmt.elapsed) (set := set) (res := res)
      (l := (s.link p).slicing set (s.ctl p).cyc stop)
    have hlink := s.link_onLink p (fun l => res.foldl (Link.track s.mgmt.elapsed set) (l.slicing set (s.ctl p).cyc stop)) (hw.link_lt hp)
    refine ⟨_, e, rfl, fun q hq => State.link_onLink_ne s p _ q hq, ?_, ⟨stop, ?_, hlo, hhi⟩, fun r htr hpos hc hone => ?_⟩
    · exact (congrArg Link.grps hlink).trans ((congrArg Link.grps hlanes).trans rfl)
    · exact (congrArg Link.slice hlink).trans ((congrArg Link.slice hlanes).trans rfl)
    · have htests : ((s.link p).slicing set (s.ctl p).cyc stop).tests set r = true := by
        simp only [Link.tests, Bool.and_eq_true, decide_eq_true_eq]
        exact ⟨⟨htr, hpos⟩, hc⟩
      have hlane := (congrArg (Link.lane · (trackKey set r)) hlink).trans (Link.lane_foldl_track (hw.link p).lanes htests hone)
      exact ⟨congrArg Lane.stale hlane, congrArg Lane.phase hlane⟩
  · refine ⟨_, execLaneStale_eq hp hl hcal (hw.link_lt hp) hrt hc hu, ?_⟩
    have hsrc := (s.onLink p (Link.staled l)).report_latches (.link p) 1 (hw.idx_lt (u := .link p) (by simpa [UnitId.ok] using hp)) (by decide)
      (by rw [State.fr_onLink, hmask]; rfl) hnr
    obtain ⟨r, c, f, e, -, -⟩ := (s.onLink p (Link.staled l)).report_rptOnly (.link p) 1
    rw [e] at hsrc ⊢
    have hlink : ((s.onLink p (Link.staled l)).onLink p Link.retrain).link p = ((s.link p).staled l).retrain := by
      rw [State.onLink_onLink, State.link_onLink (h := hw.link_lt hp)]
    have hlane := smGet_smSet {} (s.link p).lanes (lposKey l) { (s.link p).lane (lposKey l) with stale := true } (lposKey l) (hw.link p).lanes
    exact ⟨rfl, (congrArg (Link.lane · (lposKey l)) hlink).trans (hlane.trans (if_pos rfl)), (congrArg Link.grps hlink).trans rfl, hsrc,
      congrArg Link.rtRun hlink, (congrArg Link.st hlink).trans (if_pos hst), congrArg Link.rtDone hlink⟩
  · refine answers_mgWrite rfl hw h fun cs k _ => ?_
    rw [State.wLinkCtrl_starts (s := { s with cnts := cs, free := k }) h0 hk hcal hrt]
    exact ⟨(State.link_onLink _ p _ (hw.link_lt hp)).trans (Link.retrain_running hst), fun q hq => State.link_onLink_ne _ p _ q hq,
      State.answer_granted rfl⟩
  · refine answers_mgWrite rfl hw h fun cs k _ => ?_
    rw [State.wLinkCtrl_rejects (s := { s with cnts := cs, free := k }) h0 hk hrt]
    exact ⟨rfl, congrArg Frame.ctrlRej (State.fr_onFr _ _ _ (hw.idx_lt h.2.1)), State.answer_granted rfl⟩
  · have hlink := s.link_onLink p (Link.sliceBegun (s.ctl p).cyc) (hw.link_lt hp)
    refine ⟨_, execRetrainSlice_eq hp hrt hsl hst hissue hok hat hgap, rfl, hlink, State.hold_mem (hw.ports ▸ hn),
      State.port_onPort_ne _ n _, State.canIssue_of_rtSlice (congrArg Link.rtSlice hlink)⟩
  · exact ⟨_, execRetrainSliceEnd_more hp (hw.link_lt hp) hsl hat hmore, rfl, s.link_onLink p _ (hw.link_lt hp),
      State.not_mem_unhold _ (hw.ports ▸ hn)⟩
  · have hlink := s.link_onLink p (Link.retrained s.hides r) (hw.link_lt hp)
    refine ⟨_, execRetrainSliceEnd_last hp (hw.link_lt hp) hsl hat heye hfails htrims hu hstale, rfl, congrArg Link.rtRun hlink,
      congrArg Link.rtSlice hlink, (congrArg Link.st hlink).trans (if_pos hst), ?_, congrArg Link.strobes hlink,
      State.not_mem_unhold _ (hw.ports ▸ hn)⟩
    rw [State.unhold, State.link_onPort, hlink]
    exact getLsbD_or_bit (s.link p).calEv (show 4 < 5 by decide)
  · have hlink := s.link_onLink p Link.resumed (hw.link_lt hp)
    refine ⟨_, execLinkHaltEnd_eq hp hst hf hc hsr hq hb, rfl, congrArg Link.st hlink, fun i hi hpark => ?_⟩
    have hgrp : ((s.onLink p Link.resumed).link p).grp i = { (s.link p).grp i with st := .cal, tries := [] } := by
      rw [hlink, Link.grp_resumed (by rwa [(hw.link p).grps]), Grp.resumed, if_neg (by simp [hpark])]
    exact ⟨congrArg Grp.st hgrp, (congrArg Grp.c hgrp).trans rfl⟩

end Sys2Proof.Machine
end

section
/-! SUPPORT. The word received for a block, and what it decodes to (R233-R235). -/
namespace Sys2Proof.Machine
variable {s : State} {d : Block} {errs : SymErrs} {k : Nat}

/-! ### The codeword's length (R233) -/

theorem leBytes_length (n k : Nat) : (leBytes n k).length = k := by
  induction k generalizing n with
  | zero => rfl
  | succ k ih => exact congrArg (· + 1) (ih _)

theorem rsGen_length : rsGen.length = 9 := by decide +kernel

theorem rsCheck_length (l : List Nat) : (rsCheck l).length = 8 := by
  refine List.foldlRecOn (motive := fun r : List Nat => r.length = 8) _ _ (List.length_replicate ..) fun r hr b _ => ?_
  simp [hr, rsGen_length]

theorem codeword_length (d : Block) : (codeword d).length = 72 := by
  simp [codeword, blockBytes, leBytes_length, rsCheck_length]

/-! ### The symbols in error -/

/-- A symbol that no error is of is as sent. -/
theorem errAt_of_not_mem (h : k ∉ errs.map (·.1)) : errAt errs k = 0 := by
  have hstep : ∀ e ∈ errs, ¬ e.1 = k := fun e he hk => h (List.mem_map.2 ⟨e, he, hk⟩)
  exact List.foldlRecOn (motive := (· = 0)) _ _ rfl fun r hr e he => (if_neg (hstep e he)).trans hr

/-- An error whose symbol no other is of stands. -/
theorem errAt_cons (x : Nat × Byte) (h : x.1 ∉ errs.map (·.1)) : errAt (x :: errs) k = if x.1 = k then x.2.toNat else errAt errs k := by
  unfold errAt
  rw [List.foldl_cons]
  split
  next hk =>
    have hstep : ∀ e ∈ errs, ¬ e.1 = k := fun e he hek => h (List.mem_map.2 ⟨e, he, hek.trans hk.symm⟩)
    exact List.foldlRecOn (motive := (· = x.2.toNat)) _ _ (Nat.zero_xor _) fun r hr e he => (if_neg (hstep e he)).trans hr
  · rfl

/-- Errors of distinct symbols, none of them zero, change the symbols they name. -/
theorem errAt_ne_zero (hn : (errs.map (·.1)).Nodup) (h0 : ∀ x ∈ errs, x.2 ≠ 0) : errAt errs k ≠ 0 ↔ k ∈ errs.map (·.1) := by
  induction errs with
  | nil => simp [errAt]
  | cons x errs ih =>
    obtain ⟨hx, hn⟩ := List.nodup_cons.1 hn
    obtain ⟨h0, hrest⟩ := List.forall_mem_cons.1 h0
    have hv : x.2.toNat ≠ 0 := fun e => h0 (BitVec.eq_of_toNat_eq e)
    rw [errAt_cons x hx, List.map_cons, List.mem_cons]
    split
    next hk => simp [hv, hk]
    next hk => simp [ih hn hrest, Ne.symm hk]

theorem symDiff_received (d : Block) (errs : SymErrs) : symDiff d (received d errs) = (List.range 72).filter (errAt errs · != 0) := by
  unfold symDiff
  refine List.filter_congr fun k hk => ?_
  have hk' : k < (codeword d).length := by
    rw [codeword_length]
    exact List.mem_range.1 hk
  simp only [received, List.getD_eq_getElem?_getD, List.getElem?_map, List.getElem?_zipIdx, List.getElem?_eq_getElem hk', Option.map_some,
    Option.getD_some, Nat.zero_add]
  rw [Bool.eq_iff_iff, bne_iff_ne, bne_iff_ne]
  exact not_congr xor_left_eq_self_iff

theorem symDiff_received_length (hn : (errs.map (·.1)).Nodup) (h : ∀ x ∈ errs, x.1 < 72 ∧ x.2 ≠ 0) :
    (symDiff d (received d errs)).length = errs.length := by
  have hperm : ((List.range 72).filter (errAt errs · != 0)).Perm (errs.map (·.1)) := by
    refine (List.perm_ext_iff_of_nodup (List.nodup_range.filter _) hn).2 fun k => ?_
    rw [List.mem_filter, List.mem_range, bne_iff_ne, errAt_ne_zero hn fun x hx => (h x hx).2]
    refine and_iff_right_of_imp fun hk => ?_
    obtain ⟨x, hx, rfl⟩ := List.mem_map.1 hk
    exact (h x hx).1
  rw [symDiff_received, hperm.length_eq, List.length_map]

/-! ### The decoder (R234) -/

theorem filter_not_erased (l : List Nat) : (l.filter fun k => !([] : List Nat).contains k) = l := List.filter_eq_self.2 fun _ _ => rfl

/-- A codeword with no symbol in error outside the erasures is whole. -/
theorem State.decodeWord_clean (er : List Nat) (d : Block) : s.decodeWord er (received d []) d = (.ok [], d, s) := by
  have hnone : symDiff d (received d []) = [] := by
    rw [symDiff_received]
    exact List.filter_eq_nil_iff.2 fun k _ => by simp [errAt]
  unfold State.decodeWord
  rw [hnone]
  exact if_pos (Nat.zero_le _)

section
variable (hn : (errs.map (·.1)).Nodup) (h : ∀ x ∈ errs, x.1 < 72 ∧ x.2 ≠ 0)
include hn h

/-- Up to three symbols in error, with no erasure, are corrected. -/
theorem State.decodeWord_corrects (h3 : errs.length ≤ 3) :
    ∃ syms, syms.length = errs.length ∧ s.decodeWord [] (received d errs) d = (.ok syms, d, s) := by
  have hlen := symDiff_received_length (d := d) hn h
  refine ⟨symDiff d (received d errs), hlen, ?_⟩
  unfold State.decodeWord
  rw [filter_not_erased]
  exact if_pos (hlen ▸ h3)

/-- Four and five are detected. -/
theorem State.decodeWord_detects (h4 : 4 ≤ errs.length) (h5 : errs.length ≤ 5) : s.decodeWord [] (received d errs) d = (.bad, d, s) := by
  have hlen := symDiff_received_length (d := d) hn h
  unfold State.decodeWord
  rw [filter_not_erased]
  exact (if_neg (hlen ▸ not_le.2 h4)).trans (if_pos (hlen ▸ h5))

end

end Sys2Proof.Machine
end
section
/-! SUPPORT. A read's block handed to its request, and what noting a corrected or an uncorrectable codeword changes (R88, R235, R247). -/
namespace Sys2Proof.Machine
variable {s t u : State} {p n uid k : Nat} {e : Entry} {r : Req} {d : Block} {bad : Bool}

/-! ### A block of a read reaches its request (R88, R144) -/

/-- A read that has nothing to send sends nothing. -/
theorem State.flushRead_done (hr : s.reqOf n uid = some r) (h : r.answered = true ∨ r.got = []) : s.flushRead n uid k = s := by
  cases k with
  | zero => rfl
  | succ k =>
    unfold State.flushRead
    rw [hr]
    dsimp only
    rcases h with h | h
    · exact if_pos h
    · rw [h]
      exact ite_self _

/-- The entry's block is the one that the request's next beat brings: a read of a slice port, of the own slice, with no block waiting and
none poisoned before. -/
structure State.ReadDue (s : State) (e : Entry) (r : Req) : Prop where
  read : e.op = 0
  input : e.inp < 4
  isPort : e.port < 128
  req : s.reqOf e.port e.uid = some r
  got : r.got = []
  sent : r.sent = e.idx
  unanswered : r.answered = false
  home : r.remote = false
  clean : r.poison = false

/-- The beat that brings the entry's block. -/
def Entry.beat (e : Entry) (r : Req) (d : Block) (bad : Bool) : RspBeat :=
  ⟨r.tag, e.idx, e.idx == r.len, bad, if e.idx == r.len && bad then cPOISON else cOK, if bad then 0 else d⟩

theorem Entry.beat_code_ne (e : Entry) (r : Req) (d : Block) (bad : Bool) : (e.beat r d bad).code ≠ cBAD := by
  unfold Entry.beat
  dsimp only
  split <;> decide

/-- The next block of a read goes out at its own port (R88, R144). -/
theorem State.flushRead_next {i : Nat} (hr : s.reqOf n uid = some r) (ho : r.answered = false) (hrem : r.remote = false)
    (hg : r.got.find? (fun e => e.1 == r.sent) = some (i, d, bad)) :
    s.flushRead n uid (k + 1) = ((s.onReq n uid fun q =>
      { q with sent := i + 1, poison := r.poison || bad, answered := i == r.len, got := q.got.filter (·.1 != i) }).putAns n
        (.beat ⟨r.tag, i, i == r.len, bad, if i == r.len && (r.poison || bad) then cPOISON else cOK, if bad then 0 else d⟩)).flushRead n uid k := by
  conv_lhs => unfold State.flushRead
  simp only [hr, ho, hg, State.sendAns, hrem, Bool.false_eq_true, if_false]

/-- The port with a beat queued, and its requests changed. -/
def Port.brings (tags : List Req) (b : RspBeat) (q : Port) : Port := { q with tags := tags, rsp := q.rsp ++ [b] }

/-- The entry's block goes out at once, and no other with it. -/
theorem State.gotBlock_due (h : s.ReadDue e r) (hl : e.port < s.ports.length) (d : Block) (bad : Bool) : ∃ tags,
    s.gotBlock e.port e.uid e.idx d bad = s.onPort e.port (Port.brings tags (e.beat r d bad)) := by
  obtain ⟨-, -, hn, hr, hgot, hsent, ho, hrem, hclean⟩ := h
  let got : Req → Req := fun r => { r with got := r.got ++ [(e.idx, d, bad)] }
  let send : Req → Req := fun q => { q with sent := e.idx + 1, poison := bad, answered := e.idx == r.len, got := q.got.filter (·.1 != e.idx) }
  have hr1 : (s.onReq e.port e.uid got).reqOf e.port e.uid = some (got r) := State.reqOf_onReq hn hl hr rfl
  have hl1 : e.port < (s.onReq e.port e.uid got).ports.length := by
    rw [State.onReq_port hn]
    exact (upd_length ..).symm ▸ hl
  have hr2 : ((s.onReq e.port e.uid got).onReq e.port e.uid send).reqOf e.port e.uid = some (send (got r)) := State.reqOf_onReq hn hl1 hr1 rfl
  have hfirst : (got r).got.find? (fun x => x.1 == (got r).sent) = some (e.idx, d, bad) := by simp [got, hgot, hsent]
  have hbeat : s.gotBlock e.port e.uid e.idx d bad =
      (((s.onReq e.port e.uid got).onReq e.port e.uid send).putAns e.port (.beat (e.beat r d bad))).flushRead e.port e.uid 31 := by
    refine (if_neg (by omega)).trans ((State.flushRead_next hr1 ho hrem hfirst).trans ?_)
    simp only [got, hclean, Bool.false_or]
    rfl
  have hput : ((s.onReq e.port e.uid got).onReq e.port e.uid send).putAns e.port (.beat (e.beat r d bad)) =
      ((s.onReq e.port e.uid got).onReq e.port e.uid send).onPort e.port (·.takeAns (.beat (e.beat r d bad))) := by
    rw [State.putAns_eq]
    exact State.noteBad_ok (e.beat_code_ne r d bad)
  have hr3 := (State.reqOf_onPort (f := (·.takeAns (.beat (e.beat r d bad)))) hn fun q => q.takeAns_tags _).trans hr2
  have hdone : (send (got r)).got = [] := by simp [send, got, hgot]
  rw [hbeat, hput, State.flushRead_done hr3 (.inr hdone)]
  simp only [State.onReq_port hn, State.onPort_onPort]
  exact ⟨_, State.onPort_congr rfl⟩

end Sys2Proof.Machine
end
section
/-! SUPPORT. READ_BURST_RETURN and CE_COMMIT. -/
namespace Sys2Proof.Machine
variable {s t u : State} {p off n source req : Nat} {e : Entry} {r : Req} {d : Block} {bad : Bool} {l : List Entry} {syms : List Nat}

/-! ### Codewords noted (R235, R247) -/

/-- What noting a codeword at channel p leaves: reports, counts, the error log, and the coalescing entries of the channel. -/
structure Noted (p : Nat) (s t : State) : Prop where
  rest : t = { s with frames := t.frames, cnts := t.cnts, free := t.free, mgmt := t.mgmt, ctls := t.ctls }
  ctl : ∃ coal, t.ctl p = { s.ctl p with coal := coal }
  others : ∀ q, q ≠ p → t.ctl q = s.ctl q
  ctls : t.ctls.length = s.ctls.length
  inj : ∀ v, (t.fr v).inj = (s.fr v).inj

namespace Noted

theorem refl (p : Nat) (s : State) : Noted p s s := ⟨rfl, ⟨_, rfl⟩, fun _ _ => rfl, rfl, fun _ => rfl⟩

theorem trans (h : Noted p s t) (k : Noted p t u) : Noted p s u := by
  obtain ⟨a, ha⟩ := h.ctl
  obtain ⟨b, hb⟩ := k.ctl
  refine ⟨?_, ⟨b, by rw [hb, ha]⟩, fun q hq => (k.others q hq).trans (h.others q hq), k.ctls.trans h.ctls, fun v => (k.inj v).trans (h.inj v)⟩
  rw [k.rest, h.rest]

theorem ctl_proj {α : Type} (h : Noted p s t) (g : Ctl → α) (hg : ∀ (c : Ctl) l, g { c with coal := l } = g c := by exact fun _ _ => rfl) :
    g (t.ctl p) = g (s.ctl p) := by
  obtain ⟨coal, hc⟩ := h.ctl
  rw [hc, hg]

theorem ite {c : Prop} [Decidable c] (h : Noted p s t) (k : Noted p s u) : Noted p s (if c then t else u) := by
  split <;> assumption

theorem of_cntOnly (h : CntOnly s t) : Noted p s t := by
  obtain ⟨c, f, rfl, -⟩ := h
  exact ⟨rfl, ⟨_, rfl⟩, fun _ _ => rfl, rfl, fun _ => rfl⟩

theorem of_report (v : UnitId) (bit : Nat) : Noted p s (s.report v bit) := by
  have hinj : ∀ v', ((s.report v bit).fr v').inj = (s.fr v').inj := fun v' => by
    obtain ⟨a, b, c, d, h⟩ := s.report_srcUp v bit v'.idx
    exact (congrArg Frame.inj h).trans rfl
  obtain ⟨r, c, f, e, -, -⟩ := s.report_rptOnly v bit
  rw [e] at hinj ⊢
  exact ⟨rfl, ⟨_, rfl⟩, fun _ _ => rfl, rfl, hinj⟩

theorem of_log (x : LogRec) : Noted p s (s.log x) := by
  have hm : ∀ m, Noted p s { s with mgmt := m } := fun m => ⟨rfl, ⟨_, rfl⟩, fun _ _ => rfl, rfl, fun _ => rfl⟩
  unfold State.log
  exact .ite ((hm _).trans (of_cntOnly (State.count_cntOnly ..))) (.ite (hm _) (hm _))

theorem of_coal (hp : p < s.ctls.length) (f : List Coal → List Coal) : Noted p s (s.onCtl p fun c => { c with coal := f c.coal }) :=
  ⟨rfl, ⟨_, State.ctl_onCtl s p _ hp⟩, fun q hq => State.ctl_onCtl_ne s p _ q hq, upd_length .., fun _ => rfl⟩

theorem of_commitCoal (hp : p < s.ctls.length) (i : Nat) : Noted p s (s.commitCoal p i) := by
  unfold State.commitCoal
  split
  · exact refl p s
  · exact (of_coal hp (·.eraseIdx i)).trans (of_log _)

theorem of_coalesce (hp : p < s.ctls.length) : Noted p s (s.coalesce p source req off n syms) := by
  unfold State.coalesce
  extract_lets lo c s2
  split
  next i _ =>
    extract_lets s1
    have h1 : Noted p s s1 := of_coal hp (upd · i _)
    exact .ite (h1.trans (of_commitCoal (h1.ctls ▸ hp) _)) h1
  next =>
    have h2 : Noted p s s2 := .ite (of_commitCoal hp 0) (refl p s)
    exact h2.trans (of_coal (h2.ctls ▸ hp) (· ++ [_]))

end Noted

/-- The controller that has corrected n symbols of a codeword. -/
def Ctl.corrects (n : Nat) (c : Ctl) : Ctl := { c with eccCe := satAdd c.eccCe 1, eccSym := satAdd c.eccSym n }

/-- The controller that has found a codeword uncorrectable. -/
def Ctl.uncorrects (c : Ctl) : Ctl := { c with eccUe := satAdd c.eccUe 1, eccEv := c.eccEv ||| 1 }

/-- A report before a change of a controller is as one after it. -/
theorem Noted.report_onCtl (v : UnitId) (bit : Nat) (f : Ctl → Ctl) : Noted p (s.onCtl p f) ((s.report v bit).onCtl p f) := by
  have hinj := (Noted.of_report (p := p) (s := s) v bit).inj
  obtain ⟨r, c, f, e, -, -⟩ := s.report_rptOnly v bit
  rw [e] at hinj ⊢
  exact ⟨rfl, ⟨_, rfl⟩, fun _ _ => rfl, rfl, hinj⟩

theorem State.corrected_noted (hp : p < s.ctls.length) (hs : source ≠ 5) :
    Noted p (s.onCtl p (Ctl.corrects n)) (s.corrected p source req off n syms) := by
  unfold State.corrected
  extract_lets s1 s2 s3
  have h2 : Noted p (s.onCtl p (Ctl.corrects n)) s2 := Noted.report_onCtl ..
  have h3 : Noted p (s.onCtl p (Ctl.corrects n)) s3 := h2.trans (.of_cntOnly (State.count_cntOnly ..))
  rw [if_neg hs]
  exact h3.trans (.of_coalesce (h3.ctls.trans (upd_length ..) ▸ hp))

theorem State.uncorrectable_noted : Noted p (s.onCtl p Ctl.uncorrects) (s.uncorrectable p source req off) := by
  unfold State.uncorrectable
  extract_lets lo s1 s2 s3
  have h2 : Noted p (s.onCtl p Ctl.uncorrects) s2 := Noted.report_onCtl ..
  exact (h2.trans (.of_cntOnly (State.count_cntOnly ..))).trans (.of_log _)

/-! ### The burst decoded (R235, R236) -/

/-- The block found goes to the request that reads it, with the slots its read held freed (R235). -/
theorem State.deliverRead_due (h : s.ReadDue e r) (hl : e.port < s.ports.length) (d : Block) (n : Nat) (bad : Bool) : ∃ tags,
    s.deliverRead p e d n bad = (s.freeSlots e.slots).onPort e.port (Port.brings tags (e.beat r d bad)) := by
  have hd : (s.freeSlots e.slots).ReadDue e r := { h with req := State.reqOf_freeSlots.trans h.req }
  obtain ⟨tags, ht⟩ := State.gotBlock_due hd (by rwa [State.freeSlots_ports]) d bad
  refine ⟨tags, ?_⟩
  have h4 := h.input
  unfold State.deliverRead
  dsimp only
  rw [if_neg (by omega), if_neg (by omega), if_pos h.read, ht]

theorem State.ReadDue.source_ne (h : s.ReadDue e r) : e.source ≠ 5 := by
  have h4 := h.input
  unfold Entry.source
  rw [if_neg (by omega), if_neg (by omega), h.read, if_neg (by simp)]
  split
  · decide
  · split <;> decide

theorem State.ReadDue.wbFrom (h : s.ReadDue e r) : e.wbFrom = 2 := by
  have h4 := h.input
  unfold Entry.wbFrom
  rw [if_neg (by simp; omega), if_neg (by omega)]

/-- A request is due in every state with its port's requests. -/
theorem State.ReadDue.of_port (h : s.ReadDue e r) (hp : t.port e.port = s.port e.port) : t.ReadDue e r :=
  { h with req := by rw [State.reqOf_port h.isPort, hp, ← State.reqOf_port h.isPort]; exact h.req }

/-- A codeword is queued for write-back: the Currier's list has its block once, and its write waits at the channel (R236, R243). -/
theorem State.queueWb_eq (h : s.superseded p e = false) (d : Block) : ∃ w, s.queueWb p e d =
    (s.onCur p fun c => { c with wbQ := c.wbQ.filter (fun f => f.1 != e.off) ++ [(e.off, d)] }).onCtl p fun c =>
      { c with inWr := c.inWr ++ [w] } :=
  ⟨_, if_neg (by simp [h])⟩

/-- What a read meets of newer writes is in its channel's write queue and fresh map (R243). -/
theorem State.superseded_congr (hf : (t.ctl p).fresh = (s.ctl p).fresh) (hw : (t.ctl p).wrQ = (s.ctl p).wrQ) (e : Entry) :
    t.superseded p e = s.superseded p e := by
  simp only [State.superseded, State.fresh, hf, hw]

/-- The controller whose run of uncorrectable blocks has ended. -/
def Ctl.endUeRun (c : Ctl) : Ctl := { c with ueRun := [] }

/-- The codeword is noted, unless no symbol was in error. -/
def State.noteCorrected (s : State) (p : Nat) (e : Entry) (syms : List Nat) : State :=
  if syms.isEmpty then s else s.corrected p e.source e.req e.off syms.length syms

/-- A codeword that decodes: it is noted, the block goes out, and is written back where enough symbols were in error (R235, R236). -/
theorem State.burst_decodes {errs : SymErrs} (hdec : s.decodeWord (s.link p).erased (received e.data errs) e.data = (.ok syms, d, s))
    (hu : s.unarmed (.ctl p)) (hue : e.ue = false) : ∃ v, v = ((s.onCtl p Ctl.endUeRun).noteCorrected p e syms).deliverRead p e d syms.length false ∧
      s.burst p p e errs = (if e.wbFrom ≤ syms.length then v.queueWb p e d else v).check (.ctl p) 4 false := by
  refine ⟨_, rfl, ?_⟩
  unfold State.burst
  rw [hdec]
  simp only [hue, Bool.or_false]
  cases syms with
  | nil =>
    simp only [s.fire_none _ _ _ hu]
    rfl
  | cons x syms =>
    simp only [s.fire_none _ _ _ hu]
    rfl

/-- The channel's last uncorrectable blocks, by bank, up to four (R235). -/
def ueRunOf (run : List Nat) : List Nat := run.drop (run.length - 4)

/-- A codeword found uncorrectable: the block is marked, unless a newer write is on the way, and it is noted; what asked for the block
gets none (R235, R238). -/
theorem State.burst_fails {errs : SymErrs} (hdec : s.decodeWord (s.link p).erased (received e.data errs) e.data = (.bad, d, s))
    (hu : s.unarmed (.ctl p)) (hnew : s.superseded p e = false) : ∃ v run, v = (s.markBad p e.off).uncorrectable p e.source e.req e.off ∧
      run = ueRunOf ((v.ctl p).ueRun ++ [(locate v.hides e.off).key]) ∧ s.burst p p e errs =
      ((v.onCtl p fun c => { c with ueRun := run }).deliverRead p e 0 0 true).check (.ctl p) 4
        (run.length == 4 && decide (2 ≤ run.eraseDups.length)) := by
  refine ⟨_, _, rfl, rfl, ?_⟩
  unfold State.burst
  rw [hdec]
  simp only [s.fire_none _ _ _ hu, hnew]
  rfl

/-! ### What each outcome leaves -/

/-- Freed slots and a beat at a port leave every unit's arms. -/
theorem State.unarmed_brings {v : UnitId} (h : s.unarmed v) (ks : List Slot) (n : Nat) (f : Port → Port) :
    ((s.freeSlots ks).onPort n f).unarmed v := by
  rw [s.freeSlots_pools ks]
  exact h

theorem State.queueWb_frames (s : State) (p : Nat) (e : Entry) (d : Block) : (s.queueWb p e d).frames = s.frames := by
  unfold State.queueWb
  split <;> rfl

/-- A state in which the codeword is noted and the block has gone to its request. -/
def State.brought (s : State) (e : Entry) (tags : List Req) (b : RspBeat) : State :=
  (s.freeSlots e.slots).onPort e.port (Port.brings tags b)

theorem State.brought_eq (s : State) (e : Entry) (tags : List Req) (b : RspBeat) :
    s.brought e tags b = { s with pools := (s.brought e tags b).pools, ports := upd s.ports e.port (Port.brings tags b) } := by
  unfold State.brought
  rw [s.freeSlots_pools e.slots]
  rfl

theorem State.brought_rsp (hl : e.port < s.ports.length) (tags : List Req) (b : RspBeat) :
    ((s.brought e tags b).port e.port).rsp = (s.port e.port).rsp ++ [b] := by
  rw [State.brought_eq]
  exact congrArg Port.rsp (upd_getD_self _ _ _ {} hl)

theorem State.markBad_eq (s : State) (p x : Nat) : s.markBad p x = { s with bad := (s.markBad p x).bad } := by
  unfold State.markBad
  split <;> rfl

theorem State.isBad_markBad (s : State) (p x : Nat) : (s.markBad p x).isBad p x = true := by
  unfold State.markBad
  split
  · assumption
  · simp [State.isBad]

section
variable (hd : s.ReadDue e r) (hl : e.port < s.ports.length) (hp : p < s.ctls.length) (hu : s.unarmed (.ctl p)) {errs : SymErrs}
include hd hl hu

/-- A clean block goes to its request, and its channel's run of uncorrectable blocks ends. -/
theorem State.burst_clean (hue : e.ue = false) : ∃ tags,
    s.burst p p e [] = (s.onCtl p Ctl.endUeRun).brought e tags (e.beat r e.data false) := by
  obtain ⟨v, hv, hb⟩ := State.burst_decodes (s.decodeWord_clean _ e.data) hu hue
  have hd1 : (s.onCtl p Ctl.endUeRun).ReadDue e r := hd.of_port rfl
  obtain ⟨tags, ht⟩ := State.deliverRead_due (p := p) hd1 hl e.data 0 false
  have hvt : v = (s.onCtl p Ctl.endUeRun).brought e tags (e.beat r e.data false) := hv.trans ht
  refine ⟨tags, ?_⟩
  rw [hb, if_neg (by simp [hd.wbFrom]), hvt]
  exact State.check_unarmed _ _ _ (State.unarmed_brings (s := s.onCtl p Ctl.endUeRun) hu ..)

/-- The first block of its channel found uncorrectable is marked and noted, and its request gets no data. -/
theorem State.burst_uncorrectable (hdec : s.decodeWord (s.link p).erased (received e.data errs) e.data = (.bad, e.data, s))
    (hnew : s.superseded p e = false) (hrun : (s.ctl p).ueRun = []) : ∃ u run tags, Noted p ((s.markBad p e.off).onCtl p Ctl.uncorrects) u ∧
      s.burst p p e errs = (u.onCtl p fun c => { c with ueRun := run }).brought e tags (e.beat r 0 true) := by
  obtain ⟨u, run, hu', hrun', hb⟩ := State.burst_fails hdec hu hnew
  have hn := State.uncorrectable_noted (s := s.markBad p e.off) (p := p) (source := e.source) (req := e.req) (off := e.off)
  rw [← hu', s.markBad_eq] at hn
  have hports : u.ports = s.ports := by rw [hn.rest]; rfl
  have hempty : (u.ctl p).ueRun = [] := (hn.ctl_proj Ctl.ueRun).trans ((upd_getD_proj Ctl.ueRun).trans hrun)
  have hlen : run.length = 1 := by rw [hrun', hempty]; rfl
  have hdu : (u.onCtl p fun c => { c with ueRun := run }).ReadDue e r := hd.of_port (by simp only [State.port, State.onCtl, hports])
  obtain ⟨tags, ht⟩ := State.deliverRead_due (p := p) hdu (hports ▸ hl) 0 0 true
  refine ⟨u, run, tags, by rw [s.markBad_eq]; exact hn, ?_⟩
  rw [hb, ht, hlen]
  exact State.check_unarmed _ _ _ (State.unarmed_brings (s := u.onCtl p fun c => { c with ueRun := run }) ((hn.inj _).trans hu) ..)

include hp

/-- A codeword with a few symbols in error is noted, its block goes out, and from two symbols on it is queued for write-back. -/
theorem State.burst_corrects (hdec : s.decodeWord (s.link p).erased (received e.data errs) e.data = (.ok syms, e.data, s)) (hs : syms ≠ [])
    (hue : e.ue = false) : ∃ u tags, Noted p ((s.onCtl p Ctl.endUeRun).onCtl p (Ctl.corrects syms.length)) u ∧ s.burst p p e errs =
      if 2 ≤ syms.length then (u.brought e tags (e.beat r e.data false)).queueWb p e e.data else u.brought e tags (e.beat r e.data false) := by
  obtain ⟨v, hv, hb⟩ := State.burst_decodes hdec hu hue
  have hnote : (s.onCtl p Ctl.endUeRun).noteCorrected p e syms =
      (s.onCtl p Ctl.endUeRun).corrected p e.source e.req e.off syms.length syms := if_neg (by simp [hs])
  have hn := State.corrected_noted (s := s.onCtl p Ctl.endUeRun) (n := syms.length) (off := e.off) (req := e.req) (syms := syms)
    ((upd_length ..).symm ▸ hp) hd.source_ne
  rw [hnote] at hv
  generalize (s.onCtl p Ctl.endUeRun).corrected p e.source e.req e.off syms.length syms = u at hv hn
  have hports : u.ports = s.ports := by rw [hn.rest]; rfl
  have hdu : u.ReadDue e r := hd.of_port (by simp only [State.port, hports])
  obtain ⟨tags, ht⟩ := State.deliverRead_due (p := p) hdu (hports ▸ hl) e.data syms.length false
  have hvt : v = u.brought e tags (e.beat r e.data false) := hv.trans ht
  have huu : (u.brought e tags (e.beat r e.data false)).unarmed (.ctl p) := State.unarmed_brings ((hn.inj _).trans hu) ..
  refine ⟨u, tags, hn, ?_⟩
  rw [hb, hvt, hd.wbFrom]
  refine State.check_unarmed _ _ _ ?_
  split
  · unfold State.fr State.frame
    rw [State.queueWb_frames]
    exact huu
  · exact huu

end

/-! ### READ_BURST_RETURN (R175, R235) -/

/-- The link with the strobe errors of a burst of Hide h added up (R175). -/
def Link.drifted (h : Nat) (edge : List Int) (l : Link) : Link :=
  edge.zipIdx.foldl (fun l (x, g) => if g < 9 then l.driftAt h g x else l) l

theorem Link.driftAt_grps (l : Link) (h g : Nat) (x : Int) : (l.driftAt h g x).grps = l.grps := by
  unfold Link.driftAt
  dsimp only
  split <;> rfl

theorem Link.drifted_grps (h : Nat) (edge : List Int) (l : Link) : (l.drifted h edge).grps = l.grps := by
  refine List.foldlRecOn (motive := fun t : Link => t.grps = l.grps) _ _ rfl fun t ht x _ => ?_
  dsimp only
  split
  · exact (t.driftAt_grps ..).trans ht
  · exact ht

/-- The controller whose oldest burst in flight has come back. -/
def Ctl.landed (l : List Entry) (c : Ctl) : Ctl := { c with flight := l }

/-- The state in which a burst of channel p, of a block at off, is decoded. -/
def State.landed (s : State) (p off : Nat) (l : List Entry) (edge : List Int) : State :=
  (s.onLink p (Link.drifted (locate s.hides off).hide edge)).onCtl p (Ctl.landed l)

theorem State.landed_erased (edge : List Int) : ((s.landed p off l edge).link p).erased = (s.link p).erased := by
  have hg : ((s.landed p off l edge).link p).grps = (s.link p).grps := upd_getD_proj Link.grps fun l => l.drifted_grps _ edge
  unfold Link.erased
  rw [hg]

section
variable (hp : p < 136) (hf : (s.ctl p).frozen = false) (hu : s.unarmed (.ctl p)) {errs : SymErrs} {edge : List Int}
include hp hf hu

theorem execReadBurstReturn_framed (hfl : (s.ctl p).flight = e :: l) (hlent : s.isLent p e.off = false) :
    exec (.readBurstReturn p true ⟨errs, edge⟩) s = .next ((s.landed p e.off l edge).burst p p e errs) := by
  refine (if_pos hp).trans (congrArg _ ((if_neg (by simp [hf])).trans ?_))
  unfold State.burstReturn
  rw [hfl]
  dsimp only
  rw [hlent]
  simp only [Bool.false_eq_true, if_false, s.fire_none _ _ _ hu]
  rfl

/-- A burst that is not framed freezes its controller. -/
theorem execReadBurstReturn_unframed (hfl : (s.ctl p).flight = e :: l) (hlent : s.isLent p e.off = false) :
    exec (.readBurstReturn p false ⟨errs, edge⟩) s = .next (s.ctlFault p 3) := by
  refine (if_pos hp).trans (congrArg _ ((if_neg (by simp [hf])).trans ?_))
  unfold State.burstReturn
  rw [hfl]
  dsimp only
  rw [hlent]
  simp only [Bool.false_eq_true, if_false, s.fire_none _ _ _ hu]
  rfl

/-- So does one that none of the channel's reads is due for. -/
theorem execReadBurstReturn_undue (hfl : (s.ctl p).flight = []) (hst : (s.link p).st ≠ .off) (hc : s.chFenced p = false) :
    exec (.readBurstReturn p false ⟨errs, edge⟩) s = .next (s.ctlFault p 3) ∧ exec (.readBurstReturn p true ⟨errs, edge⟩) s = .next s := by
  refine ⟨(if_pos hp).trans (congrArg _ ((if_neg (by simp [hf])).trans ?_)), (if_pos hp).trans (congrArg _ ((if_neg (by simp [hf])).trans ?_))⟩
  · unfold State.burstReturn
    rw [hfl]
    dsimp only
    rw [if_neg (by simp [hst, hc]), s.fire_none _ _ _ hu]
  · unfold State.burstReturn
    rw [hfl]
    exact if_pos rfl

end

/-! ### CE_COMMIT (R247) -/

theorem execCeCommit_eq {i : Nat} {c : Coal} (hp : p < 136) (hc : (s.ctl p).coal[i]? = some c) :
    exec (.ceCommit p i) s = .next ((s.onCtl p fun t => { t with coal := t.coal.eraseIdx i }).logCoal p c) := by
  refine (if_pos hp).trans (congrArg Host.Outcome.next ?_)
  dsimp only
  unfold State.commitCoal
  rw [hc]

theorem State.logWords_length (s : State) (x : LogRec) : (s.logWords x).length = 8 := rfl

/-- An entry of kind CE is admitted while the log holds fewer than 960 (R248). -/
theorem State.log_ce {x : LogRec} (hx : x.kind = 1) (h : s.mgmt.elog.length < 960) : ∃ cnts free ev, s.log x = { s with
    mgmt := { s.mgmt with elog := s.mgmt.elog ++ [s.logWords x], elogNext := seqNext s.mgmt.elogNext, elogEv := ev }
    cnts := cnts, free := free } := by
  unfold State.log
  rw [hx]
  extract_lets m s1
  obtain ⟨cnts, free, e, -⟩ := s1.count_cntOnly .mgmt 0x02 none 1 none none
  exact ⟨cnts, free, _, (if_pos h).trans e⟩

/-! ### What the request's return leaves (R88, R235, R236, R247) -/

theorem State.ctl_landed (hp : p < s.ctls.length) (off : Nat) (edge : List Int) : (s.landed p off l edge).ctl p = (s.ctl p).landed l :=
  State.ctl_onCtl _ _ _ hp

theorem State.superseded_landed (hp : p < s.ctls.length) (off : Nat) (edge : List Int) :
    (s.landed p off l edge).superseded p e = s.superseded p e :=
  State.superseded_congr (by rw [State.ctl_landed hp, Ctl.landed]) (by rw [State.ctl_landed hp, Ctl.landed]) e

/-- A beat at a port leaves the controllers, the Curriers and the blocks marked. -/
theorem State.brought_ctls (tags : List Req) (b : RspBeat) : (s.brought e tags b).ctls = s.ctls := by rw [State.brought_eq]

theorem State.brought_ctl (tags : List Req) (b : RspBeat) (q : Nat) : (s.brought e tags b).ctl q = s.ctl q := by
  rw [State.ctl, State.brought_ctls, State.ctl]

/-- What a write-back queued leaves. -/
theorem State.queueWb_leaves (h : s.superseded p e = false) (hp : p < s.ctls.length) (hc : p < s.curs.length) (d : Block) : ∃ t w,
    s.queueWb p e d = t ∧ t.ctl p = { s.ctl p with inWr := w } ∧
    (t.cur p).wbQ = (s.cur p).wbQ.filter (fun f => f.1 != e.off) ++ [(e.off, d)] ∧ t.bad = s.bad ∧ t.cells = s.cells ∧ t.ports = s.ports := by
  obtain ⟨w, hq⟩ := State.queueWb_eq h d
  exact ⟨_, _, hq, State.ctl_onCtl _ _ _ hp, congrArg Cur.wbQ (State.cur_onCur _ _ _ hc), rfl, rfl, rfl⟩

section
variable (hw : s.Wf) (hp : p < 136) (hf : (s.ctl p).frozen = false) (hu : s.unarmed (.ctl p)) (hfl : (s.ctl p).flight = e :: l)
  (hlent : s.isLent p e.off = false) (hd : s.ReadDue e r) {errs : SymErrs} {edge : List Int}
include hw hp hf hu hfl hlent hd

/-- A clean block reaches its request (R235). -/
theorem burstReturn_clean (hue : e.ue = false) (hslots : e.slots = []) : Answers (.readBurstReturn p true ⟨[], edge⟩) s fun t =>
    t = { s with ctls := t.ctls, ports := t.ports, links := t.links } ∧ t.ctl p = { s.ctl p with flight := l, ueRun := [] } ∧
    (t.port e.port).rsp = (s.port e.port).rsp ++ [e.beat r e.data false] ∧
    (∀ n, n ≠ e.port → t.port n = s.port n) ∧ ∀ q, q ≠ p → t.link q = s.link q := by
  have hl : e.port < s.ports.length := hw.ports ▸ hd.isPort
  obtain ⟨tags, ht⟩ := State.burst_clean (s := s.landed p e.off l edge) (p := p) (hd.of_port rfl) hl hu hue
  refine ⟨_, execReadBurstReturn_framed hp hf hu hfl hlent, ?_⟩
  rw [ht]
  have hfree : ((s.landed p e.off l edge).onCtl p Ctl.endUeRun).brought e tags (e.beat r e.data false) =
      ((s.landed p e.off l edge).onCtl p Ctl.endUeRun).onPort e.port (Port.brings tags (e.beat r e.data false)) := by
    unfold State.brought
    rw [hslots]
    rfl
  refine ⟨by rw [hfree]; rfl, ?_, State.brought_rsp (s := (s.landed p e.off l edge).onCtl p Ctl.endUeRun) hl .., fun n hn => ?_, fun q hq => ?_⟩
  · rw [State.ctl, State.brought_ctls]
    refine (congrArg (State.ctl · p) (State.onCtl_onCtl ..)).trans ?_
    exact State.ctl_onCtl _ _ _ (hw.ctl_lt hp)
  · rw [hfree]
    exact State.port_onPort_ne _ _ _ _ hn
  · rw [hfree]
    exact State.link_onLink_ne _ _ _ _ hq

section
variable (her : (s.link p).erased = []) (hn : (errs.map (·.1)).Nodup) (h : ∀ x ∈ errs, x.1 < 72 ∧ x.2 ≠ 0)
include her hn h

/-- The state in which a corrected block has gone out: its channel has counted it, and only its request's port has a beat more. -/
theorem burstReturn_corrected_state (hne : errs ≠ []) (h3 : errs.length ≤ 3) (hue : e.ue = false) : ∃ v coal,
    exec (.readBurstReturn p true ⟨errs, edge⟩) s = .next (if 2 ≤ errs.length then v.queueWb p e e.data else v) ∧
    v.ctl p = { ((((s.ctl p).landed l).endUeRun).corrects errs.length) with coal := coal } ∧ v.ctls.length = s.ctls.length ∧
    v.bad = s.bad ∧ v.cells = s.cells ∧ v.curs = s.curs ∧ (v.port e.port).rsp = (s.port e.port).rsp ++ [e.beat r e.data false] := by
  have hl : e.port < s.ports.length := hw.ports ▸ hd.isPort
  obtain ⟨syms, hlen, hdec⟩ := State.decodeWord_corrects (s := s.landed p e.off l edge) (d := e.data) hn h h3
  have hs : syms ≠ [] := fun hnil => hne (List.length_eq_zero_iff.1 (hlen.symm.trans (congrArg _ hnil)))
  rw [← her, ← State.landed_erased (off := e.off) (l := l) edge] at hdec
  have hp0 : p < (s.landed p e.off l edge).ctls.length := (upd_length ..).trans_gt (hw.ctl_lt hp)
  have hp1 : p < ((s.landed p e.off l edge).onCtl p Ctl.endUeRun).ctls.length := (upd_length ..).trans_gt hp0
  obtain ⟨u, tags, hu1, ht⟩ := State.burst_corrects (s := s.landed p e.off l edge) (hd.of_port rfl) hl hp0 hu hdec hs hue
  have hbase : (((s.landed p e.off l edge).onCtl p Ctl.endUeRun).onCtl p (Ctl.corrects syms.length)).ctl p =
      (((s.ctl p).landed l).endUeRun).corrects syms.length := by
    rw [State.ctl_onCtl _ _ _ hp1, State.ctl_onCtl _ _ _ hp0, State.ctl_landed (hw.ctl_lt hp)]
  have hports : u.ports = s.ports := by rw [hu1.rest]; rfl
  obtain ⟨coal, hc⟩ := hu1.ctl
  rw [hbase] at hc
  refine ⟨_, coal, (execReadBurstReturn_framed hp hf hu hfl hlent).trans (congrArg _ (hlen ▸ ht)), ?_, ?_, ?_⟩
  · rw [State.brought_ctl, ← hlen]
    exact hc
  · rw [State.brought_ctls, hu1.ctls]
    exact (upd_length ..).trans ((upd_length ..).trans (upd_length ..))
  · rw [State.brought_rsp (hports ▸ hl), State.port, hports, State.brought_eq, hu1.rest]
    exact ⟨rfl, rfl, rfl, rfl⟩

variable (hnew : s.superseded p e = false)
include hnew

/-- A block with up to three symbols in error goes out corrected, and is written back from two on (R234, R236). -/
theorem burstReturn_corrected (hne : errs ≠ []) (h3 : errs.length ≤ 3) (hue : e.ue = false) :
    Answers (.readBurstReturn p true ⟨errs, edge⟩) s fun t =>
      (t.ctl p).eccCe = satAdd (s.ctl p).eccCe 1 ∧ (t.ctl p).eccSym = satAdd (s.ctl p).eccSym errs.length ∧ t.bad = s.bad ∧
      t.cells = s.cells ∧ (t.ctl p).flight = l ∧
      (t.cur p).wbQ = (if 2 ≤ errs.length then (s.cur p).wbQ.filter (fun f => f.1 != e.off) ++ [(e.off, e.data)] else (s.cur p).wbQ) ∧
      (t.port e.port).rsp = (s.port e.port).rsp ++ [e.beat r e.data false] := by
  obtain ⟨v, coal, ht, hc, hlen, hbad, hcells, hcurs, hrsp⟩ :=
    burstReturn_corrected_state hw hp hf hu hfl hlent hd her hn h (edge := edge) hne h3 hue
  have hcur : (v.cur p).wbQ = (s.cur p).wbQ := by rw [State.cur, hcurs, State.cur]
  refine ⟨_, ht, ?_⟩
  by_cases h2 : 2 ≤ errs.length
  · have hsup : v.superseded p e = false := by
      refine (State.superseded_congr ?_ ?_ e).trans hnew
      · simp only [hc, Ctl.corrects, Ctl.endUeRun, Ctl.landed]
      · simp only [hc, Ctl.corrects, Ctl.endUeRun, Ctl.landed]
    obtain ⟨t, w, hq, htc, htq, htb, hts, htp⟩ :=
      State.queueWb_leaves hsup (by rw [hlen]; exact hw.ctl_lt hp) (by rw [hcurs, hw.curs]; exact hp) e.data
    rw [if_pos h2, if_pos h2, hq]
    dsimp only
    rw [htc, hc, htq, hcur, State.port, htp]
    exact ⟨rfl, rfl, htb.trans hbad, hts.trans hcells, rfl, rfl, hrsp⟩
  · rw [if_neg h2, if_neg h2]
    dsimp only
    rw [hc]
    exact ⟨rfl, rfl, hbad, hcells, rfl, hcur, hrsp⟩

/-- A block with four or five symbols in error is answered poisoned, and marked so (R235). -/
theorem burstReturn_uncorrectable (h4 : 4 ≤ errs.length) (h5 : errs.length ≤ 5) (hrun : (s.ctl p).ueRun = []) :
    Answers (.readBurstReturn p true ⟨errs, edge⟩) s fun t =>
      (t.ctl p).eccUe = satAdd (s.ctl p).eccUe 1 ∧ t.isBad p e.off = true ∧ t.cells = s.cells ∧ (t.ctl p).flight = l ∧
      (t.ctl p).wrQ = (s.ctl p).wrQ ∧ (t.cur p).wbQ = (s.cur p).wbQ ∧
      (t.port e.port).rsp = (s.port e.port).rsp ++ [e.beat r 0 true] := by
  have hl : e.port < s.ports.length := hw.ports ▸ hd.isPort
  have hdec := State.decodeWord_detects (s := s.landed p e.off l edge) (d := e.data) hn h h4 h5
  rw [← her, ← State.landed_erased (off := e.off) (l := l) edge] at hdec
  have hp0 : p < (s.landed p e.off l edge).ctls.length := (upd_length ..).trans_gt (hw.ctl_lt hp)
  have hctl0 : (s.landed p e.off l edge).ctl p = (s.ctl p).landed l := State.ctl_landed (hw.ctl_lt hp) ..
  obtain ⟨u, run, tags, hu1, ht⟩ := State.burst_uncorrectable (s := s.landed p e.off l edge) (hd.of_port rfl) hl hu hdec
    ((State.superseded_landed (hw.ctl_lt hp) ..).trans hnew) (by rw [hctl0]; exact hrun)
  obtain ⟨coal, hc⟩ := hu1.ctl
  have hbase : ((s.landed p e.off l edge).markBad p e.off).ctl p = (s.ctl p).landed l := by
    rw [State.markBad_eq]
    exact hctl0
  have hlen0 : ((s.landed p e.off l edge).markBad p e.off).ctls.length = (s.landed p e.off l edge).ctls.length := by rw [State.markBad_eq]
  have hlenu : p < u.ctls.length := by
    rw [hu1.ctls]
    exact (upd_length ..).trans_gt (hlen0 ▸ hp0)
  rw [State.ctl_onCtl _ _ _ (hlen0 ▸ hp0), hbase] at hc
  have hports : u.ports = s.ports := by rw [hu1.rest, State.markBad_eq]; rfl
  refine ⟨_, execReadBurstReturn_framed hp hf hu hfl hlent, ?_⟩
  rw [ht]
  have hctl : ((u.onCtl p fun c => { c with ueRun := run }).brought e tags (e.beat r 0 true)).ctl p = { u.ctl p with ueRun := run } := by
    rw [State.brought_ctl, State.ctl_onCtl _ _ _ hlenu]
  dsimp only
  rw [hctl, hc]
  refine ⟨rfl, ?_, ?_, rfl, rfl, ?_, ?_⟩
  · have hbad : (s.landed p e.off l edge).markBad p e.off |>.isBad p e.off := State.isBad_markBad ..
    rw [State.isBad, State.brought_eq, hu1.rest]
    exact hbad
  · rw [State.brought_eq, hu1.rest, State.markBad_eq]
    rfl
  · rw [State.brought_eq, hu1.rest, State.markBad_eq]
    rfl
  · rw [State.brought_rsp (s := u.onCtl p _) (hports ▸ hl), State.port, State.onCtl, hports]
    rfl

end
end

/-- Committing a coalescing entry removes it and logs it (R247, R248). -/
theorem ceCommit_logs {i : Nat} {c : Coal} (hw : s.Wf) (hp : p < 136) (hc : (s.ctl p).coal[i]? = some c) (hlog : s.mgmt.elog.length < 960) :
    Answers (.ceCommit p i) s fun t =>
      t = { s with ctls := t.ctls, mgmt := t.mgmt, cnts := t.cnts, free := t.free } ∧ (t.ctl p).coal = (s.ctl p).coal.eraseIdx i ∧
      ∃ w, t.mgmt.elog = s.mgmt.elog ++ [w] ∧ w.length = 8 ∧ w.headD 0 = s.mgmt.elogNext ∧ t.mgmt.elogNext = seqNext s.mgmt.elogNext := by
  obtain ⟨x, hx, hcoal⟩ : ∃ x : LogRec, x.kind = 1 ∧ ∀ u : State, u.logCoal p c = u.log x := ⟨_, rfl, fun _ => rfl⟩
  let s1 := s.onCtl p fun t => { t with coal := t.coal.eraseIdx i }
  obtain ⟨cnts, free, ev, ht⟩ := State.log_ce (s := s1) hx hlog
  refine ⟨_, execCeCommit_eq hp hc, ?_⟩
  rw [hcoal, ht]
  exact ⟨rfl, congrArg Ctl.coal (State.ctl_onCtl s p _ (hw.ctl_lt hp)), s1.logWords x, rfl, s1.logWords_length x, rfl, rfl⟩

/-- Settles O25: each codeword is decoded by the count of its symbols in error, and its read's request is given the outcome. -/
theorem burstReturns : Obligations.BurstReturns := by
  unfold Obligations.BurstReturns
  refine ⟨?_, ?_, ?_, ?_, ?_⟩
  · intro s p e l r edge hw hp hf hu hfl hlent hop hinp hue hport hslots hreq hgot hsent hans hrem hpoi
    have hd : s.ReadDue e r := ⟨hop, hinp, hport, hreq, hgot, hsent, hans, hrem, hpoi⟩
    have := burstReturn_clean hw hp hf hu hfl hlent hd (edge := edge) hue hslots
    simpa only [Entry.beat, Bool.and_false, Bool.false_eq_true, if_false] using this
  · intro s p e l r errs edge hw hp hf hu hfl hlent hop hinp hport hreq hgot hsent hans hrem hpoi her hn h hnew
    have hd : s.ReadDue e r := ⟨hop, hinp, hport, hreq, hgot, hsent, hans, hrem, hpoi⟩
    refine ⟨fun hne h3 hue => ?_, fun h4 h5 hrun => ?_⟩
    · have := burstReturn_corrected hw hp hf hu hfl hlent hd (edge := edge) her hn h hnew hne h3 hue
      simpa only [Entry.beat, Bool.and_false, Bool.false_eq_true, if_false] using this
    · have := burstReturn_uncorrectable hw hp hf hu hfl hlent hd (edge := edge) her hn h hnew h4 h5 hrun
      simpa only [Entry.beat, Bool.and_true, if_true] using this
  · intro s p e l errs edge hp hf hu hfl hlent
    exact execReadBurstReturn_unframed hp hf hu hfl hlent
  · intro s p errs edge hp hf hu hfl hst hc
    exact execReadBurstReturn_undue hp hf hu hfl hst hc
  · intro s p i c hw hp hc hlog
    exact ceCommit_logs hw hp hc hlog

end Sys2Proof.Machine
end
